-- ==== Sys2Proof/Word.lean ====
section
/-! DEFINITION. The word types of the SQ-940 (00_scope R1, 03_instruction_lines R62). -/

namespace Sys2Proof

/-- A 64-bit register or memory dword (R62). -/
abbrev W64 := BitVec 64
/-- The contents of a vector register or of one queue entry (R62). -/
abbrev V512 := BitVec 512
/-- A halfword slot of a line (R54). -/
abbrev Half := BitVec 16
/-- One byte of storage. -/
abbrev Byte := BitVec 8
/-- A 16-bit core identifier (R17). -/
abbrev CoreId := BitVec 16
/-- A 16-bit address-space identifier (R176). -/
abbrev Asid := BitVec 16

end Sys2Proof
end

