-- ==== Sys2Proof/Syntax.lean ====
section
/-! DEFINITION. The instructions and the events of spec/opcode_table.json as one inductive type: one constructor
per row. Operands are the decoded fields of 03_instruction_lines R63, R68-R73. An event row (a step the hardware
or the outside world takes) carries what names the place where it strikes and what comes from outside. -/

namespace Sys2Proof

/-- A register named by a 7-bit field (R63). The reserved encodings have no constructor. -/
inductive Reg where
  | g (n : Fin 32)
  | v (n : Fin 32)
  | q (n : Fin 16)
  | m (n : Fin 8)
  | k (n : Fin 8)
  deriving DecidableEq, Repr

/-- Access size codes of R73. -/
inductive Size where
  | s1 | s2 | s4 | s8
  deriving DecidableEq, Repr

/-- Element width codes of R73 (code 3 is reserved). -/
inductive Width where
  | w32 | w16 | w8
  deriving DecidableEq, Repr

/-- Float codes of R73 (code 3 is reserved). -/
inductive FltTy where
  | f32 | f16 | bf16
  deriving DecidableEq, Repr

/-- Arithmetic codes of R73. -/
inductive Arith where
  | f32 | i32 | f16 | bf16
  deriving DecidableEq, Repr

/-- Rounding codes of R73. -/
inductive Rnd where
  | rne | rtz | rdn | rup
  deriving DecidableEq, Repr

/-- Type codes of VCVT, R73 (code 15 is reserved). -/
inductive CvtTy where
  | fp32 | fp16 | bf16 | e4m3 | e5m2 | e2m1 | e8m0 | int8
  | int16 | int32 | int64 | uint8 | uint16 | uint32 | uint64
  deriving DecidableEq, Repr

/-- VCMP conditions of R73. -/
inductive FCond where
  | eq | ne | lt | le | gt | ge | unord | ord
  deriving DecidableEq, Repr

/-- VICMP conditions of R73 (codes 6 and 7 are reserved). -/
inductive ICond where
  | eq | ne | lt | le | ltu | leu
  deriving DecidableEq, Repr

/-- The operations of AMO and AMOV, R72 and R221. CAS is a row of its own and AMOV does not take it. -/
inductive AmoOp where
  | add | and | or | xor | min | max | minu | maxu | swap | fadd
  deriving DecidableEq, Repr

/-- FN of VRED and VSCAN (R163). -/
inductive RedOp where
  | sum | min | max
  deriving DecidableEq, Repr

/-- FENCE scopes, R73. -/
inductive Scope where
  | core | clus | die | dev | sys
  deriving DecidableEq, Repr

/-- FENCE kinds, R73. -/
inductive FenceKind where
  | acq | rel | full
  deriving DecidableEq, Repr

/-- QSTREAM element sizes, R200. -/
inductive StreamW where
  | w4 | w16 | w64
  deriving DecidableEq, Repr

/-- SPDEC patterns, R268. -/
inductive SpPat where
  | p2x4 | p1x4 | p2x8 | p1x8
  deriving DecidableEq, Repr

/-- A vector table entry declared by an image: `.vtype` (R375). -/
structure VTypeDecl where
  typ : BitVec 8
  entry : W64
  deriving DecidableEq, Repr

/-- A group declared by an image: `.group` (R375, R34). `home` is the operand, if written. -/
structure GroupDecl where
  id : BitVec 8
  members : List CoreId
  home : Option Nat
  deriving DecidableEq, Repr

/-- A node record of 32 dwords and its core list (R38). -/
structure NodeDecl where
  words : List W64
  cores : List CoreId
  deriving DecidableEq, Repr

/-- A reduction window declared by `.redwin` (R224). -/
structure RedwinDecl where
  win : Fin 8
  offset : Nat
  bytes : Nat
  deriving DecidableEq, Repr

/-- A skein descriptor declared by an image: `.skein` (R375), its two dwords as R104 lays them out. -/
structure SkeinDecl where
  id : BitVec 15
  d0 : W64
  d1 : W64
  deriving DecidableEq, Repr

/-- Bytes the runtime places in device memory at a physical address. -/
structure Placement where
  addr : Nat
  bytes : List Byte
  deriving DecidableEq, Repr

/-- What the runtime read from a graph image and decided for it at an upload (R363, R375, R102, R21). The binary form of
the image is not given by the spec, so the event UPLOAD_DONE carries its contents: `tcm` is its `.tcm` section and `tcmCores`
the cores the runtime names for it (R373), `maps` the ranges of addresses the image maps, each a first address and a length; `placements` hold the page tables that map them. -/
structure GraphImage where
  readable : Bool
  name : BitVec 32
  prio : BitVec 3
  asid : Option Asid
  root : Nat
  vtbase : Option W64
  codebase : W64
  sktab : W64
  vtypes : List VTypeDecl
  groups : List GroupDecl
  nodes : List NodeDecl
  redwins : List RedwinDecl
  skeins : List SkeinDecl
  placements : List Placement
  tcm : List Byte
  tcmCores : List CoreId
  maps : List (Nat × Nat)
  parkPlaces : Nat
  deriving DecidableEq, Repr

/-- What the host reads: bytes at a host link address (R356); or, in the hub's configuration space, whose addresses the spec does
not give, the whole of HEALTH (R338), of the repair log (R339) or of the counters of a peer port (R355). -/
inductive HostSrc where
  | link (a : Nat)
  | health
  | repairLog
  | port (p : Fin 12)
  deriving DecidableEq, Repr

/-- A move of a cluster's shuttle with the i-th of its deals (R211, R367): the next block leaves and arrives, it leaves, or the k-th of
those under way arrives. -/
inductive ShuttleMove where
  | deliver (cluster i : Nat)
  | leave (cluster i : Nat)
  | land (cluster i k : Nat)
  deriving DecidableEq, Repr

/-- Where a host write goes: a host link address (R356), or the host's own memory (R358). -/
inductive HostDst where
  | link (a : Nat)
  | own (h : Nat)
  deriving DecidableEq, Repr

/-- Where a peer device's write goes (R236, R32): device memory, or a core's TCM with an arrival type and what it carries of
the remote kicker (R33). -/
inductive PeerDst where
  | mem (pa : Nat)
  | tcm (core : CoreId) (off : Nat) (typ : Option (BitVec 8)) (asid : Asid) (lpri : BitVec 3) (group : BitVec 8)
      (lseq : BitVec 48) (node tx ty tz : BitVec 16)
  deriving DecidableEq, Repr

/-- A bank of 32 KiB of SRAM (R171, R172, R333): of a cluster's scratchpad, of a slice of a die's shared SRAM, of a core's
TCM. -/
inductive Bank where
  | scratch (cluster bank : Nat)
  | sram (die slice bank : Nat)
  | tcm (core bank : Nat)
  deriving DecidableEq, Repr

/-- A row of a bank. -/
structure Row where
  bank : Bank
  row : Nat
  deriving DecidableEq, Repr

/-- What an event of the repair log is about (R339): a row, a core, a pseudo-channel, a bank or a die link, with the lane where it is
one's retirement, as module, direction and number. -/
inductive Repaired where
  | row (r : Row)
  | core (c : Nat)
  | channel (stack ch : Nat)
  | bank (b : Bank)
  | link (l : Nat)
  | lane (l mod : Nat) (dir : Bool) (lane : Nat)
  deriving DecidableEq, Repr

/-- An entry of the repair log (R339). -/
structure RepairEvent where
  kind : Nat
  what : Repaired
  deriving DecidableEq, Repr

/-- What is repaired at a quiesce, one part in one step (R334-R337): a scheduled row; a failing core; a pseudo-channel, with the
frames firmware moves and its edits of the page tables; and the runtime's check of a graph's edited tables (R194). -/
inductive RepairItem where
  | row (row : Row)
  | core (id : CoreId)
  | channel (stack : Nat) (ch : Nat) (moved : List (Nat × Nat)) (edits : List Placement)
  | recheck (graph : Nat)
  deriving DecidableEq, Repr

/-- The result of self-test at boot (R333), or what field records name (R364): the SRAM rows, the cores by their TCM as a whole,
and the pseudo-channels that fail; and whether self-test passed. -/
structure SelfTest where
  pass : Bool
  rows : List Row
  cores : List CoreId
  channels : List (Nat × Nat)
  deriving DecidableEq, Repr, Inhabited

/-- The rows of spec/opcode_table.json. -/
inductive Instr where
  -- scalar, R76-R79
  | add (d a b : Reg) | sub (d a b : Reg) | mul (d a b : Reg) | mulh (d a b : Reg) | mulhu (d a b : Reg)
  | div (d a b : Reg) | divu (d a b : Reg) | rem (d a b : Reg) | remu (d a b : Reg)
  | and (d a b : Reg) | or (d a b : Reg) | xor (d a b : Reg)
  | shl (d a b : Reg) | shr (d a b : Reg) | sra (d a b : Reg)
  | slt (d a b : Reg) | sltu (d a b : Reg)
  | min (d a b : Reg) | max (d a b : Reg) | minu (d a b : Reg) | maxu (d a b : Reg)
  | sel (d a b c : Reg)
  | clz (d a : Reg) | ctz (d a : Reg) | popc (d a : Reg) | mov (d a : Reg)
  | addi (d a : Reg) (i : Half) | andi (d a : Reg) (i : Half) | ori (d a : Reg) (i : Half) | xori (d a : Reg) (i : Half)
  | shli (d a : Reg) (n : BitVec 6) | shri (d a : Reg) (n : BitVec 6) | srai (d a : Reg) (n : BitVec 6)
  | slti (d a : Reg) (i : Half)
  | li (d : Reg) (i : BitVec 32) | lih (d : Reg) (i : BitVec 32) | addpc (d : Reg) (i : BitVec 32)
  | bext (d a : Reg) (lo w1 : BitVec 6) | bexts (d a : Reg) (lo w1 : BitVec 6) | bins (d a b : Reg) (lo w1 : BitVec 6)
  -- control flow, R80-R83
  | beq (a b : Reg) (i : Half) | bne (a b : Reg) (i : Half) | blt (a b : Reg) (i : Half)
  | bge (a b : Reg) (i : Half) | bltu (a b : Reg) (i : Half) | bgeu (a b : Reg) (i : Half)
  | loop (d : Reg) (i : Half)
  | jmp (i : BitVec 32) | jal (d : Reg) (i : BitVec 32) | jalr (d a : Reg) (i : Half)
  -- control registers, R93-R96
  | crrd (d : Reg) (r : BitVec 12) | crwr (r : BitVec 12) (a : Reg)
  | crset (r : BitVec 12) (a : Reg) | crclr (r : BitVec 12) (a : Reg)
  | cpydoneWrite (a : Reg) | mwgtWrite (a : Reg)
  -- traps and waits, R97-R100
  | trap (c : BitVec 7)
   | sfqpop (d : Reg) | tlbinv (a b c : Reg) | gkill (a : Reg)
  -- loads and stores, R84-R87
  | ld (z : Size) (d a : Reg) (i : Half) | ldu (z : Size) (d a : Reg) (i : Half) | ldx (z : Size) (d a b : Reg)
  | st (z : Size) (a b : Reg) (i : Half) | stx (z : Size) (a b c : Reg)
  | vld (d a : Reg) (i : Half) | vst (a b : Reg) (i : Half)
  | vlds (w : Width) (d a b : Reg) (mk : Fin 8) | vsts (w : Width) (a b c : Reg) (mk : Fin 8)
  -- queues and streams, R196-R200
  | qbind (d : Reg) (pq : BitVec 4) (ps : BitVec 3) (hi : BitVec 8)
  | qbindProd (d : Reg) (pq : BitVec 4) (ps : BitVec 3) (hi : BitVec 8)
  | qstream (w : StreamW) (d a : Reg) | qstreamWr (w : StreamW) (d a : Reg)
  | qunbind (d : Reg) | qstat (d a : Reg) | qflush (d : Reg)
  -- copies, deals, watches, R203-R214
  | cpy (a : Reg) | cpyseal (d : Reg) | cpywait (a : Reg) (i : Half) | deal (a b : Reg)
  | mon (d a : Reg) (i : Half) | mwait (d a : Reg) (i : Half)
  | mdisarm (a : Reg)
  -- atomics, R221-R225
  | amoAdd (z : Size) (d a b : Reg) | amoAnd (z : Size) (d a b : Reg) | amoOr (z : Size) (d a b : Reg)
  | amoXor (z : Size) (d a b : Reg) | amoMin (z : Size) (d a b : Reg) | amoMax (z : Size) (d a b : Reg)
  | amoMinu (z : Size) (d a b : Reg) | amoMaxu (z : Size) (d a b : Reg) | amoSwap (z : Size) (d a b : Reg)
  | amoCas (z : Size) (d a b c : Reg) | amoFadd (d a b : Reg)
  | amov (op : AmoOp) (t : Arith) (d a b : Reg) (mk : Fin 8)
  | ared (t : Arith) (a b : Reg) (mk : Fin 8)
  -- ordering, R237-R241
  | fence (c : Scope) (k : FenceKind) (eng xlat : Bool)
  | gbar (id : BitVec 8) | gbarArrive (id : BitVec 8) | gbarWait (id : BitVec 8)
  -- messages, R88-R92
  | send (d a : Reg) (t : BitVec 8) (n : BitVec 3) (nack now : Bool)
  | sendv (d a b : Reg) (t : BitVec 8) (n : BitVec 3) (nack now : Bool)
  | sendg (d a : Reg) (t : BitVec 8) (n : BitVec 3) (nack now : Bool)
  | migrate (a : Reg) (hi : BitVec 15) | migrateNear (a : Reg) (hi : BitVec 15)
  | spawn (d a b c : Reg) | tskts (d : Reg)
  -- gathers and scatters, R216-R219
  | gath (t : Bool) (d a b : Reg) (mk : Fin 8) | gathq (t : Bool) (d a b c : Reg) (mk : Fin 8)
  | scat (a b c : Reg) (mk : Fin 8) | scata (int : Bool) (a b c : Reg) (mk : Fin 8)
  -- labels, R121-R127
  | lmake (d a b : Reg) | lpar (d a : Reg) | ldep (d a : Reg) | lanc (d a b : Reg) | lrange (d a : Reg)
  | lcmp (d a b : Reg) | lcanon (d a : Reg) | lxlook (d a : Reg) | lxinv (a b : Reg) | lxfill (a b : Reg)
  | lscan (d a b c : Reg)
  -- wide accumulator, R165-R167
  | wacc (a b : Reg) (mk : Fin 8) | waccMul (a b c : Reg) (mk : Fin 8) | waccWin (a b : Reg) | waccS (a b : Reg)
  | wrd (r : Rnd) (d a : Reg) | wclr (a : Reg)
  -- vector float group, R156-R158
  | vadd (f : FltTy) (d a b : Reg) (mk : Fin 8) | vsub (f : FltTy) (d a b : Reg) (mk : Fin 8)
  | vmul (f : FltTy) (d a b : Reg) (mk : Fin 8)
  | vfma (f : FltTy) (d a b c : Reg) (mk : Fin 8) | vfms (f : FltTy) (d a b c : Reg) (mk : Fin 8)
  | vmin (f : FltTy) (d a b : Reg) (mk : Fin 8) | vmax (f : FltTy) (d a b : Reg) (mk : Fin 8)
  | vabs (f : FltTy) (d a : Reg) (mk : Fin 8) | vneg (f : FltTy) (d a : Reg) (mk : Fin 8)
  | vdiv (f : FltTy) (d a b : Reg) (mk : Fin 8)
  | vrcp (f : FltTy) (d a : Reg) (mk : Fin 8) | vrsq (f : FltTy) (d a : Reg) (mk : Fin 8)
  | vsqrt (f : FltTy) (d a : Reg) (mk : Fin 8) | vexp2 (f : FltTy) (d a : Reg) (mk : Fin 8)
  | vlog2 (f : FltTy) (d a : Reg) (mk : Fin 8)
  | vcmp (f : FltTy) (c : FCond) (d a b : Reg) (mk : Fin 8) | vsel (f : FltTy) (d a b : Reg) (mk : Fin 8)
  -- vector integer group, R159
  | viadd (w : Width) (d a b : Reg) (mk : Fin 8) | visub (w : Width) (d a b : Reg) (mk : Fin 8)
  | vimul (w : Width) (d a b : Reg) (mk : Fin 8) | vimin (w : Width) (d a b : Reg) (mk : Fin 8)
  | vimax (w : Width) (d a b : Reg) (mk : Fin 8) | viminu (w : Width) (d a b : Reg) (mk : Fin 8)
  | vimaxu (w : Width) (d a b : Reg) (mk : Fin 8) | vand (w : Width) (d a b : Reg) (mk : Fin 8)
  | vor (w : Width) (d a b : Reg) (mk : Fin 8) | vxor (w : Width) (d a b : Reg) (mk : Fin 8)
  | vshl (w : Width) (d a b : Reg) (mk : Fin 8) | vshr (w : Width) (d a b : Reg) (mk : Fin 8)
  | vsra (w : Width) (d a b : Reg) (mk : Fin 8) | vicmp (w : Width) (c : ICond) (d a b : Reg) (mk : Fin 8)
  -- conversion and moves, R160-R162
  | vcvt (dst src : CvtTy) (r : Option Rnd) (sat : Bool) (d a : Reg) (mk : Fin 8)
  | vbcast (w : Width) (d a : Reg) (mk : Fin 8) | vextr (w : Width) (d a b : Reg) | vins (w : Width) (d a b : Reg)
  | vidx (w : Width) (d : Reg) (mk : Fin 8) | vperm (w : Width) (d a b : Reg) (mk : Fin 8)
  | vslide (w : Width) (d a b : Reg) (mk : Fin 8) | vcomp (w : Width) (d a : Reg) (mk : Fin 8)
  | vexpnd (w : Width) (d a : Reg) (mk : Fin 8) | vmov (w : Width) (d a : Reg) (mk : Fin 8)
  | vred (op : RedOp) (t : Arith) (d a : Reg) (mk : Fin 8) | vscan (op : RedOp) (t : Arith) (d a : Reg) (mk : Fin 8)
  -- masks, R164
  | mand (d a b : Reg) | mor (d a b : Reg) | mxor (d a b : Reg) | mnot (d a : Reg)
  | mpop (d a : Reg) | mfirst (d a : Reg) | mset (d a : Reg) | mget (d a : Reg)
  -- attention and selection, R280-R295
  | vrope (d a b c : Reg) | vsmax (d a b c : Reg) | kvscan (d a : Reg) | posadd (d a b : Reg)
  | vthrc (f : FltTy) (d a b c : Reg) (mk : Fin 8) | vargmx (f : FltTy) (d a : Reg) | tkmerge (d a b c : Reg)
  -- matrix, R259-R271
  | mma (d a b c : Reg) | mmas (d a b c : Reg) | spdec (p : SpPat) (d a b c : Reg) | mmsync (i : Half) | mqstat (d : Reg)
  | sigchk (i : Half)
  -- events of a core and its slots
  | messageArrival (i : Nat)
  | selection (core : Nat)
  -- launches
  | trigger (w : W64)
  | launchStart (graph : Nat)
  | tileSend (die : Nat)
  | tileReport (i : Nat)
  | preempt (graph : Nat)
  | resume (graph : Nat)
  | graphUpload (w : W64)
  | uploadDone (img : GraphImage)
  | graphExit (w : W64)
  -- host link
  | registerWrite (off : Nat) (w : W64)
  | hwinWrite (n : Nat) (w : W64)
  | hostRead (src : HostSrc) (n : Nat)
  | hostWrite (dst : HostDst) (bytes : List Byte)
  | hostPeerAck (core slot : Nat) (i : Nat)
  | gstatRead (graph : Nat) | gdropRead (graph : Nat) | gundlRead (graph : Nat)
  | gescRead (graph : Nat) | gkillsRead (graph : Nat)
  | healthRead (d : Reg)
  -- boot and attestation
  | bootReady (t : SelfTest)
  -- engines
  | copyKick (cluster : Nat) (i : Nat)
  | batchFinish (cluster : Nat) (i : Nat)
  | shuttleBlock (m : ShuttleMove)
  | ownerRequest (i : Nat)
  | amoReply (i : Nat)
  | gbarArrival (i : Nat)
  | gbarRelease (i : Nat)
  | walkComplete (core : Nat) (i : Nat)
  | invalidationComplete (i : Nat) (part : Option Nat)
  | streamFetch (core slot : Nat) (q : Fin 16)
  | gathqStrip (core slot : Nat) (q : Fin 16)
  | matrixCommandStart (octet : Nat)
  | matrixCommandComplete (octet : Nat)
  -- ordered tasks
  | orderReport (die : Nat)
  | taskDispatch (cluster : Nat)
  -- kills
  | killDelivery (i : Nat) (core : Nat)
  | killComplete (i : Nat)
  -- resilience
  | quiesceRepair (die : Nat) (item : RepairItem)
  | dualCompare (graph : Nat)
  | lnkRateWrite (link : Fin 18) (a : Reg)
  | lnkTrapWrite (link : Fin 18) (a : Reg)
  | lnkDegradeRead (link : Fin 18) (d : Reg)
  | retrainDone (link : Nat) (trained : Bool)
  | flitReceive (link : Nat) (atB : Bool) (seq : Nat) (crcOk : Bool) (lanes : List (Nat × Nat))
  | linkWindowEnd (link : Nat)
  | peerUnreachable (peer : Nat)
  | peerWrite (dst : PeerDst) (bytes : List Byte)
  | preemptionComplete (graph : Nat)
  -- the rows without a field of their own: instructions, then events, those of a slot acting on `State.cur`
  | nop | enda | endaT | eret | waiti | sdrain
  | mdisarmAll | chkpt | trigerrRead | herrRead | xdropRead | attestReport
  | powerUp | powerLimit | exitDone | waitiWake | mwaitTimeout | serviceOverrun
  | chunkInstructionLimit | chunkCommit | storeCheck | trapEntry | taskCommit | gatherLanesDone
  | contextRestore | bootDownload | attestRequest
  deriving DecidableEq, Repr

end Sys2Proof
end

