-- ==== Sys2Proof/Config.lean ====
section
/-! DEFINITION. What an implementation fixes and the free values: constants with no body, so that no proof can rest on
a value the spec leaves open. -/

namespace Sys2Proof

/-- Which agent moves next: a slot executes at its boundary, an event strikes at a slot,
or an event of the opcode table strikes elsewhere. The spec gives no
order between agents (R233), so the model takes turns from `State.agenda` and, when that is empty, from a free choice. -/
inductive Turn where
  | slot (core slot : Nat)
  | strike (core slot : Nat) (i : Instr)
  | event (i : Instr)
  deriving DecidableEq, Repr, Inhabited

namespace Config

/-- The free choice of the next turn (log 3). -/
opaque schedule : Nat → Turn
/-- The value of a 64-bit result the spec leaves open (log 4). -/
opaque freeWord : Nat → W64
/-- A free yes or no (log 4). -/
opaque freeBit : Nat → Bool
/-- Which bit of the 4,096-bit read signature a line sets (R228: aliasing is not architectural, log 6). -/
opaque sigBit : Nat → BitVec 12
/-- The row a location lies in within its bank or pseudo-channel, outside the scratchpads, whose rows R171 gives (log 7). -/
opaque rowIn : Nat → Nat
/-- The bank of its slice that a location of shared SRAM lies in (R172 gives no layout within a slice, log 7). -/
opaque bankIn : Nat → Nat
/-- What the PUF of this module yields, the same at every power-up, for the private scalar (R365; log 8). -/
opaque puf : Nat
/-- Free numbers for the ephemeral scalars of signatures (R365; log 8). -/
opaque ephemeral : Nat → Nat
/-- Akolhel's key hash held in ROM (R361; log 8). -/
opaque romKeyHash : BitVec 256
/-- The ROM version of R365 (log 8). -/
opaque romVersion : BitVec 32
/-- The peer port, taken mod 12, that serves a peer device (R355, log 4). -/
opaque portOf : Nat → Nat
/-- Where in configuration space the capacity map lies (R340; the spec gives no address, log 10). -/
opaque capmapOffset : Nat

end Config

end Sys2Proof
end

