-- ==== Sys2Proof/Machine/FloatFmt.lean ====
section
/-! DEFINITION. Number formats, exact values, rounding and the arithmetic of single results (07_number_formats R133-R139,
R145). An exact finite value is an integer times a power of two. A value that is no such number (a quotient, a root, a
power, a sine) is held as the dyadic number just below its magnitude with one more bit set, which rounds as the value does in
every mode because it keeps far more bits than any format. -/

namespace Sys2Proof.Machine

/-- The flags of FPST [7:0] (R143). -/
abbrev Flags := BitVec 8

namespace Fl

def none : Flags := 0
def nv : Flags := 1
def dz : Flags := 2
def of : Flags := 4
def uf : Flags := 8
def nx : Flags := 16
def sknf : Flags := 32
def posov : Flags := 64
def satf : Flags := 128

end Fl

/-- An exact value: NaN, an infinity, a signed zero, or m × 2^e with m ≠ 0. -/
inductive Val where
  | nan
  | inf (neg : Bool)
  | zero (neg : Bool)
  | fin (neg : Bool) (m : Nat) (e : Int)
  deriving DecidableEq, Repr

/-- A floating-point element format (R133): bits of exponent and mantissa, the bias, the code of the largest finite value,
and whether it has infinities and NaNs of the IEEE kind. -/
structure FFmt where
  eb : Nat
  mb : Nat
  bias : Nat
  maxCode : Nat
  ieee : Bool
  nanCode : Nat
  deriving DecidableEq, Repr

namespace FFmt

def fp32 : FFmt := { eb := 8, mb := 23, bias := 127, maxCode := 0x7F7FFFFF, ieee := true, nanCode := 0x7FC00000 }
def fp16 : FFmt := { eb := 5, mb := 10, bias := 15, maxCode := 0x7BFF, ieee := true, nanCode := 0x7E00 }
def bf16 : FFmt := { eb := 8, mb := 7, bias := 127, maxCode := 0x7F7F, ieee := true, nanCode := 0x7FC0 }
def e4m3 : FFmt := { eb := 4, mb := 3, bias := 7, maxCode := 0x7E, ieee := false, nanCode := 0x7F }
def e5m2 : FFmt := { eb := 5, mb := 2, bias := 15, maxCode := 0x7B, ieee := true, nanCode := 0x7E }
/-- E2M1 has no infinity and no NaN (R133). -/
def e2m1 : FFmt := { eb := 2, mb := 1, bias := 1, maxCode := 0x7, ieee := false, nanCode := 0 }

def width (f : FFmt) : Nat := 1 + f.eb + f.mb
def signBit (f : FFmt) : Nat := 2 ^ (f.eb + f.mb)
def infCode (f : FFmt) : Nat := (2 ^ f.eb - 1) * 2 ^ f.mb
/-- The exponent of the subnormal grid. -/
def qmin (f : FFmt) : Int := 1 - (f.bias : Int) - (f.mb : Int)

/-- The exact value of a code (R133). -/
def decode (f : FFmt) (c : Nat) : Val :=
  let neg := c / f.signBit % 2 == 1
  let mag := c % f.signBit
  let e := mag / 2 ^ f.mb
  let m := mag % 2 ^ f.mb
  if f.ieee && e == 2 ^ f.eb - 1 then (if m = 0 then .inf neg else .nan)
  else if f == e4m3 && mag == 0x7F then .nan
  else if mag = 0 then .zero neg
  else if e = 0 then .fin neg m f.qmin
  else .fin neg (2 ^ f.mb + m) (f.qmin + (e : Int) - 1)

end FFmt

/-- floor(log2 n) for n > 0. -/
def log2Nat (n : Nat) : Nat := Nat.log2 n

/-- n × 2^k, for an exponent that is not negative. -/
def shl (n : Nat) (k : Int) : Nat := n * 2 ^ k.toNat

/-- The integer nearest n × 2^(−s) in a mode, for a magnitude with a sign (R136). -/
def roundShift (mode : Rnd) (neg : Bool) (n s : Nat) : Nat :=
  let q := n / 2 ^ s
  let r := n % 2 ^ s
  if r = 0 then q else
  match mode with
  | .rtz => q
  | .rdn => if neg then q + 1 else q
  | .rup => if neg then q else q + 1
  | .rne =>
    let h := 2 ^ (s - 1)
    if r < h then q else if h < r then q + 1 else if q % 2 = 0 then q else q + 1

/-- The multiple of 2^q next to m × 2^e, as a count of 2^q, and whether it is exact. -/
def onGrid (mode : Rnd) (neg : Bool) (m : Nat) (e q : Int) : Nat × Bool :=
  if q ≤ e then (shl m (e - q), true)
  else
    let s := (q - e).toNat
    (roundShift mode neg m s, m % 2 ^ s == 0)

/-- The magnitude code of an infinite result of an overflow (R137). -/
def overflowCode (f : FFmt) (mode : Rnd) (neg : Bool) : Nat :=
  let big := match mode with
    | .rne => true
    | .rtz => false
    | .rdn => neg
    | .rup => !neg
  if !big then f.maxCode
  else if f.ieee then f.infCode
  else if f == FFmt.e4m3 then 0x7F
  else f.maxCode

def withSign (f : FFmt) (neg : Bool) (mag : Nat) : Nat := if neg then f.signBit + mag else mag

/-- Round of R136 to R138 into a floating format; `sat` is saturate-finite. -/
def roundTo (f : FFmt) (mode : Rnd) (sat : Bool) (x : Val) : Nat × Flags :=
  match x with
  | .nan => if f == FFmt.e2m1 then (0, Fl.nv) else (f.nanCode, 0)
  | .zero neg => (withSign f neg 0, 0)
  | .inf neg =>
    if f.ieee then (withSign f neg f.infCode, 0)
    else if sat then (withSign f neg f.maxCode, Fl.satf)
    else if f == FFmt.e4m3 then (f.nanCode, Fl.nv)
    else (withSign f neg f.maxCode, Fl.nv)
  | .fin neg m e =>
    let lg : Int := (log2Nat m : Int) + e
    let qu : Int := lg - (f.mb : Int)
    let q : Int := if qu < f.qmin then f.qmin else qu
    let r := onGrid mode neg m e q
    let code := ((q - f.qmin).toNat) * 2 ^ f.mb + r.1
    if f.maxCode < code then
      if sat then (withSign f neg f.maxCode, Fl.satf ||| Fl.nx)
      else
        let c := overflowCode f mode neg
        (if c = 0x7F ∧ f = FFmt.e4m3 then c else withSign f neg c, Fl.of ||| Fl.nx)
    else
      -- tiny after rounding with an unbounded exponent
      let u := onGrid mode neg m e qu
      let tiny := decide (qu < f.qmin) && decide (u.1 < 2 ^ (f.mb + 1) ∨ qu + 1 < f.qmin)
      (withSign f neg code, (if r.2 then 0 else Fl.nx) ||| (if !r.2 && tiny then Fl.uf else 0))

/-- Round into E8M0 (R138). -/
def roundE8M0 (mode : Rnd) (x : Val) : Nat × Flags :=
  match x with
  | .nan => (0xFF, 0)
  | .inf _ => (0xFF, Fl.nv)
  | .zero _ => (0, Fl.uf ||| Fl.nx)
  | .fin _ m e =>
    let l := log2Nat m
    let exact := m == 2 ^ l
    let up := match mode with
      | .rtz => false
      | .rdn => false
      | .rup => !exact
      | .rne => decide (3 * 2 ^ l ≤ 2 * m)
    let k : Int := (l : Int) + e + (if up then 1 else 0)
    if 127 < k then (0xFE, Fl.of ||| Fl.nx)
    else if k < -127 then (0, Fl.uf ||| Fl.nx)
    else ((k + 127).toNat, if exact then 0 else Fl.nx)

/-- Round into an integer type of w bits (R138). -/
def roundInt (w : Nat) (signed : Bool) (mode : Rnd) (x : Val) : Nat × Flags :=
  let lo : Int := if signed then -(2 ^ (w - 1) : Nat) else 0
  let hi : Int := if signed then ((2 ^ (w - 1) : Nat) : Int) - 1 else ((2 ^ w : Nat) : Int) - 1
  let enc (i : Int) : Nat := (i % ((2 ^ w : Nat) : Int)).toNat
  match x with
  | .nan => (0, Fl.nv)
  | .inf neg => (enc (if neg then lo else hi), Fl.nv)
  | .zero _ => (0, 0)
  | .fin neg m e =>
    if 128 < (log2Nat m : Int) + e then (enc (if neg then lo else hi), Fl.nv)
    else
      let r := onGrid mode neg m e 0
      let i : Int := if neg then -(r.1 : Int) else r.1
      if i < lo then (enc lo, Fl.nv)
      else if hi < i then (enc hi, Fl.nv)
      else (enc i, if r.2 then 0 else Fl.nx)

/-- An integer as an exact value. -/
def Val.ofInt (i : Int) : Val :=
  match i with
  | .ofNat 0 => .zero false
  | .ofNat n => .fin false n 0
  | .negSucc n => .fin true (n + 1) 0

/-- The signed integer of a w-bit code. -/
def toSigned (w c : Nat) : Int := if c < 2 ^ (w - 1) then (c : Int) else (c : Int) - ((2 ^ w : Nat) : Int)

namespace Val

def isNan : Val → Bool
  | .nan => true
  | _ => false

def isZero : Val → Bool
  | .zero _ => true
  | _ => false

def isInf : Val → Bool
  | .inf _ => true
  | _ => false

def neg : Val → Val
  | .nan => .nan
  | .inf s => .inf (!s)
  | .zero s => .zero (!s)
  | .fin s m e => .fin (!s) m e

/-- The sign bit of a value that has one. -/
def sign : Val → Bool
  | .nan => false
  | .inf s => s
  | .zero s => s
  | .fin s _ _ => s

/-- m × 2^e as a signed integer over 2^q, for q ≤ e. -/
def scaled (s : Bool) (m : Nat) (e q : Int) : Int := if s then -(shl m (e - q) : Int) else (shl m (e - q) : Int)

/-- An integer times 2^q; an exact zero has the sign of IEEE 754 (R135): − only in RDN. -/
def ofScaled (mode : Rnd) (i q : Int) : Val :=
  match i with
  | .ofNat 0 => .zero (mode == .rdn)
  | .ofNat n => .fin false n q
  | .negSucc n => .fin true (n + 1) q

/-- The exact sum with the flags of R135. -/
def add (mode : Rnd) : Val → Val → Val × Flags
  | .nan, _ => (.nan, 0)
  | _, .nan => (.nan, 0)
  | .inf a, .inf b => if a = b then (.inf a, 0) else (.nan, Fl.nv)
  | .inf a, _ => (.inf a, 0)
  | _, .inf b => (.inf b, 0)
  | .zero a, .zero b => (.zero (if a = b then a else mode == .rdn), 0)
  | .zero _, y => (y, 0)
  | x, .zero _ => (x, 0)
  | .fin a m e, .fin b n f =>
    let q := if e < f then e else f
    (ofScaled mode (scaled a m e q + scaled b n f q) q, 0)

/-- The exact product with the flags of R135. -/
def mul : Val → Val → Val × Flags
  | .nan, _ => (.nan, 0)
  | _, .nan => (.nan, 0)
  | .inf _, .zero _ => (.nan, Fl.nv)
  | .zero _, .inf _ => (.nan, Fl.nv)
  | .inf a, y => (.inf (a != y.sign), 0)
  | x, .inf b => (.inf (x.sign != b), 0)
  | .zero a, y => (.zero (a != y.sign), 0)
  | x, .zero b => (.zero (x.sign != b), 0)
  | .fin a m e, .fin b n f => (.fin (a != b) (m * n) (e + f), 0)

/-- a × b + c, exact: 0 × ∞ sets NV even when c is NaN (R157). -/
def fma (mode : Rnd) (a b c : Val) : Val × Flags :=
  let p := mul a b
  match p.1 with
  | .nan => (.nan, p.2)
  | x =>
    let r := add mode x c
    (r.1, p.2 ||| r.2)

/-- A quotient kept to 64 bits more than the divisor, with its sticky bit. -/
def div : Val → Val → Val × Flags
  | .nan, _ => (.nan, 0)
  | _, .nan => (.nan, 0)
  | .inf _, .inf _ => (.nan, Fl.nv)
  | .zero _, .zero _ => (.nan, Fl.nv)
  | .inf a, y => (.inf (a != y.sign), 0)
  | x, .inf b => (.zero (x.sign != b), 0)
  | .zero a, y => (.zero (a != y.sign), 0)
  | .fin a _ _, .zero b => (.inf (a != b), Fl.dz)
  | .fin a m e, .fin b n f =>
    let k := log2Nat n + 64
    let q := m * 2 ^ k / n
    let r := m * 2 ^ k % n
    (.fin (a != b) (2 * q + (if r = 0 then 0 else 1)) (e - f - (k : Int) - 1), 0)

/-- Integer square root by binary digits: `bits` digits are found. -/
def isqrt (n : Nat) : Nat → Nat → Nat
  | 0, r => r
  | b + 1, r =>
    let t := r + 2 ^ b
    isqrt n b (if t * t ≤ n then t else r)

/-- √x, kept to more than 64 bits with its sticky bit; below −0 it is invalid (R157). -/
def sqrt : Val → Val × Flags
  | .nan => (.nan, 0)
  | .inf false => (.inf false, 0)
  | .inf true => (.nan, Fl.nv)
  | .zero s => (.zero s, 0)
  | .fin true _ _ => (.nan, Fl.nv)
  | .fin false m e =>
    let m := if e % 2 = 0 then m else 2 * m
    let e := if e % 2 = 0 then e else e - 1
    let n := m * 2 ^ 128
    let r := isqrt n (log2Nat n / 2 + 1) 0
    (.fin false (2 * r + (if r * r = n then 0 else 1)) (e / 2 - 65), 0)

/-- 1 / √x (R157). -/
def rsqrt : Val → Val × Flags
  | .nan => (.nan, 0)
  | .inf false => (.zero false, 0)
  | .inf true => (.nan, Fl.nv)
  | .zero s => (.inf s, Fl.dz)
  | .fin true _ _ => (.nan, Fl.nv)
  | .fin false m e =>
    let m := if e % 2 = 0 then m else 2 * m
    let e := if e % 2 = 0 then e else e - 1
    let k := log2Nat m + 64
    let n := 2 ^ (2 * k) / m
    let r := isqrt n (log2Nat n / 2 + 1) 0
    (.fin false (2 * r + (if r * r * m = 2 ^ (2 * k) then 0 else 1)) (-(e / 2) - (k : Int) - 1), 0)

/-- Numeric order, with −0 equal to +0; NaN is in no order. -/
def lt : Val → Val → Bool
  | .nan, _ => false
  | _, .nan => false
  | .inf true, y => y != .inf true
  | .inf false, _ => false
  | x, .inf b => !b && x != .inf false
  | .zero _, .zero _ => false
  | .zero _, .fin s _ _ => !s
  | .fin s _ _, .zero _ => s
  | .fin a m e, .fin b n f =>
    let q := if e < f then e else f
    decide (scaled a m e q < scaled b n f q)

def eq (x y : Val) : Bool := !x.isNan && !y.isNan && !lt x y && !lt y x

/-- Total order for minimum and maximum: −0 below +0 (R157). -/
def below (x y : Val) : Bool :=
  match x, y with
  | .zero a, .zero b => a && !b
  | _, _ => lt x y

end Val

/-! Powers, logarithms, cosine and sine (R157): an enclosure of the exact value in fixed point with p fraction bits, made narrower
until both ends round alike. The result is then the correctly rounded one. The exact value never lies on a boundary: 2^x for no
integer x, log2 of no power of two, and cosine and sine of a dyadic part of a turn but for its quarters are irrational. -/

namespace Fix

/-- Fraction bits of the first enclosure. -/
def prec : Nat := 400

def one (p : Nat) : Nat := 2 ^ p

/-- Far above the sum of all truncations of a computation, which are fewer than p² and each below p. -/
def slack (p : Nat) : Nat := p ^ 4

/-- Σ z^(2j+1) / (2j+1), `n` terms; `alt` takes every other one with a minus. -/
def oddSum (p z2 t k : Nat) (alt minus : Bool) : Nat → Int
  | 0 => 0
  | n + 1 =>
    (if minus then -((t / k : Nat) : Int) else ((t / k : Nat) : Int)) +
      oddSum p z2 (t * z2 / one p) (k + 2) alt (alt && !minus) n

/-- Terms of that sum for a z of at most 1/3. -/
def oddTerms (p : Nat) : Nat := 7 * p / 20

/-- ln ((1 + z) / (1 − z)). -/
def lnOf (p z : Nat) : Nat := (2 * oddSum p (z * z / one p) z 1 false false (oddTerms p)).toNat

/-- ln 2. -/
def ln2 (p : Nat) : Nat := lnOf p (one p / 3)

/-- ln y for y = m / 2^l in [1, 2). -/
def ln (p m l : Nat) : Nat := lnOf p ((m - 2 ^ l) * one p / (m + 2 ^ l))

/-- The angle whose tangent is 1 / d. -/
def arctan (p d : Nat) : Int := oddSum p (one p / (d * d)) (one p / d) 1 true false (oddTerms p)

/-- π, as 16 arctan (1/5) − 4 arctan (1/239). -/
def pi (p : Nat) : Nat := (16 * arctan p 5 - 4 * arctan p 239).toNat

/-- Σ x^k / k! from term k on, `n` terms. -/
def expSum (p x t k : Nat) : Nat → Nat
  | 0 => 0
  | n + 1 => t + expSum p x (t * x / one p / k) (k + 1) n

/-- e^x for 0 ≤ x < 1. -/
def exp (p x : Nat) : Nat := expSum p x (one p) 1 (p / 4)

/-- The alternating sums of cosine (from k = 0, t = 1) and sine (from k = 1, t = x). -/
def trigSum (p x2 t k : Nat) (plus : Bool) : Nat → Int
  | 0 => 0
  | n + 1 =>
    (if plus then (t : Int) else -(t : Int)) + trigSum p x2 (t * x2 / one p / ((k + 1) * (k + 2))) (k + 2) (!plus) n

def cos (p x : Nat) : Int := trigSum p (x * x / one p) (one p) 0 true (3 * p / 20)
def sin (p x : Nat) : Int := trigSum p (x * x / one p) x 1 true (3 * p / 20)

/-- An enclosed magnitude as a value with its sign: its end values, at 2^−p, with the sticky bit set. -/
def ends (p : Nat) (neg : Bool) (lo hi : Nat) (e : Int) : Val × Val :=
  let v (n : Nat) : Val := if n = 0 then .zero neg else .fin neg (2 * n + 1) (e - (p : Int) - 1)
  (v lo, v hi)

/-- The ends around a computed magnitude. -/
def around (p : Nat) (neg : Bool) (x : Nat) (e : Int) : Val × Val := ends p neg (x - slack p) (x + slack p) e

/-- Rounds an enclosed value, with twice the bits while its ends round apart. Each of these values lies further than
2^−(400 · 2^200) from every boundary, by the degree of an algebraic number or by comparing whole powers, so that the doublings
suffice and the last line is never reached. -/
def settle (f : FFmt) (mode : Rnd) (w : Nat → Val × Val) (p : Nat) : Nat → Nat × Flags
  | 0 => roundTo f mode false (w p).1
  | n + 1 =>
    let a := roundTo f mode false (w p).1
    if a = roundTo f mode false (w p).2 then a else settle f mode w (2 * p) n

/-- Rounds the value that enclosures of rising precision enclose. -/
def rounded (f : FFmt) (mode : Rnd) (w : Nat → Val × Val) : Nat × Flags := settle f mode w prec 200

/-- 2^(n + r / 2^k) for 0 < r < 2^k: above 2^n. -/
def power (n : Int) (r k p : Nat) : Val × Val :=
  let x := exp p (r * ln2 p / 2 ^ k)
  ends p false (if x < one p + slack p then one p else x - slack p) (x + slack p) n

/-- n + log2 (m / 2^l). -/
def logarithm (n : Int) (m l p : Nat) : Val × Val :=
  match n * (one p : Int) + ((ln p m l * one p / ln2 p : Nat) : Int) with
  | .ofNat u => around p false u 0
  | .negSucc u => around p true (u + 1) 0

/-- The cosine or sine of r / 2^32 turns for 0 < r < 2^30. -/
def circular (sine neg : Bool) (r p : Nat) : Val × Val :=
  let x := 2 * r * pi p / 2 ^ 32
  around p neg (if sine then sin p x else cos p x).toNat 0

end Fix

/-- 2^x into a format (R157, R287). -/
def exp2To (f : FFmt) (mode : Rnd) (x : Val) : Nat × Flags :=
  match x with
  | .nan => (f.nanCode, 0)
  | .inf true => (0, 0)
  | .inf false => (f.infCode, 0)
  | .zero _ => roundTo f mode false (.fin false 1 0)
  | .fin neg m e =>
    if 10 < (log2Nat m : Int) + e then
      roundTo f mode false (if neg then .fin false 3 (-2000) else .fin false 3 2000)
    else
      -- x = n + r / 2^k
      let k := (-e).toNat
      let i : Int := if neg then -(shl m (e + k) : Int) else (shl m (e + k) : Int)
      let n := i / ((2 ^ k : Nat) : Int)
      let r := (i % ((2 ^ k : Nat) : Int)).toNat
      if r = 0 then roundTo f mode false (.fin false 1 n) else Fix.rounded f mode (Fix.power n r k)

/-- log2 x into a format (R157). -/
def log2To (f : FFmt) (mode : Rnd) (x : Val) : Nat × Flags :=
  match x with
  | .nan => (f.nanCode, 0)
  | .zero _ => (withSign f true f.infCode, Fl.dz)
  | .inf false => (f.infCode, 0)
  | .inf true => (f.nanCode, Fl.nv)
  | .fin true _ _ => (f.nanCode, Fl.nv)
  | .fin false m e =>
    let l := log2Nat m
    let n : Int := (l : Int) + e
    if m = 2 ^ l then roundTo f mode false (Val.ofInt n) else Fix.rounded f mode (Fix.logarithm n m l)

/-- Cosine and sine of t / 2^32 turns into FP32, RNE; at a quarter turn they are exactly 0 and ±1 (R285). -/
def trigTo (wantSin : Bool) (t : Nat) : Nat × Flags :=
  let q := t / 2 ^ 30 % 4
  let r := t % 2 ^ 30
  -- cos: c, −s, −c, s by quadrant; sin: s, c, −s, −c
  let useSin := if wantSin then q % 2 == 0 else q % 2 == 1
  let neg := if wantSin then 2 ≤ q else q == 1 || q == 2
  if r = 0 then
    (if useSin then (0, 0) else roundTo FFmt.fp32 .rne false (.fin neg 1 0))
  else Fix.rounded FFmt.fp32 .rne (Fix.circular useSin neg r)

/-! Whole operations on codes. -/

namespace Fop

/-- Rounds an exact result, adding the flags met before. -/
def out (f : FFmt) (mode : Rnd) (x : Val × Flags) : Nat × Flags :=
  let r := roundTo f mode false x.1
  (r.1, x.2 ||| r.2)

def add (f : FFmt) (mode : Rnd) (a b : Nat) : Nat × Flags := out f mode (Val.add mode (f.decode a) (f.decode b))
def sub (f : FFmt) (mode : Rnd) (a b : Nat) : Nat × Flags := out f mode (Val.add mode (f.decode a) (f.decode b).neg)
def mul (f : FFmt) (mode : Rnd) (a b : Nat) : Nat × Flags := out f mode (Val.mul (f.decode a) (f.decode b))
def fma (f : FFmt) (mode : Rnd) (a b c : Nat) : Nat × Flags :=
  out f mode (Val.fma mode (f.decode a) (f.decode b) (f.decode c))
def fms (f : FFmt) (mode : Rnd) (a b c : Nat) : Nat × Flags :=
  out f mode (Val.fma mode (f.decode a) (f.decode b) (f.decode c).neg)
def div (f : FFmt) (mode : Rnd) (a b : Nat) : Nat × Flags := out f mode (Val.div (f.decode a) (f.decode b))
def rcp (f : FFmt) (mode : Rnd) (a : Nat) : Nat × Flags := out f mode (Val.div (.fin false 1 0) (f.decode a))
def rsq (f : FFmt) (mode : Rnd) (a : Nat) : Nat × Flags := out f mode (Val.rsqrt (f.decode a))
def sqrt (f : FFmt) (mode : Rnd) (a : Nat) : Nat × Flags := out f mode (Val.sqrt (f.decode a))

/-- The smaller, −0 below +0; NaN in either gives the canonical NaN; no flag (R157). -/
def min (f : FFmt) (a b : Nat) : Nat :=
  let x := f.decode a
  let y := f.decode b
  if x.isNan || y.isNan then f.nanCode else if Val.below y x then b else a

def max (f : FFmt) (a b : Nat) : Nat :=
  let x := f.decode a
  let y := f.decode b
  if x.isNan || y.isNan then f.nanCode else if Val.below x y then b else a

def abs (f : FFmt) (a : Nat) : Nat := a % f.signBit
def neg (f : FFmt) (a : Nat) : Nat := if a / f.signBit % 2 = 1 then a - f.signBit else a + f.signBit

end Fop

/-! Lanes of a vector (R62). -/

/-- Lane i of width w. -/
def lane (w : Nat) (x : V512) (i : Nat) : Nat := x.toNat / 2 ^ (w * i) % 2 ^ w

/-- All lanes of width w, lane 0 first. -/
def lanes (w : Nat) (x : V512) : List Nat := (List.range (512 / w)).map (lane w x)

/-- Lanes as one number, lane 0 lowest. -/
def packLanes (w : Nat) : List Nat → Nat
  | [] => 0
  | a :: r => a % 2 ^ w + 2 ^ w * packLanes w r

/-- A vector from its lanes. -/
def ofLanes (w : Nat) (l : List Nat) : V512 := BitVec.ofNat 512 (packLanes w l)

/-- The float format of a float code. -/
def fltFmt : FltTy → FFmt
  | .f32 => FFmt.fp32
  | .f16 => FFmt.fp16
  | .bf16 => FFmt.bf16

/-- The float format of an arithmetic code, none for INT32. -/
def arithFmt : Arith → Option FFmt
  | .f32 => some FFmt.fp32
  | .i32 => none
  | .f16 => some FFmt.fp16
  | .bf16 => some FFmt.bf16

/-- Lane width of an arithmetic code. -/
def arithW : Arith → Nat
  | .f32 => 32
  | .i32 => 32
  | .f16 => 16
  | .bf16 => 16

/-- The adders of reduction windows and owners (R219, R225): INT32 wraps, a float rounds RNE with the canonical NaN, and no
flag is set. -/
def addLane (t : Arith) (a b : Nat) : Nat :=
  match arithFmt t with
  | none => (a + b) % 2 ^ 32
  | some f => (Fop.add f .rne a b).1

/-- The lane-wise add of an ARED to 64 bytes, for the lanes active in the mask (R225). -/
def addLanes (t : Arith) (mask : W64) (old x : V512) : V512 :=
  let w := arithW t
  ofLanes w ((List.range (512 / w)).map (fun i =>
    if mask.getLsbD i then addLane t (lane w old i) (lane w x i) else lane w old i))

end Sys2Proof.Machine
end

