-- ==== Sys2Proof/WellFormed.lean ====
section
/-! DEFINITION. Which terms of `Instr` stand for an instruction the encoding tables admit (03_instruction_lines R68-R74 and
the illegal-instruction refusals of each chapter). Events have no encoding and are not well-formed. -/

namespace Sys2Proof

/-- R222: the pairings of AMOV's operation and arithmetic code. -/
def amovOk (op : AmoOp) (t : Arith) : Bool :=
  match t, op with
  | .i32, .fadd => false
  | .i32, _ => true
  | _, .min => true
  | _, .max => true
  | _, .swap => true
  | _, .fadd => true
  | _, _ => false

/-- R79: lo + w ≤ 64. -/
def fieldOk (lo w1 : BitVec 6) : Bool := lo.toNat + w1.toNat + 1 ≤ 64

/-- Control register numbers that a row of their own takes for CRWR (log 5). -/
def crwrOwnRow (r : BitVec 12) : Bool :=
  r == 0x031 || r == 0x025 ||
    (0x900 ≤ r.toNat && r.toNat ≤ 0xA1F && (r.toNat % 16 == 0 || r.toNat % 16 == 9))

/-- Control register numbers that a row of their own takes for CRRD (log 5). -/
def crrdOwnRow (r : BitVec 12) : Bool :=
  r == 0x880 || (0x900 ≤ r.toNat && r.toNat ≤ 0xA1F && r.toNat % 16 == 5)

/-- R160: the conversions that are not illegal-instruction. -/
def vcvtOk (dst src : CvtTy) (sat : Bool) : Bool :=
  !(dst == .e2m1 && src == .e2m1) && (!sat || dst == .e4m3 || dst == .e5m2 || dst == .e2m1)

/-- The rows of the opcode table that are steps of the hardware or of the outside world, not instructions. -/
def isEvent : Instr → Bool
  | .waitiWake | .mwaitTimeout | .messageArrival .. | .selection .. | .serviceOverrun
  | .chunkInstructionLimit | .chunkCommit | .storeCheck | .trapEntry | .trigger .. | .launchStart ..
  | .tileSend .. | .tileReport .. | .preempt .. | .resume .. | .contextRestore | .graphUpload .. | .uploadDone ..
  | .graphExit .. | .registerWrite .. | .hwinWrite .. | .hostRead .. | .hostWrite .. | .hostPeerAck ..
  | .gstatRead .. | .gdropRead .. | .gundlRead .. | .gescRead .. | .gkillsRead .. | .trigerrRead | .herrRead
  | .xdropRead | .bootDownload | .bootReady .. | .attestRequest | .attestReport | .powerUp | .copyKick ..
  | .batchFinish .. | .shuttleBlock .. | .ownerRequest .. | .amoReply .. | .gbarArrival .. | .gbarRelease ..
  | .walkComplete .. | .invalidationComplete .. | .streamFetch .. | .gatherLanesDone | .gathqStrip ..
  | .matrixCommandStart .. | .matrixCommandComplete .. | .orderReport .. | .taskDispatch .. | .taskCommit
  | .killDelivery .. | .killComplete .. | .quiesceRepair .. | .dualCompare .. | .retrainDone .. | .flitReceive ..
  | .linkWindowEnd .. | .peerUnreachable .. | .powerLimit | .peerWrite .. | .preemptionComplete .. | .exitDone => true
  | _ => false

/-- An instruction whose fields all have an encoding of its row that is not an illegal-instruction. The rows of the
special control registers name the registers they stand for, so the general rows leave those numbers to them. -/
def Instr.wf : Instr → Bool
  | .bext _ _ lo w1 | .bexts _ _ lo w1 | .bins _ _ _ lo w1 => fieldOk lo w1
  | .crwr r _ => !crwrOwnRow r
  | .crrd _ r => !crrdOwnRow r
  | .amov op t _ _ _ _ => amovOk op t
  | .send d _ _ n _ _ | .sendv d _ _ _ n _ _ | .sendg d _ _ n _ _ => n != 0 || d == .g 0
  | .vcvt dst src _ sat _ _ _ => vcvtOk dst src sat
  | i => !isEvent i

end Sys2Proof
end

