-- ==== Sys2Proof/Decode.lean ====
section
/-! DEFINITION. From a head and its tail halfwords to an instruction or a named refusal, and back (03_instruction_lines
R54-R56, R60, R63, R68-R74). Decoding runs in two layers: the format splits the halfwords into fields, and the opcode map
reads the fields. -/

namespace Sys2Proof

/-- Why a head is refused; each is the illegal-instruction fault of R70. -/
inductive DecodeErr where
  | reservedMajor | tailLength | unassigned | nonZeroField | reservedReg | reservedCode | badRange
  deriving DecidableEq, Repr

/-- The five formats of R68. -/
inductive Fmt where
  | H | HA | HB | HC | HD
  deriving DecidableEq, Repr

/-- A head with up to three tail halfwords, absent ones zero (R71). -/
structure Enc where
  head : Half
  t1 : Half
  t2 : Half
  t3 : Half
  deriving DecidableEq, Repr

/-- The fields of R55 and R68. -/
structure Fields where
  major : BitVec 7
  d : BitVec 7
  s1 : BitVec 7 := 0
  s2 : BitVec 7 := 0
  x : BitVec 2 := 0
  i16 : Half := 0
  s3 : BitVec 7 := 0
  fn : BitVec 6 := 0
  mf : BitVec 3 := 0
  i32 : BitVec 32 := 0
  deriving DecidableEq, Repr

/-- The format of each major, R72; `none` for the reserved majors of R74 and for 0x00. -/
def fmtOf (m : BitVec 7) : Option Fmt :=
  match m.toNat with
  | 0x01 => some .H
  | 0x02 => some .HC
  | 0x03 | 0x04 | 0x05 | 0x06 | 0x07 | 0x08 | 0x09 | 0x0A => some .HB
  | 0x0B | 0x0C | 0x0D => some .HD
  | 0x0E => some .HB
  | 0x10 | 0x11 | 0x12 | 0x13 | 0x14 | 0x15 | 0x16 => some .HB
  | 0x17 | 0x18 => some .HD
  | 0x19 => some .HB
  | 0x1A => some .H
  | 0x1B => some .HB
  | 0x1C | 0x1D | 0x1E => some .H
  | 0x1F => some .HC
  | 0x20 | 0x21 | 0x22 => some .HB
  | 0x23 | 0x24 => some .HC
  | 0x28 | 0x29 => some .HB
  | 0x2A | 0x2B => some .HC
  | 0x30 | 0x31 => some .HB
  | 0x32 => some .HC
  | 0x34 => some .HA
  | 0x35 => some .H
  | 0x36 => some .HB
  | 0x37 => some .HA
  | 0x38 | 0x39 => some .HB
  | 0x3A => some .HA
  | 0x3C | 0x3D | 0x3E => some .HC
  | 0x3F => some .HA
  | 0x40 => some .H
  | 0x41 => some .HB
  | 0x44 | 0x45 | 0x46 => some .HD
  | 0x47 => some .HB
  | 0x48 => some .HC
  | 0x49 => some .H
  | 0x4A | 0x4B | 0x4C | 0x4D => some .HC
  | 0x50 => some .HC
  | 0x54 => some .HC
  | 0x55 | 0x56 => some .HA
  | 0x60 | 0x61 | 0x62 | 0x63 | 0x64 | 0x65 | 0x66 => some .HC
  | 0x68 | 0x69 => some .HC
  | 0x6A => some .HB
  | 0x6B => some .HA
  | 0x6C => some .HC
  | 0x6D => some .HA
  | 0x6E => some .HC
  | 0x70 | 0x71 | 0x72 => some .HC
  | 0x73 => some .HB
  | 0x74 => some .HA
  | 0x78 => some .HB
  | _ => none

/-- TL of each format, R68. -/
def Fmt.tl : Fmt → BitVec 2
  | .H => 0
  | .HA => 1
  | .HB => 2
  | .HC => 2
  | .HD => 3

/-- TL of a head, R55. -/
def headTl (h : Half) : BitVec 2 := h.extractLsb' 14 2
/-- MAJOR of a head, R55. -/
def headMajor (h : Half) : BitVec 7 := h.extractLsb' 7 7
/-- D of a head, R55. -/
def headD (h : Half) : BitVec 7 := h.extractLsb' 0 7

/-- The fields of the halfwords under a format (R68). -/
def unpackAs (f : Fmt) (e : Enc) : Fields :=
  let b : Fields := { major := headMajor e.head, d := headD e.head }
  let a : Fields := { b with s1 := e.t1.extractLsb' 9 7, s2 := e.t1.extractLsb' 2 7, x := e.t1.extractLsb' 0 2 }
  match f with
  | .H => b
  | .HA => a
  | .HB => { a with i16 := e.t2 }
  | .HC => { a with s3 := e.t2.extractLsb' 9 7, fn := e.t2.extractLsb' 3 6, mf := e.t2.extractLsb' 0 3 }
  | .HD => { a with i32 := e.t2 ++ e.t3 }

/-- Splits a head and its tails into fields, checking the major and the TL (R70). -/
def unpack (e : Enc) : Except DecodeErr Fields :=
  match fmtOf (headMajor e.head) with
  | none => .error .reservedMajor
  | some f => if headTl e.head = f.tl then .ok (unpackAs f e) else .error .tailLength

/-- Puts fields into a head and tails under a format (R55, R68). -/
def packAs (f : Fmt) (x : Fields) : Enc :=
  let h : Half := f.tl ++ x.major ++ x.d
  let a : Half := x.s1 ++ x.s2 ++ x.x
  match f with
  | .H => { head := h, t1 := 0, t2 := 0, t3 := 0 }
  | .HA => { head := h, t1 := a, t2 := 0, t3 := 0 }
  | .HB => { head := h, t1 := a, t2 := x.i16, t3 := 0 }
  | .HC => { head := h, t1 := a, t2 := x.s3 ++ x.fn ++ x.mf, t3 := 0 }
  | .HD => { head := h, t1 := a, t2 := x.i32.extractLsb' 16 16, t3 := x.i32.extractLsb' 0 16 }

/-- Puts fields into halfwords; the format is the major's. -/
def pack (x : Fields) : Enc := packAs ((fmtOf x.major).getD .H) x

/-- R63: the register a 7-bit field names. -/
def Reg.dec (b : BitVec 7) : Option Reg :=
  match b.extractLsb' 5 2 with
  | 0 => some (.g (b.extractLsb' 0 5).toFin)
  | 1 => some (.v (b.extractLsb' 0 5).toFin)
  | 2 => if b.extractLsb' 4 1 = 0 then some (.q (b.extractLsb' 0 4).toFin) else none
  | _ =>
    if b.extractLsb' 3 2 = 0 then some (.m (b.extractLsb' 0 3).toFin)
    else if b.extractLsb' 3 2 = 1 then some (.k (b.extractLsb' 0 3).toFin)
    else none

/-- R63: the 7-bit field of a register. -/
def Reg.enc : Reg → BitVec 7
  | .g n => BitVec.ofNat 7 n.val
  | .v n => BitVec.ofNat 7 (0x20 + n.val)
  | .q n => BitVec.ofNat 7 (0x40 + n.val)
  | .m n => BitVec.ofNat 7 (0x60 + n.val)
  | .k n => BitVec.ofNat 7 (0x68 + n.val)

namespace Dec

/-- A register field; a reserved encoding is refused (R63). -/
def reg (b : BitVec 7) : Except DecodeErr Reg :=
  match Reg.dec b with
  | some r => .ok r
  | none => .error .reservedReg

/-- A field that must be zero (R70). -/
def zero {w : Nat} (b : BitVec w) : Except DecodeErr Unit := if b = 0 then .ok () else .error .nonZeroField

/-- The fields an HC row leaves zero: X and the mask. -/
def zeroXM (f : Fields) : Except DecodeErr Unit := do zero f.x; zero f.mf

def mask (f : Fields) : Fin 8 := f.mf.toFin

def size (b : BitVec 2) : Size :=
  match b with
  | 0 => .s1
  | 1 => .s2
  | 2 => .s4
  | _ => .s8

def width (b : BitVec 2) : Except DecodeErr Width :=
  match b with
  | 0 => .ok .w32
  | 1 => .ok .w16
  | 2 => .ok .w8
  | _ => .error .reservedCode

def flt (b : BitVec 2) : Except DecodeErr FltTy :=
  match b with
  | 0 => .ok .f32
  | 1 => .ok .f16
  | 2 => .ok .bf16
  | _ => .error .reservedCode

def arith (b : BitVec 2) : Arith :=
  match b with
  | 0 => .f32
  | 1 => .i32
  | 2 => .f16
  | _ => .bf16

def rnd (b : BitVec 2) : Rnd :=
  match b with
  | 0 => .rne
  | 1 => .rtz
  | 2 => .rdn
  | _ => .rup

def cvt (b : BitVec 4) : Except DecodeErr CvtTy :=
  match b.toNat with
  | 0 => .ok .fp32
  | 1 => .ok .fp16
  | 2 => .ok .bf16
  | 3 => .ok .e4m3
  | 4 => .ok .e5m2
  | 5 => .ok .e2m1
  | 6 => .ok .e8m0
  | 7 => .ok .int8
  | 8 => .ok .int16
  | 9 => .ok .int32
  | 10 => .ok .int64
  | 11 => .ok .uint8
  | 12 => .ok .uint16
  | 13 => .ok .uint32
  | 14 => .ok .uint64
  | _ => .error .reservedCode

/-- A VCMP condition: S3 [2:0], with S3 [6:3] zero (R73). -/
def fcond (b : BitVec 7) : Except DecodeErr FCond :=
  match b.toNat with
  | 0 => .ok .eq
  | 1 => .ok .ne
  | 2 => .ok .lt
  | 3 => .ok .le
  | 4 => .ok .gt
  | 5 => .ok .ge
  | 6 => .ok .unord
  | 7 => .ok .ord
  | _ => .error .nonZeroField

/-- A VICMP condition; 6 and 7 are reserved (R73). -/
def icond (b : BitVec 7) : Except DecodeErr ICond :=
  match b.toNat with
  | 0 => .ok .eq
  | 1 => .ok .ne
  | 2 => .ok .lt
  | 3 => .ok .le
  | 4 => .ok .ltu
  | 5 => .ok .leu
  | 6 => .error .reservedCode
  | 7 => .error .reservedCode
  | _ => .error .nonZeroField

/-- The ALU group, major 0x02 (R76). -/
def alu (f : Fields) : Except DecodeErr Instr := do
  zeroXM f
  let d ← reg f.d
  let a ← reg f.s1
  let three (k : Reg → Reg → Reg → Instr) : Except DecodeErr Instr := do
    let b ← reg f.s2
    zero f.s3
    pure (k d a b)
  let one (k : Reg → Reg → Instr) : Except DecodeErr Instr := do
    zero f.s2
    zero f.s3
    pure (k d a)
  match f.fn.toNat with
  | 0 => three .add
  | 1 => three .sub
  | 2 => three .mul
  | 3 => three .mulh
  | 4 => three .mulhu
  | 5 => three .div
  | 6 => three .divu
  | 7 => three .rem
  | 8 => three .remu
  | 9 => three .and
  | 10 => three .or
  | 11 => three .xor
  | 12 => three .shl
  | 13 => three .shr
  | 14 => three .sra
  | 15 => three .slt
  | 16 => three .sltu
  | 17 => three .min
  | 18 => three .max
  | 19 => three .minu
  | 20 => three .maxu
  | 21 => do
    let b ← reg f.s2
    let c ← reg f.s3
    pure (.sel d a b c)
  | 22 => one .clz
  | 23 => one .ctz
  | 24 => one .popc
  | 25 => one .mov
  | _ => .error .unassigned

/-- The HB rows with a destination, one source and an immediate (R77): S2 and X zero. -/
def immRow (f : Fields) (k : Reg → Reg → Half → Instr) : Except DecodeErr Instr := do
  zero f.x
  let d ← reg f.d
  let a ← reg f.s1
  zero f.s2
  pure (k d a f.i16)

/-- The immediate shifts: IMM16[15:6] zero (R77). -/
def shiftRow (f : Fields) (k : Reg → Reg → BitVec 6 → Instr) : Except DecodeErr Instr := do
  zero f.x
  let d ← reg f.d
  let a ← reg f.s1
  zero f.s2
  zero (f.i16.extractLsb' 6 10)
  pure (k d a (f.i16.extractLsb' 0 6))

/-- The HD rows of R78: a destination and IMM32. -/
def wideRow (f : Fields) (k : Reg → BitVec 32 → Instr) : Except DecodeErr Instr := do
  zero f.x
  let d ← reg f.d
  zero f.s1
  zero f.s2
  pure (k d f.i32)

/-- The bit-field group, major 0x0E (R79). -/
def bitField (f : Fields) : Except DecodeErr Instr := do
  let d ← reg f.d
  let a ← reg f.s1
  zero (f.i16.extractLsb' 12 4)
  let lo := f.i16.extractLsb' 0 6
  let w1 := f.i16.extractLsb' 6 6
  if !fieldOk lo w1 then .error .badRange else
  match f.x with
  | 0 => do zero f.s2; pure (.bext d a lo w1)
  | 1 => do zero f.s2; pure (.bexts d a lo w1)
  | 2 => do
    let b ← reg f.s2
    pure (.bins d a b lo w1)
  | _ => .error .unassigned

/-- The conditional branches (R80): D and X zero. -/
def branch (f : Fields) (k : Reg → Reg → Half → Instr) : Except DecodeErr Instr := do
  zero f.x
  zero f.d
  let a ← reg f.s1
  let b ← reg f.s2
  pure (k a b f.i16)

/-- The link number of a link register number (R353). -/
def linkOf (r : BitVec 12) : Fin 18 := Fin.ofNat 18 ((r.toNat - 0x900) / 16)

/-- CRWR: the rows of their own come first (log 5). -/
def crwr (r : BitVec 12) (a : Reg) : Instr :=
  if r = 0x031 then .cpydoneWrite a
  else if r = 0x025 then .mwgtWrite a
  else if crwrOwnRow r then
    if r.toNat % 16 = 0 then .lnkRateWrite (linkOf r) a else .lnkTrapWrite (linkOf r) a
  else .crwr r a

/-- CRRD: the rows of their own come first (log 5). -/
def crrd (d : Reg) (r : BitVec 12) : Instr :=
  if r = 0x880 then .healthRead d
  else if crrdOwnRow r then .lnkDegradeRead (linkOf r) d
  else .crrd d r

/-- The control register group, major 0x1B (R93). -/
def controlReg (f : Fields) : Except DecodeErr Instr := do
  zero f.s2
  zero (f.i16.extractLsb' 12 4)
  let r := f.i16.extractLsb' 0 12
  match f.x with
  | 0 => do
    zero f.s1
    let d ← reg f.d
    pure (crrd d r)
  | 1 => do
    zero f.d
    let a ← reg f.s1
    pure (crwr r a)
  | 2 => do
    zero f.d
    let a ← reg f.s1
    pure (.crset r a)
  | _ => do
    zero f.d
    let a ← reg f.s1
    pure (.crclr r a)

/-- The system group, major 0x1F (R190, R322, R326). -/
def system (f : Fields) : Except DecodeErr Instr := do
  zeroXM f
  match f.fn.toNat with
  | 0 => do zero f.d; zero f.s1; zero f.s2; zero f.s3; pure .sdrain
  | 1 => do
    let d ← reg f.d
    zero f.s1
    zero f.s2
    zero f.s3
    pure (.sfqpop d)
  | 2 => do
    zero f.d
    let a ← reg f.s1
    let b ← reg f.s2
    let c ← reg f.s3
    pure (.tlbinv a b c)
  | 3 => do
    zero f.d
    let a ← reg f.s1
    zero f.s2
    zero f.s3
    pure (.gkill a)
  | _ => .error .unassigned

/-- LD and LDU (R84). -/
def loadRow (f : Fields) (k : Size → Reg → Reg → Half → Instr) : Except DecodeErr Instr := do
  let d ← reg f.d
  let a ← reg f.s1
  zero f.s2
  pure (k (size f.x) d a f.i16)

/-- LDX (R84). -/
def ldx (f : Fields) : Except DecodeErr Instr := do
  zero f.mf
  zero f.fn
  let d ← reg f.d
  let a ← reg f.s1
  let b ← reg f.s2
  zero f.s3
  pure (.ldx (size f.x) d a b)

/-- ST (R84). -/
def st (f : Fields) : Except DecodeErr Instr := do
  zero f.d
  let a ← reg f.s1
  let b ← reg f.s2
  pure (.st (size f.x) a b f.i16)

/-- STX (R84). -/
def stx (f : Fields) : Except DecodeErr Instr := do
  zero f.d
  zero f.mf
  zero f.fn
  let a ← reg f.s1
  let b ← reg f.s2
  let c ← reg f.s3
  pure (.stx (size f.x) a b c)

/-- QBIND (R197); IMM16 [15:8] is an operand the instruction refuses itself. -/
def qbind (f : Fields) : Except DecodeErr Instr := do
  zero f.x
  zero f.s1
  zero f.s2
  let d ← reg f.d
  let pq := f.i16.extractLsb' 0 4
  let ps := f.i16.extractLsb' 4 3
  let hi := f.i16.extractLsb' 8 8
  pure (if f.i16.extractLsb' 7 1 = 1 then .qbindProd d pq ps hi else .qbind d pq ps hi)

/-- QSTREAM (R200). -/
def qstream (f : Fields) : Except DecodeErr Instr := do
  zero f.s2
  zero (f.i16.extractLsb' 1 15)
  let d ← reg f.d
  let a ← reg f.s1
  let wr := f.i16.extractLsb' 0 1
  let mk (w : StreamW) : Instr := if wr = 1 then .qstreamWr w d a else .qstream w d a
  match f.x with
  | 0 => pure (mk .w4)
  | 1 => pure (mk .w16)
  | 2 => pure (mk .w64)
  | _ => .error .unassigned

/-- The queue control group, major 0x32 (R196). -/
def queueCtl (f : Fields) : Except DecodeErr Instr := do
  zeroXM f
  zero f.s2
  zero f.s3
  let d ← reg f.d
  match f.fn.toNat with
  | 0 => do zero f.s1; pure (.qunbind d)
  | 1 => do
    let a ← reg f.s1
    pure (.qstat d a)
  | 2 => do zero f.s1; pure (.qflush d)
  | _ => .error .unassigned

/-- An HA row with S1 only, D and X zero. -/
def haS1 (f : Fields) (k : Reg → Instr) : Except DecodeErr Instr := do
  zero f.x
  zero f.d
  zero f.s2
  let a ← reg f.s1
  pure (k a)

/-- MDISARM (R214). -/
def mdisarm (f : Fields) : Except DecodeErr Instr := do
  zero f.d
  zero f.s2
  match f.x with
  | 0 => do
    let a ← reg f.s1
    pure (.mdisarm a)
  | 1 => do zero f.s1; pure .mdisarmAll
  | _ => .error .unassigned

/-- AMO, major 0x3C (R221). -/
def amo (f : Fields) : Except DecodeErr Instr := do
  zero f.mf
  let d ← reg f.d
  let a ← reg f.s1
  let b ← reg f.s2
  let z := size f.x
  let plain (k : Size → Reg → Reg → Reg → Instr) : Except DecodeErr Instr := do
    zero f.s3
    pure (k z d a b)
  match f.fn.toNat with
  | 0 => plain .amoAdd
  | 1 => plain .amoAnd
  | 2 => plain .amoOr
  | 3 => plain .amoXor
  | 4 => plain .amoMin
  | 5 => plain .amoMax
  | 6 => plain .amoMinu
  | 7 => plain .amoMaxu
  | 8 => plain .amoSwap
  | 9 => do
    let c ← reg f.s3
    pure (.amoCas z d a b c)
  | 10 => do
    zero f.s3
    if z = .s4 then pure (.amoFadd d a b) else .error .reservedCode
  | _ => .error .unassigned

/-- The operation codes of AMOV (R222). -/
def amoOp (n : Nat) : Except DecodeErr AmoOp :=
  match n with
  | 0 => .ok .add
  | 1 => .ok .and
  | 2 => .ok .or
  | 3 => .ok .xor
  | 4 => .ok .min
  | 5 => .ok .max
  | 6 => .ok .minu
  | 7 => .ok .maxu
  | 8 => .ok .swap
  | 10 => .ok .fadd
  | _ => .error .unassigned

/-- AMOV, major 0x3D (R222). -/
def amov (f : Fields) : Except DecodeErr Instr := do
  zero f.s3
  let d ← reg f.d
  let a ← reg f.s1
  let b ← reg f.s2
  let op ← amoOp f.fn.toNat
  let t := arith f.x
  if amovOk op t then pure (.amov op t d a b (mask f)) else .error .reservedCode

/-- ARED, major 0x3E (R225). -/
def ared (f : Fields) : Except DecodeErr Instr := do
  zero f.d
  zero f.s3
  zero f.fn
  let a ← reg f.s1
  let b ← reg f.s2
  pure (.ared (arith f.x) a b (mask f))

/-- FENCE, major 0x3F (R238). -/
def fence (f : Fields) : Except DecodeErr Instr := do
  zero f.x
  zero f.s1
  zero f.s2
  let sc ← match (f.d.extractLsb' 0 3).toNat with
    | 0 => .ok Scope.core
    | 1 => .ok Scope.clus
    | 2 => .ok Scope.die
    | 3 => .ok Scope.dev
    | 4 => .ok Scope.sys
    | _ => .error DecodeErr.reservedCode
  let kd ← match (f.d.extractLsb' 3 2).toNat with
    | 0 => .ok FenceKind.acq
    | 1 => .ok FenceKind.rel
    | 2 => .ok FenceKind.full
    | _ => .error DecodeErr.reservedCode
  pure (.fence sc kd (f.d.extractLsb' 5 1 = 1) (f.d.extractLsb' 6 1 = 1))

/-- GBAR, major 0x41 (R240). -/
def gbar (f : Fields) : Except DecodeErr Instr := do
  zero f.d
  zero f.s1
  zero f.s2
  zero (f.i16.extractLsb' 8 8)
  let id := f.i16.extractLsb' 0 8
  match f.x with
  | 0 => pure (.gbar id)
  | 1 => pure (.gbarArrive id)
  | 2 => pure (.gbarWait id)
  | _ => .error .unassigned

/-- SEND and SENDG (R88): S2 and X zero, IMM32 [31:13] zero. -/
def send (f : Fields) (k : Reg → Reg → BitVec 8 → BitVec 3 → Bool → Bool → Instr) : Except DecodeErr Instr := do
  zero f.x
  zero f.s2
  zero (f.i32.extractLsb' 13 19)
  let d ← reg f.d
  let a ← reg f.s1
  let n := f.i32.extractLsb' 8 3
  if n = 0 ∧ f.d ≠ 0 then .error .nonZeroField else
  pure (k d a (f.i32.extractLsb' 0 8) n (f.i32.extractLsb' 11 1 = 1) (f.i32.extractLsb' 12 1 = 1))

/-- SENDV (R88). -/
def sendv (f : Fields) : Except DecodeErr Instr := do
  zero f.x
  zero (f.i32.extractLsb' 13 19)
  let d ← reg f.d
  let a ← reg f.s1
  let b ← reg f.s2
  let n := f.i32.extractLsb' 8 3
  if n = 0 ∧ f.d ≠ 0 then .error .nonZeroField else
  pure (.sendv d a b (f.i32.extractLsb' 0 8) n (f.i32.extractLsb' 11 1 = 1) (f.i32.extractLsb' 12 1 = 1))

/-- MIGRATE (R288); IMM16 [15:1] is an operand the instruction refuses itself. -/
def migrate (f : Fields) : Except DecodeErr Instr := do
  zero f.x
  zero f.d
  zero f.s2
  let a ← reg f.s1
  let hi := f.i16.extractLsb' 1 15
  pure (if f.i16.extractLsb' 0 1 = 1 then .migrateNear a hi else .migrate a hi)

/-- An HC row with D, S1, S2, S3 and X, FN and mask zero. -/
def hc4 (f : Fields) (k : Reg → Reg → Reg → Reg → Instr) : Except DecodeErr Instr := do
  zeroXM f
  zero f.fn
  let d ← reg f.d
  let a ← reg f.s1
  let b ← reg f.s2
  let c ← reg f.s3
  pure (k d a b c)

/-- GATH, GATHQ: X = 0 and FN [0] is .t (R216, R217). -/
def gath (f : Fields) : Except DecodeErr Instr := do
  zero f.s3
  zero (f.fn.extractLsb' 1 5)
  let d ← reg f.d
  let a ← reg f.s1
  let b ← reg f.s2
  if f.x = 0 then pure (.gath (f.fn.extractLsb' 0 1 = 1) d a b (mask f)) else .error .reservedCode

def gathq (f : Fields) : Except DecodeErr Instr := do
  zero (f.fn.extractLsb' 1 5)
  let d ← reg f.d
  let a ← reg f.s1
  let b ← reg f.s2
  let c ← reg f.s3
  if f.x = 0 then pure (.gathq (f.fn.extractLsb' 0 1 = 1) d a b c (mask f)) else .error .reservedCode

/-- SCAT and SCATA (R218, R219). -/
def scat (f : Fields) (k : Reg → Reg → Reg → Fin 8 → Instr) : Except DecodeErr Instr := do
  zero f.d
  zero f.fn
  let a ← reg f.s1
  let b ← reg f.s2
  let c ← reg f.s3
  pure (k a b c (mask f))

/-- The label group, major 0x50 (R121). -/
def label (f : Fields) : Except DecodeErr Instr := do
  zeroXM f
  let a ← reg f.s1
  let two (k : Reg → Reg → Reg → Instr) : Except DecodeErr Instr := do
    let d ← reg f.d
    let b ← reg f.s2
    zero f.s3
    pure (k d a b)
  let one (k : Reg → Reg → Instr) : Except DecodeErr Instr := do
    let d ← reg f.d
    zero f.s2
    zero f.s3
    pure (k d a)
  let src (k : Reg → Reg → Instr) : Except DecodeErr Instr := do
    zero f.d
    let b ← reg f.s2
    zero f.s3
    pure (k a b)
  match f.fn.toNat with
  | 0 => two .lmake
  | 1 => one .lpar
  | 2 => one .ldep
  | 3 => two .lanc
  | 4 => one .lrange
  | 5 => two .lcmp
  | 6 => one .lcanon
  | 7 => one .lxlook
  | 8 => src .lxinv
  | 9 => src .lxfill
  | 10 => do
    let d ← reg f.d
    let b ← reg f.s2
    let c ← reg f.s3
    pure (.lscan d a b c)
  | _ => .error .unassigned

/-- WACC, major 0x54 (R165). -/
def wacc (f : Fields) : Except DecodeErr Instr := do
  zero f.d
  zero f.fn
  let a ← reg f.s1
  let b ← reg f.s2
  match f.x with
  | 0 => do zero f.s3; pure (.wacc a b (mask f))
  | 1 => do
    let c ← reg f.s3
    pure (.waccMul a b c (mask f))
  | 2 => do zero f.s3; zero f.mf; pure (.waccWin a b)
  | _ => do zero f.s3; zero f.mf; pure (.waccS a b)

/-- WRD, major 0x55 (R166). -/
def wrd (f : Fields) : Except DecodeErr Instr := do
  zero f.s2
  let d ← reg f.d
  let a ← reg f.s1
  pure (.wrd (rnd f.x) d a)

/-- The vector float group, major 0x60 (R156). -/
def vfloat (f : Fields) : Except DecodeErr Instr := do
  let t ← flt f.x
  let d ← reg f.d
  let a ← reg f.s1
  let mk := mask f
  let two (k : FltTy → Reg → Reg → Reg → Fin 8 → Instr) : Except DecodeErr Instr := do
    let b ← reg f.s2
    zero f.s3
    pure (k t d a b mk)
  let one (k : FltTy → Reg → Reg → Fin 8 → Instr) : Except DecodeErr Instr := do
    zero f.s2
    zero f.s3
    pure (k t d a mk)
  let four (k : FltTy → Reg → Reg → Reg → Reg → Fin 8 → Instr) : Except DecodeErr Instr := do
    let b ← reg f.s2
    let c ← reg f.s3
    pure (k t d a b c mk)
  match f.fn.toNat with
  | 0 => two .vadd
  | 1 => two .vsub
  | 2 => two .vmul
  | 3 => four .vfma
  | 4 => four .vfms
  | 5 => two .vmin
  | 6 => two .vmax
  | 7 => one .vabs
  | 8 => one .vneg
  | 9 => two .vdiv
  | 10 => one .vrcp
  | 11 => one .vrsq
  | 12 => one .vsqrt
  | 13 => one .vexp2
  | 14 => one .vlog2
  | 15 => do
    let b ← reg f.s2
    let c ← fcond f.s3
    pure (.vcmp t c d a b mk)
  | 16 => two .vsel
  | _ => .error .unassigned

/-- The vector integer group, major 0x61 (R159). -/
def vint (f : Fields) : Except DecodeErr Instr := do
  let w ← width f.x
  let d ← reg f.d
  let a ← reg f.s1
  let b ← reg f.s2
  let mk := mask f
  let two (k : Width → Reg → Reg → Reg → Fin 8 → Instr) : Except DecodeErr Instr := do
    zero f.s3
    pure (k w d a b mk)
  match f.fn.toNat with
  | 0 => two .viadd
  | 1 => two .visub
  | 2 => two .vimul
  | 3 => two .vimin
  | 4 => two .vimax
  | 5 => two .viminu
  | 6 => two .vimaxu
  | 7 => two .vand
  | 8 => two .vor
  | 9 => two .vxor
  | 10 => two .vshl
  | 11 => two .vshr
  | 12 => two .vsra
  | 13 => do
    let c ← icond f.s3
    pure (.vicmp w c d a b mk)
  | _ => .error .unassigned

/-- VCVT, major 0x62 (R160). -/
def vcvt (f : Fields) : Except DecodeErr Instr := do
  zero f.s2
  zero (f.s3.extractLsb' 4 3)
  let d ← reg f.d
  let a ← reg f.s1
  let src ← cvt (f.s3.extractLsb' 0 4)
  let dst ← cvt (f.fn.extractLsb' 0 4)
  let sat := f.x.extractLsb' 0 1 = 1
  if !vcvtOk dst src sat then .error .reservedCode else
  if f.x.extractLsb' 1 1 = 1 then do
    zero (f.fn.extractLsb' 4 2)
    pure (.vcvt dst src none sat d a (mask f))
  else pure (.vcvt dst src (some (rnd (f.fn.extractLsb' 4 2))) sat d a (mask f))

/-- The vector move group, major 0x63 (R162). -/
def vmove (f : Fields) : Except DecodeErr Instr := do
  let w ← width f.x
  zero f.s3
  let d ← reg f.d
  let mk := mask f
  let one (k : Width → Reg → Reg → Fin 8 → Instr) : Except DecodeErr Instr := do
    let a ← reg f.s1
    zero f.s2
    pure (k w d a mk)
  let two (k : Width → Reg → Reg → Reg → Fin 8 → Instr) : Except DecodeErr Instr := do
    let a ← reg f.s1
    let b ← reg f.s2
    pure (k w d a b mk)
  let lane (k : Width → Reg → Reg → Reg → Instr) : Except DecodeErr Instr := do
    let a ← reg f.s1
    let b ← reg f.s2
    zero f.mf
    pure (k w d a b)
  match f.fn.toNat with
  | 0 => one .vbcast
  | 1 => lane .vextr
  | 2 => lane .vins
  | 3 => do zero f.s1; zero f.s2; pure (.vidx w d mk)
  | 4 => two .vperm
  | 5 => two .vslide
  | 6 => one .vcomp
  | 7 => one .vexpnd
  | 8 => one .vmov
  | _ => .error .unassigned

/-- VRED and VSCAN (R163). -/
def vred (f : Fields) (k : RedOp → Arith → Reg → Reg → Fin 8 → Instr) : Except DecodeErr Instr := do
  zero f.s2
  zero f.s3
  let d ← reg f.d
  let a ← reg f.s1
  match f.fn.toNat with
  | 0 => pure (k .sum (arith f.x) d a (mask f))
  | 1 => pure (k .min (arith f.x) d a (mask f))
  | 2 => pure (k .max (arith f.x) d a (mask f))
  | _ => .error .unassigned

/-- The mask group, major 0x66 (R164). -/
def maskGroup (f : Fields) : Except DecodeErr Instr := do
  zeroXM f
  zero f.s3
  let d ← reg f.d
  let a ← reg f.s1
  let two (k : Reg → Reg → Reg → Instr) : Except DecodeErr Instr := do
    let b ← reg f.s2
    pure (k d a b)
  let one (k : Reg → Reg → Instr) : Except DecodeErr Instr := do
    zero f.s2
    pure (k d a)
  match f.fn.toNat with
  | 0 => two .mand
  | 1 => two .mor
  | 2 => two .mxor
  | 3 => one .mnot
  | 4 => one .mpop
  | 5 => one .mfirst
  | 6 => one .mset
  | 7 => one .mget
  | _ => .error .unassigned

/-- KVSCAN, major 0x6A. -/
def kvscan (f : Fields) : Except DecodeErr Instr := do
  zero f.x
  zero f.s2
  zero f.i16
  let d ← reg f.d
  let a ← reg f.s1
  pure (.kvscan d a)

/-- POSADD, major 0x6B. -/
def posadd (f : Fields) : Except DecodeErr Instr := do
  zero f.x
  let d ← reg f.d
  let a ← reg f.s1
  let b ← reg f.s2
  pure (.posadd d a b)

/-- VTHRC, major 0x6C. -/
def vthrc (f : Fields) : Except DecodeErr Instr := do
  zero f.fn
  let t ← flt f.x
  let d ← reg f.d
  let a ← reg f.s1
  let b ← reg f.s2
  let c ← reg f.s3
  pure (.vthrc t d a b c (mask f))

/-- VARGMX, major 0x6D. -/
def vargmx (f : Fields) : Except DecodeErr Instr := do
  zero f.s2
  let t ← flt f.x
  let d ← reg f.d
  let a ← reg f.s1
  pure (.vargmx t d a)

/-- SPDEC, major 0x72 (R268). -/
def spdec (f : Fields) : Except DecodeErr Instr := do
  zero f.fn
  zero f.mf
  let d ← reg f.d
  let a ← reg f.s1
  let b ← reg f.s2
  let c ← reg f.s3
  let p : SpPat := match f.x with
    | 0 => .p2x4
    | 1 => .p1x4
    | 2 => .p2x8
    | _ => .p1x8
  pure (.spdec p d a b c)

/-- An HB row with an immediate only (MMSYNC, SIGCHK). -/
def immOnly (f : Fields) (k : Half → Instr) : Except DecodeErr Instr := do
  zero f.x
  zero f.d
  zero f.s1
  zero f.s2
  pure (k f.i16)

/-- An H row with D zero. -/
def plain (f : Fields) (i : Instr) : Except DecodeErr Instr := do
  zero f.d
  pure i

/-- An H row with a destination. -/
def destOnly (f : Fields) (k : Reg → Instr) : Except DecodeErr Instr := do
  let d ← reg f.d
  pure (k d)

/-- MON, MWAIT: HB with D, S1 and IMM16. -/
def cpywait (f : Fields) : Except DecodeErr Instr := do
  zero f.x
  zero f.d
  zero f.s2
  let a ← reg f.s1
  pure (.cpywait a f.i16)

/-- ENDA: D [0] is .t (R83). -/
def enda (f : Fields) : Except DecodeErr Instr := do
  zero (f.d.extractLsb' 1 6)
  pure (if f.d.extractLsb' 0 1 = 1 then .endaT else .enda)

def loop (f : Fields) : Except DecodeErr Instr := do
  zero f.x
  zero f.s1
  zero f.s2
  let d ← reg f.d
  pure (.loop d f.i16)

def jmp (f : Fields) : Except DecodeErr Instr := do
  zero f.x
  zero f.d
  zero f.s1
  zero f.s2
  pure (.jmp f.i32)

def deal (f : Fields) : Except DecodeErr Instr := do
  zero f.x
  zero f.d
  let a ← reg f.s1
  let b ← reg f.s2
  pure (.deal a b)

def vld (f : Fields) : Except DecodeErr Instr := do
  zero f.x
  let d ← reg f.d
  let a ← reg f.s1
  zero f.s2
  pure (.vld d a f.i16)

def vst (f : Fields) : Except DecodeErr Instr := do
  zero f.x
  zero f.d
  let a ← reg f.s1
  let b ← reg f.s2
  pure (.vst a b f.i16)

def vlds (f : Fields) : Except DecodeErr Instr := do
  zero f.fn
  zero f.s3
  let w ← width f.x
  let d ← reg f.d
  let a ← reg f.s1
  let b ← reg f.s2
  pure (.vlds w d a b (mask f))

def vsts (f : Fields) : Except DecodeErr Instr := do
  zero f.fn
  zero f.d
  let w ← width f.x
  let a ← reg f.s1
  let b ← reg f.s2
  let c ← reg f.s3
  pure (.vsts w a b c (mask f))

end Dec

/-- The opcode map of R72 over the fields. -/
def decodeFields (f : Fields) : Except DecodeErr Instr :=
  match f.major.toNat with
  | 0x01 => Dec.plain f .nop
  | 0x02 => Dec.alu f
  | 0x03 => Dec.immRow f .addi
  | 0x04 => Dec.immRow f .andi
  | 0x05 => Dec.immRow f .ori
  | 0x06 => Dec.immRow f .xori
  | 0x07 => Dec.shiftRow f .shli
  | 0x08 => Dec.shiftRow f .shri
  | 0x09 => Dec.shiftRow f .srai
  | 0x0A => Dec.immRow f .slti
  | 0x0B => Dec.wideRow f .li
  | 0x0C => Dec.wideRow f .lih
  | 0x0D => Dec.wideRow f .addpc
  | 0x0E => Dec.bitField f
  | 0x10 => Dec.branch f .beq
  | 0x11 => Dec.branch f .bne
  | 0x12 => Dec.branch f .blt
  | 0x13 => Dec.branch f .bge
  | 0x14 => Dec.branch f .bltu
  | 0x15 => Dec.branch f .bgeu
  | 0x16 => Dec.loop f
  | 0x17 => Dec.jmp f
  | 0x18 => Dec.wideRow f .jal
  | 0x19 => Dec.immRow f .jalr
  | 0x1A => Dec.enda f
  | 0x1B => Dec.controlReg f
  | 0x1C => .ok (.trap f.d)
  | 0x1D => Dec.plain f .eret
  | 0x1E => Dec.plain f .waiti
  | 0x1F => Dec.system f
  | 0x20 => Dec.loadRow f .ld
  | 0x21 => Dec.loadRow f .ldu
  | 0x22 => Dec.st f
  | 0x23 => Dec.ldx f
  | 0x24 => Dec.stx f
  | 0x28 => Dec.vld f
  | 0x29 => Dec.vst f
  | 0x2A => Dec.vlds f
  | 0x2B => Dec.vsts f
  | 0x30 => Dec.qbind f
  | 0x31 => Dec.qstream f
  | 0x32 => Dec.queueCtl f
  | 0x34 => Dec.haS1 f .cpy
  | 0x35 => Dec.destOnly f .cpyseal
  | 0x36 => Dec.cpywait f
  | 0x37 => Dec.deal f
  | 0x38 => Dec.immRow f .mon
  | 0x39 => Dec.immRow f .mwait
  | 0x3A => Dec.mdisarm f
  | 0x3C => Dec.amo f
  | 0x3D => Dec.amov f
  | 0x3E => Dec.ared f
  | 0x3F => Dec.fence f
  | 0x40 => Dec.plain f .chkpt
  | 0x41 => Dec.gbar f
  | 0x44 => Dec.send f .send
  | 0x45 => Dec.sendv f
  | 0x46 => Dec.send f .sendg
  | 0x47 => Dec.migrate f
  | 0x48 => Dec.hc4 f .spawn
  | 0x49 => Dec.destOnly f .tskts
  | 0x4A => Dec.gath f
  | 0x4B => Dec.gathq f
  | 0x4C => if f.x = 0 then Dec.scat f .scat else .error .reservedCode
  | 0x4D =>
    match f.x with
    | 0 => Dec.scat f (.scata false)
    | 1 => Dec.scat f (.scata true)
    | _ => .error .reservedCode
  | 0x50 => Dec.label f
  | 0x54 => Dec.wacc f
  | 0x55 => Dec.wrd f
  | 0x56 => Dec.haS1 f .wclr
  | 0x60 => Dec.vfloat f
  | 0x61 => Dec.vint f
  | 0x62 => Dec.vcvt f
  | 0x63 => Dec.vmove f
  | 0x64 => Dec.vred f .vred
  | 0x65 => Dec.vred f .vscan
  | 0x66 => Dec.maskGroup f
  | 0x68 => Dec.hc4 f .vrope
  | 0x69 => Dec.hc4 f .vsmax
  | 0x6A => Dec.kvscan f
  | 0x6B => Dec.posadd f
  | 0x6C => Dec.vthrc f
  | 0x6D => Dec.vargmx f
  | 0x6E => Dec.hc4 f .tkmerge
  | 0x70 => Dec.hc4 f .mma
  | 0x71 => Dec.hc4 f .mmas
  | 0x72 => Dec.spdec f
  | 0x73 => Dec.immOnly f .mmsync
  | 0x74 => do
    zero f.x
    zero f.s1
    zero f.s2
    Dec.destOnly f .mqstat
  | 0x78 => Dec.immOnly f .sigchk
  | _ => .error .reservedMajor
where
  zero {w : Nat} (b : BitVec w) : Except DecodeErr Unit := Dec.zero b

/-- The instruction of a head and its tails, or why it is refused (R70). -/
def decode (e : Enc) : Except DecodeErr Instr :=
  match unpack e with
  | .error x => .error x
  | .ok f => decodeFields f

/-! The encoder, from the same tables. -/

namespace Enc

def size : Size → BitVec 2
  | .s1 => 0
  | .s2 => 1
  | .s4 => 2
  | .s8 => 3

def width : Width → BitVec 2
  | .w32 => 0
  | .w16 => 1
  | .w8 => 2

def flt : FltTy → BitVec 2
  | .f32 => 0
  | .f16 => 1
  | .bf16 => 2

def arith : Arith → BitVec 2
  | .f32 => 0
  | .i32 => 1
  | .f16 => 2
  | .bf16 => 3

def rnd : Rnd → BitVec 2
  | .rne => 0
  | .rtz => 1
  | .rdn => 2
  | .rup => 3

def cvt : CvtTy → BitVec 4
  | .fp32 => 0
  | .fp16 => 1
  | .bf16 => 2
  | .e4m3 => 3
  | .e5m2 => 4
  | .e2m1 => 5
  | .e8m0 => 6
  | .int8 => 7
  | .int16 => 8
  | .int32 => 9
  | .int64 => 10
  | .uint8 => 11
  | .uint16 => 12
  | .uint32 => 13
  | .uint64 => 14

def fcond : FCond → BitVec 7
  | .eq => 0
  | .ne => 1
  | .lt => 2
  | .le => 3
  | .gt => 4
  | .ge => 5
  | .unord => 6
  | .ord => 7

def icond : ICond → BitVec 7
  | .eq => 0
  | .ne => 1
  | .lt => 2
  | .le => 3
  | .ltu => 4
  | .leu => 5

def amoOp : AmoOp → BitVec 6
  | .add => 0
  | .and => 1
  | .or => 2
  | .xor => 3
  | .min => 4
  | .max => 5
  | .minu => 6
  | .maxu => 7
  | .swap => 8
  | .fadd => 10

def redOp : RedOp → BitVec 6
  | .sum => 0
  | .min => 1
  | .max => 2

def scope : Scope → BitVec 3
  | .core => 0
  | .clus => 1
  | .die => 2
  | .dev => 3
  | .sys => 4

def fenceKind : FenceKind → BitVec 2
  | .acq => 0
  | .rel => 1
  | .full => 2

def streamW : StreamW → BitVec 2
  | .w4 => 0
  | .w16 => 1
  | .w64 => 2

def spPat : SpPat → BitVec 2
  | .p2x4 => 0
  | .p1x4 => 1
  | .p2x8 => 2
  | .p1x8 => 3

def bit (b : Bool) : BitVec 1 := BitVec.ofBool b

/-- The mask field. -/
def mask (m : Fin 8) : BitVec 3 := BitVec.ofFin m

/-- The row of three registers of a group with FN. -/
def r3 (major : BitVec 7) (fn : BitVec 6) (d a b : Reg) : Fields :=
  { major := major, d := d.enc, s1 := a.enc, s2 := b.enc, fn := fn }

/-- The row of two registers of a group with FN. -/
def r2 (major : BitVec 7) (fn : BitVec 6) (d a : Reg) : Fields := { major := major, d := d.enc, s1 := a.enc, fn := fn }

/-- D, S1 and IMM16. -/
def imm (major : BitVec 7) (d a : Reg) (i : Half) : Fields := { major := major, d := d.enc, s1 := a.enc, i16 := i }

/-- S1, S2 and IMM16. -/
def br (major : BitVec 7) (a b : Reg) (i : Half) : Fields := { major := major, d := 0, s1 := a.enc, s2 := b.enc, i16 := i }

/-- D and IMM32. -/
def wide (major : BitVec 7) (d : Reg) (i : BitVec 32) : Fields := { major := major, d := d.enc, i32 := i }

/-- A bit-field row: IMM16 [11:6] width − 1, [5:0] lowest bit. -/
def bits (x : BitVec 2) (d a : Reg) (lo w1 : BitVec 6) : Fields :=
  { major := 0x0E, d := d.enc, s1 := a.enc, x := x, i16 := (0 : BitVec 4) ++ w1 ++ lo }

/-- A control register row. -/
def cr (x : BitVec 2) (d a : BitVec 7) (r : BitVec 12) : Fields :=
  { major := 0x1B, d := d, s1 := a, x := x, i16 := (0 : BitVec 4) ++ r }

/-- The number of a link register, R353. -/
def link (l : Fin 18) (n : Nat) : BitVec 12 := BitVec.ofNat 12 (0x900 + 16 * l.val + n)

/-- A row with a mask field. -/
def m3 (major : BitVec 7) (fn : BitVec 6) (x : BitVec 2) (d a b : Reg) (mk : Fin 8) : Fields :=
  { major := major, d := d.enc, s1 := a.enc, s2 := b.enc, x := x, fn := fn, mf := mask mk }

/-- A row with a mask field and one source. -/
def m2 (major : BitVec 7) (fn : BitVec 6) (x : BitVec 2) (d a : Reg) (mk : Fin 8) : Fields :=
  { major := major, d := d.enc, s1 := a.enc, x := x, fn := fn, mf := mask mk }

/-- IMM32 of a send (R88). -/
def sendImm (t : BitVec 8) (n : BitVec 3) (nack now : Bool) : BitVec 32 :=
  (0 : BitVec 19) ++ bit now ++ bit nack ++ n ++ t

end Enc

/-- The fields of an instruction (R68-R73 and the encoding tables of each chapter). An event has none, and yields the
reserved major 0x00. -/
def encodeFields : Instr → Fields
  | .nop => { major := 0x01, d := 0 }
  | .add d a b => Enc.r3 0x02 0 d a b
  | .sub d a b => Enc.r3 0x02 1 d a b
  | .mul d a b => Enc.r3 0x02 2 d a b
  | .mulh d a b => Enc.r3 0x02 3 d a b
  | .mulhu d a b => Enc.r3 0x02 4 d a b
  | .div d a b => Enc.r3 0x02 5 d a b
  | .divu d a b => Enc.r3 0x02 6 d a b
  | .rem d a b => Enc.r3 0x02 7 d a b
  | .remu d a b => Enc.r3 0x02 8 d a b
  | .and d a b => Enc.r3 0x02 9 d a b
  | .or d a b => Enc.r3 0x02 10 d a b
  | .xor d a b => Enc.r3 0x02 11 d a b
  | .shl d a b => Enc.r3 0x02 12 d a b
  | .shr d a b => Enc.r3 0x02 13 d a b
  | .sra d a b => Enc.r3 0x02 14 d a b
  | .slt d a b => Enc.r3 0x02 15 d a b
  | .sltu d a b => Enc.r3 0x02 16 d a b
  | .min d a b => Enc.r3 0x02 17 d a b
  | .max d a b => Enc.r3 0x02 18 d a b
  | .minu d a b => Enc.r3 0x02 19 d a b
  | .maxu d a b => Enc.r3 0x02 20 d a b
  | .sel d a b c => { Enc.r3 0x02 21 d a b with s3 := c.enc }
  | .clz d a => Enc.r2 0x02 22 d a
  | .ctz d a => Enc.r2 0x02 23 d a
  | .popc d a => Enc.r2 0x02 24 d a
  | .mov d a => Enc.r2 0x02 25 d a
  | .addi d a i => Enc.imm 0x03 d a i
  | .andi d a i => Enc.imm 0x04 d a i
  | .ori d a i => Enc.imm 0x05 d a i
  | .xori d a i => Enc.imm 0x06 d a i
  | .shli d a n => Enc.imm 0x07 d a ((0 : BitVec 10) ++ n)
  | .shri d a n => Enc.imm 0x08 d a ((0 : BitVec 10) ++ n)
  | .srai d a n => Enc.imm 0x09 d a ((0 : BitVec 10) ++ n)
  | .slti d a i => Enc.imm 0x0A d a i
  | .li d i => Enc.wide 0x0B d i
  | .lih d i => Enc.wide 0x0C d i
  | .addpc d i => Enc.wide 0x0D d i
  | .bext d a lo w1 => Enc.bits 0 d a lo w1
  | .bexts d a lo w1 => Enc.bits 1 d a lo w1
  | .bins d a b lo w1 => { Enc.bits 2 d a lo w1 with s2 := b.enc }
  | .beq a b i => Enc.br 0x10 a b i
  | .bne a b i => Enc.br 0x11 a b i
  | .blt a b i => Enc.br 0x12 a b i
  | .bge a b i => Enc.br 0x13 a b i
  | .bltu a b i => Enc.br 0x14 a b i
  | .bgeu a b i => Enc.br 0x15 a b i
  | .loop d i => { major := 0x16, d := d.enc, i16 := i }
  | .jmp i => { major := 0x17, d := 0, i32 := i }
  | .jal d i => Enc.wide 0x18 d i
  | .jalr d a i => Enc.imm 0x19 d a i
  | .enda => { major := 0x1A, d := 0 }
  | .endaT => { major := 0x1A, d := 1 }
  | .crrd d r => Enc.cr 0 d.enc 0 r
  | .crwr r a => Enc.cr 1 0 a.enc r
  | .crset r a => Enc.cr 2 0 a.enc r
  | .crclr r a => Enc.cr 3 0 a.enc r
  | .cpydoneWrite a => Enc.cr 1 0 a.enc 0x031
  | .mwgtWrite a => Enc.cr 1 0 a.enc 0x025
  | .healthRead d => Enc.cr 0 d.enc 0 0x880
  | .lnkRateWrite l a => Enc.cr 1 0 a.enc (Enc.link l 0)
  | .lnkTrapWrite l a => Enc.cr 1 0 a.enc (Enc.link l 9)
  | .lnkDegradeRead l d => Enc.cr 0 d.enc 0 (Enc.link l 5)
  | .trap c => { major := 0x1C, d := c }
  | .eret => { major := 0x1D, d := 0 }
  | .waiti => { major := 0x1E, d := 0 }
  | .sdrain => { major := 0x1F, d := 0 }
  | .sfqpop d => { major := 0x1F, d := d.enc, fn := 1 }
  | .tlbinv a b c => { major := 0x1F, d := 0, s1 := a.enc, s2 := b.enc, s3 := c.enc, fn := 2 }
  | .gkill a => { major := 0x1F, d := 0, s1 := a.enc, fn := 3 }
  | .ld z d a i => { Enc.imm 0x20 d a i with x := Enc.size z }
  | .ldu z d a i => { Enc.imm 0x21 d a i with x := Enc.size z }
  | .st z a b i => { Enc.br 0x22 a b i with x := Enc.size z }
  | .ldx z d a b => { Enc.r3 0x23 0 d a b with x := Enc.size z }
  | .stx z a b c => { major := 0x24, d := 0, s1 := a.enc, s2 := b.enc, s3 := c.enc, x := Enc.size z }
  | .vld d a i => Enc.imm 0x28 d a i
  | .vst a b i => Enc.br 0x29 a b i
  | .vlds w d a b mk => Enc.m3 0x2A 0 (Enc.width w) d a b mk
  | .vsts w a b c mk =>
    { major := 0x2B, d := 0, s1 := a.enc, s2 := b.enc, s3 := c.enc, x := Enc.width w, mf := Enc.mask mk }
  | .qbind d pq ps hi => { major := 0x30, d := d.enc, i16 := hi ++ (0 : BitVec 1) ++ ps ++ pq }
  | .qbindProd d pq ps hi => { major := 0x30, d := d.enc, i16 := hi ++ (1 : BitVec 1) ++ ps ++ pq }
  | .qstream w d a => { Enc.imm 0x31 d a 0 with x := Enc.streamW w }
  | .qstreamWr w d a => { Enc.imm 0x31 d a 1 with x := Enc.streamW w }
  | .qunbind d => { major := 0x32, d := d.enc }
  | .qstat d a => Enc.r2 0x32 1 d a
  | .qflush d => { major := 0x32, d := d.enc, fn := 2 }
  | .cpy a => { major := 0x34, d := 0, s1 := a.enc }
  | .cpyseal d => { major := 0x35, d := d.enc }
  | .cpywait a i => { major := 0x36, d := 0, s1 := a.enc, i16 := i }
  | .deal a b => { major := 0x37, d := 0, s1 := a.enc, s2 := b.enc }
  | .mon d a i => Enc.imm 0x38 d a i
  | .mwait d a i => Enc.imm 0x39 d a i
  | .mdisarm a => { major := 0x3A, d := 0, s1 := a.enc }
  | .mdisarmAll => { major := 0x3A, d := 0, x := 1 }
  | .amoAdd z d a b => { Enc.r3 0x3C 0 d a b with x := Enc.size z }
  | .amoAnd z d a b => { Enc.r3 0x3C 1 d a b with x := Enc.size z }
  | .amoOr z d a b => { Enc.r3 0x3C 2 d a b with x := Enc.size z }
  | .amoXor z d a b => { Enc.r3 0x3C 3 d a b with x := Enc.size z }
  | .amoMin z d a b => { Enc.r3 0x3C 4 d a b with x := Enc.size z }
  | .amoMax z d a b => { Enc.r3 0x3C 5 d a b with x := Enc.size z }
  | .amoMinu z d a b => { Enc.r3 0x3C 6 d a b with x := Enc.size z }
  | .amoMaxu z d a b => { Enc.r3 0x3C 7 d a b with x := Enc.size z }
  | .amoSwap z d a b => { Enc.r3 0x3C 8 d a b with x := Enc.size z }
  | .amoCas z d a b c => { Enc.r3 0x3C 9 d a b with x := Enc.size z, s3 := c.enc }
  | .amoFadd d a b => { Enc.r3 0x3C 10 d a b with x := 2 }
  | .amov op t d a b mk => Enc.m3 0x3D (Enc.amoOp op) (Enc.arith t) d a b mk
  | .ared t a b mk => { major := 0x3E, d := 0, s1 := a.enc, s2 := b.enc, x := Enc.arith t, mf := Enc.mask mk }
  | .fence c k eng xl =>
    { major := 0x3F, d := Enc.bit xl ++ Enc.bit eng ++ Enc.fenceKind k ++ Enc.scope c }
  | .chkpt => { major := 0x40, d := 0 }
  | .gbar id => { major := 0x41, d := 0, i16 := (0 : BitVec 8) ++ id }
  | .gbarArrive id => { major := 0x41, d := 0, x := 1, i16 := (0 : BitVec 8) ++ id }
  | .gbarWait id => { major := 0x41, d := 0, x := 2, i16 := (0 : BitVec 8) ++ id }
  | .send d a t n nk nw => { Enc.wide 0x44 d (Enc.sendImm t n nk nw) with s1 := a.enc }
  | .sendv d a b t n nk nw => { Enc.wide 0x45 d (Enc.sendImm t n nk nw) with s1 := a.enc, s2 := b.enc }
  | .sendg d a t n nk nw => { Enc.wide 0x46 d (Enc.sendImm t n nk nw) with s1 := a.enc }
  | .migrate a hi => { major := 0x47, d := 0, s1 := a.enc, i16 := hi ++ (0 : BitVec 1) }
  | .migrateNear a hi => { major := 0x47, d := 0, s1 := a.enc, i16 := hi ++ (1 : BitVec 1) }
  | .spawn d a b c => { Enc.r3 0x48 0 d a b with s3 := c.enc }
  | .tskts d => { major := 0x49, d := d.enc }
  | .gath t d a b mk => Enc.m3 0x4A ((0 : BitVec 5) ++ Enc.bit t) 0 d a b mk
  | .gathq t d a b c mk => { Enc.m3 0x4B ((0 : BitVec 5) ++ Enc.bit t) 0 d a b mk with s3 := c.enc }
  | .scat a b c mk => { major := 0x4C, d := 0, s1 := a.enc, s2 := b.enc, s3 := c.enc, mf := Enc.mask mk }
  | .scata i a b c mk =>
    { major := 0x4D, d := 0, s1 := a.enc, s2 := b.enc, s3 := c.enc, x := if i then 1 else 0, mf := Enc.mask mk }
  | .lmake d a b => Enc.r3 0x50 0 d a b
  | .lpar d a => Enc.r2 0x50 1 d a
  | .ldep d a => Enc.r2 0x50 2 d a
  | .lanc d a b => Enc.r3 0x50 3 d a b
  | .lrange d a => Enc.r2 0x50 4 d a
  | .lcmp d a b => Enc.r3 0x50 5 d a b
  | .lcanon d a => Enc.r2 0x50 6 d a
  | .lxlook d a => Enc.r2 0x50 7 d a
  | .lxinv a b => { major := 0x50, d := 0, s1 := a.enc, s2 := b.enc, fn := 8 }
  | .lxfill a b => { major := 0x50, d := 0, s1 := a.enc, s2 := b.enc, fn := 9 }
  | .lscan d a b c => { Enc.r3 0x50 10 d a b with s3 := c.enc }
  | .wacc a b mk => { major := 0x54, d := 0, s1 := a.enc, s2 := b.enc, mf := Enc.mask mk }
  | .waccMul a b c mk =>
    { major := 0x54, d := 0, s1 := a.enc, s2 := b.enc, s3 := c.enc, x := 1, mf := Enc.mask mk }
  | .waccWin a b => { major := 0x54, d := 0, s1 := a.enc, s2 := b.enc, x := 2 }
  | .waccS a b => { major := 0x54, d := 0, s1 := a.enc, s2 := b.enc, x := 3 }
  | .wrd r d a => { major := 0x55, d := d.enc, s1 := a.enc, x := Enc.rnd r }
  | .wclr a => { major := 0x56, d := 0, s1 := a.enc }
  | .vadd f d a b mk => Enc.m3 0x60 0 (Enc.flt f) d a b mk
  | .vsub f d a b mk => Enc.m3 0x60 1 (Enc.flt f) d a b mk
  | .vmul f d a b mk => Enc.m3 0x60 2 (Enc.flt f) d a b mk
  | .vfma f d a b c mk => { Enc.m3 0x60 3 (Enc.flt f) d a b mk with s3 := c.enc }
  | .vfms f d a b c mk => { Enc.m3 0x60 4 (Enc.flt f) d a b mk with s3 := c.enc }
  | .vmin f d a b mk => Enc.m3 0x60 5 (Enc.flt f) d a b mk
  | .vmax f d a b mk => Enc.m3 0x60 6 (Enc.flt f) d a b mk
  | .vabs f d a mk => Enc.m2 0x60 7 (Enc.flt f) d a mk
  | .vneg f d a mk => Enc.m2 0x60 8 (Enc.flt f) d a mk
  | .vdiv f d a b mk => Enc.m3 0x60 9 (Enc.flt f) d a b mk
  | .vrcp f d a mk => Enc.m2 0x60 10 (Enc.flt f) d a mk
  | .vrsq f d a mk => Enc.m2 0x60 11 (Enc.flt f) d a mk
  | .vsqrt f d a mk => Enc.m2 0x60 12 (Enc.flt f) d a mk
  | .vexp2 f d a mk => Enc.m2 0x60 13 (Enc.flt f) d a mk
  | .vlog2 f d a mk => Enc.m2 0x60 14 (Enc.flt f) d a mk
  | .vcmp f c d a b mk => { Enc.m3 0x60 15 (Enc.flt f) d a b mk with s3 := Enc.fcond c }
  | .vsel f d a b mk => Enc.m3 0x60 16 (Enc.flt f) d a b mk
  | .viadd w d a b mk => Enc.m3 0x61 0 (Enc.width w) d a b mk
  | .visub w d a b mk => Enc.m3 0x61 1 (Enc.width w) d a b mk
  | .vimul w d a b mk => Enc.m3 0x61 2 (Enc.width w) d a b mk
  | .vimin w d a b mk => Enc.m3 0x61 3 (Enc.width w) d a b mk
  | .vimax w d a b mk => Enc.m3 0x61 4 (Enc.width w) d a b mk
  | .viminu w d a b mk => Enc.m3 0x61 5 (Enc.width w) d a b mk
  | .vimaxu w d a b mk => Enc.m3 0x61 6 (Enc.width w) d a b mk
  | .vand w d a b mk => Enc.m3 0x61 7 (Enc.width w) d a b mk
  | .vor w d a b mk => Enc.m3 0x61 8 (Enc.width w) d a b mk
  | .vxor w d a b mk => Enc.m3 0x61 9 (Enc.width w) d a b mk
  | .vshl w d a b mk => Enc.m3 0x61 10 (Enc.width w) d a b mk
  | .vshr w d a b mk => Enc.m3 0x61 11 (Enc.width w) d a b mk
  | .vsra w d a b mk => Enc.m3 0x61 12 (Enc.width w) d a b mk
  | .vicmp w c d a b mk => { Enc.m3 0x61 13 (Enc.width w) d a b mk with s3 := Enc.icond c }
  | .vcvt dst src r sat d a mk =>
    { major := 0x62, d := d.enc, s1 := a.enc, s3 := (0 : BitVec 3) ++ Enc.cvt src,
      x := Enc.bit r.isNone ++ Enc.bit sat, fn := (match r with | some m => Enc.rnd m | none => 0) ++ Enc.cvt dst,
      mf := Enc.mask mk }
  | .vbcast w d a mk => Enc.m2 0x63 0 (Enc.width w) d a mk
  | .vextr w d a b => { Enc.r3 0x63 1 d a b with x := Enc.width w }
  | .vins w d a b => { Enc.r3 0x63 2 d a b with x := Enc.width w }
  | .vidx w d mk => { major := 0x63, d := d.enc, x := Enc.width w, fn := 3, mf := Enc.mask mk }
  | .vperm w d a b mk => Enc.m3 0x63 4 (Enc.width w) d a b mk
  | .vslide w d a b mk => Enc.m3 0x63 5 (Enc.width w) d a b mk
  | .vcomp w d a mk => Enc.m2 0x63 6 (Enc.width w) d a mk
  | .vexpnd w d a mk => Enc.m2 0x63 7 (Enc.width w) d a mk
  | .vmov w d a mk => Enc.m2 0x63 8 (Enc.width w) d a mk
  | .vred op t d a mk => Enc.m2 0x64 (Enc.redOp op) (Enc.arith t) d a mk
  | .vscan op t d a mk => Enc.m2 0x65 (Enc.redOp op) (Enc.arith t) d a mk
  | .mand d a b => Enc.r3 0x66 0 d a b
  | .mor d a b => Enc.r3 0x66 1 d a b
  | .mxor d a b => Enc.r3 0x66 2 d a b
  | .mnot d a => Enc.r2 0x66 3 d a
  | .mpop d a => Enc.r2 0x66 4 d a
  | .mfirst d a => Enc.r2 0x66 5 d a
  | .mset d a => Enc.r2 0x66 6 d a
  | .mget d a => Enc.r2 0x66 7 d a
  | .vrope d a b c => { Enc.r3 0x68 0 d a b with s3 := c.enc }
  | .vsmax d a b c => { Enc.r3 0x69 0 d a b with s3 := c.enc }
  | .kvscan d a => Enc.imm 0x6A d a 0
  | .posadd d a b => Enc.r3 0x6B 0 d a b
  | .vthrc f d a b c mk => { Enc.m3 0x6C 0 (Enc.flt f) d a b mk with s3 := c.enc }
  | .vargmx f d a => { Enc.r2 0x6D 0 d a with x := Enc.flt f }
  | .tkmerge d a b c => { Enc.r3 0x6E 0 d a b with s3 := c.enc }
  | .mma d a b c => { Enc.r3 0x70 0 d a b with s3 := c.enc }
  | .mmas d a b c => { Enc.r3 0x71 0 d a b with s3 := c.enc }
  | .spdec p d a b c => { Enc.r3 0x72 0 d a b with s3 := c.enc, x := Enc.spPat p }
  | .mmsync i => { major := 0x73, d := 0, i16 := i }
  | .mqstat d => { major := 0x74, d := d.enc }
  | .sigchk i => { major := 0x78, d := 0, i16 := i }
  | .messageArrival .. | .selection .. | .trigger .. | .launchStart .. | .tileSend .. | .tileReport ..
  | .preempt .. | .resume .. | .graphUpload .. | .uploadDone .. | .graphExit .. | .registerWrite .. | .hwinWrite ..
  | .hostRead .. | .hostWrite .. | .hostPeerAck .. | .gstatRead .. | .gdropRead .. | .gundlRead .. | .gescRead ..
  | .gkillsRead .. | .bootReady .. | .copyKick .. | .batchFinish .. | .shuttleBlock .. | .ownerRequest ..
  | .amoReply .. | .gbarArrival .. | .gbarRelease .. | .walkComplete .. | .invalidationComplete ..
  | .streamFetch .. | .gathqStrip .. | .matrixCommandStart .. | .matrixCommandComplete .. | .orderReport ..
  | .taskDispatch .. | .killDelivery .. | .killComplete .. | .quiesceRepair .. | .dualCompare .. | .retrainDone ..
  | .flitReceive .. | .linkWindowEnd .. | .peerUnreachable .. | .peerWrite .. | .preemptionComplete ..
  | .trigerrRead | .herrRead | .xdropRead | .attestReport | .powerUp | .powerLimit | .exitDone | .waitiWake
  | .mwaitTimeout | .serviceOverrun | .chunkInstructionLimit | .chunkCommit | .storeCheck | .trapEntry
  | .taskCommit | .gatherLanesDone | .contextRestore | .bootDownload | .attestRequest => { major := 0, d := 0 }

/-- The head and tails of an instruction. -/
def encode (i : Instr) : Enc := pack (encodeFields i)

/-! Lines (R54-R56). -/

/-- A line: its 32 halfword slots, slot 0 first. -/
abbrev Line := List Half

/-- The halfword in a slot. -/
def Line.slot (l : Line) (s : Nat) : Half := l.getD s 0

/-- H of a line (R54). -/
def Line.heads (l : Line) : Nat := (Line.slot l 0).toNat % 32

/-- The sum of the tail lengths of heads 1 to n. -/
def Line.tails (l : Line) : Nat → Nat
  | 0 => 0
  | n + 1 => Line.tails l n + (headTl (Line.slot l (n + 1))).toNat

/-- R56: the line is legal. A line of zeros, as the assembler leaves where it aligns, is not: entering it raises illegal-line (R71,
R75). -/
def Line.legal (l : Line) : Bool :=
  let hdr := (Line.slot l 0).toNat
  let h := hdr % 32
  let t := Line.tails l h
  h ≠ 0 && hdr / 32 == 0 && decide (h + t ≤ 31) &&
    (List.range (31 - t - h)).all (fun j => Line.slot l (h + 1 + j) == 0)

/-- Head n of a line with its tail group (R54): tail halfword j lies in slot 31 minus the tails before it, minus j − 1. -/
def Line.enc (l : Line) (n : Nat) : Enc :=
  let h := Line.slot l n
  let top := 31 - Line.tails l (n - 1)
  let tl := (headTl h).toNat
  { head := h
    t1 := if 1 ≤ tl then Line.slot l top else 0
    t2 := if 2 ≤ tl then Line.slot l (top - 1) else 0
    t3 := if 3 ≤ tl then Line.slot l (top - 2) else 0 }

/-- Whether execution from slot s goes on in the same line (R58). -/
def Line.last (l : Line) (s : Nat) : Bool := s == Line.heads l

/-- A line holding one instruction: H = 1, its head in slot 1 and its tails from slot 31 downward (R54). -/
def Line.single (e : Enc) : Line :=
  let tl := (headTl e.head).toNat
  [1, e.head] ++ List.replicate 27 0 ++
    [if 3 ≤ tl then e.t3 else 0, if 2 ≤ tl then e.t2 else 0, if 1 ≤ tl then e.t1 else 0]

/-- The bytes of a halfword, least significant first (R54). -/
def halfBytes (h : Half) : List Byte := [h.extractLsb' 0 8, h.extractLsb' 8 8]

/-- The bytes of a line. -/
def Line.bytes (l : Line) : List Byte := l.flatMap halfBytes

/-- The halfwords of bytes. -/
def halves : List Byte → List Half
  | a :: b :: r => (b ++ a) :: halves r
  | _ => []

/-- A word of spec/opcode_table.json: the head is its highest 16 bits and the tail halfwords follow downward; absent
halfwords are zero. -/
def tableEnc (nbits w : Nat) : Enc :=
  let half (k : Nat) : Half := if 16 * (k + 1) ≤ nbits then BitVec.ofNat 16 (w >>> (nbits - 16 * (k + 1))) else 0
  { head := half 0, t1 := half 1, t2 := half 2, t3 := half 3 }

/-- The instruction the decoder reads from a table word. -/
def decodeTableWord (nbits w : Nat) : Option Instr :=
  match decode (tableEnc nbits w) with
  | .ok i => some i
  | .error _ => none

end Sys2Proof
end

