-- ==== Sys2Proof/Machine/State.lean ====
section
/-! DEFINITION. The state of the module as plain data: every register, buffer, table and pending piece of work that
spec/ names (INVENTORY.md, State), and what a step may end in. Locations of storage are keys: a device-local or host
physical address is its own key, peer memory follows, and each core's TCM has a range of its own. -/

namespace Sys2Proof.Machine

/-- Why the machine stops. -/
inductive Fault where
  /-- Raised by an access of a system slot to configuration space outside the capacity map: the spec gives no layout for it
  (R174). Safe: the model stops where the hardware goes on. -/
  | configSpace
  deriving DecidableEq, Repr

/-- Why an instruction has no meaning here. -/
inductive Refusal where
  /-- Raised by an arm of `exec` whose meaning is not written. Safe. -/
  | notModelled (mnemonic : String)
  deriving DecidableEq, Repr

/-! Tables: lists of key and value, keys rising. -/

/-- Sparse data by a natural key. -/
abbrev Tab (α : Type) := List (Nat × α)

namespace Tab

variable {α : Type}

def find : Tab α → Nat → Option α
  | [], _ => none
  | (k, v) :: r, i => if k = i then some v else find r i

/-- The entry of a key, or a default. -/
def get (t : Tab α) (i : Nat) (d : α) : α := (find t i).getD d

def put : Tab α → Nat → α → Tab α
  | [], i, x => [(i, x)]
  | (k, v) :: r, i, x => if k = i then (i, x) :: r else if i < k then (i, x) :: (k, v) :: r else (k, v) :: put r i x

end Tab

/-! Messages. -/

/-- The side of an activation of a redundant node (R345). -/
inductive Side where
  | none | primary | mirror
  deriving DecidableEq, Repr

/-- The key of an ordered task (R297). -/
structure TaskKey where
  ts : W64
  spawner : CoreId
  seq : BitVec 48
  deriving DecidableEq, Repr

/-- The portable context of a migration (R289), with the class the activation left. -/
structure Portable where
  g : Vector W64 32
  v : List V512
  m : Vector W64 8
  pc : W64
  cls : Nat
  task : Option TaskKey
  deriving DecidableEq, Repr

/-- What every message and engine request carries of the activation it comes from (R20). -/
structure Stamp where
  src : CoreId
  lpri : BitVec 3
  group : BitVec 8
  asid : Asid
  lseq : BitVec 48
  node : BitVec 16
  tx : BitVec 16
  ty : BitVec 16
  tz : BitVec 16
  side : Side
  deriving DecidableEq, Repr

/-- What an owner core is asked to do (R220-R222, R219). A lane of a SCATA is its location, that location with no shadow
offset (R347), and its operand. -/
inductive OwnerOp where
  | amo (fn : AmoOp) (cas : Bool) (size : Nat) (b c : W64)
  | amov (fn : AmoOp) (t : Arith) (mask : W64) (v : V512)
  | scata (int : Bool) (lanes : List (Nat × Nat × BitVec 32))
  deriving DecidableEq, Repr

/-- A request to an owner core (R219-R222); of a SCATA, `tag` is its request's. -/
structure OwnerReq where
  tag : Nat
  owner : Nat
  key : Nat
  live : Nat
  op : OwnerOp
  core : Nat
  slot : Nat
  act : Nat
  stamp : Stamp
  pc : W64
  deriving DecidableEq, Repr

/-- An activation-class message (R19). `owner` is what one of type 0xFD asks of its owner core (R220). -/
structure Message where
  dst : CoreId
  typ : BitVec 8
  stamp : Stamp
  nackReq : Bool
  nack : Bool
  otype : BitVec 8
  cause : BitVec 4
  payload : List W64
  vec : Option V512
  portable : Option Portable
  task : Option TaskKey
  fromSlot : Nat
  owner : Option OwnerReq
  deriving DecidableEq, Repr

/-- A held message: SENDG is one, naming the group it goes to (R90). -/
structure Held where
  msg : Message
  group : Option (BitVec 8)
  deriving DecidableEq, Repr

/-! Queues. -/

/-- A stream pattern descriptor (R200). -/
structure Pattern where
  base : W64
  n0 : Nat
  n1 : Nat
  n2 : Nat
  st0 : BitVec 32
  st1 : BitVec 32
  st2 : BitVec 32
  w : Nat
  deriving DecidableEq, Repr

/-- What a fetch of a stream element or a strip found: where it lies, where its first n bytes and the rest lie when it
crosses pages, or a code of R215. -/
inductive Fetched where
  | ok (key : Nat)
  | two (key n key2 : Nat)
  | fail (code : Nat)
  deriving DecidableEq, Repr

/-- A strip of a gathered row or of a KV row: its address and its bytes (R217, R281). -/
structure Strip where
  va : W64
  len : Nat
  deriving DecidableEq, Repr

/-- What a queue register is bound to (R195). -/
inductive Binding where
  | unbound
  | consumer (slot : Nat) (q : Fin 16)
  | producer (slot : Nat) (q : Fin 16)
  | stream (wr : Bool) (p : Pattern) (pos : Nat)
  | labels (lo hi table : W64) (n pos : Nat)
  | rows (kv : Bool) (strips : List Strip)
  deriving DecidableEq, Repr

/-- A queue register (R62, R195). -/
structure Queue where
  bind : Binding
  entries : List V512
  count : Nat
  closed : Bool
  fetched : List Fetched
  deriving DecidableEq, Repr

/-- An unbound, empty queue. -/
def Queue.empty : Queue := { bind := .unbound, entries := [], count := 0, closed := false, fetched := [] }

/-! The registers of a slot. -/

/-- Everything of a slot that a squash restores (R231): the register files of R62 and the control registers of R96. `result`
is the model's own: what a wait of the instruction at that PC ended with (an AMO's old bytes, or none when it failed; MWAIT's
code), until that instruction writes its destination. -/
structure Regs where
  g : Vector W64 32
  v : Vector V512 32
  m : Vector W64 8
  k : Vector W64 8
  q : Vector Queue 16
  pc : W64
  fpst : W64
  fmta : W64
  fmtb : W64
  scla : W64
  sclb : W64
  mstat : W64
  mfr : W64
  mfrx : W64
  mdrop : W64
  gfault : W64
  shpat : W64
  cpydone : W64
  batch : W64
  tvec : W64
  tpc : W64
  tcause : W64
  tval : W64
  tstat : W64
  lxmiss : W64
  lxstat : W64
  sigcfg : W64
  sigacc : W64
  sfq : List V512
  held : List Held
  result : Option (W64 × Option V512)
  deriving DecidableEq, Repr

/-- The registers at the start of an activation, before the message's payload (R15). -/
def Regs.start : Regs :=
  { g := Vector.replicate 32 0
    v := Vector.replicate 32 0
    m := Vector.replicate 8 0
    k := Vector.replicate 8 0
    q := Vector.replicate 16 Queue.empty
    pc := 0
    fpst := 0
    fmta := 0
    fmtb := 0
    scla := 0
    sclb := 0
    mstat := 0
    mfr := 0
    mfrx := 0
    mdrop := 0
    gfault := 0
    shpat := 0
    cpydone := 0
    batch := 1
    tvec := 0
    tpc := 0
    tcause := 0
    tval := 0
    tstat := 0
    lxmiss := 0
    lxstat := 0
    sigcfg := 1
    sigacc := 0xFFFF
    sfq := []
    held := []
    result := none }

/-! Chunks. -/

/-- One address a store instruction writes. `key` is where it lies, `live` that place with no shadow offset (R347); `fail` is
a code of R215, 0 when the check passes. -/
structure Part where
  lane : Nat
  va : W64
  bytes : List Byte
  key : Option Nat
  live : Nat
  fail : Nat
  deriving DecidableEq, Repr

/-- An ARED waiting in the store buffer: the location of the 64 bytes, the arithmetic, the active lanes, the operand. -/
structure Ared where
  key : Nat
  t : Arith
  mask : W64
  v : V512
  deriving DecidableEq, Repr

/-- A store instruction in the store buffer, with the fields of its record (R320), or an ARED, in program order (R225). -/
structure Store where
  pc : W64
  src : Nat
  size : Nat
  wide : Nat
  parts : List Part
  adds : Option Ared
  checked : Bool
  deriving DecidableEq, Repr

/-- A heddle entry (R109) with the level widths LXFILL read (R117). -/
structure HedEntry where
  asid : Asid
  e0 : W64
  e1 : W64
  widths : List Nat
  deriving DecidableEq, Repr

/-- A broadcast removal (R126, R191): of heddle entries or of translations. -/
structure Removal where
  heddle : Bool
  asid : Asid
  lo : W64
  hi : W64
  deriving DecidableEq, Repr

/-- A copy descriptor as read (R203). -/
structure CopyDesc where
  src : W64
  dst : W64
  dcore : CoreId
  dkind : Bool
  arrv : Bool
  note : Bool
  typ : BitVec 8
  run : Nat
  n1 : Nat
  n2 : Nat
  sst1 : BitVec 32
  sst2 : BitVec 32
  dst1 : BitVec 32
  dst2 : BitVec 32
  deriving DecidableEq, Repr

/-- The work of an engine request. -/
inductive Work where
  | copy (d : CopyDesc)
  | deal (shpat src len : W64)
  | scata (int : Bool) (lanes : List (Nat × Nat × BitVec 32))
  deriving DecidableEq, Repr

/-- What leaves a slot when its chunk commits. -/
inductive Action where
  | send (h : Held)
  | request (w : Work) (pc : W64)
  | seal (n : BitVec 32)
  | owner (key live : Nat) (op : OwnerOp) (pc : W64)
  | kill (group : BitVec 8)
  | remove (r : Removal)
  | push (slot : Nat) (q mine : Fin 16) (x : V512)
  | close (slot : Nat) (q mine : Fin 16)
  | coreReg (r : BitVec 12) (x : W64)
  | arrive (group : BitVec 8)
  deriving DecidableEq, Repr

/-- A chunk: the registers at its start, its buffered stores, read lines and pending work (R226, R228), the executed
instructions, the squashes since its first execution and the order of that, the matrix commands its earlier attempts issued
(R251), those of the handler's chunk that followed it there, and the lines its last attempt read (R232). `fillLines` counts the
buffer lines its LXFILLs have taken (R228), and `region` says that it began after a CHKPT (R234). -/
structure Chunk where
  saved : Regs
  stores : List Store
  reads : List Nat
  fills : List HedEntry
  fillLines : Nat
  acts : List Action
  count : Nat
  squashes : Nat
  order : Nat
  issued : List Nat
  later : List Nat
  matched : Nat
  last : List Nat
  region : Bool
  deriving DecidableEq, Repr

/-- What a squashed chunk hands to its next attempt (R232, R251): squashes in a row, order of first execution (0 when the
next chunk is a new one), the numbers of the matrix commands issued by it and by the handler's chunk after it, the lines the
attempt read, and whether the chunk begins after a CHKPT (R234). -/
structure Attempt where
  squashes : Nat
  order : Nat
  issued : List Nat
  later : List Nat
  reads : List Nat
  region : Bool
  deriving DecidableEq, Repr

def Attempt.fresh : Attempt := { squashes := 0, order := 0, issued := [], later := [], reads := [], region := false }

/-! Activations and slots. -/

/-- How far an ordered task has come (R302, R303). -/
inductive TaskState where
  | speculative | finished | firm | committed
  deriving DecidableEq, Repr

structure TaskInfo where
  key : TaskKey
  typ : BitVec 8
  arg : W64
  state : TaskState
  deriving DecidableEq, Repr

/-- An activation (R14): its type, class and stamp, the message that triggered it and its place of arrival, restartability,
and the instructions it has executed; of one of type 0xFD, the request it works (R220). -/
structure Act where
  id : Nat
  typ : BitVec 8
  cls : Nat
  stamp : Stamp
  trigger : Message
  arrival : Nat
  restartable : Bool
  contained : Nat
  executed : Nat
  task : Option TaskInfo
  spurious : Bool
  nextCmd : Nat
  issuedMatrix : Bool
  owner : Option OwnerReq
  deriving DecidableEq, Repr

/-- What a slot waits for at an instruction that has begun (R213, R99, R322, R241, R221, R216). -/
inductive Wait where
  | mwait
  | waiti
  | drain
  | gbar (group : BitVec 8)
  | reply
  | gather
  deriving DecidableEq, Repr

/-- What follows a commit; after `chkpt` a chunk begins that a CHKPT has set apart (R234). -/
inductive After where
  | go
  | chkpt
  | wait (w : Wait)
  | enda (t : Bool)
  | eret
  | migrate (dst : CoreId) (pc : W64)
  deriving DecidableEq, Repr

inductive Phase where
  | run
  | commit (a : After)
  | wait (w : Wait)
  | halted (before : Option Wait)
  deriving DecidableEq, Repr

/-- A write to host or peer memory that has left and is not acknowledged (R236); `stream` marks a stream write. -/
structure ExtWrite where
  stream : Bool
  key : Nat
  bytes : List Byte
  deriving DecidableEq, Repr

/-- A barrier the slot has joined (R241). -/
structure Barrier where
  group : BitVec 8
  gen : Option (BitVec 32)
  released : Bool
  deriving DecidableEq, Repr

/-- An engine fault pending for a slot (R209), or a matrix fault; `order` counts their recording over the module (R325). -/
structure EngineFault where
  order : Nat
  tval : W64
  k0 : W64
  k1 : W64
  deriving DecidableEq, Repr

/-- A matrix fault pending for a slot (R263). -/
abbrev MatrixFault := EngineFault

/-- The line a slot executes from, and for each line its activation has fetched the commit up to which what it fetched stood
(R57, R59). -/
structure Fetch where
  line : Option W64
  slots : List Half
  seen : List (Nat × Nat)
  deriving DecidableEq, Repr

/-- A thread slot (R12). `acq`, `acqEng` and `acqOld` stand for the acquire FENCEs executed (R239): the matrix commands
numbered below `acq`, and with `acqEng` the strips and stream writes of the queues in `acqOld`, those bound at the last of
them, come before the next host or peer read, matrix operand read or gather lane. `under` are the matrix commands issued by a
squashed chunk that a trap came before when it was to execute again (R251), and `entered` the order of the fault whose trap entry
can still be undone (R316, R325). -/
structure Slot where
  regs : Regs
  act : Option Act
  phase : Phase
  chunk : Option Chunk
  ended : Option Chunk
  attempt : Attempt
  under : List Nat
  entered : Nat
  fetch : Fetch
  ext : List ExtWrite
  bars : List Barrier
  engine : List EngineFault
  matrix : List MatrixFault
  parked : Bool
  acq : Nat
  acqEng : Bool
  acqOld : List Nat
  deriving DecidableEq, Repr

/-- A free slot as it stands after reset (log 2). -/
def Slot.free : Slot :=
  { regs := Regs.start
    act := none
    phase := .run
    chunk := none
    ended := none
    attempt := Attempt.fresh
    under := []
    entered := 0
    fetch := { line := none, slots := [], seen := [] }
    ext := []
    bars := []
    engine := []
    matrix := []
    parked := false
    acq := 0
    acqEng := false
    acqOld := [] }

/-! Cores. -/

/-- The registers a core holds for each resident address space (R21, R35, R102). -/
structure SpaceRegs where
  vtbase : W64
  codebase : W64
  sktab : W64
  gmem : Vector W64 4
  deriving DecidableEq, Repr

def SpaceRegs.zero : SpaceRegs := { vtbase := 0, codebase := 0, sktab := 0, gmem := Vector.replicate 4 0 }

/-- A translation held in a TLB (R186): the page's base and size exponent, its frame and its leaf, and whether a soft error has
corrupted it (R188). -/
structure TlbEntry where
  corrupt : Bool
  asid : Asid
  page : Nat
  log2 : Nat
  leaf : W64
  deriving DecidableEq, Repr

/-- What a walk has found: nothing yet, a page, a code of R215, or an uncorrectable error in a table read at a location (R185). -/
inductive WalkResult where
  | pending
  | page (e : TlbEntry)
  | fail (code : Nat)
  | poison (key : Nat)
  deriving DecidableEq, Repr

/-- A walk asked for by a slot of the core (R188): its result when complete, and the ranges of its address space that removals have
named since it began, a page of which it does not fill (R191). -/
structure Walk where
  slot : Nat
  asid : Asid
  va : W64
  result : WalkResult
  removed : List (W64 × W64)
  deriving DecidableEq, Repr

/-- An armed watch entry (R212). -/
structure Watch where
  index : Nat
  slot : Nat
  line : Nat
  fired : Bool
  deriving DecidableEq, Repr

/-- A pending message of the inbox, or a parked one, with its place of arrival (R27); `byMask` marks one parked because its type
was masked (R28). -/
structure Pending where
  msg : Message
  arrival : Nat
  contained : Nat
  undeliv : Bool
  byMask : Bool
  deriving DecidableEq, Repr

/-- How often a candidate was passed over, and its boost (R31). -/
structure Passed where
  typ : BitVec 8
  asid : Asid
  count : Nat
  boost : Nat
  deriving DecidableEq, Repr

/-- A matrix command with the registers sampled at issue (R260, R270); `num` counts in its activation, `issue` over the module.
An acquire FENCE before it put the commands numbered below `after`, and with `afterEng` the engines, before its reads (R239). -/
structure MCmd where
  num : Nat
  issue : Nat
  core : Nat
  slot : Nat
  act : Nat
  stamp : Stamp
  pc : W64
  structured : Bool
  m : Nat
  n : Nat
  k : Nat
  fa : W64
  fb : W64
  sa : W64
  sb : W64
  target : W64
  a : W64
  b : W64
  terms : Nat
  pat : Nat
  nres : Nat
  after : Nat
  afterEng : Bool
  deriving DecidableEq, Repr

/-- A core's own state beside its slots. -/
structure Core where
  slots : Tab Slot
  inbox : List Pending
  spaces : Tab SpaceRegs
  gsel : W64
  rvtbase : W64
  mwgt : W64
  heddle : List HedEntry
  tlb : List TlbEntry
  walks : List Walk
  watches : List Watch
  lastType : BitVec 8
  lastAsid : Asid
  passed : List Passed
  spawnSeq : Tab (BitVec 48)
  mq : List MCmd
  consumed : Nat
  failing : Bool
  deriving DecidableEq, Repr

/-- A core after reset (log 2). -/
def Core.init : Core :=
  { slots := []
    inbox := []
    spaces := []
    gsel := 0
    rvtbase := 0
    mwgt := 1
    heddle := []
    tlb := []
    walks := []
    watches := []
    lastType := 0xFF
    lastAsid := 0xFFFF
    passed := []
    spawnSeq := []
    mq := []
    consumed := 0
    failing := false }

/-! Address spaces, groups and graphs. -/

/-- The barrier state of a group at its home (R34, R241): the cores that have arrived in the current generation and those
held for the next. -/
structure Home where
  gen : BitVec 32
  arrived : List Nat
  next : List Nat
  deriving DecidableEq, Repr

/-- A group table entry (R34), with the state of its mirror image (R345). -/
structure Group where
  members : List CoreId
  home : Nat
  own : Home
  mirror : Home
  deriving DecidableEq, Repr

/-- An address space: the root of its page tables and its group table, and what the image that made it carries and a later
upload into it must carry too (R34, R176, R177). -/
structure Space where
  root : Nat
  groups : Tab Group
  vtbase : Option W64
  codebase : W64
  sktab : W64
  vtypes : List VTypeDecl
  skeins : List SkeinDecl
  deriving DecidableEq, Repr

def Space.none : Space :=
  { root := 0, groups := [], vtbase := Option.none, codebase := 0, sktab := 0, vtypes := [], skeins := [] }

/-- An outstanding tile (R46): its place in its treadle's matcher, its node's index and its coordinates, whether its message has
gone, and, of a redundant node, which sides have completed it. -/
structure Tile where
  order : Nat
  node : Nat
  x : Nat
  y : Nat
  z : Nat
  sent : Bool
  mirrorDone : Bool
  primaryDone : Bool
  deriving DecidableEq, Repr

/-- How far a treadle has entered the tiles of its die: the node's place in the launch and the next tile of it (R46). -/
structure Cursor where
  node : Nat
  next : Nat
  deriving DecidableEq, Repr

/-- The run of a redundant node (R347, R348): whether it is the second, whether that too has disagreed, and each side's
written set, a live line with the line it lies in. -/
structure DualRun where
  node : Nat
  again : Bool
  mismatch : Bool
  primary : List (Nat × Nat)
  mirror : List (Nat × Nat)
  deriving DecidableEq, Repr

/-- A running launch (R43-R48): its sequence number, its patched records, each die's cursor, and the outstanding tiles. -/
structure Launch where
  seq : BitVec 48
  nodes : List NodeDecl
  cursors : Tab Cursor
  tiles : List Tile
  duals : List DualRun
  deriving DecidableEq, Repr

/-- A context written to its save record (R329). -/
structure Saved where
  core : Nat
  slot : Nat
  regs : Regs
  act : Act
  wait : Option Wait
  bars : List Barrier
  engine : List EngineFault
  matrix : List MatrixFault
  attempt : Attempt
  under : List Nat
  seen : List (Nat × Nat)
  acq : Nat
  acqEng : Bool
  acqOld : List Nat
  cmds : List MCmd
  watches : List Watch
  deriving DecidableEq, Repr

/-- Where a pre-emption of a graph stands (R328, R330). -/
inductive PreState where
  | none | stopping | stopped | resuming
  deriving DecidableEq, Repr

/-- A graph id (R37, R43-R45, R324, R349). `cmds` are the saved matrix commands of its activations that had ended (R272, R328). -/
structure Graph where
  resident : Bool
  exited : Bool
  asid : Asid
  name : BitVec 32
  prio : BitVec 3
  err : Nat
  queued : List W64
  done : BitVec 48
  next : BitVec 48
  running : Option Launch
  nodes : List NodeDecl
  redwins : List RedwinDecl
  marked : Bool
  pre : PreState
  saved : List Saved
  cmds : List MCmd
  exitDrop : Nat
  parkDrop : Nat
  undl : Nat
  lateEnd : Nat
  gsave : W64
  gesc : W64
  gescpc : W64
  ended : Nat
  dropped : Nat
  dstat : W64
  dsigp : W64
  dsigm : W64
  deriving DecidableEq, Repr

def Graph.absent : Graph :=
  { resident := false
    exited := false
    asid := 0
    name := 0
    prio := 0
    err := 0
    queued := []
    done := 0
    next := 1
    running := none
    nodes := []
    redwins := []
    marked := false
    pre := .none
    saved := []
    cmds := []
    exitDrop := 0
    parkDrop := 0
    undl := 0
    lateEnd := 0
    gsave := 0
    gesc := 0
    gescpc := 0
    ended := 0
    dropped := 0
    dstat := 0
    dsigp := 0
    dsigm := 0 }

/-! Engines. -/

/-- A request at a cluster's copy hart or shuttle, or a SCATA at its owners (R204, R211, R219): the slot, activation and
batch it belongs to, and how much of it is done. `tag` names it to its owners; `ahead` holds what a copy has read and not yet
written of a host or peer flit, which is read whole (R205); `flight` holds the blocks of a deal that have left and not arrived, with
the pieces read for each (R211, R235). -/
structure Request where
  tag : Nat
  work : Work
  core : Nat
  slot : Nat
  act : Nat
  stamp : Stamp
  pc : W64
  batch : BitVec 32
  progress : Nat
  ahead : List Byte
  flight : List (Nat × List (Nat × List Byte))
  stopped : Bool
  deriving DecidableEq, Repr

/-- A copy hart's one slot, of worker class (R12): the request whose kick its activation works, by tag. -/
structure HartSlot where
  kick : Option Nat
  deriving DecidableEq, Repr

/-- A sealed batch not yet finished (R207): the key of the batch word and whether a CPY of it set NOTE. -/
structure Batch where
  core : Nat
  slot : Nat
  act : Nat
  stamp : Stamp
  n : BitVec 32
  word : Nat
  note : Bool
  deriving DecidableEq, Repr

/-- The reply to an AMO or AMOV: the old bytes and the flags to raise, or nothing when the owner was ended (R221, R323). -/
structure Reply where
  core : Nat
  slot : Nat
  act : Nat
  old : Option (List Byte)
  flags : W64
  pc : W64
  deriving DecidableEq, Repr

/-- A barrier arrival or release in flight (R241). -/
structure Arrival where
  core : Nat
  slot : Nat
  act : Nat
  asid : Asid
  group : BitVec 8
  side : Side
  deriving DecidableEq, Repr

structure Release where
  core : Nat
  asid : Asid
  group : BitVec 8
  side : Side
  gen : BitVec 32
  deriving DecidableEq, Repr

/-- A broadcast removal in flight and the cores that have made it (R126, R191). -/
structure Broadcast where
  removal : Removal
  core : Nat
  slot : Nat
  act : Nat
  reached : List Nat
  deriving DecidableEq, Repr

/-- A kill in flight and the cores that have applied it (R327). -/
structure Kill where
  core : Nat
  slot : Nat
  asid : Asid
  group : BitVec 8
  side : Side
  reached : List Nat
  deriving DecidableEq, Repr

/-- An entry of a cluster's task queue or of a die's spill area (R297-R300). `parent` is the order number of the
uncommitted chunk whose tentative spawn it is. -/
structure TaskEntry where
  cluster : Nat
  spilled : Bool
  key : TaskKey
  typ : BitVec 8
  arg : W64
  stamp : Stamp
  parent : Option Nat
  running : Option (Nat × Nat)
  contained : Nat
  deriving DecidableEq, Repr

/-- The smallest keys an arbiter last reported, by address space (R298). -/
abbrev Report := Tab TaskKey

/-- A 32-byte flit of an operand as read (R258): the operand in the codes of R262, its address, where it lies, its bytes. -/
structure Flit where
  opnd : Nat
  va : Nat
  key : Nat
  bytes : List Byte
  deriving DecidableEq, Repr

/-- What a matrix command met (R262): the operand, the cause and the failing address. -/
structure CmdFault where
  opnd : Nat
  cause : Nat
  va : W64
  deriving DecidableEq, Repr

/-- A matrix command that has started, with its operand flits or the fault it met (R258, R261, R263). -/
structure Running where
  cmd : MCmd
  flits : List Flit
  fault : Option CmdFault
  deriving DecidableEq, Repr

/-- A matrix unit: the commands it has started, oldest first, and the arbiter's round (R252): the core of the octet it visits (8: it
idles), the commands the visit found, by their issue numbers, and the weights the round began with. -/
structure MUnit where
  running : List Running
  visit : Nat
  taken : List Nat
  weights : List Nat
  deriving DecidableEq, Repr

/-- A tile completion on its way to its treadle (R46). -/
structure TileDone where
  graph : Nat
  seq : BitVec 48
  node : Nat
  x : Nat
  y : Nat
  z : Nat
  side : Side
  deriving DecidableEq, Repr

/-! Links. -/

/-- A lane of a link: its module, direction and number. -/
structure Lane where
  mod : Nat
  dir : Bool
  lane : Nat
  deriving DecidableEq, Repr

/-- A die link (R350-R354); `training` once a retrain has begun (R351). -/
structure Link where
  rate : W64
  budget : W64
  lanesel : W64
  trap : W64
  replay : W64
  crcerr : W64
  flits : W64
  log : List W64
  lanes : List (Lane × Nat)
  retired : List (Lane × Nat)
  window : List (Lane × Nat)
  winReplay : Nat
  winFlits : Nat
  down : Bool
  training : Bool
  seqA : Nat
  seqB : Nat
  deriving DecidableEq, Repr

def Link.init : Link :=
  { rate := 0x22
    budget := 0x1E0010
    lanesel := 0
    trap := 0
    replay := 0
    crcerr := 0
    flits := 0
    log := []
    lanes := []
    retired := []
    window := []
    winReplay := 0
    winFlits := 0
    down := false
    training := false
    seqA := 0
    seqB := 0 }

/-- A peer port (R355). -/
structure Port where
  replay : W64
  crcerr : W64
  flits : W64
  dropped : W64
  seqA : Nat
  seqB : Nat
  deriving DecidableEq, Repr

def Port.init : Port := { replay := 0, crcerr := 0, flits := 0, dropped := 0, seqA := 0, seqB := 0 }

/-! Repair. -/

/-- The capacity the module reports (R193, R335-R340), the spare rows used (R333), the corrected errors of rows, and the rows
scheduled for remapping, those that found no spare among them (R334). -/
structure Capacity where
  gen : BitVec 32
  lostCores : List Nat
  spares : Tab Nat
  lostBankCores : List Nat
  lostBanks : List (Nat × Nat)
  sramQ : Tab Nat
  lostChannels : List (Nat × Nat)
  rowSpares : List (Bank × Nat)
  sramRows : List (Row × Nat)
  scheduled : List Row
  noSpare : List Row
  channelRows : List (Nat × Nat)
  deriving DecidableEq, Repr

def Capacity.full : Capacity :=
  { gen := 0
    lostCores := []
    spares := []
    lostBankCores := []
    lostBanks := []
    sramQ := []
    lostChannels := []
    rowSpares := []
    sramRows := []
    scheduled := []
    noSpare := []
    channelRows := [] }

/-- The hub die (R41, R338, R356-R365). -/
structure Hub where
  trigErr : Bool
  busy : Option W64
  result : Nat
  graph : Nat
  asid : Asid
  name : BitVec 32
  xdrop : Nat
  hwin : Vector W64 16
  herr : Nat
  hint : Vector W64 4
  bootState : Nat
  recRej : Bool
  staging : List Host.Cell
  imageHash : BitVec 256
  imageVersion : BitVec 32
  attPub : BitVec 512
  nonce : BitVec 256
  attest : Option (BitVec 256)
  report : List Byte
  health : W64
  repairLog : List RepairEvent
  deriving DecidableEq, Repr

/-- The hub after reset; SPARES = 256 (log 10), LOG2 = 12 in every window (R356). ATTPUB reads zero until POWER_UP (log 123). -/
def Hub.init : Hub :=
  { trigErr := false
    busy := none
    result := 0
    graph := 0
    asid := 0
    name := 0
    xdrop := 0
    hwin := Vector.replicate 16 0x30
    herr := 0
    hint := Vector.replicate 4 0
    bootState := 0
    recRej := false
    staging := []
    imageHash := 0
    imageVersion := 0
    attPub := 0
    nonce := 0
    attest := none
    report := []
    health := 0x10000000000
    repairLog := [] }

/-! The machine. -/

/-- The instruction being executed: its slot, its head and tails, its line and the head that follows it (R82). -/
structure Cur where
  core : Nat
  slot : Nat
  enc : Enc
  line : W64
  next : W64
  deriving DecidableEq, Repr

/-- The whole module, its host and peer memory, and the model's own bookkeeping: whose turn is next, the instruction being
executed, the counter of free values, what the last host read returned, and counters that name things. `lastExit` names the graph
of an address space that exited last, until its id is assigned again (R50); `history` holds, for each line committed writes have
changed, what stood there before each of them (R59). -/
structure State where
  mem : List Host.Cell
  bad : List Nat
  soft : List Nat
  cores : Tab Core
  graphs : Tab Graph
  lastExit : Tab Nat
  spaces : Tab Space
  net : List Message
  history : Tab (List (Nat × List Half))
  parked : Tab (List Pending)
  parkPlaces : Tab Nat
  l2 : Tab (List TlbEntry)
  requests : List Request
  batches : List Batch
  harts : Tab HartSlot
  replies : List Reply
  arrivals : List Arrival
  releases : List Release
  broadcasts : List Broadcast
  kills : List Kill
  tasks : List TaskEntry
  reports : Tab Report
  munits : Tab MUnit
  tileDone : List TileDone
  links : Tab Link
  ports : Tab Port
  unreachable : List Nat
  capacity : Capacity
  hub : Hub
  clock : Nat
  agenda : List Turn
  cur : Cur
  fresh : Nat
  hostRead : List Byte
  stamp : Nat
  deriving DecidableEq, Repr

/-- The module at power-on, before the step POWER_UP (R361): every register at the value the spec gives for reset, or at
the one the assumption log names. -/
def State.reset : State :=
  { mem := []
    bad := []
    soft := []
    cores := []
    graphs := []
    lastExit := []
    spaces := []
    net := []
    history := []
    parked := []
    parkPlaces := []
    l2 := []
    requests := []
    batches := []
    harts := []
    replies := []
    arrivals := []
    releases := []
    broadcasts := []
    kills := []
    tasks := []
    reports := []
    munits := []
    tileDone := []
    links := []
    ports := []
    unreachable := []
    capacity := Capacity.full
    hub := Hub.init
    clock := 2000
    agenda := []
    cur := { core := 0, slot := 0, enc := { head := 0, t1 := 0, t2 := 0, t3 := 0 }, line := 0, next := 0 }
    fresh := 0
    hostRead := []
    stamp := 1 }

end Sys2Proof.Machine
end

