-- ==== Sys2Proof/Machine/Storage.lean ====
section
/-! DEFINITION. Core identifiers, locations of storage, and bytes: where an address lies, what holds nothing, and reading
and writing bytes little-endian (00_scope R1, 02 R17, 09 R170-R175, R193). -/

namespace Sys2Proof.Machine

/-! Core identifiers (R17). -/

namespace Id

/-- KIND of an identifier: 0 compute core, 1 bank core, 2 copy hart, 3 reserved. -/
def kind (c : Nat) : Nat := c / 16384 % 4

def isCompute (c : Nat) : Bool := kind c == 0 && c / 64 % 2 == 0 && decide (c < 65536)
def isBank (c : Nat) : Bool := kind c == 1 && c / 32 % 64 == 0 && decide (c < 65536)

/-- The identifier of compute core die.cluster.core. -/
def compute (die cluster core : Nat) : Nat := die * 4096 + cluster * 128 + core

/-- The identifier of bank core bstack.index. -/
def bank (stack index : Nat) : Nat := 16384 + stack * 2048 + index

/-- The identifier of copy hart hdie.cluster. -/
def hart (die cluster : Nat) : Nat := 32768 + die * 4096 + cluster * 128

/-- The treadles as a sender (R17). -/
def treadle : CoreId := 0x3FFF

def stack (c : Nat) : Nat := c / 2048 % 8

/-- The compute die of a core: a bank core belongs to the die that owns its stack (R37, R186). -/
def die (c : Nat) : Nat := if kind c = 1 then stack c / 2 else c / 4096 % 4

/-- The cluster within its die; a bank core bs.p kicks the copy hart of cluster p (R204). -/
def cluster (c : Nat) : Nat := if kind c = 1 then c % 32 else c / 128 % 32

def index (c : Nat) : Nat := if kind c = 1 then c % 32 else c % 64

/-- The cluster numbered die × 32 + cluster. -/
def clusterNo (c : Nat) : Nat := die c * 32 + cluster c

/-- The bit of a core in a member set (R34). -/
def rank (c : Nat) : Nat :=
  if kind c = 1 then 8192 + stack c * 32 + index c else die c * 2048 + cluster c * 64 + index c

/-- The same cluster and core on the next die (R345). -/
def mirrorOf (c : Nat) : Nat := c + 4096

end Id

/-- A compute or bank core that the module provides (R336). -/
def State.provided (s : State) (c : Nat) : Bool :=
  (Id.isCompute c && !s.capacity.lostCores.contains c) || (Id.isBank c && !s.capacity.lostBankCores.contains c)

/-- The class of a slot (R12): 0 worker, 1 service, 2 system. -/
def slotClass (slot : Nat) : Nat := if slot ≤ 4 then 0 else if slot ≤ 6 then 1 else 2

/-! Locations. -/

/-- Bytes of own TCM: 24 KiB on a compute core, 64 KiB on a bank core, none on a copy hart (R170). -/
def tcmSize (c : Nat) : Nat := if Id.kind c = 0 then 0x6000 else if Id.kind c = 1 then 0x10000 else 0

/-- The key of a byte of a core's TCM. -/
def tcmKey (c off : Nat) : Nat := 2 ^ 61 + c * 65536 + off

/-- The key of a byte of peer memory (R184). -/
def peerKey (peer pa : Nat) : Nat := 2 ^ 48 * (1 + peer) + pa

/-- A location lies in a peer's memory. -/
def ofPeer (peer k : Nat) : Bool := decide (2 ^ 48 * (1 + peer) ≤ k) && decide (k < 2 ^ 48 * (2 + peer))

/-- A location lies in the memory of a peer that has been marked unreachable (R355). -/
def State.peerGone (s : State) (k : Nat) : Bool := s.unreachable.any (fun p => ofPeer p k)

/-- Writes to a peer that are dropped are counted at its port (R355); which port serves a peer is not given (log 4). -/
def State.loseWrites (s : State) (peer n : Nat) : State :=
  let p := Config.portOf peer % 12
  let x := s.ports.get p Port.init
  { s with ports := s.ports.put p { x with dropped := x.dropped + BitVec.ofNat 64 n } }

/-- The key of a byte of host memory, its device physical address (R358). -/
def hostKey (h : Nat) : Nat := 2 ^ 47 + h

/-- Host or peer memory: outside chunks (R236). -/
def isExt (k : Nat) : Bool := decide (2 ^ 47 ≤ k) && decide (k < 2 ^ 61)

def isTcm (k : Nat) : Bool := decide (2 ^ 61 ≤ k)

def lineOf (k : Nat) : Nat := k / 64

def hbmEnd : Nat := 2 ^ 39
def sramBase : Nat := 0x10000000000
def scratchBase : Nat := 0x20000000000
def configBase : Nat := 0x30000000000

def isHbm (k : Nat) : Bool := decide (k < hbmEnd)
def hbmStack (k : Nat) : Nat := k / 2 ^ 36
/-- The pseudo-channel of a frame: stack offset [17:12] (R173). -/
def hbmChannel (k : Nat) : Nat := k / 4096 % 64
/-- The pseudo-channel pair, offset [17:13] (R173). -/
def hbmPair (k : Nat) : Nat := k / 8192 % 32

def isSram (k : Nat) : Bool := decide (sramBase ≤ k) && decide (k < sramBase + 0x20000000)
def sramDie (k : Nat) : Nat := (k - sramBase) / 0x8000000
def sramOff (k : Nat) : Nat := (k - sramBase) % 0x8000000

def isScratch (k : Nat) : Bool := decide (scratchBase ≤ k) && decide (k < scratchBase + 0x20000000)
def scratchCluster (k : Nat) : Nat := (k - scratchBase) / 0x400000
def scratchOff (k : Nat) : Nat := (k - scratchBase) % 0x400000
/-- The physical address of a byte of a cluster's scratchpad. -/
def scratchKey (cluster off : Nat) : Nat := scratchBase + 0x400000 * cluster + off

/-- The physical address of the capacity map, a page of configuration space (R340). -/
def capmapBase : Nat := configBase + Config.capmapOffset % (2 ^ 20 - 1) * 4096

def isConfig (k : Nat) : Bool := decide (configBase ≤ k) && decide (k < configBase + 0x100000000)

/-- How many banks of a cluster's scratchpad serve (R193). -/
def State.scratchBanks (s : State) (cluster : Nat) : Nat :=
  64 - (s.capacity.lostBanks.filter (fun b => b.1 == cluster)).length

/-- Those banks, ascending: over them the cluster's window is interleaved (R193). -/
def State.servingBanks (s : State) (cluster : Nat) : List Nat :=
  (List.range 64).filter (fun b => !s.capacity.lostBanks.contains (cluster, b))

/-- The bank and the row a location of SRAM lies in: word w of a scratchpad in the (w mod nb)-th serving bank, at row w div nb
(R171, R193); elsewhere the layout is not given (log 7). -/
def State.rowOf (s : State) (k : Nat) : Option Row :=
  if isTcm k then
    some { bank := .tcm ((k - 2 ^ 61) / 65536) ((k - 2 ^ 61) % 65536 / 32768), row := Config.rowIn k }
  else if isSram k then
    some { bank := .sram (sramDie k) (sramOff k / 4096 % 64) (Config.bankIn k % 40), row := Config.rowIn k }
  else if isScratch k then
    let l := s.servingBanks (scratchCluster k)
    let w := scratchOff k / 4
    (l[w % l.length]?).map (fun b => { bank := .scratch (scratchCluster k) b, row := w / l.length })
  else none

/-- Banks counted per shared-SRAM slice of a die, q of R193. -/
def State.sramQ (s : State) (die : Nat) : Nat := s.capacity.sramQ.get die 40

/-- Whether a location holds storage within the reported capacity (R175): not unpopulated, not beyond a window's capacity,
not on a retired pseudo-channel. Configuration space counts as present here. -/
def State.populated (s : State) (k : Nat) : Bool :=
  if isTcm k then true
  else if isExt k then true
  else if isHbm k then !s.capacity.lostChannels.contains (hbmStack k, hbmChannel k)
  else if isSram k then decide (sramOff k < 64 * s.sramQ (sramDie k) * 32768)
  else if isScratch k then decide (scratchOff k < s.scratchBanks (scratchCluster k) * 32768)
  else isConfig k

/-- Commit domain of a line (R229): 0 to 127 a cluster's scratchpad, 128 + d the shared SRAM and stacks of die d, 200 a TCM
port, 201 none. -/
def domainOf (k : Nat) : Nat :=
  if isTcm k then 200
  else if isHbm k then 128 + hbmStack k / 2
  else if isSram k then 128 + sramDie k
  else if isScratch k then scratchCluster k
  else 201

/-- The compute die a location lies in, or whose stack it lies in. -/
def dieOf (k : Nat) : Option Nat :=
  if isTcm k then some (Id.die ((k - 2 ^ 61) / 65536))
  else if isHbm k then some (hbmStack k / 2)
  else if isSram k then some (sramDie k)
  else if isScratch k then some (scratchCluster k / 32)
  else none

/-- The hub link of a core's die is retired: the die is without host, peer and treadle traffic (R354). -/
def State.hubCut (s : State) (c : Nat) : Bool := (s.links.get (14 + Id.die c) Link.init).down

/-- So is the die a location lies in: no host or peer access reaches it (R354, log 107). -/
def State.hubCutAt (s : State) (k : Nat) : Bool := (dieOf k).any (fun d => s.hubCut (Id.compute d 0 0))

/-! Bytes. -/

/-- What a byte no list entry names reads as (log 1). -/
def blank : Byte := 0

namespace Memory

/-- The byte at a location. -/
def read : List Host.Cell → Nat → Byte
  | [], _ => blank
  | (k, b) :: r, i => if k = i then b else if i < k then blank else read r i

/-- Writes a byte, keeping the list strictly rising and free of blank bytes. -/
def write : List Host.Cell → Nat → Byte → List Host.Cell
  | [], i, x => if x = blank then [] else [(i, x)]
  | (k, b) :: r, i, x =>
    if k = i then (if x = blank then r else (i, x) :: r)
    else if i < k then (if x = blank then (k, b) :: r else (i, x) :: (k, b) :: r)
    else (k, b) :: write r i x

/-- The canonical form: addresses strictly rising, no byte equal to what an unlisted address reads as. -/
def wf : List Host.Cell → Bool
  | [] => true
  | [(_, b)] => b != blank
  | (k, b) :: (k', b') :: r => b != blank && decide (k < k') && wf ((k', b') :: r)

/-- Writes bytes at rising locations. -/
def writeAll (m : List Host.Cell) (k : Nat) : List Byte → List Host.Cell
  | [] => m
  | b :: r => writeAll (write m k b) (k + 1) r

/-- n bytes from a location. -/
def readN (m : List Host.Cell) (k : Nat) : Nat → List Byte
  | 0 => []
  | n + 1 => read m k :: readN m (k + 1) n

end Memory

/-- The number in bytes, least significant first (R1). -/
def bytesNat : List Byte → Nat
  | [] => 0
  | b :: r => b.toNat + 256 * bytesNat r

/-- n bytes of a number, least significant first (R1). -/
def natBytes (x : Nat) : Nat → List Byte
  | 0 => []
  | n + 1 => BitVec.ofNat 8 x :: natBytes (x / 256) n

/-- Bytes as a value of w bits, zero-extended. -/
def bytesBv (w : Nat) (l : List Byte) : BitVec w := BitVec.ofNat w (bytesNat l)

/-- n bytes of a value. -/
def bvBytes {w : Nat} (x : BitVec w) (n : Nat) : List Byte := natBytes x.toNat n

/-- Zeros a location's range. -/
def Memory.zero (m : List Host.Cell) (k n : Nat) : List Host.Cell := Memory.writeAll m k (List.replicate n 0)

/-! Fields of registers. -/

/-- Bits [lo + n − 1 : lo] as a number. -/
def fld (x : W64) (lo n : Nat) : Nat := x.toNat / 2 ^ lo % 2 ^ n

/-- Bits [lo + n − 1 : lo] replaced. -/
def setFld (x : W64) (lo n v : Nat) : W64 :=
  BitVec.ofNat 64 (x.toNat - fld x lo n * 2 ^ lo + v % 2 ^ n * 2 ^ lo)

/-- Bit i. -/
def bit (x : W64) (i : Nat) : Bool := x.getLsbD i

/-- A number that stops at a limit. -/
def satAdd (x y lim : Nat) : Nat := if x + y ≤ lim then x + y else lim

/-- The size in bytes of a size code (R73). -/
def sizeBytes : Size → Nat
  | .s1 => 1
  | .s2 => 2
  | .s4 => 4
  | .s8 => 8

def sizeCode : Size → Nat
  | .s1 => 0
  | .s2 => 1
  | .s4 => 2
  | .s8 => 3

/-- Lane width in bits of a width code (R73). -/
def widthBits : Width → Nat
  | .w32 => 32
  | .w16 => 16
  | .w8 => 8

end Sys2Proof.Machine
end

