-- ==== Sys2Proof/Machine/Ops.lean ====
section
/-! DEFINITION. The named operations over the state: cores, slots and registers; completing an instruction; ending an
activation; taking a trap and returning from one (18_traps_and_preemption R316, R323; 04 R98); containment (11 R243). -/

namespace Sys2Proof.Machine

/-! Cores and slots. -/

def State.core (s : State) (c : Nat) : Core := s.cores.get c Core.init

def State.setCore (s : State) (c : Nat) (k : Core) : State := { s with cores := s.cores.put c k }

def Core.slot (k : Core) (i : Nat) : Slot := k.slots.get i Slot.free

def Core.setSlot (k : Core) (i : Nat) (x : Slot) : Core := { k with slots := k.slots.put i x }

def State.slot (s : State) (c i : Nat) : Slot := (s.core c).slot i

def State.setSlot (s : State) (c i : Nat) (x : Slot) : State := s.setCore c ((s.core c).setSlot i x)

def State.modSlot (s : State) (c i : Nat) (f : Slot → Slot) : State := s.setSlot c i (f (s.slot c i))

def State.modCore (s : State) (c : Nat) (f : Core → Core) : State := s.setCore c (f (s.core c))

/-- The core of the instruction being executed. -/
def State.myCore (s : State) : Core := s.core s.cur.core

/-- The slot of the instruction being executed. -/
def State.me (s : State) : Slot := s.slot s.cur.core s.cur.slot

def State.setMe (s : State) (x : Slot) : State := s.setSlot s.cur.core s.cur.slot x

def State.modMe (s : State) (f : Slot → Slot) : State := s.setMe (f s.me)

/-- The registers of the slot being executed. -/
def State.regs (s : State) : Regs := s.me.regs

def State.setRegs (s : State) (r : Regs) : State := s.setMe { s.me with regs := r }

def State.modRegs (s : State) (f : Regs → Regs) : State := s.setRegs (f s.regs)

/-- Scalar register gn; g0 reads zero (R62). -/
def Regs.readG (r : Regs) (n : Fin 32) : W64 := if n = 0 then 0 else r.g[n]

/-- Writes gn; a write to g0 is discarded (R62). -/
def Regs.writeG (r : Regs) (n : Fin 32) (x : W64) : Regs := if n = 0 then r else { r with g := r.g.set n x }

def Regs.readV (r : Regs) (n : Fin 32) : V512 := r.v[n]
def Regs.writeV (r : Regs) (n : Fin 32) (x : V512) : Regs := { r with v := r.v.set n x }

/-- Mask register mn; m0 reads all ones (R62). -/
def Regs.readM (r : Regs) (n : Fin 8) : W64 := if n = 0 then BitVec.allOnes 64 else r.m[n]

/-- Writes mn; a write to m0 is discarded (R62). -/
def Regs.writeM (r : Regs) (n : Fin 8) (x : W64) : Regs := if n = 0 then r else { r with m := r.m.set n x }

def Regs.writeK (r : Regs) (n : Fin 8) (x : W64) : Regs := { r with k := r.k.set n x }
def Regs.writeQ (r : Regs) (n : Fin 16) (x : Queue) : Regs := { r with q := r.q.set n x }

/-- TSTAT.IN (R314). -/
def Regs.inHandler (r : Regs) : Bool := bit r.tstat 0

/-- A stamp of no activation, for work that carries none. -/
def Stamp.none (src : CoreId) (asid : Asid) : Stamp :=
  { src := src, lpri := 0, group := 0, asid := asid, lseq := 0, node := 0, tx := 0, ty := 0, tz := 0, side := .none }

/-- A plain message. -/
def Message.plain (dst : CoreId) (typ : BitVec 8) (st : Stamp) (payload : List W64) : Message :=
  { dst := dst, typ := typ, stamp := st, nackReq := false, nack := false, otype := 0, cause := 0, payload := payload,
    vec := Option.none, portable := Option.none, task := Option.none, fromSlot := 8, owner := Option.none }

/-- The address space of a slot's activation; the runtime's, ASID 0, where it holds none. -/
def Slot.asid (x : Slot) : Asid :=
  match x.act with
  | some a => a.stamp.asid
  | none => 0

def State.space (s : State) (a : Asid) : Space := s.spaces.get a.toNat Space.none

/-- Where the vector table of an address space lies on a core: the place its image names, or R21's own. -/
def tablePlace (vtbase : Option W64) (c : Nat) : Nat :=
  match vtbase with
  | some v => fld v 11 5 * 2048
  | none => if Id.kind c = 1 then 0xF000 else 0x5000

/-- The values the runtime writes into a core's copies (R21, R102), in the fields those registers have. -/
def SpaceRegs.of (vtbase : Option W64) (codebase sktab : W64) (gmem : Vector W64 4) (c : Nat) : SpaceRegs :=
  { vtbase := BitVec.ofNat 64 (tablePlace vtbase c), codebase := codebase &&& 0x01FFFFFFFFFFFFC0,
    sktab := sktab &&& 0x01FFFFFFFFFFFFF1, gmem := gmem }

/-- A core's copies of an address space's registers (R21, R22, R102). A core that no image names, which an activation of a
resident space reaches by MIGRATE, holds all of them as the runtime writes them elsewhere; it is a member of no group (log 69). -/
def State.spaceRegs (s : State) (c : Nat) (a : Asid) : SpaceRegs :=
  match (s.core c).spaces.find a.toNat with
  | some r => r
  | none =>
    match s.spaces.find a.toNat with
    | some p => SpaceRegs.of p.vtbase p.codebase p.sktab (Vector.replicate 4 0) c
    | none => SpaceRegs.zero

def State.graph (s : State) (g : Nat) : Graph := s.graphs.get g Graph.absent
def State.setGraph (s : State) (g : Nat) (x : Graph) : State := { s with graphs := s.graphs.put g x }
def State.modGraph (s : State) (g : Nat) (f : Graph → Graph) : State := s.setGraph g (f (s.graph g))

/-- The resident graphs of an address space, lowest id first (R177). -/
def State.graphsOf (s : State) (a : Asid) : List Nat :=
  (s.graphs.filter (fun p => p.2.resident && p.2.asid == a)).map (·.1)

/-- The graph that counts drops of an address space while one is resident: the lowest-numbered (R50, R177). -/
def State.lowGraph (s : State) (a : Asid) : Option Nat := (s.graphsOf a).head?

/-- A graph of an address space is pre-empted or on its way in or out (R177, R328). -/
def State.preempted (s : State) (a : Asid) : Bool := (s.graphsOf a).any (fun g => (s.graph g).pre != .none)

/-- A pre-emption of the address space is in progress. -/
def State.halting (s : State) (a : Asid) : Bool := (s.graphsOf a).any (fun g => (s.graph g).pre == .stopping)

/-- An address space is being pre-empted or is (R328): its work has not returned. -/
def State.isPreempted (s : State) (a : Asid) : Bool :=
  (s.graphsOf a).any (fun g => (s.graph g).pre == .stopping || (s.graph g).pre == .stopped)

/-- Messages of an address space are parked at a core: it is pre-empted, or resumes and a context of the core is still saved
(R50, R330). -/
def State.preemptedAt (s : State) (a : Asid) (c : Nat) : Bool :=
  (s.graphsOf a).any (fun g =>
    let y := s.graph g
    y.pre == .stopping || y.pre == .stopped || (y.pre == .resuming && y.saved.any (fun v => v.core == c)))

/-- The graph of an address space whose node table holds a node index (R177: a tile identity names one node of one graph). -/
def State.graphOfNode (s : State) (a : Asid) (node : Nat) : Option Nat :=
  (s.graphsOf a).find? (fun g => (s.graph g).nodes.any (fun n => (n.words.getD 0 0).toNat % 65536 == node))

/-- The clusters where one of some nodes lists a core: the windows of their graph exist there (R224). A bank core lies in no cluster
(R17). -/
def nodeClusters (l : List NodeDecl) : List Nat :=
  ((l.flatMap (·.cores)).filter (fun c => Id.isCompute c.toNat)).foldl (fun a c =>
    let k := Id.clusterNo c.toNat
    if a.contains k then a else k :: a) []

def Graph.clusters (g : Graph) : List Nat := nodeClusters g.nodes

def State.group (s : State) (a : Asid) (g : BitVec 8) : Option Group := (s.space a).groups.find g.toNat

/-- The graph an activation belongs to: that of its tile, or the lowest of its address space (R177). -/
def State.graphOfStamp (s : State) (st : Stamp) : Option Nat :=
  match s.graphOfNode st.asid st.node.toNat with
  | some g => some g
  | none => s.lowGraph st.asid

/-! The host's interrupts (R360). -/

/-- Sends interrupt n: a 4-byte write of the interrupt number to the host address of HINTn, if enabled; host addresses lie
below 2^47 (R358). -/
def State.interrupt (s : State) (n : Fin 4) : State :=
  let h := s.hub.hint[n]
  if bit h 0 && fld h 47 1 == 0 then { s with mem := Memory.writeAll s.mem (hostKey (fld h 2 45 * 4)) (natBytes n.val 4) }
  else s

/-- A HEALTH event of R339. -/
def State.healthEvent (s : State) (kind : Nat) (what : Repaired) : State :=
  let h := s.hub.health
  let h := setFld (setFld (setFld (setFld h 0 1 1) 1 1 1) 8 8 kind) 16 16 (satAdd (fld h 16 16) 1 65535)
  { s with hub := { s.hub with health := h, repairLog := s.hub.repairLog ++ [RepairEvent.mk kind what] } }.interrupt 0

/-! Completing an instruction. -/

namespace Sig

/-- One CRC-16 step (R341). -/
def feed (acc : BitVec 16) (b : Bool) : BitVec 16 :=
  let sh := acc <<< 1
  if acc.getLsbD 15 != b then sh ^^^ 0x1021 else sh

/-- The low n bits of a value, most significant first. -/
def feedBits (acc : BitVec 16) (x : Nat) : Nat → BitVec 16
  | 0 => acc
  | n + 1 => feedBits (feed acc (x.testBit n)) x n

/-- The bits an instruction feeds (R341): head bits 13 to 0, S1 and S2 of HA, HB and HD, S1, S2 and S3 of HC, and for a
branch whether it was taken. -/
def feedEnc (acc : BitVec 16) (e : Enc) (taken : Option Bool) : BitVec 16 :=
  let acc := feedBits acc e.head.toNat 14
  let acc := if 1 ≤ (headTl e.head).toNat then feedBits acc (e.t1.toNat / 4) 14 else acc
  let acc := if fmtOf (headMajor e.head) = some .HC then feedBits acc (e.t2.toNat / 512) 7 else acc
  match taken with
  | some b => feed acc b
  | none => acc

end Sig

/-- SIGACC after an instruction: its feed, or 0xFFFF when the next head is not reached by sequential fall-through. -/
def sigAfter (acc : W64) (e : Enc) (jump : Bool) (taken : Option Bool) : W64 :=
  if jump then 0xFFFF else (Sig.feedEnc (acc.setWidth 16) e taken).setWidth 64

/-- A walk that ended in a code of R215. -/
def WalkResult.failed (r : WalkResult) : Bool :=
  match r with
  | .fail _ => true
  | _ => false

/-- Removes the completed walks of a slot: the access that asked for them is over (R188). One that failed stays, and repeats its
cause until the mapping changes (R215). -/
def Core.dropWalks (k : Core) (slot : Nat) : Core :=
  { k with walks := k.walks.filter (fun w => w.slot != slot || w.result == .pending || w.result.failed) }

/-- Counts an executed instruction toward the 512 of R227 and the 2,048 of R52; one that takes a precise trap does not count (log 75). -/
def Slot.count (x : Slot) : Slot :=
  { x with
    act := x.act.map (fun a => { a with executed := a.executed + 1 })
    chunk := x.chunk.map (fun c => { c with count := c.count + 1 })
    parked := false }

/-- The instruction being executed completes and the PC goes to `pc`. -/
def State.retire (s : State) (pc : W64) (jump : Bool) (taken : Option Bool) : State :=
  let s := s.modMe (fun x =>
    { x.count with regs := { x.regs with pc := pc, sigacc := sigAfter x.regs.sigacc s.cur.enc jump taken } })
  if s.myCore.walks = [] then s else s.modCore s.cur.core (fun k => k.dropWalks s.cur.slot)

/-- The instruction completes and the next head follows (R58). -/
def State.advance (s : State) : State := s.retire s.cur.next false none

/-! Stops of an instruction before it completes. -/

/-- How an instruction ends without completing. `trap` names a precise cause of R318 with TVAL, SUB, and k0, k1 where the
table gives them; `pop` is a queue whose base pop stands (R86). -/
inductive Stop where
  | trap (cause : BitVec 8) (val : W64) (sub : BitVec 4) (k : Option (W64 × W64)) (pop : Option (Fin 16))
  | hold
  | holdCommit
  | holdLines (total : Nat)
  | holdWalk (va : W64)
  | near (va : W64)
  | contain (at_ : Option (Nat × Nat))
  | fault (f : Fault)
  deriving DecidableEq, Repr

/-- The computations of a meaning: a state, and a stop that gives up all of it (R5). -/
abbrev M := EStateM Stop State

namespace Cause

def fetch : BitVec 8 := 0x01
def illegalLine : BitVec 8 := 0x02
def illegalTarget : BitVec 8 := 0x03
def illegalInstruction : BitVec 8 := 0x04
def illegalOperand : BitVec 8 := 0x05
def address : BitVec 8 := 0x06
def misaligned : BitVec 8 := 0x07
def dataAccess : BitVec 8 := 0x08
def labelMiss : BitVec 8 := 0x09
def labelFormat : BitVec 8 := 0x0A
def labelLoop : BitVec 8 := 0x0B
def staleLabel : BitVec 8 := 0x0C
def labelOffset : BitVec 8 := 0x0D
def queueEmpty : BitVec 8 := 0x0E
def queueFull : BitVec 8 := 0x0F
def streamEnd : BitVec 8 := 0x10
def heldOverflow : BitVec 8 := 0x11
def nonPortable : BitVec 8 := 0x12
def taskOverflow : BitVec 8 := 0x13
def storeQueueFull : BitVec 8 := 0x14
def programTrap : BitVec 8 := 0x15
def storeFault : BitVec 8 := 0x20
def matrixFault : BitVec 8 := 0x21
def engineFault : BitVec 8 := 0x22

end Cause

/-- TVAL of illegal-instruction and illegal-operand (R71). -/
def encVal (e : Enc) : W64 := e.t3 ++ e.t2 ++ e.t1 ++ e.head

def stopTrap {α : Type} (cause : BitVec 8) (val : W64) : M α := throw (.trap cause val 0 none none)

def illegalOperand {α : Type} : M α := do stopTrap Cause.illegalOperand (encVal (← get).cur.enc)

def illegalInstruction {α : Type} : M α := do stopTrap Cause.illegalInstruction (encVal (← get).cur.enc)

/-- Refuses an operand. -/
def refuseIf (b : Bool) : M Unit := if b then illegalOperand else pure ()

/-- The instruction completes and falls through. -/
def done : M Unit := modify State.advance

/-! Ordered tasks: the head (R298). -/

/-- Keys compare by timestamp, spawner, spawn sequence (R297). -/
def TaskKey.toNat (k : TaskKey) : Nat := k.ts.toNat * 2 ^ 64 + k.spawner.toNat * 2 ^ 48 + k.seq.toNat

/-- The global minimum of an address space: the smallest of the latest reports (R298). -/
def State.globalMin (s : State) (a : Asid) : Option TaskKey :=
  s.reports.foldl (fun m r =>
    match r.2.find a.toNat, m with
    | some k, some x => if k.toNat < x.toNat then some k else some x
    | some k, none => some k
    | none, _ => m) none

/-- The key of an activation's task, where it is of the address space and runs non-speculatively. -/
def Act.firmKey (x : Act) (a : Asid) : Option TaskKey :=
  if x.stamp.asid = a then x.task.bind (fun t => if t.state == .firm then some t.key else none) else none

/-- The key of the task a migration message carries, where it is of the address space. -/
def Message.firmKey (m : Message) (a : Asid) : Option TaskKey :=
  if m.stamp.asid = a then m.portable.bind (fun p => p.task) else none

/-- The non-speculative task of an address space: it runs in a slot, is saved, or migrates (R303, R306). -/
def State.firmTask (s : State) (a : Asid) : Option TaskKey :=
  ((s.cores.findSome? (fun c => c.2.slots.findSome? (fun x => x.2.act.bind (fun y => y.firmKey a)))).or
    (s.graphs.findSome? (fun g => g.2.saved.findSome? (fun v => v.act.firmKey a)))).or
  (((s.net.findSome? (fun m => m.firmKey a)).or
    (s.cores.findSome? (fun c => c.2.inbox.findSome? (fun p => p.msg.firmKey a)))).or
    (s.parked.findSome? (fun l => l.2.findSome? (fun p => p.msg.firmKey a))))

/-- The task of this key is the head of its address space: a non-speculative one remains it until it ends (R303); else it is the
one of the global minimum (R298). -/
def State.isHead (s : State) (a : Asid) (k : TaskKey) : Bool :=
  match s.firmTask a with
  | some f => f == k
  | none => s.globalMin a == some k

/-- A speculative task that is not the head: its held events wait (R303). -/
def Slot.mustWait (x : Slot) (s : State) : Bool :=
  match x.act with
  | some a =>
    match a.task with
    | some t => (t.state == .speculative || t.state == .finished) && !s.isHead a.stamp.asid t.key
    | none => false
  | none => false

/-- The task goes on non-speculatively: it is the head and its held event takes place (R303). -/
def Slot.makeFirm (x : Slot) : Slot :=
  { x with act := x.act.map (fun a => { a with task := a.task.map (fun t =>
    if t.state == .speculative then { t with state := .firm } else t) }) }

/-! Ending an activation. -/

/-- Drops the binding of a queue. -/
def Regs.unbindAll (r : Regs) : Regs := { r with q := Vector.replicate 16 Queue.empty }

/-- Applies a change to the registers of a slot and to every earlier copy a squash would restore. -/
def Slot.everywhere (x : Slot) (f : Regs → Regs) : Slot :=
  { x with
    regs := f x.regs
    chunk := x.chunk.map (fun c => { c with saved := f c.saved })
    ended := x.ended.map (fun c => { c with saved := f c.saved }) }

/-- The queues of a slot that name a partner. -/
def Regs.partners (r : Regs) : List (Nat × Fin 16 × Fin 16 × Bool) :=
  (List.finRange 16).filterMap (fun i =>
    match (r.q[i]).bind with
    | .consumer sl pq => some (sl, pq, i, false)
    | .producer sl pq => some (sl, pq, i, true)
    | _ => none)

/-- Marks a queue CLOSED that names queue `mine` of slot `me` as its far end, of whatever role; it stays so until it unbinds (log
127). -/
def Regs.closeBack (r : Regs) (me : Nat) (q mine : Fin 16) : Regs :=
  let y := r.q[q]
  match y.bind with
  | .consumer sl pq => if sl = me ∧ pq = mine then r.writeQ q { y with closed := true } else r
  | .producer sl pq => if sl = me ∧ pq = mine then r.writeQ q { y with closed := true } else r
  | _ => r

/-- Changes the registers of the activation of an address space that a slot holds, or held when pre-emption saved it. -/
def State.modRegsOf (s : State) (c i : Nat) (a : Asid) (f : Regs → Regs) : State :=
  let t := if (s.slot c i).act.any (fun b => b.stamp.asid == a) then s.modSlot c i (fun x => x.everywhere f) else s
  { t with graphs := t.graphs.map (fun g => (g.1, { g.2 with saved := g.2.saved.map (fun v =>
    if v.core = c ∧ v.slot = i ∧ v.act.stamp.asid = a then { v with regs := f v.regs } else v) })) }

/-- Marks the far end of a binding of slot `me` CLOSED when it names this end back (R198), pre-empted or not (R331). -/
def State.closeEnd (s : State) (c me : Nat) (a : Asid) (p : Nat × Fin 16 × Fin 16 × Bool) : State :=
  s.modRegsOf c p.1 a (fun r => r.closeBack me p.2.1 p.2.2.1)

/-- Closes the far ends of the queues of registers a slot holds or held (R83, R198). -/
def State.closeEnds (s : State) (c me : Nat) (a : Asid) (r : Regs) : State :=
  r.partners.foldl (fun s p => s.closeEnd c me a p) s

/-- A slot's registers as its last commit left them: what its uncommitted chunks bound or unbound is undone with them (R198, R323). -/
def Slot.committedRegs (x : Slot) : Regs :=
  match x.ended, x.chunk with
  | some e, _ => e.saved
  | none, some c => c.saved
  | none, none => x.regs

/-- Undoes what the uncommitted chunks of a slot did to its registers. -/
def State.rollSlot (s : State) (c i : Nat) : State := s.modSlot c i (fun x => { x with regs := x.committedRegs })

/-- Unbinds every queue of a slot (R83). -/
def State.unbindSlot (s : State) (c i : Nat) : State :=
  let x := s.slot c i
  (s.closeEnds c i x.asid x.regs).modSlot c i (fun x => { x with regs := x.regs.unbindAll })

/-- Disarms the watch entries of a slot (R83). -/
def Core.disarm (k : Core) (i : Nat) : Core := { k with watches := k.watches.filter (fun w => w.slot != i) }

/-- The order numbers of a slot's uncommitted chunks, which their tentative spawns name as parent. -/
def Slot.orders (x : Slot) : List Nat :=
  (match x.ended with
    | some c => [c.order]
    | none => []) ++
  (match x.chunk with
    | some c => [c.order]
    | none => [])

/-- A waiting WAITI of the core wakes when an activation on it ends or a message is accepted (R99): its pause is over and
the next head follows. -/
def Core.wakeWaiti (k : Core) : Core :=
  { k with slots := k.slots.map (fun p =>
    (p.1, if p.2.phase = .wait .waiti then { p.2 with phase := .run } else p.2)) }

/-- Discards the tentative entries a chunk spawned and, down the tree, what their tasks spawned; the tasks that ran are
ended (R304). `fuel` bounds the depth of the tree by the number of entries. -/
def State.discardSpawns (s : State) (parent : Nat) : Nat → State
  | 0 => s
  | fuel + 1 =>
    let gone := s.tasks.filter (fun t => t.parent == some parent)
    let s := { s with tasks := s.tasks.filter (fun t => t.parent != some parent) }
    gone.foldl (fun s t =>
      match t.running with
      | some (c, i) =>
        if 8 ≤ i then s else
        let s := (s.slot c i).orders.foldl (fun s o => State.discardSpawns s o fuel) s
        let s := (s.rollSlot c i).unbindSlot c i
        let s := s.modCore c (fun k => k.disarm i)
        (s.modSlot c i (fun x => { Slot.free with ext := x.ext })).modCore c Core.wakeWaiti
      | none => s) s

/-- Discards the tentative spawns of chunks. -/
def State.discardAll (s : State) (orders : List Nat) : State :=
  orders.foldl (fun s o => s.discardSpawns o (s.tasks.length + 1)) s

/-- The activation's own task leaves the unfinished set (R304). -/
def State.dropTask (s : State) (c i : Nat) : State :=
  { s with tasks := s.tasks.filter (fun t => t.running != some (c, i)) }

/-- Removes the commands of an activation that have not started (R263, R323). -/
def Core.cancelCmds (k : Core) (act : Nat) (started : List Nat) : Core :=
  { k with mq := k.mq.filter (fun m => m.act != act || started.contains m.num) }

/-- The matrix unit of a core's octet, by the key die × 4,096 + cluster × 128 + 8 × octet. -/
def octetOf (c : Nat) : Nat := c / 8 * 8

def MUnit.idle : MUnit := { running := [], visit := 8, taken := [], weights := [] }

def State.munit (s : State) (c : Nat) : MUnit := s.munits.get (octetOf c) MUnit.idle

/-- The numbers of the commands of an activation that have started. -/
def State.startedCmds (s : State) (c act : Nat) : List Nat :=
  ((s.munit c).running.filter (fun r => r.cmd.act == act)).map (·.cmd.num)

/-- CANCEL counts one more command (R262). -/
def Regs.cancel (r : Regs) (n : Nat) : Regs := { r with mfrx := setFld r.mfrx 48 8 (satAdd (fld r.mfrx 48 8) n 255) }

/-- Removes the commands of an activation that have not started, and counts them. -/
def State.cancelQueued (s : State) (c act : Nat) : State × Nat :=
  let st := s.startedCmds c act
  let gone := ((s.core c).mq.filter (fun m => m.act == act && !st.contains m.num)).length
  (s.modCore c (fun k => k.cancelCmds act st), gone)

/-- The commands of a slot's activation that have not started complete at once and count in CANCEL (R263). -/
def State.cancelSlot (s : State) (c i : Nat) : State :=
  match (s.slot c i).act with
  | none => s
  | some a =>
    let r := s.cancelQueued c a.id
    r.1.modSlot c i (fun x => x.everywhere (fun y => y.cancel r.2))

/-- The message of an orphan fault: type 0xFE on the issuing core (R325). -/
def orphan (c : Nat) (st : Stamp) (f : EngineFault) (matrix : Bool) : Message :=
  let tc : W64 := 0x10000 ||| (if matrix then Cause.matrixFault else Cause.engineFault).setWidth 64
  Message.plain (BitVec.ofNat 16 c) 0xFE { st with src := BitVec.ofNat 16 c } [f.k0, f.tval, f.k1, tc]

/-- Puts a fault before those recorded after it; `true` marks a matrix fault. -/
def insertFault (f : EngineFault × Bool) : List (EngineFault × Bool) → List (EngineFault × Bool)
  | [] => [f]
  | g :: r => if f.1.order < g.1.order then f :: g :: r else g :: insertFault f r

/-- The matrix faults pending for a slot, each with its MFRX word: the latest one's is the register's while VALID is set (R263). -/
def Slot.matrixPending (x : Slot) : List MatrixFault :=
  match x.matrix.reverse with
  | f :: r => ((if bit x.regs.mfrx 63 then { f with k1 := x.regs.mfrx } else f) :: r).reverse
  | [] => []

/-- The faults still pending for a slot, in the order they were recorded: each goes to type 0xFE when the activation ends
(R325). -/
def Slot.orphans (x : Slot) (c : Nat) : List Message :=
  match x.act with
  | none => []
  | some a =>
    let l := x.matrixPending.map (fun f => (f, true)) ++ x.engine.map (fun f => (f, false))
    (l.foldl (fun r f => insertFault f r) []).map (fun f => orphan c a.stamp f.1 f.2)

/-- Frees a slot: its activation is over. Writes that have left go on (R236). -/
def State.freeSlot (s : State) (c i : Nat) : State :=
  let s := s.unbindSlot c i
  let s := s.modCore c (fun k => { k.disarm i with walks := k.walks.filter (fun w => w.slot != i) })
  let s := s.modSlot c i (fun x => { Slot.free with ext := x.ext })
  s

/-- Ends an activation without completing it (R323, R327, R243): its open chunk, held messages, store-fault records and
tentative spawns go, its unstarted commands are cancelled, its slot is freed; with `orphans` its pending matrix and engine
faults go to type 0xFE. -/
def State.endActivation (s : State) (c i : Nat) (orphans : Bool) : State :=
  let x := s.slot c i
  match x.act with
  | none => s
  | some a =>
    let s := if orphans then { s with net := s.net ++ x.orphans c } else s
    let s := s.discardAll x.orders
    let s := s.dropTask c i
    let s := s.modCore c (fun k => k.cancelCmds a.id (s.startedCmds c a.id))
    let s := (s.rollSlot c i).freeSlot c i
    s.modCore c Core.wakeWaiti

/-- Records an escalation in GESC and GESCPC of the activation's graph (R323, R324): the graph of its tile, or else the
lowest-numbered graph of its address space. -/
def State.recordEscalation (s : State) (c i : Nat) (cause : BitVec 8) (first : BitVec 8) (pc : W64) : State :=
  let x := s.slot c i
  match x.act with
  | none => s
  | some a =>
    let g := match s.graphOfNode a.stamp.asid a.stamp.node.toNat with
      | some g => some g
      | none => s.lowGraph a.stamp.asid
    match g with
    | none => s
    | some g =>
      s.modGraph g (fun y =>
        let n := satAdd (fld y.gesc 48 16) 1 65535
        { y with
          gesc := BitVec.ofNat 64 (c % 65536 + i % 8 * 65536 + cause.toNat * 2 ^ 24 + first.toNat * 2 ^ 32 + n * 2 ^ 48)
          gescpc := BitVec.ofNat 64 (pc.toNat % 2 ^ 57) })

/-! Engine faults (R209). -/

/-- Changes the context of an activation, in its slot or where pre-emption saved it. -/
def State.modAct (s : State) (c i act : Nat) (f : Slot → Slot) (g : Saved → Saved) : State :=
  if (s.slot c i).act.any (fun a => a.id == act) then s.modSlot c i f
  else
    { s with graphs := s.graphs.map (fun p =>
      (p.1, { p.2 with saved := p.2.saved.map (fun v => if v.act.id = act then g v else v) })) }

/-- The activation still stands, in its slot or saved. -/
def State.stands (s : State) (c i act : Nat) : Bool :=
  (s.slot c i).act.any (fun a => a.id == act) || s.graphs.any (fun p => p.2.saved.any (fun v => v.act.id == act))

/-- An engine fault joins those pending for its issuer, or starts type 0xFE there (R209, R325). -/
def State.engineFault (s : State) (c i act : Nat) (st : Stamp) (tval k0 k1 : W64) : State :=
  let f : EngineFault := { order := s.stamp, tval := tval, k0 := k0, k1 := k1 }
  let s := { s with stamp := s.stamp + 1 }
  if s.stands c i act then
    s.modAct c i act (fun x => { x with engine := x.engine ++ [f] }) (fun v => { v with engine := v.engine ++ [f] })
  else { s with net := s.net ++ [orphan c st f false] }

/-- The word k1 of an engine fault (R209). -/
def faultWord (cause req : Nat) (batch : BitVec 32) : W64 := BitVec.ofNat 64 (cause + req * 16 + batch.toNat * 256)

/-- A request stops at a fault (R209). -/
def State.stopRequest (s : State) (r : Request) (req cause : Nat) (va : W64) : State :=
  let s := { s with requests := s.requests.map (fun (x : Request) => if x.tag = r.tag then { x with stopped := true } else x) }
  s.engineFault r.core r.slot r.act r.stamp va r.pc (faultWord cause req r.batch)

/-- A request that its owner cannot work: the requester of an AMO or AMOV is answered with engine-fault request 3, its G(D) left
unchanged (R209, R323); a SCATA stops. The request carries a physical address only, which TVAL holds. -/
def State.ownerFault (s : State) (q : OwnerReq) (cause at_ : Nat) : State :=
  match q.op with
  | .scata _ _ =>
    match s.requests.find? (fun r => r.tag == q.tag && !r.stopped) with
    | some r => s.stopRequest r 2 cause (BitVec.ofNat 64 at_)
    | none => s
  | _ =>
    let s := s.engineFault q.core q.slot q.act q.stamp (BitVec.ofNat 64 at_) q.pc (faultWord cause 3 0)
    { s with replies := s.replies ++ [{ core := q.core, slot := q.slot, act := q.act, old := none, flags := 0, pc := q.pc }] }

/-- The causes of an engine fault (R209). -/
def engineCauses : List Nat := [2, 3, 4, 5, 8, 10]

/-- An escalated owner activation answers its requester (R323). Which of R209's causes stands for the trap that escalated is left
open (log 4). -/
def State.answerEscalated (s : State) (x : Slot) : State :=
  match x.act.bind (·.owner) with
  | none => s
  | some q =>
    { s with fresh := s.fresh + 1 }.ownerFault q (engineCauses.getD ((Config.freeWord s.fresh).toNat % 6) 2) q.key

/-- Escalation (R323): GESC and GESCPC take the record, the activation ends, one of type 0xFD answers its requester, and the
host is told. -/
def State.escalate (s : State) (c i : Nat) (cause : BitVec 8) : State :=
  let x := s.slot c i
  let first : BitVec 8 := if x.regs.inHandler then x.regs.tcause.setWidth 8 else 0
  let s := s.recordEscalation c i cause first x.regs.pc
  ((s.endActivation c i true).answerEscalated x).interrupt 1

/-! Taking a trap. -/

/-- The TCAUSE word (R314). -/
def tcauseWord (cause : BitVec 8) (sub : BitVec 4) (impr : Bool) : W64 :=
  BitVec.ofNat 64 (cause.toNat + sub.toNat * 256 + (if impr then 65536 else 0))

/-- Ends the open chunk of a slot at a trap boundary; it stands until it commits (R316). The handler's chunk is another: it has
been squashed for itself only (R232), and matches the commands it issued itself in an earlier attempt (R251). A chunk that was to
execute again and has executed nothing ends too, with nothing to commit: the activation is not restartable any more (R242), and the
commands it has issued wait for the instruction it begins with (R251). -/
def Slot.endAtTrap (x : Slot) : Slot :=
  match x.chunk with
  | none =>
    { x with
      attempt := { Attempt.fresh with issued := x.attempt.later }
      under := x.attempt.issued
      act := x.act.map (fun a => { a with restartable := false }) }
  | some c => { x with chunk := none, ended := some c, attempt := { Attempt.fresh with issued := c.later }, under := [] }

/-- The registers at a handler's first instruction (R316); TSTAT.LX says that the handler is the one LXMISS names. -/
def Regs.enter (r : Regs) (h : W64) (pc : W64) (cause : BitVec 8) (sub : BitVec 4) (impr : Bool) (val : W64)
    (k : Option (W64 × W64)) : Regs :=
  let tc := tcauseWord cause sub impr
  let ks := k.getD (val, tc)
  { (r.writeK 0 ks.1).writeK 1 ks.2 with
    tpc := pc &&& 0x01FFFFFFFFFFFFFE
    tcause := tc
    tval := val
    tstat := if h = r.lxmiss then 3 else 1
    sigacc := 0xFFFF
    pc := h }

/-- A trap waits: inside a handler, for the commit of the chunk its entry ended (R323); elsewhere, for a speculative task to
become the head (R303). -/
def Slot.trapHeld (x : Slot) (s : State) : Bool := if x.regs.inHandler then x.ended.isSome else x.mustWait s

/-- A trap that is not a label miss escalates: inside a handler, or without one (R316). -/
def Regs.escalates (r : Regs) : Bool := r.inHandler || r.tvec == 0

/-- A slot whose PC lies in no line it has entered keeps none: it enters the next one anew (R57). -/
def Slot.leaveLine (x : Slot) : Slot :=
  if x.fetch.line = some (x.regs.pc &&& 0xFFFFFFFFFFFFFFC0) then x else { x with fetch := { x.fetch with line := none } }

/-- Taking a trap in a slot (R316): escalation inside a handler, once the chunk the entry ended has committed, or without a
handler; the wait of a speculative task for headship; and otherwise the entry. `tpc` is the PC the cause table states. -/
def State.takeTrap (s : State) (c i : Nat) (tpc : W64) (cause : BitVec 8) (sub : BitVec 4) (impr : Bool) (val : W64)
    (k : Option (W64 × W64)) : State :=
  let x := s.slot c i
  if x.regs.inHandler then (if x.ended.isSome then s else s.escalate c i cause)
  else if x.mustWait s then s
  else
    let lx := cause == Cause.labelMiss && x.regs.lxmiss != 0
    let h := if lx then x.regs.lxmiss else x.regs.tvec
    if h = 0 then s.escalate c i cause
    else
      let s := s.modSlot c i (fun x =>
        let x := x.makeFirm.endAtTrap.leaveLine
        { x with
          regs := x.regs.enter h tpc cause sub impr val k
          phase := .run
          parked := false })
      s.modCore c (fun y => y.dropWalks i)

/-- The registers after ERET (R98, R342): the handler state left, PC ← TPC, SKIP set, the signature restarted. -/
def Regs.leave (r : Regs) : Regs :=
  { r with pc := r.tpc, tstat := 0, sigacc := 0xFFFF, sigcfg := r.sigcfg ||| 2 }

/-! Store-buffer lines (R228). -/

/-- The distinct 64-byte lines of parts that take a store-buffer line (R228). -/
def partLines (l : List Part) (acc : List Nat) : List Nat :=
  l.foldl (fun a p =>
    match p.key with
    | some k => if a.contains (lineOf k) then a else lineOf k :: a
    | none =>
      let v := 2 ^ 63 + lineOf p.va.toNat
      if a.contains v then a else v :: a) acc

/-- Lines a chunk holds: one for each line stored to, each LXFILL and each ARED (R228). -/
def Chunk.lines (c : Chunk) : List Nat := c.stores.foldl (fun a st => partLines st.parts a) []

def Chunk.lineCount (c : Chunk) : Nat :=
  c.lines.length + c.fillLines + (c.stores.filter (fun st => st.adds.isSome)).length

/-! Containment. -/

/-- Copy harts and shuttles drop the requests of an ended activation: an unstarted one goes, one in progress stops after the chunks it has
begun, a deal's blocks under way, and a hart that worked one has its slot free again (R12, R327). -/
def State.dropRequests (s : State) (act : Nat) : State :=
  let mine := (s.requests.filter (fun r => r.act == act)).map (·.tag)
  { s with
    requests := (s.requests.filter (fun r => !(r.act == act && r.progress == 0))).map (fun (r : Request) =>
      if r.act = act then { r with stopped := true } else r)
    harts := s.harts.map (fun h => (h.1, { kick := h.2.kick.filter (fun t => !mine.contains t) })) }

/-- Ends an activation by a kill and counts it in GKILLS of its graph (R327). -/
def State.killActivation (s : State) (c i : Nat) : State :=
  let x := s.slot c i
  match x.act with
  | none => s
  | some a =>
    let s := match s.graphOfStamp a.stamp with
      | some g => s.modGraph g (fun y => { y with ended := satAdd y.ended 1 (2 ^ 32 - 1) })
      | none => s
    (s.endActivation c i false).dropRequests a.id

/-- A kill acts on work of a stamp: its address space and group, and on the mirror image only when it comes from there
(R327, R345); a kill of the hardware's own acts on both. -/
def Kill.hits (k : Kill) (st : Stamp) : Bool :=
  k.asid == st.asid && k.group == st.group && (k.slot == 8 || (k.side == .mirror) == (st.side == .mirror))

/-- Removes the activations, messages and saved contexts a group holds, at every core at once: what GKILL does when it has
reached every place (R327), used where the hardware kills a group itself (R52, R243, R26). -/
def State.killGroup (s : State) (a : Asid) (g : BitVec 8) : State :=
  { s with kills := s.kills ++ [{ core := 0, slot := 8, asid := a, group := g, side := .none, reached := [] }] }

/-- The registers at a handler's first instruction, while no chunk of the handler has committed. -/
def Slot.entryRegs (x : Slot) : Regs :=
  match x.chunk with
  | some c => c.saved
  | none => x.regs

/-- An imprecise trap whose entry is undone becomes pending again with the values and in the order it had (R316, R325). -/
def Slot.repend (x : Slot) : Slot :=
  let r := x.entryRegs
  let f : EngineFault := { order := x.entered, tval := r.tval, k0 := r.k[0], k1 := r.k[1] }
  if r.tcause = tcauseWord Cause.matrixFault 0 true then { x with matrix := f :: x.matrix }
  else if r.tcause = tcauseWord Cause.engineFault 0 true then { x with engine := f :: x.engine }
  else x

/-- Where the oldest uncommitted chunk of a slot began, the commands it has issued, and those that a trap handler's chunk after it
has (R251). -/
def Slot.restartPoint (x : Slot) : Regs × List Nat × List Nat :=
  match x.ended, x.chunk with
  | some e, some ch => (e.saved, e.issued, ch.issued)
  | some e, none => (e.saved, e.issued, x.attempt.issued)
  | none, some ch => (ch.saved, ch.issued, ch.later)
  | none, none => (x.regs, x.attempt.issued, x.attempt.later)

/-- The registers a squash would go back to first, those of the oldest uncommitted chunk: what the slot's partners and the matrix unit
see of it (R95, R198). -/
def Slot.oldest (x : Slot) : Regs := x.restartPoint.1

/-- Puts a message back into its place of arrival (R243). -/
def insertPending (p : Pending) : List Pending → List Pending
  | [] => [p]
  | q :: r => if p.arrival < q.arrival then p :: q :: r else q :: insertPending p r

/-! Waiting. -/

/-- The chunk's end before an instruction that waits (R199, R208, R227). A chunk with nothing in it is over at once, and its priority
request with it (R232); the commands that earlier attempts issued stay those of the chunk that the instruction begins (R251). -/
def State.holdCommit (s : State) : State :=
  let x := s.me
  match x.chunk with
  | none => s
  | some c =>
    if x.mustWait s then s
    else if c.count = 0 ∧ c.stores = [] ∧ c.acts = [] ∧ c.fillLines = 0 ∧ x.ended = none then
      let x := x.makeFirm
      s.setMe { x with
        chunk := none
        attempt := { Attempt.fresh with issued := c.issued, later := c.later }
        act := x.act.map (fun a => { a with restartable := false }) }
    else s.setMe { x.makeFirm with phase := .commit .go }

/-- Asks for a walk for the slot, unless one is under way (R188); what an earlier one found no longer holds. -/
def State.askWalk (s : State) (va : W64) : State :=
  let x := s.me
  let w : Walk := { slot := s.cur.slot, asid := x.asid, va := va, result := .pending, removed := [] }
  let same (y : Walk) : Bool := y.slot == s.cur.slot && y.va == va && y.asid == x.asid
  if s.myCore.walks.any (fun y => same y && y.result == .pending) then s
  else s.modCore s.cur.core (fun k => { k with walks := k.walks.filter (fun y => !same y) ++ [w] })

end Sys2Proof.Machine
end

