-- ==== Sys2Proof/Machine/Aborts.lean ====
section
/-! DEFINITION. The squash of a slot's chunks (11_consistency R231; 18 R316) and the aborts of ordered tasks (16 R304, R305,
R307). -/

namespace Sys2Proof.Machine

/-! Squash (R231, R316). -/

/-- The slot goes back to the start of a chunk of its own. The activation keeps its count of executed instructions: one executed
again counts again toward the 2,048 of R52 (log 75). -/
def Slot.restart (x : Slot) (ch : Chunk) : Slot :=
  { x with
    regs := ch.saved
    chunk := none
    ended := none
    phase := .run
    parked := false
    fetch := { x.fetch with line := none }
    attempt := { squashes := ch.squashes + 1, order := ch.order, issued := ch.issued, later := ch.later, reads := ch.reads, region := ch.region }
    act := x.act.map (fun a => { a with task := a.task.map (fun t =>
      if t.state == .finished then { t with state := .speculative } else t) }) }

/-- Squashes a slot: its open chunk, or with `whole` also the chunk a trap entry ended, whose entry is then undone. -/
def State.squash (s : State) (c i : Nat) (whole : Bool) : State :=
  let x := s.slot c i
  match (if whole then x.ended else none), x.chunk with
  | some e, _ =>
    (s.discardAll x.orders).modSlot c i (fun x => x.repend.restart { e with later := x.restartPoint.2.2 })
  | none, some ch => (s.discardAll [ch.order]).modSlot c i (fun x => { x.restart ch with ended := x.ended })
  | none, none => s

/-! Aborts of ordered tasks (R304, R305). -/

/-- A speculative task is aborted and restarts in place. -/
def State.abort (s : State) (c i : Nat) : State := s.squash c i true

/-- A speculative task is aborted and its entry goes back to its queue, firm and ready, with its count of containments; its slot
is freed (R305, R307). The entry goes back though its queue's 256 places have been filled since (log 120), and the matrix commands it
has issued run on (log 128). -/
def State.abortBack (s : State) (c i : Nat) : State :=
  let n := match (s.slot c i).act with
    | some a => a.contained
    | none => 0
  let s := s.discardAll (s.slot c i).orders
  let s := { s with tasks := s.tasks.map (fun (t : TaskEntry) =>
    if t.running = some (c, i) then { t with running := none, parent := none, contained := n } else t) }
  ((s.rollSlot c i).freeSlot c i).modCore c Core.wakeWaiti

/-- Inserts a task before those of lower key. -/
def insertKey (x : TaskKey × Nat × Nat) : List (TaskKey × Nat × Nat) → List (TaskKey × Nat × Nat)
  | [] => [x]
  | y :: r => if y.1.toNat < x.1.toNat then x :: y :: r else y :: insertKey x r

/-- A slot runs a speculative task of an address space. -/
def Slot.speculates (x : Slot) (a : Asid) : Bool :=
  match x.act with
  | some b =>
    match b.task with
    | some k => b.stamp.asid == a && (k.state == .speculative || k.state == .finished)
    | none => false
  | none => false

/-- The running speculative tasks of an address space, with core and slot, highest key first. -/
def State.speculative (s : State) (a : Asid) : List (TaskKey × Nat × Nat) :=
  s.tasks.foldl (fun l t =>
    match t.running with
    | some (c, i) => if (s.slot c i).speculates a then insertKey (t.key, c, i) l else l
    | none => l) []

/-- The key of an activation's task. -/
def Slot.taskKey (x : Slot) : Option TaskKey := x.act.bind (fun a => a.task.map (·.key))

/-- The activation of a slot is the head of its address space (R298). -/
def State.headSlot (s : State) (c i : Nat) : Bool :=
  match (s.slot c i).taskKey with
  | some k => s.isHead (s.slot c i).asid k
  | none => false

end Sys2Proof.Machine
end

