-- ==== Sys2Proof/Machine/Translate.lean ====
section
/-! DEFINITION. Translation of flat addresses: page tables and leaves, the checks of an access, the TLBs and the walks that
fill them (09_memory_translation R174-R189), and the capacity map as a place of configuration space (19 R340). -/

namespace Sys2Proof.Machine

/-- Access kinds of R181. -/
inductive Acc where
  | load | store | both | fetch
  deriving DecidableEq, Repr

/-! The codes of R215 that a translation can end in; 7 stands for a far access to a NEAR page, which each access treats in
its own way (R182). -/

namespace Code

def translation : Nat := 2
def permission : Nat := 3
def malformed : Nat := 4
def physical : Nat := 5
def far : Nat := 7
def address : Nat := 8
def unreachable : Nat := 9
/-- An uncorrectable error (R209). -/
def poison : Nat := 10

end Code

/-! Leaves (R179-R184). -/

namespace Leaf

def valid (e : W64) : Bool := bit e 0
def isLeaf (e : W64) : Bool := bit e 1
def r (e : W64) : Bool := bit e 2
def w (e : W64) : Bool := bit e 3
def x (e : W64) : Bool := bit e 4
def near (e : W64) : Bool := bit e 6
def shadow (e : W64) : Bool := bit e 7
def peerv (e : W64) : Bool := bit e 60
def peer (e : W64) : Nat := fld e 48 12

/-- The run of consecutive ones upward from bit 12, at most 20 counted (R180). -/
def run (e : W64) : Nat → Nat → Nat
  | _, 0 => 0
  | i, n + 1 => if bit e i then 1 + run e (i + 1) n else 0

/-- log2 of the page size (R180). -/
def log2 (e : W64) : Nat := if bit e 5 then 13 + run e 12 20 else 12

/-- The frame with the bits of the size run cleared (R178). -/
def frame (e : W64) : Nat := fld e 12 36 * 4096 / 2 ^ log2 e * 2 ^ log2 e

end Leaf

/-- A pointer holds zero in every field marked zero (R179). -/
def ptrOk (e : W64) : Bool := fld e 2 10 == 0 && fld e 48 16 == 0

/-- n bytes from a location pass the end of no window's capacity (R183, R193): a retired pseudo-channel of a stack is not past the
stack's window, and a frame in no window passes none. -/
def State.inWindow (s : State) (k n : Nat) : Bool :=
  if isHbm k then decide (k + n ≤ hbmEnd)
  else if isSram k then decide (sramOff k + n ≤ 64 * s.sramQ (sramDie k) * 32768)
  else if isScratch k then decide (scratchOff k + n ≤ s.scratchBanks (scratchCluster k) * 32768)
  else if isConfig k then isConfig (k + n - 1)
  else true

/-- The three frames of a shadow page lie in the window of the first and pass the end of none (R183). -/
def State.shadowOk (s : State) (f n : Nat) : Bool :=
  let kind (k : Nat) : Nat :=
    if isHbm k then 1 else if isSram k then 2 else if isScratch k then 3 else if isConfig k then 4 else if isExt k then 5 else 0
  [f, f + n, f + 2 * n].all (fun k => s.inWindow k n && (kind f == 0 || kind (k + n - 1) == kind f)) &&
    (kind f != 5 || decide (f + 3 * n ≤ 2 ^ 48))

/-- The checks of a leaf at a level (R179, R180, R182, R183). -/
def State.leafOk (s : State) (lvl : Nat) (e : W64) : Bool :=
  let l := Leaf.log2 e
  let band := match lvl with
    | 0 => decide (12 ≤ l) && decide (l ≤ 20)
    | 1 => decide (21 ≤ l) && decide (l ≤ 29)
    | 2 => decide (30 ≤ l) && decide (l ≤ 32)
    | _ => false
  let f := Leaf.frame e
  fld e 8 4 == 0 && fld e 61 3 == 0 && !(Leaf.w e && !Leaf.r e) && band &&
    !(Leaf.near e && (Leaf.peerv e || !isHbm f)) &&
    !(Leaf.shadow e && (Leaf.peerv e || !s.shadowOk f (2 ^ l)))

/-- One page-table read: what stands at a physical address, if the walk may read there (R178). Tables lie in device memory: one in host
memory, or past every address of the module, raises physical-address, and one in configuration space permission, for a system slot too
(log 98). -/
def State.tableEntry (s : State) (pa : Nat) : Except WalkResult W64 :=
  if 2 ^ 47 ≤ pa then .error (.fail Code.physical)
  else if isConfig pa then .error (.fail Code.permission)
  else if !s.populated pa then .error (.fail Code.physical)
  else if s.bad.contains (pa / 8) then .error (.poison pa)
  else .ok (bytesBv 64 (Memory.readN s.mem pa 8))

/-- The walk of R178 from a level downward, over committed memory (R189). -/
def State.walkFrom (s : State) (asid : Asid) (va : W64) (t : Nat) : Nat → WalkResult
  | 0 =>
    match s.tableEntry (t + 8 * (va.toNat / 2 ^ 12 % 512)) with
    | .error x => x
    | .ok e =>
      if !Leaf.valid e then .fail Code.translation
      else if !Leaf.isLeaf e then .fail Code.malformed
      else if s.leafOk 0 e then
        .page { corrupt := false, asid := asid, page := va.toNat / 2 ^ Leaf.log2 e * 2 ^ Leaf.log2 e, log2 := Leaf.log2 e, leaf := e }
      else .fail Code.malformed
  | lvl + 1 =>
    match s.tableEntry (t + 8 * (va.toNat / 2 ^ (12 + 9 * (lvl + 1)) % 512)) with
    | .error x => x
    | .ok e =>
      if !Leaf.valid e then .fail Code.translation
      else if !Leaf.isLeaf e then
        if ptrOk e then s.walkFrom asid va (fld e 12 36 * 4096) lvl else .fail Code.malformed
      else if s.leafOk (lvl + 1) e then
        .page { corrupt := false, asid := asid, page := va.toNat / 2 ^ Leaf.log2 e * 2 ^ Leaf.log2 e, log2 := Leaf.log2 e, leaf := e }
      else .fail Code.malformed

/-- The whole walk of an address (R178). The runtime's address space 0, which no upload makes and for which the spec gives no
ROOT, walks from physical address 0 (log 76). -/
def State.walk (s : State) (asid : Asid) (va : W64) : WalkResult := s.walkFrom asid va (s.space asid).root 4

/-- The locations of the table entries that a walk reads, from a level downward. -/
def State.walkReads (s : State) (va : W64) (t : Nat) : Nat → List Nat
  | 0 => [t + 8 * (va.toNat / 2 ^ 12 % 512)]
  | lvl + 1 =>
    let pa := t + 8 * (va.toNat / 2 ^ (12 + 9 * (lvl + 1)) % 512)
    match s.tableEntry pa with
    | .ok e => if Leaf.valid e && !Leaf.isLeaf e then pa :: s.walkReads va (fld e 12 36 * 4096) lvl else [pa]
    | .error _ => [pa]

/-! Buffers (R186-R188). -/

/-- An entry serves an address. One that a soft error has corrupted serves none, and the lookup goes on as a miss (R188). -/
def TlbEntry.holds (e : TlbEntry) (asid : Asid) (va : Nat) : Bool :=
  !e.corrupt && e.asid == asid && va / 2 ^ e.log2 * 2 ^ e.log2 == e.page

/-- A page overlaps a range of addresses. -/
def TlbEntry.hits (e : TlbEntry) (asid : Asid) (lo hi : Nat) : Bool :=
  e.asid == asid && decide (lo ≤ hi) && decide (e.page ≤ hi) && decide (lo < e.page + 2 ^ e.log2)

/-- The core whose L1 TLB a core uses: a copy hart uses its cluster's core 0 (R186). -/
def tlbCore (c : Nat) : Nat := if Id.kind c = 2 then Id.compute (c / 4096 % 4) (c / 128 % 32) 0 else c

/-- Puts an entry first: entries stand most recently used first, and the least recently used leaves beyond 64 (R186). -/
def tlbInsert (e : TlbEntry) (l : List TlbEntry) : List TlbEntry :=
  (e :: l.filter (fun x => !(x.asid == e.asid && x.page == e.page && x.log2 == e.log2))).take 64

/-- The size class of a page and its region key (R187). -/
def l2Class (log2 : Nat) : Nat := if log2 ≤ 21 then 0 else if log2 ≤ 30 then 1 else 2

def l2Home (asid : Asid) (va log2 : Nat) : Nat :=
  let cl := l2Class log2
  let k := if cl = 0 then va / 2 ^ 21 else if cl = 1 then va / 2 ^ 30 else va / 2 ^ 32
  let x := k ^^^ (k / 2 ^ 11) ^^^ (k / 2 ^ 22) ^^^ (k / 2 ^ 33)
  (x ^^^ asid.toNat ^^^ (asid.toNat / 2 ^ 11) ^^^ (0x155 * cl)) % 2048

/-- The slice and set an entry lives in (R187). -/
def l2Set (e : TlbEntry) : Nat := l2Home e.asid e.page e.log2 * 64 + e.page / 2 ^ e.log2 % 64

/-- Fills a die's L2: the set keeps its 8 most recently used ways (R187). -/
def l2Insert (e : TlbEntry) (l : List TlbEntry) : List TlbEntry :=
  let rest := l.filter (fun x => !(x.asid == e.asid && x.page == e.page && x.log2 == e.log2))
  let same := rest.filter (fun x => l2Set x == l2Set e)
  let keep := same.take 7
  e :: (keep ++ rest.filter (fun x => l2Set x != l2Set e))

/-- An L2 hit makes the entry the most recently used of its set (R187). -/
def l2Touch (e : TlbEntry) (l : List TlbEntry) : List TlbEntry := if l.contains e then e :: l.filter (· != e) else l

/-- What a lookup of the buffers finds for a slot (R188): a page, the slot's own finished walk, or nothing yet. A walk that failed
stands until the mapping changes (R215). -/
def State.lookup (s : State) (c slot : Nat) (asid : Asid) (va : W64) : WalkResult :=
  match (s.core (tlbCore c)).tlb.find? (fun e => e.holds asid va.toNat) with
  | some e => .page e
  | none =>
    match (s.core c).walks.find? (fun w => w.slot == slot && w.asid == asid && w.va == va && w.result != .pending) with
    | some w =>
      match w.result with
      | .page e => .page e
      | r => if s.walk asid va = r then r else .pending
    | none =>
      match (s.l2.get (Id.die c) []).find? (fun e => e.holds asid va.toNat) with
      | some e => .page e
      | none => .pending

/-- A hit makes the entry the most recently used, filling the L1 from the L2 (R186-R188). A page that only the access's own walk
found, its fill discarded, enters no buffer (R191). A hit by an instruction that then traps or holds is no use (log 101). -/
def State.touch (s : State) (c : Nat) (e : TlbEntry) : State :=
  let d := Id.die c
  let l := s.l2.get d []
  if (s.core (tlbCore c)).tlb.contains e then s.modCore (tlbCore c) (fun k => { k with tlb := tlbInsert e k.tlb })
  else if l.contains e then
    { s with l2 := s.l2.put d (l2Touch e l) }.modCore (tlbCore c) (fun k => { k with tlb := tlbInsert e k.tlb })
  else s

/-- A completed walk fills the home of its size class and the requesting core's L1 (R188). -/
def State.fill (s : State) (c : Nat) (e : TlbEntry) : State :=
  let d := Id.die c
  { s with l2 := s.l2.put d (l2Insert e (s.l2.get d [])) }.modCore (tlbCore c) (fun k => { k with tlb := tlbInsert e k.tlb })

/-! The checks of an access (R175, R181-R184, R346). -/

/-- The near agents of a stack (R182). -/
def nearTo (c stack : Nat) : Bool := if Id.kind c = 1 then Id.stack c == stack else Id.die c == stack / 2

/-- The physical address an address of a page stands for: a redundant node's sides use the frames S and 2S on (R184, R346). -/
def TlbEntry.place (e : TlbEntry) (side : Side) (va : W64) : Nat :=
  let f := Leaf.frame e.leaf + va.toNat % 2 ^ e.log2
  if Leaf.shadow e.leaf then
    match side with
    | .none => f
    | .primary => f + 2 ^ e.log2
    | .mirror => f + 2 * 2 ^ e.log2
  else f

/-- What an access through a page reaches: a location, or a code of R215. `side` is the activation's side of a redundant
node, `sys` whether a system slot asks. -/
def State.access (s : State) (c : Nat) (side : Side) (sys : Bool) (acc : Acc) (e : TlbEntry) (va : W64) : Except Nat Nat :=
  let l := e.leaf
  let off := va.toNat % 2 ^ e.log2
  let f := Leaf.frame l
  let needs := match acc with
    | .load => Leaf.r l
    | .store => Leaf.w l
    | .both => Leaf.r l && Leaf.w l
    | .fetch => Leaf.x l
  let writes := acc == .store || acc == .both
  if !needs then .error Code.permission
  else if side != .none && writes && !Leaf.shadow l then .error Code.permission
  else if Leaf.near l && !nearTo c (hbmStack (e.place side va)) then .error Code.far
  else if Leaf.peerv l then
    if s.unreachable.contains (Leaf.peer l) && acc != .store then .error Code.unreachable
    else .ok (peerKey (Leaf.peer l) ((f + off) % 2 ^ 48))
  else
    let pa := e.place side va
    if isConfig pa then (if sys then .ok pa else .error Code.permission)
    else if s.populated pa then .ok pa
    else .error Code.physical

/-! Translation within an instruction. -/

/-- The side of the activation of a slot. -/
def Slot.side (x : Slot) : Side :=
  match x.act with
  | some a => a.stamp.side
  | none => .none

/-- Translates an address for the slot being executed: its own TCM directly, anything else through the buffers, waiting for
a walk when they do not hold the page (R170, R188). The answer is a location or a code. -/
def xlate (va : W64) (acc : Acc) : M (Except Nat Nat) := do
  let s ← get
  let c := s.cur.core
  if va.toNat < tcmSize c then pure (.ok (tcmKey c va.toNat))
  else
    let x := s.me
    match s.lookup c s.cur.slot x.asid va with
    | .page e => do
      modify (fun s => s.touch c e)
      pure (s.access c x.side (s.cur.slot == 7) acc e va)
    | .fail code => pure (.error code)
    | .poison k => throw (.contain (some (k, 8)))
    | .pending => throw (.holdWalk va)

/-- A far access to a NEAR page does not migrate here: in a service slot (R291), on a copy hart (R182). -/
def State.staysFar (s : State) : Bool := slotClass s.cur.slot == 1 || Id.kind s.cur.core == 2

/-- The precise fault of a load, descriptor or table read whose translation fails (R185, R318); a far access migrates the
activation, or raises permission where it stays (R182, R291). -/
def dataFault {α : Type} (code : Nat) (va : W64) : M α := do
  let s ← get
  if code = Code.far then
    if s.staysFar then throw (.trap Cause.dataAccess va 3 none none) else throw (.near va)
  else throw (.trap Cause.dataAccess va (BitVec.ofNat 4 code) none none)

/-- A flat address with a bit of [63:57] set raises address (R84). -/
def flatOk (a : W64) : M Unit := if a.toNat < 2 ^ 57 then pure () else stopTrap Cause.address a

/-! The capacity map (R340): the one part of configuration space whose layout the spec gives. -/

namespace CapMap

def die (s : State) (d off : Nat) : W64 :=
  if off < 0x100 then
    let c := off / 8
    BitVec.ofNat 64 (((List.range 64).filter (fun k => !s.capacity.lostCores.contains (Id.compute d c k))).foldl
      (fun a k => a + 2 ^ k) 0)
  else if off < 0x200 then
    let c := (off - 0x100) / 8
    BitVec.ofNat 64 (((List.range 64).filter (fun b => !s.capacity.lostBanks.contains (d * 32 + c, b))).foldl
      (fun a k => a + 2 ^ k) 0)
  else if off = 0x200 then BitVec.ofNat 64 (s.sramQ d)
  else if off = 0x208 then
    BitVec.ofNat 64 ((List.range 32).foldl (fun a c => a + s.capacity.spares.get (d * 32 + c) 0 % 4 * 4 ^ c) 0)
  else if off = 0x210 then BitVec.ofNat 64 (s.parkPlaces.get d 0 % 2 ^ 32)
  else 0

def stack (s : State) (st off : Nat) : W64 :=
  if off = 0 then
    BitVec.ofNat 64 (((List.range 64).filter (fun p => !s.capacity.lostChannels.contains (st, p))).foldl
      (fun a k => a + 2 ^ k) 0)
  else
    BitVec.ofNat 64 (((List.range 32).filter (fun i => !s.capacity.lostBankCores.contains (Id.bank st i))).foldl
      (fun a k => a + 2 ^ k) 0)

/-- On-package SRAM bytes, TCM of compute cores included: scratchpads, shared SRAM and TCM within the reported capacity. -/
def sramBytes (s : State) : Nat :=
  (8192 - s.capacity.lostCores.length) * 0x6000 +
    (List.range 128).foldl (fun a c => a + s.scratchBanks c * 32768) 0 +
    (List.range 4).foldl (fun a d => a + 64 * s.sramQ d * 32768) 0

def hbmBytes (s : State) : Nat := (512 - s.capacity.lostChannels.length) * 2 ^ 30

/-- The dword at an offset of the map. -/
def dword (s : State) (off : Nat) : W64 :=
  if off = 0 then s.capacity.gen.setWidth 64
  else if off = 8 then BitVec.ofNat 64 (sramBytes s)
  else if off = 0x10 then BitVec.ofNat 64 (hbmBytes s)
  else if 0x40 ≤ off ∧ off < 0x1040 then die s ((off - 0x40) / 0x400) ((off - 0x40) % 0x400)
  else if 0x1040 ≤ off ∧ off < 0x10C0 then stack s ((off - 0x1040) / 16) ((off - 0x1040) % 16)
  else 0

/-- Bytes of the map, the last dword included. -/
def size : Nat := 0x10C0

/-- The byte of configuration space at a physical address, if it lies in the map. -/
def byte (s : State) (pa : Nat) : Option Byte :=
  let base := capmapBase
  if base ≤ pa ∧ pa < base + size then
    let off := pa - base
    some (BitVec.ofNat 8 ((dword s (off / 8 * 8)).toNat / 256 ^ (off % 8)))
  else none

end CapMap

end Sys2Proof.Machine
end

