-- ==== Sys2Proof/Machine/Region.lean ====
section
/-! DEFINITION. Containment (11_consistency R243; 16 R307), and the atomic region a containment restarts (R234). -/

namespace Sys2Proof.Machine

/-- The value of R60 for IMM32 at a line. -/
def rel32 (line : W64) (i : BitVec 32) : W64 :=
  line + (i.extractLsb' 5 27).signExtend 64 * 64 + BitVec.ofNat 64 (2 * (i.toNat % 32))

/-- The value of R60 for IMM16 at a line. -/
def rel16 (line : W64) (i : Half) : W64 :=
  line + (i.extractLsb' 5 11).signExtend 64 * 64 + BitVec.ofNat 64 (2 * (i.toNat % 32))

/-- The slot may stand in an atomic region: its chunk begins after a CHKPT and so far keeps the limits of R234. -/
def Slot.inRegion (x : Slot) : Bool :=
  x.ended.isNone && (match x.chunk with
    | some c => c.region && decide (c.count < 64) && decide (c.lineCount ≤ 8) && decide (c.reads.length ≤ 32)
    | none => x.attempt.region)

/-- What the code says of a region at one of its instructions: it is the second CHKPT; it ends the chunk or traps, so that there is no
region; execution goes on at one of some PCs; or what it does depends on values that are not looked at. -/
inductive Ahead where
  | chkpt | ends | unsure
  | to (l : List W64)

/-- An instruction as the code ahead shows it, `next` the PC after it (R80-R82, R227). -/
def ahead (line next : W64) : Instr → Ahead
  | .chkpt => .chkpt
  | .enda | .endaT | .eret | .trap _ | .migrate .. | .migrateNear .. | .mwait .. | .gbar _ | .gbarArrive _ | .gbarWait _
  | .cpy _ | .send _ _ _ _ _ true | .sendv _ _ _ _ _ _ true | .sendg _ _ _ _ _ true => .ends
  | .jalr .. | .spawn .. | .cpywait .. | .amoAdd .. | .amoAnd .. | .amoOr .. | .amoXor .. | .amoMin .. | .amoMax .. | .amoMinu ..
  | .amoMaxu .. | .amoSwap .. | .amoCas .. | .amoFadd .. | .amov .. => .unsure
  | .beq _ _ i | .bne _ _ i | .blt _ _ i | .bge _ _ i | .bltu _ _ i | .bgeu _ _ i | .loop _ i => .to [rel16 line i, next]
  | .jmp i | .jal _ i => .to [rel32 line i]
  | _ => .to [next]

/-- The halfwords of a line as a slot would fetch it, if it can: none where the line cannot be read, `some none` where its fetch would
trap. -/
def State.lineAhead (s : State) (c i : Nat) (line : W64) : Option (Option (List Half)) :=
  let x := s.slot c i
  let read (k : Nat) : Option (Option (List Half)) :=
    if isConfig k || (List.range 8).any (fun j => s.bad.contains (k / 8 + j)) then none
    else some (some (halves (Memory.readN s.mem k 64)))
  if x.fetch.line = some line then some (some x.fetch.slots)
  else if line.toNat < tcmSize c then read (tcmKey c line.toNat)
  else
    match s.walk x.asid line with
    | .page e =>
      match s.access c x.side (i == 7) .fetch e line with
      | .ok k => read k
      | .error _ => some none
    | .poison _ => none
    | _ => some none

/-- What stands at a PC of the code ahead. -/
def State.aheadAt (s : State) (c i : Nat) (pc : W64) : Ahead :=
  let line : W64 := pc &&& 0xFFFFFFFFFFFFFFC0
  if 2 ^ 57 ≤ pc.toNat then .ends
  else
    match s.lineAhead c i line with
    | none => .unsure
    | some none => .ends
    | some (some l) =>
      let n := pc.toNat / 2 % 32
      if !Line.legal l || pc.toNat % 2 == 1 || n == 0 || decide (Line.heads l < n) then .ends
      else
        match decode (Line.enc l n) with
        | .error _ => .ends
        | .ok ins => ahead line (if Line.last l n then line + 66 else pc + 2) ins

/-- The ways on from some PCs: whether one meets the second CHKPT within so many instructions, whether one does not, and whether one
comes to what is not looked at. -/
structure Ways where
  yes : Bool
  no : Bool
  unsure : Bool
  deriving DecidableEq, Repr

def State.ways (s : State) (c i : Nat) : Nat → List W64 → Ways → Ways
  | 0, pcs, w => { w with no := w.no || pcs != [] }
  | n + 1, pcs, w =>
    let r := pcs.foldl (fun (r : List W64 × Ways) pc =>
      match s.aheadAt c i pc with
      | .chkpt => (r.1, { r.2 with yes := true })
      | .ends => (r.1, { r.2 with no := true })
      | .unsure => (r.1, { r.2 with unsure := true })
      | .to l => (l.foldl (fun a p => if a.contains p then a else a ++ [p]) r.1, r.2)) ([], w)
    s.ways c i n r.1 r.2

/-- The containment of a slot restarts a region (R234): none where that hangs on what the slot would still execute, which is a free
choice (log 93). The instruction that is contained counts among the 64, and a CHKPT may follow the last of them. -/
def State.regionAt (s : State) (c i : Nat) : Option Bool :=
  let x := s.slot c i
  if !x.inRegion then some false
  else
    let done := match x.chunk with
      | some ch => ch.count
      | none => 0
    let w := s.ways c i (65 - done) [x.regs.pc] { yes := false, no := false, unsure := false }
    if w.yes && !w.no && !w.unsure then some true else if !w.yes && !w.unsure then some false else none

/-- A containment in a region restarts it from the instruction after its first CHKPT (R234); no squash is counted. -/
def Slot.restartRegion (x : Slot) : Slot :=
  match x.chunk with
  | none => x
  | some c =>
    { x with
      regs := c.saved
      chunk := none
      phase := .run
      parked := false
      fetch := { x.fetch with line := none }
      attempt := { squashes := c.squashes, order := c.order, issued := c.issued, later := c.later, reads := c.last, region := true } }

/-- A task before its first commit (R307). One that has migrated committed its chunk as it left: its restart point is the migration
message (R244, log 108). -/
def Act.early (a : Act) : Bool :=
  match a.task with
  | some t => t.state == .speculative || t.state == .finished || (t.state == .firm && a.restartable && a.trigger.portable.isNone)
  | none => false

/-- The table of R243: the trigger is redelivered in its place of arrival, or the group of record is killed and the host is told. Of a
task only a migration message is redelivered, its entry in flight again (R244, R306). -/
def State.containOut (s : State) (c i : Nat) (a : Act) : State :=
  if (a.task.isNone || a.trigger.portable.isSome) && a.restartable && !a.issuedMatrix && decide (a.contained < 2) then
    let s := { s with tasks := s.tasks.map (fun (t : TaskEntry) => if t.running = some (c, i) then { t with running := some (c, 99) } else t) }
    let s := s.endActivation c i true
    let p : Pending :=
      { msg := a.trigger, arrival := a.arrival, contained := a.contained + 1, undeliv := a.typ == 0xFF, byMask := false }
    s.modCore c (fun k => { k with inbox := insertPending p k.inbox })
  else
    ((s.killGroup a.stamp.asid a.stamp.group).killActivation c i).interrupt 1

/-- Contains a consumed error or a signature mismatch in a slot: a task before its first commit is aborted and restarts in place, at
most twice (R304, R307), and any other task meets its table at once; a region restarts (R234); else the table of R243 holds. -/
def State.contain (s : State) (c i : Nat) : State :=
  match (s.slot c i).act with
  | none => s
  | some a =>
    if a.early && decide (a.contained < 2) then
      (s.abort c i).modSlot c i (fun x => { x with act := x.act.map (fun a => { a with contained := a.contained + 1 }) })
    else if a.task.isSome then s.containOut c i a
    else
      let restart (s : State) : State := (s.discardAll (s.slot c i).orders).modSlot c i Slot.restartRegion
      match s.regionAt c i with
      | some true => restart s
      | some false => s.containOut c i a
      | none =>
        let t := { s with fresh := s.fresh + 1 }
        if bit (Config.freeWord s.fresh) 0 then restart t else t.containOut c i a

end Sys2Proof.Machine
end

