-- ==== Sys2Proof/Machine/Chunks.lean ====
section
/-! DEFINITION. A slot's own view of memory: loads that merge its buffered stores over committed memory and record what they
read, and stores that enter the store buffer (11_consistency R226-R228, R236; 04 R84-R86; 18 R319; 10 R225). -/

namespace Sys2Proof.Machine

/-- The bytes a part writes at a location, if it writes there. -/
def Part.byteAt (p : Part) (k : Nat) : Option Byte :=
  match p.key with
  | none => none
  | some b => if b ≤ k ∧ k < b + p.bytes.length then p.bytes[k - b]? else none

/-- The last byte a list of stores puts at a location, over an older value. A checked host or peer write has left (R236): its
line is held to the chunk's end, and its bytes are those in flight. -/
def storesByte (l : List Store) (k : Nat) (old : Option Byte) : Option Byte :=
  l.foldl (fun a st =>
    if st.checked && isExt k then a else st.parts.foldl (fun a p => (p.byteAt k).or a) a) old

/-- The last byte that writes in flight put at a location (R236). -/
def flightByte (l : List ExtWrite) (k : Nat) : Option Byte :=
  l.foldl (fun a w => if w.key ≤ k ∧ k < w.key + w.bytes.length then (w.bytes[k - w.key]?).or a else a) none

/-- The slot's buffered stores, oldest first: those of a chunk that trap entry ended, then the open chunk's (R316). -/
def Slot.stores (x : Slot) : List Store :=
  (match x.ended with
    | some c => c.stores
    | none => []) ++
  (match x.chunk with
    | some c => c.stores
    | none => [])

/-- Applies one buffered item to the n bytes from a location; an ARED adds to a whole line. -/
def Store.apply (st : Store) (k : Nat) (b : List Byte) : List Byte :=
  match st.adds with
  | some a => if a.key = k ∧ b.length = 64 then bvBytes (addLanes a.t a.mask (bytesBv 512 b) a.v) 64 else b
  | none => b.mapIdx (fun i x => (storesByte [st] (k + i) (some x)).getD x)

/-- A line as the slot sees it, adds included (R225, R228). -/
def State.ownLine (s : State) (x : Slot) (line : Nat) : List Byte :=
  x.stores.foldl (fun b st => st.apply (line * 64) b) (Memory.readN s.mem (line * 64) 64)

/-- The slot's byte at a location: its own buffered byte, for host and peer memory its own in flight, or the committed one
(R228, R236). -/
def State.ownByte (s : State) (x : Slot) (k : Nat) : Byte :=
  match storesByte x.stores k (if isExt k then flightByte x.ext k else none) with
  | some b => b
  | none => Memory.read s.mem k

/-- An ARED of the slot's chunks is pending on a line (R225). -/
def Slot.addsOn (x : Slot) (line : Nat) : Bool := x.stores.any (fun st => st.adds.any (fun a => a.key / 64 == line))

/-- The slot's n bytes from a location: of a line on which an ARED is pending, the line is formed first (R225). -/
def State.ownBytes (s : State) (x : Slot) (k n : Nat) : List Byte :=
  (List.range n).map (fun i =>
    let a := k + i
    if x.addsOn (a / 64) then (s.ownLine x (a / 64)).getD (a % 64) 0 else s.ownByte x a)

/-- Records lines in the read signature of the open chunk; host and peer lines are outside chunks (R228, R236). -/
def Slot.noteRead (x : Slot) (k n : Nat) : Slot :=
  if isExt k then x else
  match x.chunk with
  | none => x
  | some c =>
    let l0 := lineOf k
    let l1 := lineOf (k + n - 1)
    let add : List Nat → Nat → List Nat := fun r l => if r.contains l then r else l :: r
    { x with chunk := some { c with reads := if l1 = l0 then add c.reads l0 else add (add c.reads l0) l1 } }

/-- Corrected errors of a row so far (R334). -/
def Capacity.rowCount (c : Capacity) (r : Row) : Nat :=
  match c.sramRows.find? (fun e => e.1 == r) with
  | some e => e.2
  | none => 0

/-- Counts a corrected error of an SRAM row and schedules the row at the eighth (R334). -/
def Capacity.countRow (c : Capacity) (r : Row) : Capacity :=
  let n := c.rowCount r + 1
  { c with
    sramRows := (r, n) :: c.sramRows.filter (fun e => e.1 != r)
    scheduled := if n = 8 then c.scheduled ++ [r] else c.scheduled }

/-- A read finds one flipped bit in a word: it is corrected in place (R332), and counts for its row, that of its first byte, where
it lies in SRAM (R334; log 7). -/
def State.correct (s : State) (word : Nat) : State :=
  if s.soft.contains word then
    { s with
      soft := s.soft.filter (· != word)
      capacity := match s.rowOf (word * 8) with
        | some r => s.capacity.countRow r
        | none => s.capacity }
  else s

/-- Corrects the words that n > 0 bytes from a location lie in (R332). -/
def State.correctRange (s : State) (k n : Nat) : State :=
  if s.soft = [] then s else (List.range ((k + n - 1) / 8 - k / 8 + 1)).foldl (fun s i => s.correct (k / 8 + i)) s

/-- A walk of the tables now: what it finds, with flipped bits of the entries it reads corrected (R178, R332). -/
def State.walked (s : State) (asid : Asid) (va : W64) : State × WalkResult :=
  ((if s.soft = [] then s else (s.walkReads va (s.space asid).root 4).foldl (fun t k => t.correct (k / 8)) s), s.walk asid va)

/-- Committed bytes as the host and the hub's signatures read them: single-bit errors are corrected (R332); what they get of a word
that fails correction is not given (log 4). -/
def State.hostBytes (s : State) (pa n : Nat) : List Byte × State :=
  let l := (Memory.readN s.mem pa n).zipIdx.map (fun p =>
    if s.bad.contains ((pa + p.2) / 8) then (Config.freeWord (s.fresh + p.2)).setWidth 8 else p.1)
  let t := s.correctRange pa n
  (l, if s.bad = [] then t else { t with fresh := t.fresh + n })

/-- A word of the range that fails correction is delivered: some byte of it comes from memory (R243, R332). -/
def State.poisoned (s : State) (x : Slot) (k n : Nat) : Bool :=
  s.bad != [] && (List.range n).any (fun i => s.bad.contains ((k + i) / 8) && (storesByte x.stores (k + i) none).isNone)

/-- A range holds a word that fails correction. -/
def State.badRange (s : State) (k n : Nat) : Bool :=
  s.bad != [] && (List.range n).any (fun i => s.bad.contains ((k + i) / 8))

/-- The errors consumed from a core's TCM and from a pseudo-channel are counted (R335, R337). -/
def State.noteConsumed (s : State) (k n : Nat) : State :=
  match (List.range n).find? (fun i => s.bad.contains ((k + i) / 8)) with
  | none => s
  | some i =>
    let w := k + i
    if isTcm w then
      let c := (w - 2 ^ 61) / 65536
      s.modCore c (fun y => { y with consumed := y.consumed + 1, failing := y.failing || decide (3 ≤ y.consumed + 1) })
    else if isHbm w then
      let e := (hbmStack w * 64 + hbmChannel w, Config.rowIn (w / 8 * 8))
      if s.capacity.channelRows.contains e then s
      else { s with capacity := { s.capacity with channelRows := e :: s.capacity.channelRows } }
    else s

/-- Strips of a gathered row that can still arrive: the queue holds 8 entries (R62, R217). -/
def Queue.awaiting (q : Queue) : Bool :=
  match q.bind with
  | .rows false st => decide (q.fetched.length < (if st.length ≤ 8 then st.length else 8))
  | _ => false

/-- A stream write queue (kind 4). -/
def Queue.writes (q : Queue) : Bool :=
  match q.bind with
  | .stream true _ _ => true
  | _ => false

/-- A stream write to host or peer memory that has not left yet (R236). -/
def Slot.streamPending (x : Slot) : Bool :=
  x.stores.any (fun st => !st.checked && st.src == 4 && st.parts.any (fun p => p.key.any isExt))

/-- Matrix commands, gathered strips and stream writes the slot issued that have reads or writes to perform (R239). The elements
pushed into device memory in the open chunk are stores of it and are not waited for (R196). -/
def State.engBusy (s : State) (c i : Nat) : Bool :=
  let x := s.slot c i
  let cmds := match x.act with
    | some a => (s.core c).mq.any (fun m => m.act == a.id)
    | none => false
  cmds || x.regs.q.toList.any Queue.awaiting || x.ext.any (·.stream) || x.streamPending

/-- What the engines have to do for a slot before the reads that follow an acquire FENCE with .eng (R239). -/
def Slot.engOwes (x : Slot) : Bool :=
  (x.regs.q.toList.zipIdx).any (fun q => x.acqOld.contains q.2 && (q.1.awaiting || (q.1.writes && (x.ext.any (·.stream) || x.streamPending))))

/-- An acquire FENCE of the slot holds back host and peer reads and gather lanes (R239). -/
def State.fenced (s : State) (c i : Nat) : Bool :=
  let x := s.slot c i
  match x.act with
  | some a =>
    (s.core c).mq.any (fun m => m.act == a.id && decide (m.num < x.acq)) || (x.acqEng && x.engOwes)
  | none => false

/-- It holds back the strips of a queue gathered since (R239). -/
def State.stripFenced (s : State) (c i : Nat) (q : Fin 16) : Bool :=
  !(s.slot c i).acqOld.contains q.val && s.fenced c i

/-- It holds back the operand reads of a command issued since (R239). -/
def State.cmdFenced (s : State) (m : MCmd) : Bool :=
  (s.core m.core).mq.any (fun o => o.act == m.act && decide (o.num < m.after)) ||
    (m.afterEng && (let x := s.slot m.core m.slot; x.act.any (fun a => a.id == m.act) && x.engOwes))

/-- The bytes a load of the slot reads at a location (R228); the capacity map and the rest of configuration space apart. Each load reads
whole when its instruction executes, in program order (log 66). -/
def loadAt (k n : Nat) : M (List Byte) := do
  let s ← get
  let x := s.me
  if isConfig k then
    match (List.range n).mapM (fun i => CapMap.byte s (k + i)) with
    | some l => pure l
    | none => throw (.fault .configSpace)
  else if isExt k && (s.fenced s.cur.core s.cur.slot || s.hubCut s.cur.core) then throw .hold
  else if s.poisoned x k n then throw (.contain (some (k, n)))
  else
    modify (fun s => (s.setMe (x.noteRead k n)).correctRange k n)
    pure (s.ownBytes x k n)

/-! The store buffer. -/

/-- Lines a slot holds, its ended chunk included. -/
def Slot.lineCount (x : Slot) : Nat :=
  (match x.ended with
    | some c => c.lineCount
    | none => 0) +
  (match x.chunk with
    | some c => c.lineCount
    | none => 0)

/-- Shared lines in use by the other slots of the core (R228). -/
def State.sharedLines (s : State) (c me : Nat) : Nat :=
  ((s.core c).slots.filter (fun p => p.1 != me)).foldl (fun a p => a + (p.2.lineCount - 8)) 0

/-- Whether a slot can hold n lines in all: 8 of its own and what the 64 shared ones leave (R228). -/
def State.roomFor (s : State) (n : Nat) : Bool := decide (n - 8 + s.sharedLines s.cur.core s.cur.slot ≤ 64)

/-- Changes the open chunk of the slot being executed. -/
def State.modChunk (s : State) (f : Chunk → Chunk) : State :=
  s.modMe (fun x => { x with chunk := x.chunk.map f })

/-- Head admission for store-buffer lines (R305): speculative tasks of the address space that hold lines on the core go back to
their queues, highest key first, until there is room. -/
def State.admitLines (s : State) (total : Nat) : List (TaskKey × Nat × Nat) → State
  | [] => s
  | (_, c, i) :: r =>
    if s.roomFor total then s
    else if c = s.cur.core ∧ i ≠ s.cur.slot ∧ 0 < (s.slot c i).lineCount then (s.abortBack c i).admitLines total r
    else s.admitLines total r

/-- Waits for store-buffer lines: an instruction that needs more lines than there are ends its chunk and begins the next one;
with its chunk already empty it waits for lines other slots hold, and the head of an address space has freed what later tasks hold
(R227, R228, R305). -/
def needLines (total : Nat) : M Unit := do
  let s ← get
  if s.roomFor total then pure ()
  else if s.headSlot s.cur.core s.cur.slot then do
    let t := s.admitLines total (s.speculative s.me.asid)
    if t.roomFor total then set t else throw (.holdLines total)
  else throw .holdCommit

/-- Entries of the store-fault queue a store needs (R319). -/
def Store.need (st : Store) : Nat := if st.wide = 0 then 1 else 2

def Slot.unchecked (x : Slot) : Nat := (x.stores.filter (fun st => !st.checked)).length

/-- A store enters the buffer (R85, R319): it waits while the queue might overflow, raises store-queue-full when the entries
held alone leave no room, and waits for a buffer line. -/
def putStore (st : Store) (va : W64) : M Unit := do
  if st.parts = [] then pure () else
  let s ← get
  let x := s.me
  let held := x.regs.sfq.length
  if held + st.need > 8 then stopTrap Cause.storeQueueFull va
  else if held + 2 * x.unchecked + st.need > 8 then throw .hold
  else
    let cl := match x.chunk with
      | some c => c.lines
      | none => []
    let more := (partLines st.parts cl).length - cl.length
    needLines (x.lineCount + more)
    modify (fun s => s.modChunk (fun c => { c with stores := c.stores ++ [st] }))

/-- A location with the shadow offset of the slot's side removed (R347). -/
def State.live (s : State) (va : W64) (k : Nat) : Nat :=
  if s.me.side = .none then k
  else
    match s.lookup s.cur.core s.cur.slot s.me.asid va with
    | .page e => if Leaf.shadow e.leaf then e.place .none va else k
    | _ => k

/-- Where the bytes of a store that may not write its page lie until its check fails: the slot's own loads read them (R85,
R321). -/
def State.refusedAt (s : State) (va : W64) (code : Nat) : Option Nat :=
  if code ≠ Code.permission then none
  else
    match s.lookup s.cur.core s.cur.slot s.me.asid va with
    | .page e =>
      let k := e.place s.me.side va
      if Leaf.peerv e.leaf || isConfig k || !s.populated k then none else some k
    | _ => none

/-- One address of a store: translated for writing, with its check's outcome recorded for STORE_CHECK (R86, R319). A far
access to a NEAR page migrates, or is a permission failure where it stays (R182, R291) and in a stream (R182). Writes of a redundant node to host or
peer memory fail permission (R346). A system slot's store to configuration space, the capacity map included, stops (log 64). -/
def storePart (lane : Nat) (va : W64) (bytes : List Byte) (stream : Bool := false) : M Part := do
  let r ← xlate va .store
  let s ← get
  let failing (code : Nat) : Part :=
    { lane := lane, va := va, bytes := bytes, key := s.refusedAt va code, live := 0, fail := code }
  match r with
  | .ok k =>
    if isConfig k then throw (.fault .configSpace)
    else if isExt k && s.me.side != .none then pure (failing Code.permission)
    else pure { lane := lane, va := va, bytes := bytes, key := some k, live := s.live va k, fail := 0 }
  | .error code =>
    if code = Code.far then
      if stream || s.staysFar then pure (failing Code.permission) else throw (.near va)
    else pure (failing code)

/-- Mem.load of R4 through a flat address: translated, checked, read (R85, R86). -/
def memLoad (va : W64) (n : Nat) : M (List Byte) := do
  match ← xlate va .load with
  | .ok k => loadAt k n
  | .error code => dataFault code va

/-- A scalar or vector store of one address. -/
def memStore (va : W64) (bytes : List Byte) (src size wide : Nat) : M Unit := do
  let p ← storePart 0 va bytes (src == 4)
  let s ← get
  putStore { pc := s.regs.pc, src := src, size := size, wide := wide, parts := [p], adds := none, checked := false } va

/-- Reads a dword as a load of the chunk. -/
def loadDword (va : W64) : M W64 := do
  flatOk va
  let b ← memLoad va 8
  pure (bytesBv 64 b)

end Sys2Proof.Machine
end

