-- ==== Sys2Proof/Machine/Operands.lean ====
section
/-! DEFINITION. Operand forms: which files a field accepts, pops and pushes of queue registers, reading sources and writing
destinations (03_instruction_lines R62-R67, 10 R195-R201, R379). -/

namespace Sys2Proof.Machine

/-! Files a field accepts (R64, R65). -/

/-- A g register, a q register in its place, or a k register inside a handler. -/
def okG (r : Reg) : M Unit :=
  match r with
  | .g _ => pure ()
  | .q _ => pure ()
  | .k _ => do refuseIf (!(← get).regs.inHandler)
  | _ => illegalOperand

/-- As `okG` for a field that takes no q: it is read and written (R66). -/
def okGOnly (r : Reg) : M Unit :=
  match r with
  | .g _ => pure ()
  | .k _ => do refuseIf (!(← get).regs.inHandler)
  | _ => illegalOperand

/-- A v register, or a q register in its place (R151). -/
def okV (r : Reg) : M Unit :=
  match r with
  | .v _ => pure ()
  | .q _ => pure ()
  | _ => illegalOperand

def okVOnly (r : Reg) : M Unit :=
  match r with
  | .v _ => pure ()
  | _ => illegalOperand

def okM (r : Reg) : M Unit :=
  match r with
  | .m _ => pure ()
  | _ => illegalOperand

/-- A field that names a queue as the thing bound, examined or cleared (R66). -/
def okQ (r : Reg) : M (Fin 16) :=
  match r with
  | .q n => pure n
  | _ => illegalOperand

/-! Queue kinds (R195, R379). -/

def Queue.kind (x : Queue) : Nat :=
  match x.bind with
  | .unbound => 0
  | .consumer .. => 1
  | .producer .. => 2
  | .stream false .. => 3
  | .stream true .. => 4
  | .labels .. => 5
  | .rows true _ => 6
  | .rows false _ => 7

/-- R379: which kinds take a pop. -/
def takesPop (k : Nat) : Bool := k != 2 && k != 4

/-- R379: which kinds take a push. -/
def takesPush (k : Nat) : Bool := k == 0 || k == 2 || k == 4

/-- The address of element number i of a pattern, i0 fastest (R200). -/
def Pattern.addr (p : Pattern) (i : Nat) : W64 :=
  let i0 := i % p.n0
  let i1 := i / p.n0 % p.n1
  let i2 := i / p.n0 / p.n1
  p.base + BitVec.ofNat 64 i0 * p.st0.signExtend 64 + BitVec.ofNat 64 i1 * p.st1.signExtend 64 +
    BitVec.ofNat 64 i2 * p.st2.signExtend 64

/-- The code recorded against a stream element that is not aligned to its width; it is the model's own and no code of R215. -/
def codeMisaligned : Nat := 11

/-- The fault of a pop whose fetch failed (R201, R281). -/
def popFault {α : Type} (code : Nat) (va : W64) : M α :=
  if code = codeMisaligned then stopTrap Cause.misaligned va
  else if code = Code.address then stopTrap Cause.address va
  else if code = Code.poison then do
    let s ← get
    throw (.contain (match s.walk s.me.asid va with
      | .poison k => some (k, 8)
      | _ => none))
  else throw (.trap Cause.dataAccess va (BitVec.ofNat 4 code) none none)

def qIndex (i : Fin 16) : W64 := BitVec.ofNat 64 i.val

def setQueue (i : Fin 16) (x : Queue) : M Unit := modify (fun s => s.modRegs (fun r => r.writeQ i x))

/-- The next non-empty slot of a label table whose key lies in range, from slot i on, at most `fuel` slots; none at the
stopping point (R127). -/
def scanNext (lo hi table : W64) : Nat → Nat → M (Option (Nat × V512))
  | _, 0 => pure none
  | i, fuel + 1 => do
    let va := table + BitVec.ofNat 64 (16 + 16 * i)
    let k ← loadDword va
    if bit k 63 then
      if hi.toNat < k.toNat then pure none
      else if lo.toNat ≤ k.toNat then do
        let w ← loadDword (va + 8)
        pure (some (i, BitVec.ofNat 512 (k.toNat + w.toNat * 2 ^ 64 + i * 2 ^ 128)))
      else scanNext lo hi table (i + 1) fuel
    else scanNext lo hi table (i + 1) fuel

/-- Takes the oldest entry of a queue (R66, R67, R195-R201). What was translated ahead of a removal keeps its frame for a pop after it
(R192, R201; log 100). -/
def popQ (i : Fin 16) : M V512 := do
  let s ← get
  let x := s.regs.q[i]
  match x.bind with
  | .unbound =>
    match x.entries with
    | [] => stopTrap Cause.queueEmpty (qIndex i)
    | e :: r => do setQueue i { x with entries := r }; pure e
  | .consumer _ _ =>
    match x.entries with
    | [] => if x.closed then stopTrap Cause.streamEnd (qIndex i) else throw .holdCommit
    | e :: r => do setQueue i { x with entries := r }; pure e
  | .producer _ _ => illegalOperand
  | .stream true _ _ => illegalOperand
  | .stream false p pos =>
    if x.count = 0 then stopTrap Cause.streamEnd (qIndex i) else
    match x.fetched with
    | .ok k :: r => do
      setQueue i { x with bind := .stream false p (pos + 1), count := x.count - 1, fetched := r }
      let b ← loadAt k p.w
      pure (bytesBv 512 b)
    | .fail code :: _ => popFault code (p.addr pos)
    | _ => throw .holdCommit
  | .labels lo hi table n pos =>
    if x.count = 0 then stopTrap Cause.streamEnd (qIndex i) else do
    match ← scanNext lo hi table pos (n - pos) with
    | some (j, e) => do
      setQueue i { x with bind := .labels lo hi table n (j + 1), count := x.count - 1 }
      pure e
    | none => do
      setQueue i { x with count := x.count - 1 }
      pure 0
  | .rows kv strips =>
    if x.count = 0 then stopTrap Cause.streamEnd (qIndex i) else
    match x.fetched, strips with
    | .fail code :: _, st :: _ => popFault code st.va
    | .ok k :: r, st :: rest => do
      setQueue i { x with bind := .rows kv rest, count := x.count - 1, fetched := r }
      let b ← loadAt k st.len
      pure (bytesBv 512 b)
    | .two k n k2 :: r, st :: rest => do
      setQueue i { x with bind := .rows kv rest, count := x.count - 1, fetched := r }
      let b ← loadAt k n
      let b2 ← loadAt k2 (st.len - n)
      pure (bytesBv 512 (b ++ b2))
    | _, _ => throw .holdCommit

/-- Pushes to a partner's queue that wait for this slot's commit (R198). -/
def Slot.openPushes (x : Slot) (slot : Nat) (q : Fin 16) : Nat :=
  let n (c : Option Chunk) : Nat :=
    match c with
    | some c => (c.acts.filter (fun a => match a with
        | .push sl pq _ _ => sl == slot && pq == q
        | _ => false)).length
    | none => 0
  n x.ended + n x.chunk

/-- Whether the pairing of a producing end has formed: the partner's queue consumes from it, by a committed binding, in one
address space (R197, R226). -/
def State.paired (s : State) (c me : Nat) (i : Fin 16) (slot : Nat) (pq : Fin 16) : Bool :=
  let y := s.slot c slot
  (match (y.oldest.q[pq]).bind with
    | .consumer sl q => sl == me && q == i
    | _ => false) && y.act.isSome && y.asid == (s.slot c me).asid

/-- Places a push of a producing end could take now (R196, R198). -/
def State.pushPlaces (s : State) (c me : Nat) (i : Fin 16) (slot : Nat) (pq : Fin 16) : Nat :=
  if s.paired c me i slot pq then
    8 - ((s.slot c slot).oldest.q[pq]).entries.length - (s.slot c me).openPushes slot pq
  else 0

/-- Appends an entry to a queue (R66, R67, R198, R201). -/
def pushQ (i : Fin 16) (e : V512) : M Unit := do
  let s ← get
  let x := s.regs.q[i]
  match x.bind with
  | .unbound =>
    if 8 ≤ x.entries.length then stopTrap Cause.queueFull (qIndex i)
    else setQueue i { x with entries := x.entries ++ [e] }
  | .producer slot pq =>
    if x.closed then stopTrap Cause.streamEnd (qIndex i)
    else if s.pushPlaces s.cur.core s.cur.slot i slot pq = 0 then throw .holdCommit
    else modify (fun s => s.modChunk (fun c => { c with acts := c.acts ++ [.push slot pq i e] }))
  | .stream true p pos =>
    if x.count = 0 then stopTrap Cause.streamEnd (qIndex i) else do
    let va := p.addr pos
    flatOk va
    if va.toNat % p.w ≠ 0 then stopTrap Cause.misaligned va else
    setQueue i { x with bind := .stream true p (pos + 1), count := x.count - 1 }
    memStore va (bvBytes e p.w) 4 (if p.w = 4 then 2 else 0) (if p.w = 4 then 0 else if p.w = 16 then 1 else 2)
  | _ => illegalOperand

/-! Sources and destinations. -/

/-- Entries popped for an instruction, one for each queue named in a source (R66). -/
abbrev Pops := List (Fin 16 × V512)

def isQ : Reg → Bool
  | .q _ => true
  | _ => false

/-- The queues named in source fields, each once. -/
def queuesOf (l : List Reg) : List (Fin 16) :=
  l.foldl (fun a r =>
    match r with
    | .q n => if a.contains n then a else a ++ [n]
    | _ => a) []

/-- R379: every queue named in a source takes a pop and the one named as destination a push, before any does. -/
def kindsOk (qs : List (Fin 16)) (dst : Option Reg) : M Unit := do
  let r := (← get).regs
  refuseIf (qs.any (fun i => !takesPop (r.q[i]).kind))
  match dst with
  | some (.q i) => refuseIf (!takesPush (r.q[i]).kind)
  | _ => pure ()

def popList : List (Fin 16) → M Pops
  | [] => pure []
  | i :: r => do
    let e ← popQ i
    let t ← popList r
    pure ((i, e) :: t)

/-- Pops the source queues of an instruction, after the checks of R379. -/
def operands (srcs : List Reg) (dst : Option Reg) : M Pops :=
  if srcs.any isQ || dst.any isQ then do
    let qs := queuesOf srcs
    kindsOk qs dst
    popList qs
  else pure []

/-- The value a scalar source gives, if its pop does not fail; nothing is popped. -/
def peekG (r : Reg) : M (Option W64) := do
  let s ← get
  match r with
  | .g n => pure (some (s.regs.readG n))
  | .k n => pure (some s.regs.k[n])
  | .q i => do
    let e ← tryCatchThe Stop (do pure (some ((← popQ i).setWidth 64))) (fun _ => pure none)
    set s
    pure e
  | _ => pure none

/-- The value a vector source gives, if its pop does not fail; nothing is popped. -/
def peekV (r : Reg) : M (Option V512) := do
  let s ← get
  match r with
  | .v n => pure (some (s.regs.readV n))
  | .q i => do
    let e ← tryCatchThe Stop (do pure (some (← popQ i))) (fun _ => pure none)
    set s
    pure e
  | _ => pure none

/-- Refuses an instruction for the operand values that stand before any queue is popped: an operand value that is refused comes before
every fault of execution, a pop's among them (R71). -/
def refuseKnown (srcs : List Reg) (bad : (Reg → Option W64) → Bool) : M Unit :=
  if srcs.any isQ then do
    let known ← srcs.mapM (fun r => do pure (r, ← peekG r))
    refuseIf (bad (fun r => (known.find? (fun e => e.1 == r)).bind (·.2)))
  else pure ()

def popped (p : Pops) (i : Fin 16) : V512 :=
  match p.find? (fun e => e.1 == i) with
  | some e => e.2
  | none => 0

/-- A scalar source: bytes [7:0] of a popped entry for a queue (R66). -/
def readG (p : Pops) (r : Reg) : M W64 := do
  let x := (← get).regs
  match r with
  | .g n => pure (x.readG n)
  | .k n => pure x.k[n]
  | .q i => pure ((popped p i).setWidth 64)
  | _ => illegalOperand

/-- A vector source: all 64 bytes of a popped entry for a queue. -/
def readV (p : Pops) (r : Reg) : M V512 := do
  let x := (← get).regs
  match r with
  | .v n => pure (x.readV n)
  | .q i => pure (popped p i)
  | _ => illegalOperand

def readM (r : Reg) : M W64 := do
  let x := (← get).regs
  match r with
  | .m n => pure (x.readM n)
  | _ => illegalOperand

/-- The mask of the mask field (R68). -/
def maskOf (m : Fin 8) : M W64 := do pure ((← get).regs.readM m)

/-- A scalar destination: a queue receives a push whose other bytes are zero (R66). -/
def writeG (r : Reg) (x : W64) : M Unit :=
  match r with
  | .g n => modify (fun s => s.modRegs (fun y => y.writeG n x))
  | .k n => modify (fun s => s.modRegs (fun y => y.writeK n x))
  | .q i => pushQ i (x.setWidth 512)
  | _ => illegalOperand

def writeV (r : Reg) (x : V512) : M Unit :=
  match r with
  | .v n => modify (fun s => s.modRegs (fun y => y.writeV n x))
  | .q i => pushQ i x
  | _ => illegalOperand

def writeM (r : Reg) (x : W64) : M Unit :=
  match r with
  | .m n => modify (fun s => s.modRegs (fun y => y.writeM n x))
  | _ => illegalOperand

/-- A 64-byte value the spec does not give: an entry a queue receives under a write mask has no old lanes (log 4). -/
def freeVec : M V512 := do
  let n := (← get).fresh
  modify (fun s => { s with fresh := n + 8 })
  pure (BitVec.ofNat 512 (packLanes 64 ((List.range 8).map (fun i => (Config.freeWord (n + i)).toNat))))

/-- What the lanes a write mask leaves out keep (R151). -/
def oldV (d : Reg) : M V512 := do
  match d with
  | .v n => pure ((← get).regs.readV n)
  | _ => freeVec

/-- A fault of a load whose base came from a queue leaves that pop standing (R86), but for a label miss, after which ERET repeats the
lookup from the original handle (R114, log 114). -/
def keepBase {α : Type} (r : Reg) (m : M α) : M α :=
  match r with
  | .q i => tryCatchThe Stop m (fun e =>
    match e with
    | .trap c v u k _ => throw (.trap c v u k (if c = Cause.labelMiss then none else some i))
    | e => throw e)
  | _ => m

end Sys2Proof.Machine
end

