-- ==== Sys2Proof/Machine/Flags.lean ====
section
/-! DEFINITION. The flags of FPST and lane-by-lane computation that gathers them (07_number_formats R143, R144; 08 R151). -/

namespace Sys2Proof.Machine

/-- Sets flags of FPST (R143, R144). -/
def raiseFlags (f : Flags) : M Unit :=
  modify (fun s => s.modRegs (fun r => { r with fpst := r.fpst ||| f.setWidth 64 }))

/-- FPST.RM (R143). -/
def Regs.rm (r : Regs) : Rnd :=
  match fld r.fpst 8 2 with
  | 0 => .rne
  | 1 => .rtz
  | 2 => .rdn
  | _ => .rup


/-- Lane results under a write mask: an excluded lane keeps its old value and sets no flag (R151, R144). -/
def mapLanes (w : Nat) (mask : W64) (old : V512) (f : Nat → Nat × Flags) : V512 × Flags :=
  let r := (List.range (512 / w)).map (fun i => if mask.getLsbD i then f i else (lane w old i, 0))
  (ofLanes w (r.map (·.1)), r.foldl (fun a x => a ||| x.2) 0)

/-- A predicate of each lane under a mask; excluded lanes and the bits above the lanes are zero (R158). -/
def maskLanes (w : Nat) (mask : W64) (f : Nat → Bool × Flags) : W64 × Flags :=
  let r := (List.range (512 / w)).map (fun i => if mask.getLsbD i then f i else (false, 0))
  (BitVec.ofNat 64 (packLanes 1 (r.map (fun x => if x.1 then 1 else 0))), r.foldl (fun a x => a ||| x.2) 0)

end Sys2Proof.Machine
end

