-- ==== Sys2Proof/Machine/Labels.lean ====
section
/-! DEFINITION. Path labels and the heddle: descriptors, well-formed labels, matching, rewriting and the lookup that gives a
label's storage address (05_path_labels R102-R117). -/

namespace Sys2Proof.Machine

/-- A usable descriptor (R103): the widths of the levels in use, the strict bit and log2 of the node size. -/
structure Skein where
  widths : List Nat
  strict : Bool
  log2 : Nat
  deriving DecidableEq, Repr

/-- Reads a descriptor's two words (R103). -/
def skeinOf (w0 w1 : W64) : Option Skein :=
  let n := fld w1 0 4 + 1
  let ws := (List.range n).map (fun i => fld w0 (4 * i) 4 + 1)
  let rest := (List.range 16).all (fun i => i < n || fld w0 (4 * i) 4 == 0)
  if bit w1 63 && fld w1 5 3 == 0 && fld w1 12 51 == 0 && rest && decide (ws.sum ≤ 48) then
    some { widths := ws, strict := bit w1 4, log2 := fld w1 8 4 + 3 }
  else none

namespace Path

/-- The lowest PATH bit of each level's field, top level first (R105). -/
def shifts : List Nat → Nat → List Nat
  | [], _ => []
  | w :: r, top => (top - w) :: shifts r (top - w)

/-- The fields of a label, level 0 first (R105). -/
def fields (ws : List Nat) (l : W64) : List Nat :=
  (ws.zip (shifts ws 48)).map (fun p => fld l p.2 p.1)

/-- The leading non-zero fields: their number is the depth (R105). -/
def depth (ws : List Nat) (l : W64) : Nat := ((fields ws l).takeWhile (· != 0)).length

/-- A label with the given leading fields, the others zero. -/
def ofFields (ws : List Nat) (skein : Nat) (fs : List Nat) : W64 :=
  let p := ((ws.zip (shifts ws 48)).zip fs).foldl (fun a x => a + x.2 * 2 ^ x.1.2) 0
  BitVec.ofNat 64 (2 ^ 63 + skein * 2 ^ 48 + p)

def skein (l : W64) : Nat := fld l 48 15

/-- R105, for a label whose descriptor is usable. -/
def wellFormed (ws : List Nat) (l : W64) : Bool :=
  bit l 63 && ((fields ws l).dropWhile (· != 0)).all (· == 0) && fld l 0 (48 - ws.sum) == 0

/-- A path word of GRAFT and FWD entries, as a label of the skein. -/
def ofPath (skein : Nat) (e1 : W64) : W64 := BitVec.ofNat 64 (2 ^ 63 + skein * 2 ^ 48 + fld e1 0 48)

/-- R106. -/
def ancestor (ws : List Nat) (a b : W64) : Bool :=
  skein a == skein b && decide (depth ws a ≤ depth ws b) &&
    (fields ws a).take (depth ws a) == (fields ws b).take (depth ws a)

/-- hi(A) of R107: every field at depth(A) and below all ones. -/
def hi (ws : List Nat) (a : W64) : W64 :=
  let d := depth ws a
  ofFields ws (skein a) ((fields ws a).take d ++ (ws.drop d).map (fun w => 2 ^ w - 1))

end Path

/-! Entries (R109, R110). -/

/-- KIND of an entry: 0 NODE, 1 DENSE, 2 GRAFT, 3 FWD. -/
def HedEntry.kind (e : HedEntry) : Nat := fld e.e1 62 2

/-- Rank and precedence of an entry for a label, if it matches (R110); a lower precedence number comes first. -/
def HedEntry.rank (ws : List Nat) (e : HedEntry) (l : W64) : Option (Nat × Nat) :=
  let d := Path.depth ws e.e0
  match e.kind with
  | 3 => if Path.ancestor ws e.e0 l then some (d, 1) else none
  | 2 => if Path.ancestor ws e.e0 l then some (d, 2) else none
  | 0 => if e.e0 = l then some (d, 3) else none
  | _ => if Path.ancestor ws e.e0 l && Path.depth ws l == d + 1 then some (d + 1, 4) else none

/-- The better of two matches: higher rank, then lower precedence number (R110). -/
def better (a b : (Nat × Nat) × HedEntry) : (Nat × Nat) × HedEntry :=
  if b.1.1 < a.1.1 then a else if a.1.1 < b.1.1 then b else if a.1.2 ≤ b.1.2 then a else b

/-- The best match among entries, FWD entries left out when `nofwd` (R110, R112). -/
def bestMatch (ws : List Nat) (l : List HedEntry) (lab : W64) (nofwd : Bool) : Option HedEntry :=
  let c := l.filterMap (fun e =>
    if nofwd && e.kind == 3 then none else (e.rank ws lab).map (fun r => (r, e)))
  match c with
  | [] => none
  | x :: r => some (r.foldl better x).2

/-- The entries that match a label (R110), FWD entries left out when `nofwd`. -/
def matching (ws : List Nat) (l : List HedEntry) (lab : W64) (nofwd : Bool) : List HedEntry :=
  l.filter (fun e => !(nofwd && e.kind == 3) && (e.rank ws lab).isSome)

/-- R111: the rewrite of a label by a GRAFT or FWD entry; none where a field falls outside the skein. -/
def rewrite (ws : List Nat) (l : W64) (e : HedEntry) : Option W64 :=
  let t := Path.ofPath (Path.skein l) e.e1
  let dt := Path.depth ws t
  let dk := Path.depth ws e.e0
  let moved := ((Path.fields ws l).drop dk).takeWhile (· != 0)
  let fs := (Path.fields ws t).take dt ++ moved
  if fs.length ≤ ws.length && ((moved.zip (ws.drop dt)).all (fun p => decide (p.1 ≤ 2 ^ p.2 - 1))) then
    some (Path.ofFields ws (Path.skein l) fs)
  else none

/-- Two entries of one ASID, KEY and KIND: a fill replaces such an entry (R110). -/
def HedEntry.same (a b : HedEntry) : Bool := a.asid == b.asid && a.e0 == b.e0 && a.kind == b.kind

/-- The entries a lookup of a slot considers: the heddle's, with the slot's own pending fills as though already in it (R108,
R116). -/
def State.entries (s : State) (x : Slot) (c : Nat) : List HedEntry :=
  let f (k : Option Chunk) : List HedEntry :=
    match k with
    | some c => c.fills
    | none => []
  let fills := f x.ended ++ f x.chunk
  let l := fills.foldl (fun a e => e :: a.filter (fun y => !e.same y)) (s.core c).heddle
  l.filter (fun e => e.asid == x.asid)

/-- The entries that a step of a lookup matches become the most recently matched (R117), in the order they stood in; those of an
instruction that traps do not (log 77). -/
def Core.hedTouch (k : Core) (m : List HedEntry) : Core :=
  { k with heddle := k.heddle.filter m.contains ++ k.heddle.filter (fun e => !m.contains e) }

/-! Labels in an instruction. -/

/-- SKTAB of the activation's address space (R102). -/
def State.sktab (s : State) : W64 := (s.spaceRegs s.cur.core s.me.asid).sktab

/-- The descriptor's address (R102). -/
def State.descAddr (s : State) (l : W64) : W64 :=
  (s.sktab &&& 0x01FFFFFFFFFFFFF0) + BitVec.ofNat 64 (16 * Path.skein l)

/-- Reads the descriptor of a label and checks the label well-formed (R102, R103, R105). While SKTAB.EN is 0 no table is in use
and no label is well-formed: its descriptor is not read (log 78). -/
def wellFormedLabel (l : W64) : M Skein := do
  let s ← get
  if !bit l 63 || !bit s.sktab 0 then stopTrap Cause.labelFormat l else
  let a := s.descAddr l
  flatOk a
  let w0 ← loadDword a
  let w1 ← loadDword (a + 8)
  match skeinOf w0 w1 with
  | none => stopTrap Cause.labelFormat l
  | some k => if Path.wellFormed k.widths l then pure k else stopTrap Cause.labelFormat l

/-- k1 at a label miss (R114): rewrites made, whether a FWD was among them, whether FWD entries were left out, the source. -/
def missWord (n : Nat) (fwd nofwd : Bool) (src : Nat) : W64 :=
  BitVec.ofNat 64 (n + (if fwd then 4 else 0) + (if nofwd then 8 else 0) + src * 16)

/-- The loop of R112 on a label reached after n rewrites. -/
def lookupLoop (k : Skein) (h : W64) (src : Nat) : Nat → W64 → Nat → Bool → Bool → M (W64 × Bool × Bool)
  | 0, _, _, _, _ => stopTrap Cause.labelLoop h
  | fuel + 1, l, n, fwd, nofwd => do
    let s ← get
    let es := s.entries s.me s.cur.core
    match bestMatch k.widths es l nofwd with
    | none => throw (.trap Cause.labelMiss h 0 (some (l, missWord n fwd nofwd src)) none)
    | some e =>
      modify (fun s => s.modCore s.cur.core (fun c => c.hedTouch (matching k.widths es l nofwd)))
      match e.kind with
      | 0 => pure (BitVec.ofNat 64 (fld e.e1 0 56), fwd, false)
      | 1 =>
        let f := (Path.fields k.widths l).getD (Path.depth k.widths l - 1) 1
        pure (BitVec.ofNat 64 (fld e.e1 0 56 + (f - 1) * 2 ^ k.log2), fwd, true)
      | kd =>
        if n = 2 then stopTrap Cause.labelLoop h else
        match rewrite k.widths l e with
        | none => stopTrap Cause.labelFormat h
        | some l' => lookupLoop k h src fuel l' (n + 1) (fwd || kd == 3) (nofwd || kd != 3)

/-- Label.translate of R112 for a label whose descriptor is read: the storage address; LXSTAT is written on success. -/
def labelTranslate (k : Skein) (h : W64) (src : Nat) : M W64 := do
  let r ← lookupLoop k h src 3 h 0 false false
  if r.2.1 && k.strict then stopTrap Cause.staleLabel h else
  modify (fun s => s.modRegs (fun x =>
    { x with lxstat := BitVec.ofNat 64 ((if r.2.1 then 1 else 0) + (if r.2.2 then 2 else 0)) }))
  pure r.1

/-- A handle's flat address for an access of `size` bytes at a signed offset (R84): a flat handle plus the offset, checked, or
a label translated, its offset within the node. -/
def handleAddr (h off : W64) (size src : Nat) : M W64 := do
  if bit h 63 then
    let k ← wellFormedLabel h
    if bit off 63 || decide (2 ^ k.log2 < off.toNat + size) then stopTrap Cause.labelOffset h else
    let b ← labelTranslate k h src
    pure (b + off)
  else
    let a := h + off
    flatOk a
    pure a

/-- The address of a load or store, aligned (R84). -/
def accessAddr (h off : W64) (size src : Nat) : M W64 := do
  let a ← handleAddr h off size src
  if a.toNat % size ≠ 0 then stopTrap Cause.misaligned a else pure a

end Sys2Proof.Machine
end

