-- ==== Sys2Proof/Machine/Insn.lean ====
section
/-! DEFINITION. What an instruction is wrapped in: what each stop turns into, ending a chunk (11 R227, R303), the messages
an activation sends (02 R20, 04 R90, 19 R346), migration (15 R288-R291), and the imprecise traps (18 R317-R321). -/

namespace Sys2Proof.Machine

/-! Messages. -/

/-- The stamp of what a slot's activation sends (R20). -/
def State.stampOf (s : State) (c i : Nat) : Stamp :=
  match (s.slot c i).act with
  | some a => { a.stamp with src := BitVec.ofNat 16 c }
  | none => Stamp.none (BitVec.ofNat 16 c) 0

/-- The core list of the node of a stamp (R346). -/
def State.nodeCores (s : State) (st : Stamp) : List CoreId :=
  match s.graphOfNode st.asid st.node.toNat with
  | some g =>
    let gr := s.graph g
    let nodes := match gr.running with
      | some l => l.nodes
      | none => gr.nodes
    match nodes.find? (fun n => (n.words.getD 0 0).toNat % 65536 == st.node.toNat) with
    | some n => n.cores
    | none => []
  | none => []

/-- The core a message of a redundant node is delivered to: from the mirror side, the corresponding core of the mirror die
(R346). -/
def State.sideDst (s : State) (st : Stamp) (dst : CoreId) : CoreId :=
  if st.side = .mirror ∧ (s.nodeCores st).contains dst then BitVec.ofNat 16 (Id.mirrorOf dst.toNat) else dst

/-- The two core sets of a redundant node (R346). -/
def State.inSets (s : State) (st : Stamp) (dst : CoreId) : Bool :=
  (s.nodeCores st).any (fun c => c == dst || Id.mirrorOf c.toNat == dst.toNat)

/-- The copies of a held message: one, or one for every member of the group, in rank order (R90). -/
def State.copies (s : State) (h : Held) : List Message :=
  match h.group with
  | none => [{ h.msg with dst := s.sideDst h.msg.stamp h.msg.dst }]
  | some g =>
    match s.group h.msg.stamp.asid g with
    | none => []
    | some grp => grp.members.map (fun c => { h.msg with dst := s.sideDst h.msg.stamp c })

/-- A message leaves (R90, R92). -/
def State.post (s : State) (h : Held) : State := { s with net := s.net ++ s.copies h }

/-- A slot's held messages leave in the order their SENDs executed (R83, R92). -/
def State.postHeld (s : State) (c i : Nat) : State :=
  let s := (s.slot c i).regs.held.foldl (fun s h => s.post h) s
  s.modSlot c i (fun x => { x with regs := { x.regs with held := [] } })

/-! The store-fault queue. -/

/-- SFQSTAT (R321). -/
def Slot.sfqstat (x : Slot) : W64 :=
  BitVec.ofNat 64 (x.regs.sfq.length % 16 + (if x.unchecked ≤ 8 then x.unchecked else 8) * 256)

/-- Takes the store-fault trap with the values of the oldest record (R318). -/
def State.storeFaultTrap (s : State) (c i : Nat) (tpc : W64) : State :=
  let x := s.slot c i
  match x.regs.sfq with
  | [] => s
  | r :: _ =>
    let va : W64 := r.extractLsb' 0 64
    let pc : W64 := r.extractLsb' 128 64
    s.takeTrap c i tpc Cause.storeFault 0 true va (some (pc, x.sfqstat))

/-- A store-fault record or another trap is pending for the slot (R99). -/
def Slot.trapPending (x : Slot) : Bool := x.regs.sfq != [] || x.matrix != [] || x.engine != []

/-- An imprecise trap is pending at a boundary outside a handler (R317). -/
def Slot.impreciseDue (x : Slot) : Bool := !x.regs.inHandler && x.trapPending

/-- The instruction at the PC has ended its wait and only writes its destination: it is past its boundary. -/
def Regs.resumed (r : Regs) : Bool :=
  match r.result with
  | some e => e.1 == r.pc
  | none => false

/-- What a slot that runs meets at its boundary before its next instruction: the 512th instruction has ended the chunk (R227), a
pending imprecise trap is taken (R317), or the 2,049th instruction of a service activation overruns (R52), before its line is
fetched or checked (log 94). -/
def Slot.boundary (x : Slot) (a : Act) : Option Instr :=
  let full := match x.chunk with
    | some ch => decide (512 ≤ ch.count)
    | none => false
  if full then some .chunkInstructionLimit
  else if x.impreciseDue && !x.regs.resumed then some .trapEntry
  else if a.cls == 1 && decide (2048 ≤ a.executed) then some .serviceOverrun
  else none

/-- A slot that executes nothing of its own: an owner's activation is worked by OWNER_REQUEST (R220), and after a GBAR arrival the
slot waits for its host and peer writes (R241). -/
def State.heldBack (s : State) (x : Slot) (a : Act) : Bool :=
  a.owner.isSome || (x.ext != [] && s.arrivals.any (fun r => r.act == a.id))

/-! Outstanding work of a slot. -/

/-- MSTAT.OUT: commands of the activation issued and not completed (R264). -/
def State.outstanding (s : State) (c i : Nat) : Nat :=
  match (s.slot c i).act with
  | none => 0
  | some a => ((s.core c).mq.filter (fun m => m.act == a.id)).length

/-- Seals that leave with a slot's uncommitted chunks (R207). -/
def Slot.seals (x : Slot) : Nat :=
  let n (c : Option Chunk) : Nat :=
    match c with
    | some c => (c.acts.filter (fun a => match a with
        | .seal _ => true
        | _ => false)).length
    | none => 0
  n x.ended + n x.chunk

/-- Sealed batches of a slot not finished, those its uncommitted chunks seal included (R208, R289). -/
def State.unfinished (s : State) (c i : Nat) : Nat :=
  match (s.slot c i).act with
  | none => 0
  | some a => (s.batches.filter (fun b => b.act == a.id)).length + (s.slot c i).seals

/-! Migration. -/

/-- The reasons a context is not portable (R289). -/
def State.portReasons (s : State) (c i : Nat) : W64 :=
  let x := s.slot c i
  let r := x.regs
  let b (p : Bool) (n : Nat) : Nat := if p then n else 0
  BitVec.ofNat 64 (
    b ((r.v.toList.drop 8).any (fun v => v != 0)) 1 +
    b (r.q.toList.any (fun q => q.bind != .unbound || q.entries != [])) 2 +
    b (s.outstanding c i != 0 || bit r.mfrx 63) 4 +
    b (bit r.batch 32 || s.unfinished c i != 0) 8 +
    b r.inHandler 16 +
    b (slotClass i == 1) 32)

/-- The bank core beside a frame (R173, R288). -/
def besideFrame (pa : Nat) : Nat := Id.bank (hbmStack pa) (hbmPair pa)

/-- What a migration carries (R289). -/
def Slot.portable (x : Slot) (i : Nat) (pc : W64) : Portable :=
  { g := x.regs.g, v := x.regs.v.toList.take 8, m := x.regs.m, pc := pc, cls := slotClass i,
    task := match x.act with
      | some a => a.task.map (·.key)
      | none => none }

/-- The activation leaves for another core: its held messages, then the migration message; its slot is freed (R290). Its task,
if it is one, stays unfinished and in flight (R306). -/
def State.depart (s : State) (c i : Nat) (dst : CoreId) (pc : W64) : State :=
  let x := s.slot c i
  match x.act with
  | none => s
  | some a =>
    let s := s.postHeld c i
    let m := { Message.plain dst 0xF8 (s.stampOf c i) [] with
      portable := some (x.portable i pc), otype := a.typ, fromSlot := i }
    let s := { s with net := s.net ++ [m]
                      tasks := s.tasks.map (fun (t : TaskEntry) => if t.running = some (c, i) then { t with running := some (c, 99) } else t) }
    let s := s.freeSlot c i
    s.modCore c Core.wakeWaiti

/-- An automatic migration of a far access (R291): non-portable contexts fault, checks are drained, a pending record traps, and
then the chunk ends. The resume PC is the instruction. A target the module does not provide raises illegal-operand (R336). -/
def State.autoMigrate (s : State) (va : W64) : State :=
  let c := s.cur.core
  let i := s.cur.slot
  let x := s.me
  match s.lookup c i x.asid va with
  | .page e =>
    let dst := besideFrame (e.place x.side va)
    let why := s.portReasons c i
    if !s.provided dst then s.takeTrap c i x.regs.pc Cause.illegalOperand 0 false (encVal s.cur.enc) none
    else if why != 0 then s.takeTrap c i x.regs.pc Cause.nonPortable 0 false why none
    else if x.mustWait s then s
    else if x.unchecked ≠ 0 then s
    else if x.regs.sfq ≠ [] then s.storeFaultTrap c i x.regs.pc
    else s.setMe { x.makeFirm with phase := .commit (.migrate (BitVec.ofNat 16 dst) x.regs.pc) }
  | _ => s

/-! The wrapper of every instruction. -/

/-- What a stop turns into; every one but a fault of the model is a next state. A trap of a speculative task waits until it is
the head (R303). -/
def State.stop (s : State) (e : Stop) : Host.Outcome State Fault Refusal :=
  match e with
  | .trap c v sub k pop =>
    if s.me.trapHeld s then .next s else
    let t := match pop with
      | none => s
      | some i =>
        match popQ i s with
        | .ok _ t => t
        | .error _ _ => s
    .next (t.takeTrap s.cur.core s.cur.slot s.regs.pc c sub false v k)
  | .hold => .next s
  | .holdCommit => .next s.holdCommit
  | .holdLines n => .next (s.admitLines n (s.speculative s.me.asid)).holdCommit
  | .holdWalk va => .next (s.askWalk va)
  | .near va => .next (s.autoMigrate va)
  | .contain w =>
    let t := match w with
      | some (k, n) => s.noteConsumed k n
      | none => s
    .next (t.contain s.cur.core s.cur.slot)
  | .fault f => .fault f

/-- The lines the open chunk of the slot being executed has read. -/
def State.myReads (s : State) : List Nat :=
  match s.me.chunk with
  | some c => c.reads
  | none => []

/-- What an instruction read before a trap of its own stays in its chunk's read signature (R102, R228). -/
def State.keepReads (s : State) (e : Stop) (l : List Nat) : State :=
  match e with
  | .trap .. => if s.myReads = l then s else s.modMe (fun x => { x with chunk := x.chunk.map (fun c => { c with reads := l }) })
  | _ => s

/-- Runs the computation of an instruction's meaning. A lookup that succeeded before the same instruction faults leaves LXSTAT as it was
(log 124). -/
def insn (m : M Unit) (s : State) : Host.Outcome State Fault Refusal :=
  match m s with
  | .ok _ t => .next t
  | .error e t => (s.keepReads e t.myReads).stop e

/-- A held event of a speculative task waits until the task is the head, which then goes on non-speculatively (R303). -/
def chunkEnds : M Unit := do
  let s ← get
  if s.me.mustWait s then throw .hold else modify (fun s => s.modMe Slot.makeFirm)

/-- The chunk ends here; CHUNK_COMMIT commits it and `a` follows (R227). -/
def endChunk (a : After) : M Unit := modify (fun s => s.modMe (fun x => { x with phase := .commit a }))

/-- The instruction completes and the chunk ends after it. -/
def doneEnding (a : After) : M Unit := do
  done
  endChunk a

/-- Leaves an action with the chunk. -/
def act (a : Action) : M Unit := modify (fun s => s.modChunk (fun c => { c with acts := c.acts ++ [a] }))

/-- Waits until every store of the slot has been checked (R83, R322). -/
def drain : M Unit := do
  let s ← get
  if s.me.unchecked ≠ 0 then throw .hold else pure ()

/-- A copy hart or a bank core where an instruction does not run raises illegal-instruction (R70, R101). -/
def notOnHart : M Unit := do
  let s ← get
  if Id.kind s.cur.core = 2 then illegalInstruction else pure ()

def computeOnly : M Unit := do
  let s ← get
  if Id.kind s.cur.core = 0 then pure () else illegalInstruction

/-- The instruction completes and control goes to a target (R80, R82). -/
def jumpTo (pc : W64) (taken : Option Bool) : M Unit := modify (fun s => s.retire pc true taken)

end Sys2Proof.Machine
end

