-- ==== Sys2Proof/Machine/Scalar.lean ====
section
/-! DEFINITION. Integer arithmetic, immediates, constants and bit fields (04_scalar_and_control R76-R79, R100). -/

namespace Sys2Proof.Machine

/-! Results of R76. -/

namespace Alu

def mulh (a b : W64) : W64 := ((a.signExtend 128 * b.signExtend 128) >>> 64).setWidth 64
def mulhu (a b : W64) : W64 := ((a.setWidth 128 * b.setWidth 128) >>> 64).setWidth 64
/-- Division by zero gives all ones; −2^63 / −1 gives −2^63. -/
def div (a b : W64) : W64 := if b = 0 then BitVec.allOnes 64 else BitVec.ofInt 64 (a.toInt.tdiv b.toInt)
def divu (a b : W64) : W64 := if b = 0 then BitVec.allOnes 64 else a / b
def rem (a b : W64) : W64 := if b = 0 then a else a - b * div a b
def remu (a b : W64) : W64 := if b = 0 then a else a % b
def shAmt (b : W64) : Nat := b.toNat % 64
def shl (a b : W64) : W64 := a <<< shAmt b
def shr (a b : W64) : W64 := a >>> shAmt b
def sra (a b : W64) : W64 := a.sshiftRight (shAmt b)
def flag (p : Bool) : W64 := if p then 1 else 0
def slt (a b : W64) : W64 := flag (a.slt b)
def sltu (a b : W64) : W64 := flag (a.ult b)
def min (a b : W64) : W64 := if b.slt a then b else a
def max (a b : W64) : W64 := if a.slt b then b else a
def minu (a b : W64) : W64 := if b.ult a then b else a
def maxu (a b : W64) : W64 := if a.ult b then b else a
def sel (a b c : W64) : W64 := if a ≠ 0 then b else c

/-- Zero bits above the highest one among the low n bits. -/
def clzFrom (a : W64) : Nat → Nat
  | 0 => 0
  | n + 1 => if a.getLsbD n then 0 else 1 + clzFrom a n

/-- Zero bits below the lowest one, from bit i on, n bits examined. -/
def ctzFrom (a : W64) (i : Nat) : Nat → Nat
  | 0 => 0
  | n + 1 => if a.getLsbD i then 0 else 1 + ctzFrom a (i + 1) n

/-- One bits among the low n. -/
def ones (a : W64) : Nat → Nat
  | 0 => 0
  | n + 1 => (if a.getLsbD n then 1 else 0) + ones a n

def clz (a : W64) : W64 := BitVec.ofNat 64 (clzFrom a 64)
def ctz (a : W64) : W64 := BitVec.ofNat 64 (ctzFrom a 0 64)
def popc (a : W64) : W64 := BitVec.ofNat 64 (ones a 64)

/-- The field of w1 + 1 bits from lo, zero-extended (R79). -/
def bext (a : W64) (lo w1 : BitVec 6) : W64 := BitVec.ofNat 64 (a.toNat / 2 ^ lo.toNat % 2 ^ (w1.toNat + 1))
def bexts (a : W64) (lo w1 : BitVec 6) : W64 :=
  let x := bext a lo w1
  if x.getLsbD w1.toNat then BitVec.ofNat 64 (x.toNat + 2 ^ 64 - 2 ^ (w1.toNat + 1)) else x
def bins (a v : W64) (lo w1 : BitVec 6) : W64 := setFld a lo.toNat (w1.toNat + 1) v.toNat

end Alu

/-! Shapes of operands. -/

/-- G(D) from one scalar source. -/
def scalar1 (d a : Reg) (f : W64 → W64) : M Unit := do
  okG d
  okG a
  let p ← operands [a] (some d)
  writeG d (f (← readG p a))
  done

/-- G(D) from two scalar sources. -/
def scalar2 (d a b : Reg) (f : W64 → W64 → W64) : M Unit := do
  okG d
  okG a
  okG b
  let p ← operands [a, b] (some d)
  writeG d (f (← readG p a) (← readG p b))
  done

/-- G(D) from three scalar sources. -/
def scalar3 (d a b c : Reg) (f : W64 → W64 → W64 → W64) : M Unit := do
  okG d
  okG a
  okG b
  okG c
  let p ← operands [a, b, c] (some d)
  writeG d (f (← readG p a) (← readG p b) (← readG p c))
  done

/-- G(D) from the instruction alone. -/
def scalar0 (d : Reg) (x : W64) : M Unit := do
  okG d
  let _ ← operands [] (some d)
  writeG d x
  done

def execNop (s : State) := insn done s

def execAdd (d a b : Reg) (s : State) := insn (scalar2 d a b (· + ·)) s
def execSub (d a b : Reg) (s : State) := insn (scalar2 d a b (· - ·)) s
def execMul (d a b : Reg) (s : State) := insn (scalar2 d a b (· * ·)) s
def execMulh (d a b : Reg) (s : State) := insn (scalar2 d a b Alu.mulh) s
def execMulhu (d a b : Reg) (s : State) := insn (scalar2 d a b Alu.mulhu) s
def execDiv (d a b : Reg) (s : State) := insn (scalar2 d a b Alu.div) s
def execDivu (d a b : Reg) (s : State) := insn (scalar2 d a b Alu.divu) s
def execRem (d a b : Reg) (s : State) := insn (scalar2 d a b Alu.rem) s
def execRemu (d a b : Reg) (s : State) := insn (scalar2 d a b Alu.remu) s
def execAnd (d a b : Reg) (s : State) := insn (scalar2 d a b (· &&& ·)) s
def execOr (d a b : Reg) (s : State) := insn (scalar2 d a b (· ||| ·)) s
def execXor (d a b : Reg) (s : State) := insn (scalar2 d a b (· ^^^ ·)) s
def execShl (d a b : Reg) (s : State) := insn (scalar2 d a b Alu.shl) s
def execShr (d a b : Reg) (s : State) := insn (scalar2 d a b Alu.shr) s
def execSra (d a b : Reg) (s : State) := insn (scalar2 d a b Alu.sra) s
def execSlt (d a b : Reg) (s : State) := insn (scalar2 d a b Alu.slt) s
def execSltu (d a b : Reg) (s : State) := insn (scalar2 d a b Alu.sltu) s
def execMin (d a b : Reg) (s : State) := insn (scalar2 d a b Alu.min) s
def execMax (d a b : Reg) (s : State) := insn (scalar2 d a b Alu.max) s
def execMinu (d a b : Reg) (s : State) := insn (scalar2 d a b Alu.minu) s
def execMaxu (d a b : Reg) (s : State) := insn (scalar2 d a b Alu.maxu) s
def execSel (d a b c : Reg) (s : State) := insn (scalar3 d a b c Alu.sel) s
def execClz (d a : Reg) (s : State) := insn (scalar1 d a Alu.clz) s
def execCtz (d a : Reg) (s : State) := insn (scalar1 d a Alu.ctz) s
def execPopc (d a : Reg) (s : State) := insn (scalar1 d a Alu.popc) s
def execMov (d a : Reg) (s : State) := insn (scalar1 d a id) s

def execAddi (d a : Reg) (i : Half) (s : State) := insn (scalar1 d a (· + i.signExtend 64)) s
def execAndi (d a : Reg) (i : Half) (s : State) := insn (scalar1 d a (· &&& i.signExtend 64)) s
def execOri (d a : Reg) (i : Half) (s : State) := insn (scalar1 d a (· ||| i.setWidth 64)) s
def execXori (d a : Reg) (i : Half) (s : State) := insn (scalar1 d a (· ^^^ i.setWidth 64)) s
def execShli (d a : Reg) (n : BitVec 6) (s : State) := insn (scalar1 d a (· <<< n.toNat)) s
def execShri (d a : Reg) (n : BitVec 6) (s : State) := insn (scalar1 d a (· >>> n.toNat)) s
def execSrai (d a : Reg) (n : BitVec 6) (s : State) := insn (scalar1 d a (fun x => x.sshiftRight n.toNat)) s
def execSlti (d a : Reg) (i : Half) (s : State) := insn (scalar1 d a (fun x => Alu.slt x (i.signExtend 64))) s

def execLi (d : Reg) (i : BitVec 32) (s : State) := insn (scalar0 d (i.signExtend 64)) s
def execLih (d : Reg) (i : BitVec 32) (s : State) := insn (scalar0 d (i.setWidth 64 <<< 32)) s

def execAddpc (d : Reg) (i : BitVec 32) (s : State) := insn (scalar0 d (rel32 s.cur.line i)) s

def execBext (d a : Reg) (lo w1 : BitVec 6) (s : State) := insn (scalar1 d a (fun x => Alu.bext x lo w1)) s
def execBexts (d a : Reg) (lo w1 : BitVec 6) (s : State) := insn (scalar1 d a (fun x => Alu.bexts x lo w1)) s
def execBins (d a b : Reg) (lo w1 : BitVec 6) (s : State) := insn (scalar2 d a b (fun x y => Alu.bins x y lo w1)) s

end Sys2Proof.Machine
end

