-- ==== Sys2Proof/Machine/LoadStore.lean ====
section
/-! DEFINITION. Scalar and vector loads and stores (04_scalar_and_control R84-R86, 08_vector_instructions R152-R155). -/

namespace Sys2Proof.Machine

/-- The source codes of R114. -/
def srcLoad : Nat := 0
def srcStore : Nat := 1
def srcOther : Nat := 4

/-- Sign-extends the low n bytes (R85). -/
def signBytes (x : W64) (n : Nat) : W64 :=
  if x.getLsbD (8 * n - 1) then BitVec.ofNat 64 (x.toNat + 2 ^ 64 - 2 ^ (8 * n)) else x

/-- A scalar load (R84, R85). -/
def loadScalar (signed : Bool) (z : Size) (d : Reg) (h off : W64) : M Unit := do
  let n := sizeBytes z
  let a ← accessAddr h off n srcLoad
  let x := bytesBv 64 (← memLoad a n)
  writeG d (if signed then signBytes x n else x)
  done

def loadImm (signed : Bool) (z : Size) (d a : Reg) (i : Half) : M Unit := do
  okG d
  okG a
  let p ← operands [a] (some d)
  keepBase a (do loadScalar signed z d (← readG p a) (i.signExtend 64))

def execLd (z : Size) (d a : Reg) (i : Half) (s : State) := insn (loadImm true z d a i) s
def execLdu (z : Size) (d a : Reg) (i : Half) (s : State) := insn (loadImm false z d a i) s

def execLdx (z : Size) (d a b : Reg) (s : State) := insn (do
  okG d
  okG a
  okG b
  let p ← operands [a, b] (some d)
  keepBase a (do loadScalar true z d (← readG p a) ((← readG p b) * BitVec.ofNat 64 (sizeBytes z)))) s

/-- A scalar store (R84, R85). -/
def storeScalar (z : Size) (h off x : W64) : M Unit := do
  let n := sizeBytes z
  let a ← accessAddr h off n srcStore
  memStore a (bvBytes x n) 0 (sizeCode z) 0
  done

def execSt (z : Size) (a b : Reg) (i : Half) (s : State) := insn (do
  okG a
  okG b
  let p ← operands [a, b] none
  storeScalar z (← readG p a) (i.signExtend 64) (← readG p b)) s

def execStx (z : Size) (a b c : Reg) (s : State) := insn (do
  okG a
  okG b
  okG c
  let p ← operands [a, b, c] none
  storeScalar z (← readG p a) ((← readG p b) * BitVec.ofNat 64 (sizeBytes z)) (← readG p c)) s

/-! Vectors. -/

def execVld (d a : Reg) (i : Half) (s : State) := insn (do
  okV d
  okG a
  let p ← operands [a] (some d)
  keepBase a (do
    let va ← accessAddr (← readG p a) (i.signExtend 64) 64 srcLoad
    writeV d (bytesBv 512 (← memLoad va 64))
    done)) s

def execVst (a b : Reg) (i : Half) (s : State) := insn (do
  okG a
  okV b
  let p ← operands [a, b] none
  let va ← accessAddr (← readG p a) (i.signExtend 64) 64 srcStore
  memStore va (bvBytes (← readV p b) 64) 1 0 2
  done) s

/-- The checks of one element of a strided access (R153). -/
def element (h base off : W64) (node : Option Nat) (bytes : Nat) : M W64 := do
  let a := base + off
  match node with
  | some n => if bit off 63 || decide (n < off.toNat + bytes) then stopTrap Cause.labelOffset h else pure ()
  | none => flatOk a
  if a.toNat % bytes ≠ 0 then stopTrap Cause.misaligned a else pure a

/-- The active elements in lane order, from their offsets: each address is checked and handed on; a label base is translated
once (R153). -/
def elementsWith {α : Type} (h : W64) (off : Nat → W64) (bytes : Nat) (lanes : List Nat) (src : Nat)
    (f : Nat → W64 → M α) : M (List α) := do
  if bit h 63 then
    let k ← wellFormedLabel h
    let base ← labelTranslate k h src
    lanes.mapM (fun i => do f i (← element h base (off i) (some (2 ^ k.log2)) bytes))
  else
    lanes.mapM (fun i => do f i (← element h h (off i) none bytes))

/-- The active elements' addresses. -/
def elementsAt (h : W64) (off : Nat → W64) (bytes : Nat) (lanes : List Nat) (src : Nat) : M (List (Nat × W64)) :=
  elementsWith h off bytes lanes src (fun i a => pure (i, a))

/-- The elements of a strided access (R153). -/
def elements (h st : W64) (bytes : Nat) (lanes : List Nat) (src : Nat) : M (List (Nat × W64)) :=
  elementsAt h (fun i => BitVec.ofNat 64 i * st) bytes lanes src

/-- The lanes of a width that a mask selects. -/
def activeLanes (n : Nat) (mask : W64) : List Nat := (List.range n).filter (fun i => mask.getLsbD i)

/-- Replaces lanes of a vector by values. -/
def putLanes (w : Nat) (old : V512) (l : List (Nat × Nat)) : V512 :=
  ofLanes w ((List.range (512 / w)).map (fun i =>
    match l.find? (fun e => e.1 == i) with
    | some e => e.2
    | none => lane w old i))

/-- VLDS (R153). The checks of every active lane come before any lane's load, so that a higher lane's address, offset or alignment
fails before a lower lane's translation (log 91). -/
def execVlds (w : Width) (d a b : Reg) (mk : Fin 8) (s : State) := insn (do
  okV d
  okG a
  okG b
  let p ← operands [a, b] (some d)
  keepBase a (do
    let wb := widthBits w
    let es ← elements (← readG p a) (← readG p b) (wb / 8) (activeLanes (512 / wb) (← maskOf mk)) srcLoad
    let xs ← es.mapM (fun e => do pure (e.1, bytesNat (← memLoad e.2 (wb / 8))))
    writeV d (putLanes wb (← oldV d) xs)
    done)) s

/-- The parts of a store of several elements, and the store itself (R154, R218). The address it is known by, in store-queue-full, is that
of its lowest active element (log 116). -/
def storeElements (es : List (Nat × W64)) (w : Nat) (x : V512) (src size : Nat) : M Unit := do
  let parts ← es.mapM (fun e => storePart e.1 e.2 (natBytes (lane w x e.1) (w / 8)))
  match es with
  | [] => pure ()
  | e :: _ =>
    putStore { pc := (← get).regs.pc, src := src, size := size, wide := 0, parts := parts, adds := none,
               checked := false } e.2

/-- The size code of an element width (R320). -/
def widthSize (w : Width) : Nat :=
  match w with
  | .w32 => 2
  | .w16 => 1
  | .w8 => 0

def execVsts (w : Width) (a b c : Reg) (mk : Fin 8) (s : State) := insn (do
  okG a
  okG b
  okV c
  let p ← operands [a, b, c] none
  let wb := widthBits w
  let es ← elements (← readG p a) (← readG p b) (wb / 8) (activeLanes (512 / wb) (← maskOf mk)) srcStore
  storeElements es wb (← readV p c) 2 (widthSize w)
  done) s

end Sys2Proof.Machine
end

