-- ==== Sys2Proof/Machine/Watch.lean ====
section
/-! DEFINITION. The watch tables: what fires an entry and what ends an MWAIT (10_queues_streams_copies R212, R213). -/

namespace Sys2Proof.Machine

/-- The slot's fired entry of lowest index (R213). -/
def Core.firedEntry (k : Core) (i : Nat) : Option Nat :=
  (List.range 16).find? (fun e => k.watches.any (fun w => w.index == e && w.slot == i && w.fired))

/-- Clears the fired state of an entry. -/
def Core.unfire (k : Core) (e : Nat) : Core :=
  { k with watches := k.watches.map (fun w => if w.index = e then { w with fired := false } else w) }

/-- Ends the wait of a slot with a value for the destination of its instruction. -/
def Slot.reply (x : Slot) (v : Option V512) : Slot :=
  { x with phase := .run, regs := { x.regs with result := some (x.regs.pc, v) } }

/-- A waiting MWAIT ends when spurious-pending is set (code 3) or an entry of the slot has fired (code 1, R213). -/
def State.pollMwait (s : State) (c i : Nat) : State :=
  let x := s.slot c i
  match x.act with
  | none => s
  | some a =>
    if x.phase ≠ .wait .mwait then s
    else if a.spurious then s.setSlot c i ({ x with act := some { a with spurious := false } }.reply (some 3))
    else
      match (s.core c).firedEntry i with
      | none => s
      | some e =>
        (s.modCore c (fun k => k.unfire e)).modSlot c i (fun x => x.reply (some (BitVec.ofNat 512 (1 + 256 * e))))

/-- A write to a line fires its entries at a core (R212). -/
def Core.fire (k : Core) (line : Nat) : Core :=
  { k with watches := k.watches.map (fun w => if w.line = line then { w with fired := true } else w) }

/-- A write to a line fires its entries everywhere (R212). -/
def State.fireLine (s : State) (line : Nat) : State :=
  s.cores.foldl (fun s p =>
    let hit := p.2.watches.filter (fun w => w.line == line)
    if hit.isEmpty then s
    else hit.foldl (fun s w => s.pollMwait p.1 w.slot) (s.modCore p.1 (fun k => k.fire line))) s

/-- Sets the spurious-pending flag of a slot's activation (R213). -/
def State.setSpurious (s : State) (c i : Nat) : State :=
  (s.modSlot c i (fun x => { x with act := x.act.map (fun a => { a with spurious := true }) })).pollMwait c i

/-- MON arms an entry of a slot for a line: the state and the entry's index (R212). Entries stand least recently armed
first. Of several free entries the one of the lowest index is armed (log 126). -/
def State.arm (s : State) (c i line : Nat) : State × Nat :=
  let k := s.core c
  match k.watches.find? (fun w => w.slot == i && w.line == line) with
  | some w => (s.setCore c { k with watches := k.watches.filter (fun v => v.index != w.index) ++ [w] }, w.index)
  | none =>
    match (List.range 16).find? (fun e => k.watches.all (fun w => w.index != e)) with
    | some e =>
      (s.setCore c { k with watches := k.watches ++ [{ index := e, slot := i, line := line, fired := false }] }, e)
    | none =>
      match k.watches with
      | [] => (s, 0)
      | w :: r =>
        let s := s.setCore c { k with watches := r ++ [{ index := w.index, slot := i, line := line, fired := false }] }
        (s.setSpurious c w.slot, w.index)

end Sys2Proof.Machine
end

