-- ==== Sys2Proof/Machine/Copies.lean ====
section
/-! DEFINITION. Copies, batches, deals and watches as their instructions issue them (10_queues_streams_copies R203-R214). -/

namespace Sys2Proof.Machine

/-- Dword k of a list of bytes. -/
def dwordAt (b : List Byte) (k : Nat) : W64 := bytesBv 64 ((b.drop (8 * k)).take 8)

/-- A copy descriptor as its dwords hold it (R203). -/
def copyOf (b : List Byte) : CopyDesc :=
  { src := dwordAt b 0, dst := dwordAt b 1, dcore := (dwordAt b 2).setWidth 16, dkind := bit (dwordAt b 2) 16,
    arrv := bit (dwordAt b 2) 17, note := bit (dwordAt b 2) 18, typ := (dwordAt b 2).extractLsb' 24 8,
    run := fld (dwordAt b 3) 0 16 + 1, n1 := fld (dwordAt b 3) 16 16 + 1, n2 := fld (dwordAt b 3) 32 16 + 1,
    sst1 := (dwordAt b 4).setWidth 32, sst2 := (dwordAt b 4).extractLsb' 32 32,
    dst1 := (dwordAt b 5).setWidth 32, dst2 := (dwordAt b 5).extractLsb' 32 32 }

/-- The fields of R203 that must be zero are zero. -/
def copyZero (b : List Byte) : Bool :=
  fld (dwordAt b 0) 57 7 == 0 && fld (dwordAt b 1) 57 7 == 0 && fld (dwordAt b 2) 19 5 == 0 &&
    fld (dwordAt b 2) 32 32 == 0 && fld (dwordAt b 3) 48 16 == 0 && dwordAt b 6 == 0 && dwordAt b 7 == 0

/-- The destination runs of a copy lie in DCORE's TCM (R204): the lowest and the highest byte over both dimensions. -/
def CopyDesc.fits (d : CopyDesc) : Bool :=
  let e1 : Int := d.dst1.toInt * (d.n1 - 1)
  let e2 : Int := d.dst2.toInt * (d.n2 - 1)
  let lo : Int := d.dst.toNat + min 0 e1 + min 0 e2
  let hi : Int := d.dst.toNat + max 0 e1 + max 0 e2 + d.run
  decide (0 ≤ lo) && decide (hi ≤ tcmSize d.dcore.toNat)

/-- The checks of CPY on its descriptor (R203, R204). -/
def State.copyOk (s : State) (d : CopyDesc) : Bool :=
  (!d.dkind || (s.provided d.dcore.toNat && d.fits)) && (!d.arrv || (d.dkind && decide (d.typ.toNat ≤ 0xDF)))

/-- CPYDONE.EN (R206). -/
def Regs.batchOn (r : Regs) : Bool := bit r.cpydone 0

/-- BATCH.NEXT (R206). -/
def Regs.next (r : Regs) : BitVec 32 := r.batch.setWidth 32

/-- BATCH.OPEN set. -/
def Regs.openBatch (r : Regs) : Regs := { r with batch := r.batch ||| 0x100000000 }

/-- CPY (R204): the descriptor's load and its checks come before the test of EN, which is no operand value. -/
def execCpy (a : Reg) (s : State) := insn (do
  notOnHart
  okG a
  let p ← operands [a] none
  let va ← accessAddr (← readG p a) 0 64 4
  let b ← memLoad va 64
  let d := copyOf b
  let s ← get
  refuseIf (!copyZero b || !s.copyOk d || !s.regs.batchOn)
  chunkEnds
  act (.request (.copy d) s.regs.pc)
  modify (fun s => s.modRegs Regs.openBatch)
  doneEnding .go) s

/-- CPYSEAL (R207): NEXT moves on and no batch is open. -/
def execCpyseal (d : Reg) (s : State) := insn (do
  notOnHart
  okG d
  let _ ← operands [] (some d)
  let n := (← get).regs.next
  act (.seal n)
  modify (fun s => s.modRegs (fun r => { r with batch := (n + 1).setWidth 64 }))
  writeG d (n.setWidth 64)
  done) s

/-- The batch word as committed: the waiting instructions read committed state (R206, R208, R233). -/
def batchWord : M (BitVec 32) := do
  let s ← get
  let k := tcmKey s.cur.core (fld s.regs.cpydone 3 13 * 8)
  if s.bad.contains (k / 8) then throw (.contain (some (k, 8)))
  else do
    modify (fun s => s.correctRange k 4)
    pure (bytesBv 32 (Memory.readN s.mem k 4))

def execCpywait (a : Reg) (i : Half) (s : State) := insn (do
  notOnHart
  okG a
  refuseIf (!(← get).regs.batchOn)
  let p ← operands [a] none
  let n := (← readG p a) + i.setWidth 64
  let w ← batchWord
  let pending := (← get).regs.next - 1 - w
  if pending.toNat ≤ n.toNat then done else throw .holdCommit) s

/-- SHPAT's fields (R210). -/
structure Deal where
  typ : Nat
  block : Nat
  first : Nat
  stride : Nat
  count : Nat
  base : Nat
  rstep : Nat
  deriving DecidableEq, Repr

def dealOf (x : W64) : Deal :=
  { typ := fld x 0 8, block := 64 * (fld x 8 6 + 1), first := fld x 16 6, stride := fld x 22 6, count := fld x 28 7,
    base := fld x 36 10, rstep := fld x 46 10 }

/-- Blocks of a deal (R211). -/
def Deal.blocks (d : Deal) (len : Nat) : Nat := (len + d.block - 1) / d.block

def Deal.core (d : Deal) (b : Nat) : Nat := (d.first + d.stride * (b % d.count)) % 64

def Deal.tcm (d : Deal) (b : Nat) : Nat := 64 * (d.base + d.rstep * (b / d.count))

/-- Bytes of block b. -/
def Deal.size (d : Deal) (len b : Nat) : Nat := if (b + 1) * d.block ≤ len then d.block else len - b * d.block

/-- The compute core of a cluster's index, for an issuing core. -/
def coreOfCluster (c i : Nat) : Nat := Id.compute (Id.die c) (Id.cluster c) i

/-- The source DEAL takes (R211). -/
def State.dealFrom (s : State) (src : W64) : Bool :=
  !bit src 63 && decide (tcmSize s.cur.core ≤ src.toNat) && src.toNat % 4 == 0

/-- The pattern and length DEAL takes (R211). The destinations rise with b, so the last two blocks reach furthest. -/
def State.dealTo (s : State) (d : Deal) (len : W64) : Bool :=
  let n := d.blocks len.toNat
  let inTcm (b : Nat) : Bool := decide (d.tcm b + d.size len.toNat b ≤ 0x6000)
  len.toNat % 4 == 0 && d.count != 0 && decide (d.typ ≤ 0xDF) && (n == 0 || (inTcm (n - 1) && (n == 1 || inTcm (n - 2)))) &&
    (List.range (if n ≤ d.count then n else d.count)).all (fun b => s.provided (coreOfCluster s.cur.core (d.core b)))

/-- What DEAL does not refuse (R211). -/
def State.dealOk (s : State) (d : Deal) (src len : W64) : Bool := s.dealFrom src && s.dealTo d len && s.regs.batchOn

def execDeal (a b : Reg) (s : State) := insn (do
  computeOnly
  okG a
  okG b
  let s ← get
  let d := dealOf s.regs.shpat
  refuseIf (!s.regs.batchOn || d.count == 0 || decide (0xDF < d.typ))
  refuseKnown [a, b] (fun v => (v a).any (fun x => !s.dealFrom x) || (v b).any (fun x => !s.dealTo d x))
  let p ← operands [a, b] none
  let src ← readG p a
  let len ← readG p b
  refuseIf (!s.dealOk d src len)
  if len = 0 then pure () else do
    act (.request (.deal s.regs.shpat src len) s.regs.pc)
    modify (fun s => s.modRegs Regs.openBatch)
  done) s

/-! Watches. -/

def execMon (d a : Reg) (i : Half) (s : State) := insn (do
  notOnHart
  okG d
  okG a
  let p ← operands [a] (some d)
  let va ← accessAddr (← readG p a) (i.signExtend 64) 1 4
  match ← xlate va .load with
  | .error code => dataFault code va
  | .ok k => do
    let s ← get
    let r := s.arm s.cur.core s.cur.slot (lineOf k)
    set r.1
    writeG d (BitVec.ofNat 64 r.2)
    done) s

/-- The value a wait of this instruction ended with, if it has ended. -/
def Regs.answer (r : Regs) : Option (Option V512) :=
  match r.result with
  | some e => if e.1 = r.pc then some e.2 else none
  | none => none

/-- What an instruction that waits for an answer asks of its destination before anything of it takes effect: a queue that would not
take its push blocks it or faults there, so that it has not executed (R67). Nothing is pushed yet. -/
def needPlace (d : Reg) : M Unit := do
  match d with
  | .q i =>
    let s ← get
    pushQ i 0
    set s
  | _ => pure ()

def clearAnswer : M Unit := modify (fun s => s.modRegs (fun r => { r with result := none }))

/-- MWAIT (R213): the chunk ends, the slot waits, and the instruction completes with the code. -/
def execMwait (d a : Reg) (_i : Half) (s : State) := insn (do
  notOnHart
  match (← get).regs.answer with
  | some v => do
    clearAnswer
    writeG d ((v.getD 0).setWidth 64)
    done
  | none => do
    okG d
    okG a
    let _ ← operands [a] (some d)
    needPlace d
    chunkEnds
    endChunk (.wait .mwait)) s

def execMdisarm (a : Reg) (s : State) := insn (do
  notOnHart
  okG a
  let p ← operands [a] none
  let x ← readG p a
  let s ← get
  refuseIf (decide (15 < x.toNat) || s.myCore.watches.any (fun w => w.index == x.toNat && w.slot != s.cur.slot))
  modify (fun s => s.modCore s.cur.core (fun k =>
    { k with watches := k.watches.filter (fun w => w.index != x.toNat) }))
  done) s

def execMdisarmAll (s : State) := insn (do
  notOnHart
  modify (fun s => s.modCore s.cur.core (fun k => k.disarm s.cur.slot))
  done) s

end Sys2Proof.Machine
end

