-- ==== Sys2Proof/Machine/Atomics.lean ====
section
/-! DEFINITION. Atomics, at home in own TCM or at the owner core (10_queues_streams_copies R220-R223), reduction windows
(R224, R225). -/

namespace Sys2Proof.Machine

/-! What an atomic computes (R221, R222). -/

/-- The new value of n bits from the old one and the operand, with the flags of FADD. -/
def amoNew (n : Nat) (fn : AmoOp) (old b : Nat) : Nat × Flags :=
  match fn with
  | .add => ((old + b) % 2 ^ n, 0)
  | .and => (old &&& b, 0)
  | .or => (old ||| b, 0)
  | .xor => (old ^^^ b, 0)
  | .min => (if toSigned n b < toSigned n old then b else old, 0)
  | .max => (if toSigned n old < toSigned n b then b else old, 0)
  | .minu => (if b < old then b else old, 0)
  | .maxu => (if old < b then b else old, 0)
  | .swap => (b, 0)
  | .fadd => Fop.add FFmt.fp32 .rne old b

/-- A lane of AMOV. -/
def amovNew (t : Arith) (fn : AmoOp) (old b : Nat) : Nat × Flags :=
  match arithFmt t with
  | none => amoNew 32 fn old b
  | some f =>
    match fn with
    | .min => (Fop.min f old b, 0)
    | .max => (Fop.max f old b, 0)
    | .fadd => Fop.add f .rne old b
    | _ => (b, 0)

/-- The bytes an AMO stores over the old ones; none where CAS does not store. -/
def amoBytes (fn : AmoOp) (cas : Bool) (size : Nat) (b c : W64) (old : List Byte) : Option (List Byte) × Flags :=
  let n := 8 * size
  let o := bytesNat old
  if cas then (if o = c.toNat % 2 ^ n then some (natBytes b.toNat size) else none, 0)
  else
    let r := amoNew n fn o (b.toNat % 2 ^ n)
    (some (natBytes r.1 size), r.2)

/-- The 64 bytes an AMOV stores: inactive lanes as they were. -/
def amovBytes (fn : AmoOp) (t : Arith) (mask : W64) (v : V512) (old : List Byte) : List Byte × Flags :=
  let w := arithW t
  let r := mapLanes w mask (bytesBv 512 old) (fun i => amovNew t fn (lane w (bytesBv 512 old) i) (lane w v i))
  (bvBytes r.1 64, r.2)

/-- Bytes an owner request names. -/
def OwnerOp.size : OwnerOp → Nat
  | .amo _ _ z _ _ => z
  | .amov .. => 64
  | .scata .. => 0

/-- The old bytes of an AMO or AMOV, what it stores over them, and its flags. -/
def OwnerOp.run (op : OwnerOp) (old : List Byte) : Option (List Byte) × Flags :=
  match op with
  | .amo fn cas z b c => amoBytes fn cas z b c old
  | .amov fn t mask v => let r := amovBytes fn t mask v old; (some r.1, r.2)
  | .scata .. => (none, 0)

/-! At the issuing core. -/

/-- Where an atomic's address lies: translated for reading and writing; host memory fails permission (R221, R346). -/
def atomicKey (va : W64) : M Nat := do
  match ← xlate va .both with
  | .error code => dataFault code va
  | .ok k =>
    if isConfig k then throw (.fault .configSpace)
    else if isExt k && decide (k < 2 ^ 48) then dataFault Code.permission va
    else pure k

/-- The atomic in own TCM: a load and a store of the chunk (R221). The answer is the old bytes. -/
def atomicInline (k : Nat) (va : W64) (op : OwnerOp) : M (List Byte) := do
  let old ← loadAt k op.size
  let r := op.run old
  match r.1 with
  | none => pure ()
  | some b =>
    putStore { pc := (← get).regs.pc, src := 0, size := 3, wide := 0,
               parts := [{ lane := 0, va := va, bytes := b, key := some k, live := k, fail := 0 }], adds := none,
               checked := false } va
  raiseFlags r.2
  pure old

/-- An atomic whose operands are read: in own TCM its old bytes; elsewhere the chunk ends, the request leaves with its
commit, and the slot waits for the reply (R221, R223). -/
def atomic (va : W64) (op : OwnerOp) (d : Reg) (write : List Byte → M Unit) : M Unit := do
  let s ← get
  if va.toNat < tcmSize s.cur.core then do
    let old ← atomicInline (tcmKey s.cur.core va.toNat) va op
    write old
    done
  else do
    let k ← atomicKey va
    needPlace d
    chunkEnds
    let s ← get
    act (.owner k (s.live va k) op s.regs.pc)
    endChunk (.wait .reply)

/-- The instruction completes with what its wait ended with, if it has: the old bytes, or, where the owner was ended,
nothing (R323). -/
def onReply (write : V512 → M Unit) (first : M Unit) : M Unit := do
  notOnHart
  match (← get).regs.answer with
  | some r => do
    clearAnswer
    match r with
    | some v => write v
    | none => pure ()
    done
  | none => first

/-- An address a service slot refuses to an atomic: one outside the core's own TCM (R223). -/
def State.awayInService (s : State) (va : W64) : Bool := slotClass s.cur.slot == 1 && decide (tcmSize s.cur.core ≤ va.toNat)

/-- The address of an atomic of n bytes (R221, R223); where it is flat the refusal of a service slot comes before the checks of its
value (R71). -/
def atomicAddr (h : W64) (n : Nat) : M W64 := do
  let s ← get
  refuseIf (!bit h 63 && s.awayInService h)
  let va ← handleAddr h 0 n 4
  refuseIf (s.awayInService va)
  if va.toNat % n ≠ 0 then stopTrap Cause.misaligned va else pure va

/-- As much of it as is known before the queues are popped. -/
def refuseAway (srcs : List Reg) (a : Reg) : M Unit := do
  let s ← get
  refuseKnown srcs (fun v => (v a).any (fun h => !bit h 63 && s.awayInService h))

/-- AMO (R221). -/
def amo (fn : AmoOp) (cas : Bool) (z : Size) (d a b : Reg) (c : Option Reg) : M Unit :=
  onReply (fun v => writeG d (v.setWidth 64)) (do
    okG d
    okG a
    okG b
    match c with
    | some r => okG r
    | none => pure ()
    refuseAway ([a, b] ++ c.toList) a
    let p ← operands ([a, b] ++ c.toList) (some d)
    let n := sizeBytes z
    let va ← atomicAddr (← readG p a) n
    let x ← readG p b
    let y ← match c with
      | some r => readG p r
      | none => pure 0
    atomic va (.amo fn cas n x y) d (fun old => writeG d (bytesBv 64 old)))

def execAmoAdd (z : Size) (d a b : Reg) (s : State) := insn (amo .add false z d a b none) s
def execAmoAnd (z : Size) (d a b : Reg) (s : State) := insn (amo .and false z d a b none) s
def execAmoOr (z : Size) (d a b : Reg) (s : State) := insn (amo .or false z d a b none) s
def execAmoXor (z : Size) (d a b : Reg) (s : State) := insn (amo .xor false z d a b none) s
def execAmoMin (z : Size) (d a b : Reg) (s : State) := insn (amo .min false z d a b none) s
def execAmoMax (z : Size) (d a b : Reg) (s : State) := insn (amo .max false z d a b none) s
def execAmoMinu (z : Size) (d a b : Reg) (s : State) := insn (amo .minu false z d a b none) s
def execAmoMaxu (z : Size) (d a b : Reg) (s : State) := insn (amo .maxu false z d a b none) s
def execAmoSwap (z : Size) (d a b : Reg) (s : State) := insn (amo .swap false z d a b none) s
def execAmoCas (z : Size) (d a b c : Reg) (s : State) := insn (amo .swap true z d a b (some c)) s
def execAmoFadd (d a b : Reg) (s : State) := insn (amo .fadd false .s4 d a b none) s

/-- AMOV (R222). -/
def execAmov (op : AmoOp) (t : Arith) (d a b : Reg) (mk : Fin 8) (s : State) := insn (
  onReply (fun v => writeV d v) (do
    okV d
    okG a
    okV b
    refuseAway [a, b] a
    let p ← operands [a, b] (some d)
    let va ← atomicAddr (← readG p a) 64
    let x ← readV p b
    let m ← maskOf mk
    atomic va (.amov op t m x) d (fun old => writeV d (bytesBv 512 old)))) s

/-! Reduction windows. -/

/-- The graph whose window a handle names, and the scratchpad offset of n bytes there; none where the handle is malformed or the
window is not declared or too short (R224, R225). -/
def State.windowOf (s : State) (st : Stamp) (h : W64) (n : Nat) : Option (Graph × Nat) :=
  if !bit h 63 || fld h 19 44 != 0 || fld h 0 16 % 64 != 0 then none
  else
    match s.graphOfStamp st with
    | none => none
    | some g =>
      match (s.graph g).redwins.find? (fun w => w.win.val == fld h 16 3) with
      | none => none
      | some w => if fld h 0 16 + n ≤ w.bytes then some (s.graph g, w.offset + fld h 0 16) else none

/-- Where n bytes at a window handle lie in a core's cluster's scratchpad (R224, R225, R257); none where the handle is
refused, or where the window does not exist in that cluster. -/
def State.windowAt (s : State) (c : Nat) (st : Stamp) (h : W64) (n : Nat) : Option Nat :=
  (s.windowOf st h n).bind (fun w =>
    if w.1.clusters.contains (Id.clusterNo c) then some (scratchKey (Id.clusterNo c) w.2) else none)

/-- ARED (R225): one store-buffer line, whose adds apply at the commit. A window has no shadow, so that a redundant activation's
ARED to a declared one raises permission on either side, in whatever cluster (R346). -/
def execAred (t : Arith) (a b : Reg) (mk : Fin 8) (s : State) := insn (do
  computeOnly
  okG a
  okV b
  let s ← get
  let st := s.stampOf s.cur.core s.cur.slot
  refuseKnown [a, b] (fun v => (v a).any (fun h => (s.windowOf st h 64).isNone))
  let p ← operands [a, b] none
  let h ← readG p a
  let x ← readV p b
  let m ← maskOf mk
  let s ← get
  refuseIf (s.windowOf st h 64).isNone
  if s.me.side ≠ .none then throw (.trap Cause.dataAccess h 3 none none) else
  match s.windowAt s.cur.core st h 64 with
  | none => illegalOperand
  | some k => do
    needLines (s.me.lineCount + 1)
    modify (fun s => s.modChunk (fun c =>
      { c with stores := c.stores ++
        [{ pc := s.regs.pc, src := 0, size := 0, wide := 0, parts := [],
           adds := some { key := k, t := t, mask := m, v := x }, checked := true }] }))
    done) s

end Sys2Proof.Machine
end

