-- ==== Sys2Proof/Machine/LabelGroup.lean ====
section
/-! DEFINITION. The label group (05_path_labels R121-R128). -/

namespace Sys2Proof.Machine

/-- LMAKE and the other bit tests run on compute and bank cores only (R128). -/
def labelOp : M Unit := notOnHart

def execLmake (d a b : Reg) (s : State) := insn (do
  labelOp
  okG d
  okG a
  okG b
  let p ← operands [a, b] (some d)
  let l ← readG p a
  let o ← readG p b
  let k ← wellFormedLabel l
  let n := Path.depth k.widths l
  match k.widths[n]? with
  | none => illegalOperand
  | some w =>
    refuseIf (o == 0 || decide (2 ^ w - 1 < o.toNat))
    writeG d (Path.ofFields k.widths (Path.skein l) ((Path.fields k.widths l).take n ++ [o.toNat]))
    done) s

/-- A result from one label (R122). -/
def label1 (d a : Reg) (f : Skein → W64 → W64) : M Unit := do
  labelOp
  okG d
  okG a
  let p ← operands [a] (some d)
  let l ← readG p a
  let k ← wellFormedLabel l
  writeG d (f k l)
  done

/-- A result from two labels; each is checked under its own skein, that of S1 first (log 95). -/
def label2 (d a b : Reg) (f : Skein → W64 → W64 → W64) : M Unit := do
  labelOp
  okG d
  okG a
  okG b
  let p ← operands [a, b] (some d)
  let x ← readG p a
  let y ← readG p b
  let k ← wellFormedLabel x
  let _ ← wellFormedLabel y
  writeG d (f k x y)
  done

/-- LPAR: the deepest non-zero field cleared; 0 for the root. -/
def parentOf (k : Skein) (l : W64) : W64 :=
  let n := Path.depth k.widths l
  if n = 0 then 0 else Path.ofFields k.widths (Path.skein l) ((Path.fields k.widths l).take (n - 1))

/-- LCMP (R122). -/
def relation (k : Skein) (x y : W64) : W64 :=
  if x = y then 0
  else if Path.skein x ≠ Path.skein y then 5
  else if Path.ancestor k.widths x y then 1
  else if Path.ancestor k.widths y x then 2
  else if x.toNat < y.toNat then 3
  else 4

def execLpar (d a : Reg) (s : State) := insn (label1 d a parentOf) s
def execLdep (d a : Reg) (s : State) := insn (label1 d a (fun k l => BitVec.ofNat 64 (Path.depth k.widths l))) s
def execLanc (d a b : Reg) (s : State) :=
  insn (label2 d a b (fun k x y => Alu.flag (Path.ancestor k.widths x y))) s
def execLrange (d a : Reg) (s : State) := insn (label1 d a (fun k l => Path.hi k.widths l)) s
def execLcmp (d a b : Reg) (s : State) := insn (label2 d a b relation) s

/-- The loop of LCANON on a label reached after n rewrites (R124). -/
def canonLoop (k : Skein) (h : W64) : Nat → W64 → Nat → M W64
  | 0, _, _ => stopTrap Cause.labelLoop h
  | fuel + 1, l, n => do
    let s ← get
    let es := s.entries s.me s.cur.core
    match bestMatch k.widths es l false with
    | none => throw (.trap Cause.labelMiss h 0 (some (l, missWord n (decide (0 < n)) false 3)) none)
    | some e =>
      modify (fun s => s.modCore s.cur.core (fun c => c.hedTouch (matching k.widths es l false)))
      if e.kind ≠ 3 then pure l
      else if n = 2 then stopTrap Cause.labelLoop h
      else
        match rewrite k.widths l e with
        | none => stopTrap Cause.labelFormat h
        | some l' => canonLoop k h fuel l' (n + 1)

def execLcanon (d a : Reg) (s : State) := insn (do
  labelOp
  okG d
  okG a
  let p ← operands [a] (some d)
  let l ← readG p a
  let k ← wellFormedLabel l
  writeG d (← canonLoop k l 3 l 0)
  done) s

def execLxlook (d a : Reg) (s : State) := insn (do
  labelOp
  okG d
  okG a
  let p ← operands [a] (some d)
  let l ← readG p a
  let k ← wellFormedLabel l
  writeG d (← labelTranslate k l 2)
  done) s

/-- Whether an entry's key lies in a range of unsigned values. -/
def HedEntry.within (e : HedEntry) (asid : Asid) (lo hi : W64) : Bool :=
  e.asid == asid && decide (lo.toNat ≤ e.e0.toNat) && decide (e.e0.toNat ≤ hi.toNat)

/-- LXINV (R126): the issuing core's entries and the slot's pending fills go at once; the broadcast waits for the commit. Fills of a
chunk that trap entry ended do not come back when the handler's chunk alone is squashed (log 102). -/
def execLxinv (a b : Reg) (s : State) := insn (do
  labelOp
  okG a
  okG b
  let p ← operands [a, b] none
  let lo ← readG p a
  let hi ← readG p b
  let _ ← wellFormedLabel lo
  let _ ← wellFormedLabel hi
  let s ← get
  let as := s.me.asid
  modify (fun s => s.modCore s.cur.core (fun k => { k with heddle := k.heddle.filter (fun e => !e.within as lo hi) }))
  modify (fun s => s.modMe (fun x =>
    { x with
      chunk := x.chunk.map (fun c => { c with fills := c.fills.filter (fun e => !e.within as lo hi) })
      ended := x.ended.map (fun c => { c with fills := c.fills.filter (fun e => !e.within as lo hi) }) }))
  act (.remove { heddle := true, asid := as, lo := lo, hi := hi })
  done) s

/-- The refusals of LXFILL (R125). -/
def fillRefused (k : Skein) (e0 e1 : W64) : Bool :=
  let kind := fld e1 62 2
  if kind ≤ 1 then
    fld e1 56 6 != 0 || fld e1 0 3 != 0 || (kind == 1 && Path.depth k.widths e0 == k.widths.length)
  else
    fld e1 48 14 != 0 || Path.depth k.widths e0 == 0 ||
      !Path.wellFormed k.widths (Path.ofPath (Path.skein e0) e1) || fld e1 0 48 == fld e0 0 48

def execLxfill (a b : Reg) (s : State) := insn (do
  labelOp
  okG a
  okG b
  let p ← operands [a, b] none
  let e0 ← readG p a
  let e1 ← readG p b
  let k ← wellFormedLabel e0
  refuseIf (fillRefused k e0 e1)
  let s ← get
  needLines (s.me.lineCount + 1)
  modify (fun s => s.modChunk (fun c =>
    { c with
      fills := c.fills ++ [{ asid := s.me.asid, e0 := e0, e1 := e1, widths := k.widths }]
      fillLines := c.fillLines + 1 }))
  done) s

/-- LSCAN's count from slot i on (R127). -/
def countRange (lo hi table : W64) : Nat → Nat → M Nat
  | _, 0 => pure 0
  | i, fuel + 1 => do
    let k ← loadDword (table + BitVec.ofNat 64 (16 + 16 * i))
    if bit k 63 && decide (hi.toNat < k.toNat) then pure 0
    else do
      let n ← countRange lo hi table (i + 1) fuel
      pure (if bit k 63 && decide (lo.toNat ≤ k.toNat) then n + 1 else n)

/-- A queue to be bound must be unbound and empty. -/
def freeQueue (i : Fin 16) : M Unit := do
  let x := (← get).regs.q[i]
  refuseIf (x.bind != .unbound || x.entries != [])

/-- LSCAN (R127): the queue keeps the N it read, which bounds every later pop (log 96). -/
def execLscan (d a b c : Reg) (s : State) := insn (do
  labelOp
  let i ← okQ d
  okG a
  okG b
  okG c
  freeQueue i
  refuseKnown [a, b, c] (fun v => (v c).any (bit · 63))
  let p ← operands [a, b, c] none
  let lo ← readG p a
  let hi ← readG p b
  let t ← readG p c
  refuseIf (bit t 63)
  let _ ← wellFormedLabel lo
  let _ ← wellFormedLabel hi
  if t.toNat % 16 ≠ 0 then stopTrap Cause.misaligned t else
  flatOk t
  let n := (← loadDword t).toNat % 2 ^ 32
  let cnt ← countRange lo hi t 0 n
  setQueue i { bind := .labels lo hi t n 0, entries := [], count := cnt, closed := false, fetched := [] }
  done) s

end Sys2Proof.Machine
end

