-- ==== Sys2Proof/Machine/Attention.lean ====
section
/-! DEFINITION. KV scans, positions, rotation, the softmax update and selection (15_attention_and_selection R276-R287,
R293-R295). -/

namespace Sys2Proof.Machine

/-! KVSCAN (R276, R281). -/

/-- Dword i of bytes. -/
def dword (b : List Byte) (i : Nat) : W64 := bytesBv 64 ((b.drop (8 * i)).take 8)

/-- A page address of a descriptor or a list entry holds zero in its zero fields. -/
def pageOk (w : W64) : Bool := fld w 0 13 == 0 && fld w 57 7 == 0

/-- A KV descriptor is usable (R276); one with a list address and no list is not (log 13). -/
def kvUsable (d : List Byte) : Bool :=
  let cnt := fld (dword d 0) 32 32
  let w4 := dword d 4
  pageOk (dword d 1) && fld (dword d 3) 16 48 == 0 && fld w4 0 4 == 0 && fld w4 57 7 == 0 &&
    (cnt == 0 || decide (fld (dword d 0) 0 32 + cnt - 1 ≤ 0xFFFFFFFF)) &&
    (fld (dword d 3) 0 16 != 0 || w4 == 0)

/-- The rows of the valid tokens, K then V of each, in ascending token order. `pages` holds each page's address and mask; a token
beyond the pages has no valid bit (R276). -/
def kvStrips (pages : List (W64 × W64)) (cnt : Nat) : List Strip :=
  (pages.zipIdx.map (fun e =>
    ((List.range 64).filter (fun t => bit e.1.2 t && decide (64 * e.2 + t < cnt))).flatMap (fun t =>
      [{ va := e.1.1 + BitVec.ofNat 64 (64 * t), len := 64 },
       { va := e.1.1 + BitVec.ofNat 64 (4096 + 64 * t), len := 64 }]))).flatten

def execKvscan (d a : Reg) (s : State) := insn (do
  notOnHart
  let i ← okQ d
  okG a
  freeQueue i
  let p ← operands [a] none
  let h ← readG p a
  refuseIf (!bit h 63)
  let k ← wellFormedLabel h
  refuseIf (decide (k.log2 < 6))
  let va ← labelTranslate k h srcOther
  if va.toNat % 64 ≠ 0 then stopTrap Cause.misaligned va else
  flatOk va
  let desc ← memLoad va 64
  let list := dword desc 4 &&& 0x01FFFFFFFFFFFFF0
  let es ← (List.range (fld (dword desc 3) 0 16)).mapM (fun j => do
    let e := list + BitVec.ofNat 64 (16 * j)
    flatOk e
    memLoad e 16)
  refuseIf (!kvUsable desc || es.any (fun e => !pageOk (dword e 0)))
  let pages := (dword desc 1, dword desc 2) :: es.map (fun e => (dword e 0, dword e 1))
  let strips := kvStrips pages (fld (dword desc 0) 32 32)
  setQueue i { bind := .rows true strips, entries := [], count := strips.length, closed := false, fetched := [] }
  done) s

/-! Positions (R283). -/

def execPosadd (d a b : Reg) (s : State) := insn (do
  notOnHart
  okG d
  okG a
  okG b
  let p ← operands [a, b] (some d)
  let x : Nat := (← readG p a).toNat % 2 ^ 32
  let n := toSigned 32 ((← readG p b).toNat % (2 ^ 32 : Nat))
  let r : Int := (x : Int) + n
  if 0xFFFFFFFF < r then do
    raiseFlags Fl.posov
    writeG d 0xFFFFFFFF
  else if r < 0 then do
    raiseFlags Fl.posov
    writeG d 0
  else writeG d (BitVec.ofNat 64 r.toNat)
  done) s

/-! VROPE (R284, R285). -/

/-- x × a + y × b, exact, rounded once (R285, R287). -/
def fused (mode : Rnd) (x a y b : Val) : Nat × Flags :=
  let p := Val.mul x a
  let q := Val.mul y b
  let r := Val.add mode p.1 q.1
  let o := roundTo FFmt.fp32 mode false r.1
  (o.1, p.2 ||| q.2 ||| r.2 ||| o.2)

/-- One pair of lanes turned by t / 2^32 turns. -/
def rotate (mode : Rnd) (t x y : Nat) : (Nat × Nat) × Flags :=
  let f := FFmt.fp32
  let vx := f.decode x
  let vy := f.decode y
  if vx.isNan || vy.isNan then ((f.nanCode, f.nanCode), 0)
  else if t = 0 then ((x, y), 0)
  else
    let c := trigTo false t
    let s := trigTo true t
    let vc := f.decode c.1
    let vs := f.decode s.1
    let u := fused mode vx vc vy vs.neg
    let w := fused mode vx vs vy vc
    ((u.1, w.1), c.2 ||| s.2 ||| u.2 ||| w.2)

def execVrope (d a b c : Reg) (s : State) := insn (do
  notOnHart
  okV d
  okV a
  okG b
  okG c
  let s ← get
  let outside (t : W64) : Bool := bit t 63 || decide (tcmSize s.cur.core < t.toNat + 32)
  refuseKnown [a, b, c] (fun v => (v c).any outside)
  let p ← operands [a, b, c] (some d)
  let x ← readV p a
  let pos := (← readG p b).toNat % 2 ^ 32
  let t ← readG p c
  refuseIf (outside t)
  if t.toNat % 4 ≠ 0 then stopTrap Cause.misaligned t else
  let tab ← memLoad t 32
  let rm := s.regs.rm
  let r := (List.range 8).map (fun i =>
    rotate rm (pos * bytesNat ((tab.drop (4 * i)).take 4) % 2 ^ 32) (lane 32 x (2 * i)) (lane 32 x (2 * i + 1)))
  raiseFlags (r.foldl (fun f e => f ||| e.2) 0)
  writeV d (ofLanes 32 (r.flatMap (fun e => [e.1.1, e.1.2])))
  done) s

/-! VSMAX (R286, R287). -/

/-- The result of R287: lane 0, lane 1, the accumulator lanes and the flags. -/
structure Smax where
  m : Nat
  l : Nat
  acc : List Nat
  flags : Flags
  deriving DecidableEq, Repr

def softmax (mode : Rnd) (sc m l : Nat) (acc v : List Nat) : Smax :=
  let f := FFmt.fp32
  let one : Val := .fin false 1 0
  let copy := v.map (fun x => if (f.decode x).isNan then f.nanCode else x)
  let oneCode := 0x3F800000
  let inf := f.infCode
  match f.decode sc, f.decode m with
  | .nan, _ => { m := f.nanCode, l := f.nanCode, acc := v.map (fun _ => f.nanCode), flags := Fl.nv }
  | _, .nan => { m := f.nanCode, l := f.nanCode, acc := v.map (fun _ => f.nanCode), flags := 0 }
  | .inf true, _ => { m := m, l := l, acc := acc, flags := 0 }
  | .inf false, .inf false =>
    let r := fused mode (f.decode l) one one one
    let a := (acc.zip v).map (fun e => fused mode (f.decode e.1) one (f.decode e.2) one)
    { m := inf, l := r.1, acc := a.map (·.1), flags := a.foldl (fun x e => x ||| e.2) r.2 }
  | .inf false, _ => { m := inf, l := oneCode, acc := copy, flags := 0 }
  | _, .inf true => { m := sc, l := oneCode, acc := copy, flags := 0 }
  | _, .inf false => { m := inf, l := l, acc := acc, flags := 0 }
  | xs, xm =>
    let m' := Fop.max f m sc
    let x' := (f.decode m').neg
    let scale := exp2To f .rne (Val.add .rne xm x').1
    let w := exp2To f .rne (Val.add .rne xs x').1
    let vs := f.decode scale.1
    let vw := f.decode w.1
    let r := fused mode (f.decode l) vs vw one
    let a := (acc.zip v).map (fun e => fused mode (f.decode e.1) vs vw (f.decode e.2))
    { m := m', l := r.1, acc := a.map (·.1), flags := a.foldl (fun x e => x ||| e.2) (scale.2 ||| w.2 ||| r.2) }

def execVsmax (d a b c : Reg) (s : State) := insn (do
  notOnHart
  okVOnly d
  okVOnly a
  okV b
  okG c
  refuseIf (d == a)
  let p ← operands [b, c] none
  let st ← readV [] a
  let acc ← readV [] d
  let v ← readV p b
  let sc := (← readG p c).toNat % 2 ^ 32
  let r := softmax (← get).regs.rm sc (lane 32 st 0) (lane 32 st 1) (lanes 32 acc) (lanes 32 v)
  raiseFlags r.flags
  writeV d (ofLanes 32 r.acc)
  writeV a (putLanes 32 st [(0, r.m), (1, r.l)])
  done) s

/-! Selection (R293-R295). -/

/-- VTHRC's selected lanes, and whether a NaN took part (R293). -/
def threshold (f : FFmt) (mask : W64) (x : V512) (thr : Nat) : List Nat × Bool :=
  let w := f.width
  let t := f.decode thr
  let cand := activeLanes (512 / w) mask
  (cand.filter (fun i => Val.lt t (f.decode (lane w x i))),
   t.isNan || cand.any (fun i => (f.decode (lane w x i)).isNan))

/-- VTHRC (R293). Of a 16-bit format bits [31:16] of S2 are not looked at (log 119). -/
def execVthrc (f : FltTy) (d a b c : Reg) (mk : Fin 8) (s : State) := insn (do
  notOnHart
  okV d
  okV a
  okG b
  let i ← okQ c
  refuseIf (!takesPush ((← get).regs.q[i]).kind)
  let p ← operands [a, b] (some d)
  let t := fltFmt f
  let w := t.width
  let x ← readV p a
  let g ← readG p b
  let r := threshold t (← maskOf mk) x (g.toNat % 2 ^ w)
  raiseFlags (if r.2 then Fl.nv else 0)
  let base := fld g 32 32
  writeV d (ofLanes w ((List.range (512 / w)).map (fun j =>
    match r.1[j]? with
    | some k => lane w x k
    | none => t.nanCode)))
  let idx := r.1.map (fun k => (base + k) % 2 ^ 32)
  pushQ i (ofLanes 32 (idx.take 16))
  if w = 16 then pushQ i (ofLanes 32 (idx.drop 16)) else pure ()
  done) s

/-- The lowest lane of the largest value (R294). -/
def argmax (f : FFmt) (x : V512) : Nat × Nat :=
  let w := f.width
  let r := (List.range (512 / w)).foldl (fun (a : Option (Nat × Nat)) i =>
    let c := lane w x i
    if (f.decode c).isNan then a else
    match a with
    | none => some (i, c)
    | some b => if Val.below (f.decode b.2) (f.decode c) then some (i, c) else a) none
  r.getD (0, f.nanCode)

def execVargmx (f : FltTy) (d a : Reg) (s : State) := insn (do
  notOnHart
  okG d
  okV a
  let p ← operands [a] (some d)
  let t := fltFmt f
  let x ← readV p a
  let r := argmax t x
  raiseFlags (if (lanes t.width x).any (fun c => (t.decode c).isNan) then Fl.nv else 0)
  writeG d (BitVec.ofNat 64 (r.1 + r.2 * 2 ^ 32))
  done) s

/-- A list entry stands before another: larger value, −0 below +0, then smaller index (R295). -/
def tkBefore (a b : Nat × Nat) : Bool :=
  let x := FFmt.fp32.decode a.1
  let y := FFmt.fp32.decode b.1
  if Val.below y x then true else if Val.below x y then false else decide (a.2 ≤ b.2)

def tkInsert (e : Nat × Nat) : List (Nat × Nat) → List (Nat × Nat)
  | [] => [e]
  | x :: r => if tkBefore e x then e :: x :: r else x :: tkInsert e r

/-- The merged list: for each index the entry with the largest value, in order (R295). -/
def tkMerge (l : List (Nat × Nat)) : List (Nat × Nat) :=
  let u := l.filter (fun e => !(FFmt.fp32.decode e.1).isNan)
  let s := u.foldl (fun a e => tkInsert e a) []
  s.foldl (fun a e => if a.any (fun x => x.2 == e.2) then a else a ++ [e]) []

/-- The pair an even v register names. -/
def pairV (r : Reg) : M (V512 × V512) := do
  let x := (← get).regs
  match r with
  | .v n => if n.val % 2 = 0 then pure (x.v[n], x.v[n + 1]) else illegalOperand
  | _ => illegalOperand

def execTkmerge (d a b c : Reg) (s : State) := insn (do
  notOnHart
  okG d
  let _ ← pairV a
  let x ← pairV b
  let y ← pairV c
  let _ ← operands [] (some d)
  let l (v : V512 × V512) : List (Nat × Nat) :=
    ((lanes 32 v.1).zip (lanes 32 v.2)).filter (fun e => e.2 != 0xFFFFFFFF)
  let all := l x ++ l y
  let r := (tkMerge all).take 16
  raiseFlags (if all.any (fun e => (FFmt.fp32.decode e.1).isNan) then Fl.nv else 0)
  let pad := List.replicate (16 - r.length) (withSign FFmt.fp32 true FFmt.fp32.infCode, 0xFFFFFFFF)
  match a with
  | .v n =>
    writeV (.v n) (ofLanes 32 ((r ++ pad).map (·.1)))
    writeV (.v (n + 1)) (ofLanes 32 ((r ++ pad).map (·.2)))
  | _ => illegalOperand
  writeG d (BitVec.ofNat 64 r.length)
  done) s

end Sys2Proof.Machine
end

