-- ==== Sys2Proof/Machine/Crypto.lean ====
section
/-! DEFINITION. The two standards that 20_host_and_boot R361, R364 and R365 name: SHA-256 and ECDSA on P-256, on bytes and natural
numbers. Their constants and steps are those of the published standards, not of spec/ (log 89). -/

namespace Sys2Proof.Machine

/-! SHA-256. -/

namespace Sha

/-- A word of the hash. -/
abbrev Word := BitVec 32

/-- The greatest k-th root r' of n, as a whole number, that adds to r only binary places below a given one. -/
def root (k n r : Nat) : Nat → Nat
  | 0 => r
  | place + 1 => root k n (if (r + 2 ^ place) ^ k ≤ n then r + 2 ^ place else r) place

/-- The first 32 binary places after the point of the k-th root of a number below 2 ^ (4 k). -/
def fraction (k n : Nat) : Word := BitVec.ofNat 32 (root k (n * 2 ^ (32 * k)) 0 36)

/-- The primes below a bound of at most 361, by trial division. -/
def primes (bound : Nat) : List Nat :=
  (List.range bound).filter (fun n => decide (2 ≤ n) && (List.range' 2 17).all (fun q => q == n || n % q != 0))

/-- The eight words before the first block: the standard takes them from the square roots of the first eight primes. -/
def first : List Word := (primes 20).map (fraction 2)

/-- The words of the 64 rounds: from the cube roots of the first 64 primes. -/
def rounds : List Word := (primes 312).map (fraction 3)

/-- The exclusive or of a word's rotations. -/
def turned (w : Word) (by_ : List Nat) : Word := (by_.map w.rotateRight).foldl (· ^^^ ·) 0

/-- The next word of a block's schedule, which stands latest first. -/
def nextWord (w : List Word) : Word :=
  let x := w.getD 14 0
  let y := w.getD 1 0
  w.getD 15 0 + (turned x [7, 18] ^^^ (x >>> 3)) + w.getD 6 0 + (turned y [17, 19] ^^^ (y >>> 10))

/-- n more words of a schedule. -/
def schedule (w : List Word) : Nat → List Word
  | 0 => w
  | n + 1 => schedule (nextWord w :: w) n

/-- One round: the first half of the eight words and the second each move on by one, and what the round computes enters both. -/
def round (x : List Word) (kw : Word × Word) : List Word :=
  let at_ := fun i => x.getD i 0
  let low := at_ 7 + turned (at_ 4) [6, 11, 25] + ((at_ 4 &&& at_ 5) ||| (~~~ at_ 4 &&& at_ 6)) + kw.1 + kw.2
  let high := turned (at_ 0) [2, 13, 22] + ((at_ 0 &&& at_ 1) ||| (at_ 2 &&& (at_ 0 ||| at_ 1)))
  (low + high) :: x.take 3 ++ (at_ 3 + low) :: (x.drop 4).take 3

/-- The big-endian words of bytes; `fuel` bounds their number. -/
def words (l : List Byte) : Nat → List Word
  | 0 => []
  | fuel + 1 =>
    match l with
    | p :: q :: r :: t :: rest => (p ++ q ++ r ++ t) :: words rest fuel
    | _ => []

/-- A block of 16 words. -/
def block (x w : List Word) : List Word := x.zipWith (· + ·) ((rounds.zip (schedule w.reverse 48).reverse).foldl round x)

/-- All blocks of a message. -/
def blocks (x w : List Word) : Nat → List Word
  | 0 => x
  | n + 1 => blocks (block x (w.take 16)) (w.drop 16) n

/-- A message with its padding: a one bit, zeros, and its length in bits. -/
def padded (l : List Byte) : List Byte :=
  let n := l.length
  l ++ 0x80 :: List.replicate ((119 - n % 64) % 64) 0 ++ (List.range 8).map (fun i => BitVec.ofNat 8 (8 * n / 256 ^ (7 - i)))

end Sha

/-- SHA-256 of bytes, its first byte the most significant. -/
def sha256 (l : List Byte) : BitVec 256 :=
  let m := Sha.padded l
  (Sha.blocks Sha.first (Sha.words m (m.length / 4)) (m.length / 64)).foldl (fun d w => d <<< 32 ||| w.setWidth 256) 0

/-! P-256. -/

namespace P256

/-- The prime of the field. -/
def p : Nat := 2 ^ 256 - 2 ^ 224 + 2 ^ 192 + 2 ^ 96 - 1
/-- The curve is y² = x³ − 3x + b. -/
def b : Nat := 0x5ac635d8aa3a93e7b3ebbd55769886bc651d06b0cc53b0f63bce3c3e27d2604b
/-- The order of the base point. -/
def n : Nat := 0xffffffff00000000ffffffffffffffffbce6faada7179e84f3b9cac2fc632551

/-- A point: none at infinity. -/
abbrev Point := Option (Nat × Nat)

/-- The base point. -/
def base : Point :=
  some (0x6b17d1f2e12c4247f8bce6e563a440f277037d812deb33a0f4a13945d898c296,
    0x4fe342e2fe1a7f9b8ee7eb4a7c0f9e162bce33576b315ececbb6406837bf51f5)

/-- x to the power e modulo m; `bits` bounds the bits of e. -/
def power (m x e : Nat) : Nat → Nat
  | 0 => 1
  | bits + 1 =>
    let y := power m (x * x % m) (e / 2) bits
    if e % 2 = 1 then y * x % m else y

/-- The inverse modulo a prime. -/
def inverse (m x : Nat) : Nat := power m x (m - 2) 256

/-- x − y modulo m. -/
def minus (m x y : Nat) : Nat := (x + (m - y % m)) % m

/-- The third point of a line of a slope, mirrored. -/
def third (slope x y x2 : Nat) : Point :=
  let r := minus p (minus p (slope * slope) x) x2
  some (r, minus p (slope * minus p x r) y)

/-- The sum of two points. -/
def add (q r : Point) : Point :=
  match q, r with
  | none, r => r
  | q, none => q
  | some (x, y), some (x2, y2) =>
    if x = x2 then
      if (y + y2) % p = 0 then none else third (minus p (3 * x * x) 3 * inverse p (2 * y % p) % p) x y x2
    else third (minus p y2 y * inverse p (minus p x2 x) % p) x y x2

/-- The k-fold sum of a point; `bits` bounds the bits of k. -/
def times (k : Nat) (q : Point) : Nat → Point
  | 0 => none
  | bits + 1 =>
    let r := times (k / 2) (add q q) bits
    if k % 2 = 1 then add q r else r

/-- A point lies on the curve. -/
def onCurve (x y : Nat) : Bool :=
  decide (x < p) && decide (y < p) && y * y % p == (minus p (x * x * x) (3 * x) + b) % p

/-- A private scalar and its public point, x then y. -/
def publicOf (d : Nat) : BitVec 512 :=
  match times d base 256 with
  | some (x, y) => BitVec.ofNat 512 (x * 2 ^ 256 + y)
  | none => 0

/-- ECDSA verification of a signature, r then s, over a digest. -/
def verify (key : BitVec 512) (digest : BitVec 256) (sig : BitVec 512) : Bool :=
  let x := key.toNat / 2 ^ 256
  let y := key.toNat % 2 ^ 256
  let r := sig.toNat / 2 ^ 256
  let s := sig.toNat % 2 ^ 256
  if onCurve x y && r != 0 && s != 0 && decide (r < n) && decide (s < n) then
    let w := inverse n s
    match add (times (digest.toNat * w % n) base 256) (times (r * w % n) (some (x, y)) 256) with
    | some (v, _) => v % n == r
    | none => false
  else false

/-- The ECDSA signature of a digest under a scalar with an ephemeral scalar; none where a new ephemeral is needed. -/
def signWith (d : Nat) (digest : BitVec 256) (k : Nat) : Option (BitVec 512) :=
  match times k base 256 with
  | none => none
  | some (x, _) =>
    let r := x % n
    let s := inverse n k * ((digest.toNat + r * d) % n) % n
    if r = 0 ∨ s = 0 then none else some (BitVec.ofNat 512 (r * 2 ^ 256 + s))

/-- A scalar of the group from a number. -/
def scalar (x : Nat) : Nat := 1 + x % (n - 1)

/-- The signature of a digest with the first usable ephemeral scalar from a place on. -/
def sign (d : Nat) (digest : BitVec 256) (from_ : Nat) : BitVec 512 :=
  ((List.range 256).findSome? (fun i => signWith d digest (scalar (Config.ephemeral (from_ + i))))).getD 0

end P256

end Sys2Proof.Machine
end

