-- ==== Sys2Proof/Machine/Records.lean ====
section
/-! DEFINITION. The repair log as bytes, signed and read back (19_resilience_and_links R339; 20_host_and_boot R364). The spec says that
the records are the log as it was signed, and gives no layout: this one is the model's (log 74). -/

namespace Sys2Proof.Machine

/-- What an entry is about as five numbers, its kind of thing first. -/
def repairedCode : Repaired → List Nat
  | .row { bank := .scratch c b, row := r } => [0, c, b, r, 0]
  | .row { bank := .sram d l b, row := r } => [1, d, l, b, r]
  | .row { bank := .tcm c b, row := r } => [2, c, b, r, 0]
  | .core c => [3, c, 0, 0, 0]
  | .channel t c => [4, t, c, 0, 0]
  | .bank (.scratch c b) => [5, c, b, 0, 0]
  | .bank (.sram d l b) => [6, d, l, b, 0]
  | .bank (.tcm c b) => [7, c, b, 0, 0]
  | .link l => [8, l, 0, 0, 0]
  | .lane l m d n => [9, l, m, if d then 1 else 0, n]

def repairedOf : List Nat → Option Repaired
  | [0, c, b, r, _] => some (.row { bank := .scratch c b, row := r })
  | [1, d, l, b, r] => some (.row { bank := .sram d l b, row := r })
  | [2, c, b, r, _] => some (.row { bank := .tcm c b, row := r })
  | [3, c, _, _, _] => some (.core c)
  | [4, t, c, _, _] => some (.channel t c)
  | [5, c, b, _, _] => some (.bank (.scratch c b))
  | [6, d, l, b, _] => some (.bank (.sram d l b))
  | [7, c, b, _, _] => some (.bank (.tcm c b))
  | [8, l, _, _, _] => some (.link l)
  | [9, l, m, d, n] => some (.lane l m (d == 1) n)
  | _ => none

/-- An entry as six numbers. -/
def entryCode (e : RepairEvent) : List Nat := e.kind :: repairedCode e.what

/-- The log as bytes: six little-endian dwords to an entry. -/
def repairBytes (l : List RepairEvent) : List Byte :=
  l.flatMap (fun e => (entryCode e).flatMap (fun n => bvBytes (BitVec.ofNat 64 n) 8))

/-- The entries that bytes hold; what is no entry names nothing. `fuel` bounds their number. -/
def recordEvents (b : List Byte) : Nat → List RepairEvent
  | 0 => []
  | fuel + 1 =>
    let n (i : Nat) : Nat := bytesNat ((b.drop (8 * i)).take 8)
    if b.length < 48 then []
    else
      let r := recordEvents (b.drop 48) fuel
      match repairedOf [n 1, n 2, n 3, n 4, n 5] with
      | some w => { kind := n 0, what := w } :: r
      | none => r

/-- Two numbers of 256 bits as they lie in memory, the upper half's first, each least significant byte first (R1): x and y of a point,
r and s of a signature. -/
def pairBytes (w : BitVec 512) : List Byte := bvBytes (w.extractLsb' 256 256) 32 ++ bvBytes (w.extractLsb' 0 256) 32

/-- The two numbers that 64 bytes hold. -/
def bytesPair (l : List Byte) : BitVec 512 := bytesBv 256 (l.take 32) ++ bytesBv 256 (l.drop 32)

/-- The log's bytes with the signature over them. -/
def recordJoin (b : List Byte) (sig : BitVec 512) : List Byte := b ++ pairBytes sig

/-- The bytes that records cover with their signature, and the signature. -/
def recordSplit (l : List Byte) : List Byte × BitVec 512 :=
  (l.take (l.length - 64), bytesPair (l.drop (l.length - 64)))

end Sys2Proof.Machine
end

