-- ==== Sys2Proof/Machine/CtrlRegs.lean ====
section
/-! DEFINITION. Control registers: what each number holds, who may read and write it, and when a write takes effect
(04_scalar_and_control R93-R96; 02 R18, R21, R22, R26, R35; 05 R102, R113; 07 R143; 10 R206, R210, R215; 11 R236; 13 R252-R254,
R262, R264; 18 R314, R321; 19 R338, R340, R342, R353). -/

namespace Sys2Proof.Machine

/-! Die links (R350, R353). -/

namespace Lnk

/-- Modules of a link. -/
def modules (l : Nat) : Nat := if l < 6 then 8 else if l < 14 then 10 else 4

/-- The link and field number of a register number. -/
def split (r : Nat) : Nat × Nat := ((r - 0x900) / 16, (r - 0x900) % 16)

def isReg (r : Nat) : Bool := decide (0x900 ≤ r) && decide (r < 0xA20)

def get (s : State) (l : Nat) : Link := s.links.get l Link.init
def put (s : State) (l : Nat) (x : Link) : State := { s with links := s.links.put l x }

def count (t : List (Lane × Nat)) (x : Lane) : Nat :=
  match t.find? (fun e => e.1 == x) with
  | some e => e.2
  | none => 0

/-- Spare lanes in use in one direction of a module. -/
def used (x : Link) (m : Nat) (dir : Bool) : Nat := (x.retired.filter (fun e => e.1.mod == m && e.1.dir == dir)).length

/-- The lane LNK_LANESEL selects. -/
def selected (x : Link) : Lane := { mod := fld x.lanesel 0 4, dir := bit x.lanesel 7, lane := fld x.lanesel 8 7 }

/-- LNK_RATE as it reads: bit 9 of `rate` asks for a retrain, and BUSY shows one that has begun (R351). -/
def rateWord (x : Link) : W64 := if x.training then x.rate ||| 0x200 else x.rate &&& ~~~ 0x200

/-- A register of a link as it reads. -/
def read (l : Nat) (x : Link) (n : Nat) : W64 :=
  match n with
  | 0 => rateWord x
  | 1 =>
    let m := modules l
    BitVec.ofNat 64 (2 ^ m - 1 + m * 2 ^ 16 + (List.range m).foldl (fun a i =>
      let u := if used x i false < used x i true then used x i true else used x i false
      a + u % 8 * 2 ^ (24 + 3 * i)) 0)
  | 2 => x.replay
  | 3 => x.crcerr
  | 4 => x.flits
  | 5 => x.log.headD 0
  | 6 => x.budget
  | 7 => x.lanesel
  | 8 =>
    let e := selected x
    let c := count x.lanes e
    let by_ := count x.retired e
    BitVec.ofNat 64 ((if c < 2 ^ 32 then c else 2 ^ 32 - 1) + (if by_ = 0 then 0 else 2 ^ 32 + by_ * 2 ^ 40))
  | 9 => x.trap
  | 10 =>
    BitVec.ofNat 64 (x.winReplay % 2 ^ 32 + (if x.winFlits < 2 ^ 32 then x.winFlits else 2 ^ 32 - 1) * 2 ^ 32)
  | 11 => if x.down then 2 else if x.training then 1 else 0
  | _ => 0

/-- Bits a write changes. -/
def rw (n : Nat) : W64 :=
  match n with
  | 0 => 0x170
  | 6 => 0x11FFFFF
  | 7 => 0x7F8F
  | 9 => 0x1FFFFFF
  | _ => 0

/-- Bits that must be zero in a write. -/
def zeroBits (n : Nat) : W64 :=
  match n with
  | 0 => ~~~ 0x377
  | 5 => 0xFF8000F8
  | 6 => ~~~ 0x11FFFFF
  | 7 => ~~~ 0x7F8F
  | 9 => ~~~ 0x1FFFFFF
  | _ => 0

/-- The registers a write may name (R94, R353). -/
def writable (n : Nat) : Bool := n == 0 || n == 5 || n == 6 || n == 7 || n == 9

/-- The refusals of R353, on the value a write would leave. -/
def refused (s : State) (l n : Nat) (x : W64) : Bool :=
  match n with
  | 0 =>
    let t := fld x 4 3
    t == 7 || (decide (3 ≤ t) && !bit x 8)
  | 6 => decide (fld x 16 5 < 20)
  | 7 => decide (modules l ≤ fld x 0 4) || decide (67 < fld x 8 7)
  | 9 =>
    bit x 24 && (decide (fld x 16 8 < 0xE0) || decide (0xF7 < fld x 16 8) ||
      !(Id.isCompute (fld x 0 16) && s.provided (fld x 0 16)))
  | _ => false

/-- A write that has committed: a target that differs from the current rate asks for a retrain (R351, R353). -/
def apply (x : Link) (n : Nat) (v : W64) : Link :=
  match n with
  | 0 =>
    let r := (x.rate &&& ~~~ 0x170) ||| (v &&& 0x170)
    { x with rate := if fld r 4 3 ≠ fld r 0 3 ∧ !x.down then r ||| 0x200 else r }
  | 5 => if x.log.head? = some v then { x with log := x.log.drop 1 } else x
  | 6 => { x with budget := v }
  | 7 => { x with lanesel := v }
  | 9 => { x with trap := v }
  | _ => x

/-- The ends of a link (R350): compute die d as (true, d), base die s as (false, s). -/
def ends (l : Nat) : List (Bool × Nat) :=
  if l < 6 then
    [[(true, 0), (true, 1)], [(true, 0), (true, 2)], [(true, 0), (true, 3)], [(true, 1), (true, 2)], [(true, 1), (true, 3)],
     [(true, 2), (true, 3)]].getD l []
  else if l < 14 then [(true, (l - 6) / 2), (false, l - 6)]
  else [(true, l - 14)]

end Lnk

/-- A pre-emption is in progress on either die of a link (R351). -/
def State.stoppingOn (s : State) (l : Nat) : Bool :=
  s.cores.any (fun p =>
    (Lnk.ends l).any (fun e => if e.1 then Id.kind p.1 == 0 && Id.die p.1 == e.2 else Id.kind p.1 == 1 && Id.stack p.1 == e.2) &&
    p.2.slots.any (fun q => q.2.act.any (fun a => s.halting a.stamp.asid)))

/-- A retrain that a link asks for begins, unless a pre-emption defers it (R351). -/
def State.beginRetrain (s : State) (l : Nat) : State :=
  let x := Lnk.get s l
  if bit x.rate 9 && !x.training && !x.down && !s.stoppingOn l then Lnk.put s l { x with training := true } else s

/-- The retrains that a pre-emption deferred begin where it has ended (R351). -/
def State.beginRetrains (s : State) : State := (s.links.map (·.1)).foldl State.beginRetrain s

/-! Registers outside the slot: their pending writes leave with the chunk (R95). -/

/-- The address space whose copy of a graph register a slot reaches (R21, R22): its own, or for a system slot GSEL's; `none`
where it reaches nothing, and the flag whether a write there is refused. -/
def State.graphSel (s : State) (c i : Nat) : Option Asid × Bool :=
  if i ≠ 7 then (some (s.slot c i).asid, false)
  else
    let g := (s.core c).gsel
    if !bit g 8 then (none, false)
    else
      let x := s.graph (fld g 0 6)
      if x.resident then (some x.asid, false) else (none, true)

def isGraphReg (r : Nat) : Bool :=
  r == 0x010 || r == 0x011 || r == 0x019 || (decide (0x038 ≤ r) && decide (r ≤ 0x03B))

def SpaceRegs.read (x : SpaceRegs) (r : Nat) : W64 :=
  match r with
  | 0x010 => x.vtbase
  | 0x011 => x.codebase
  | 0x019 => x.sktab
  | 0x038 => x.gmem[0]
  | 0x039 => x.gmem[1]
  | 0x03A => x.gmem[2]
  | _ => x.gmem[3]

def SpaceRegs.write (x : SpaceRegs) (r : Nat) (v : W64) : SpaceRegs :=
  match r with
  | 0x010 => { x with vtbase := v }
  | 0x011 => { x with codebase := v }
  | 0x019 => { x with sktab := v }
  | 0x038 => { x with gmem := x.gmem.set 0 v }
  | 0x039 => { x with gmem := x.gmem.set 1 v }
  | 0x03A => { x with gmem := x.gmem.set 2 v }
  | _ => { x with gmem := x.gmem.set 3 v }

/-- The effect of a committed write of a register outside the slot. For HEALTH the value names what it clears: SVC in bit 1,
the events a read took in [31:16]. -/
def State.applyReg (s : State) (c i : Nat) (r : BitVec 12) (v : W64) : State :=
  let n := r.toNat
  if n = 0x025 then s.modCore c (fun k => { k with mwgt := v })
  else if n = 0x882 then s.modCore c (fun k => { k with rvtbase := v })
  else if n = 0x883 then s.modCore c (fun k => { k with gsel := v })
  else if n = 0x880 then
    let h := s.hub.health
    let h := if bit v 1 then setFld h 1 1 0 else h
    { s with hub := { s.hub with health := setFld h 16 16 (fld h 16 16 - fld v 16 16) } }
  else if Lnk.isReg n then
    let p := Lnk.split n
    (Lnk.put s p.1 (Lnk.apply (Lnk.get s p.1) p.2 v)).beginRetrain p.1
  else if isGraphReg n then
    match (s.graphSel c i).1 with
    | some a => s.modCore c (fun k => { k with spaces := k.spaces.put a.toNat ((s.spaceRegs c a).write n v) })
    | none => s
  else s

/-- The state with the slot's own pending register writes in effect: what its instructions see (R95). -/
def State.ownView (s : State) : State :=
  let x := s.me
  let f (s : State) (a : Action) : State :=
    match a with
    | .coreReg r v => s.applyReg s.cur.core s.cur.slot r v
    | _ => s
  let s := match x.ended with
    | some c => c.acts.foldl f s
    | none => s
  match x.chunk with
  | some c => c.acts.foldl f s
  | none => s

/-! Slot registers. -/

/-- TSTAT as it reads (R314, R242, R317). Records that arrive inside a handler are only counted in SFQSTAT. -/
def State.tstat (s : State) : W64 :=
  let x := s.me
  let nr : Bool := match x.act with
    | some a => !a.restartable || x.ended.isSome
    | none => false
  let sp : Bool := match x.act.bind (fun a => a.task) with
    | some t => t.state == .speculative || t.state == .finished
    | none => false
  let pend := x.regs.inHandler && (x.matrix != [] || x.engine != [])
  (x.regs.tstat &&& 3) ||| (if nr then 4 else 0) ||| (if sp then 8 else 0) ||| (if pend then 16 else 0)

/-- MSTAT as it reads (R264). -/
def State.mstat (s : State) : W64 := setFld s.regs.mstat 16 5 (s.outstanding s.cur.core s.cur.slot)

/-- HEALTH as it reads: PEND counts the rows scheduled (R338). -/
def State.healthWord (s : State) : W64 :=
  let n := s.capacity.scheduled.length
  setFld s.hub.health 48 8 (if n < 255 then n else 255)

/-- The number names a register (R96). -/
def crKnown (r : Nat) : Bool :=
  decide (r ≤ 0x003) || r == 0x010 || r == 0x011 || (decide (0x012 ≤ r) && decide (r ≤ 0x016)) || r == 0x018 || r == 0x019 ||
    r == 0x01A || (decide (0x020 ≤ r) && decide (r ≤ 0x02A)) || (decide (0x030 ≤ r) && decide (r ≤ 0x032)) ||
    (decide (0x038 ≤ r) && decide (r ≤ 0x03B)) || r == 0x040 || r == 0x041 || r == 0x048 ||
    (decide (0x880 ≤ r) && decide (r ≤ 0x883)) || Lnk.isReg r

/-- Bits of byte PC registers. -/
def pcBits : W64 := 0x01FFFFFFFFFFFFFE

/-- The bits a write by the slot class changes (the RW fields of the register's table). -/
def crRw (r : Nat) (sys : Bool) : W64 :=
  match r with
  | 0x010 => if sys then 0xF800 else 0
  | 0x011 => if sys then 0x01FFFFFFFFFFFFC0 else 0
  | 0x019 => if sys then 0x01FFFFFFFFFFFFF1 else 0
  | 0x012 => pcBits
  | 0x013 => pcBits
  | 0x018 => pcBits
  | 0x020 => 0x3FF
  | 0x021 => 0xFFFF00FF
  | 0x022 => 0xFFFF00FF
  | 0x023 => 0x01FFFFFFFFFFFFFF
  | 0x024 => 0x01FFFFFFFFFFFFFF
  | 0x025 => 0xF
  | 0x026 => 0x13D
  | 0x028 => 0x8000000000000000
  | 0x02A => 0xFFFFFFFFFFFFFFFF
  | 0x030 => 0x00FFFFF7FFFF3FFF
  | 0x031 => 0xFFF9
  | 0x038 => if sys then 0x3FFF01FF else 0
  | 0x039 => if sys then 0x3FFF01FF else 0
  | 0x03A => if sys then 0x3FFF01FF else 0
  | 0x03B => if sys then 0x3FFF01FF else 0
  | 0x040 => 3
  | 0x041 => 0xFFFF
  | 0x882 => 0xF800
  | 0x883 => 0x13F
  | _ => if Lnk.isReg r then Lnk.rw (Lnk.split r).2 else 0

/-- Read-only bits that carry a value: a write leaves them as they are. Every other bit outside `crRw` must be zero. -/
def crKeep (r : Nat) : W64 :=
  match r with
  | 0x026 => 0x1F0000
  | 0x028 => 0x00FF0F0FFFFFFFFF
  | 0x880 => 0x00FF01FFFFFFFF03
  | _ => 0

/-- The bits that must be zero in a write (R94). -/
def crZero (r : Nat) (sys : Bool) : W64 :=
  if Lnk.isReg r then Lnk.zeroBits (Lnk.split r).2 else ~~~ (crRw r sys ||| crKeep r)

/-- Whether a write may name the register: some field of it is not RO for the writing slot (R94). -/
def crWritable (r : Nat) (sys : Bool) : Bool :=
  r == 0x880 || (if Lnk.isReg r then Lnk.writable (Lnk.split r).2 else crRw r sys != 0)

/-- NETCAP (R236). -/
def netcap : W64 := 0x40402020

/-- A register as the slot reads it, with no side effect. -/
def State.crValue (s : State) (r : Nat) : W64 :=
  let x := s.regs
  if Lnk.isReg r then
    let v := s.ownView
    let p := Lnk.split r
    Lnk.read p.1 (Lnk.get v p.1) p.2
  else if isGraphReg r then
    let v := s.ownView
    match (v.graphSel s.cur.core s.cur.slot).1 with
    | some a => (v.spaceRegs s.cur.core a).read r
    | none => 0
  else
    match r with
    | 0x000 => BitVec.ofNat 64 s.cur.core
    | 0x001 => BitVec.ofNat 64 (s.cur.slot + 8 * slotClass s.cur.slot)
    | 0x002 => s.me.asid.setWidth 64
    | 0x003 => netcap
    | 0x012 => x.tvec
    | 0x013 => x.tpc
    | 0x014 => x.tcause
    | 0x015 => x.tval
    | 0x016 => s.tstat
    | 0x018 => x.lxmiss
    | 0x01A => x.lxstat
    | 0x020 => x.fpst
    | 0x021 => x.fmta
    | 0x022 => x.fmtb
    | 0x023 => x.scla
    | 0x024 => x.sclb
    | 0x025 => (s.ownView.core s.cur.core).mwgt
    | 0x026 => s.mstat
    | 0x027 => x.mfr
    | 0x028 => x.mfrx
    | 0x029 => x.mdrop
    | 0x02A => x.gfault
    | 0x030 => x.shpat
    | 0x031 => x.cpydone
    | 0x032 => x.batch
    | 0x040 => x.sigcfg
    | 0x041 => x.sigacc
    | 0x048 => s.me.sfqstat
    | 0x880 => s.ownView.healthWord
    | 0x881 => BitVec.ofNat 64 capmapBase
    | 0x882 => (s.ownView.core s.cur.core).rvtbase
    | 0x883 => (s.ownView.core s.cur.core).gsel
    | _ => 0

/-- Sets a slot register. -/
def Regs.crSet (x : Regs) (r : Nat) (v : W64) : Regs :=
  match r with
  | 0x012 => { x with tvec := v }
  | 0x013 => { x with tpc := v }
  | 0x018 => { x with lxmiss := v }
  | 0x020 => { x with fpst := v }
  | 0x021 => { x with fmta := v }
  | 0x022 => { x with fmtb := v }
  | 0x023 => { x with scla := v }
  | 0x024 => { x with sclb := v }
  | 0x026 => { x with mstat := v &&& 0x13D }
  | 0x028 => { x with mfrx := v }
  | 0x02A => { x with gfault := v }
  | 0x030 => { x with shpat := v }
  | 0x031 => { x with cpydone := v }
  | 0x040 => { x with sigcfg := v }
  | 0x041 => { x with sigacc := v }
  | _ => x

/-- The access check of R94. -/
def crAccess (r : Nat) : M Unit := do
  let s ← get
  refuseIf (!crKnown r || (decide (0x800 ≤ r) && slotClass s.cur.slot != 2))

/-- The checks of a write that need no operand (R94, R22): they come before its source is read (R71). -/
def crOpen (r : Nat) : M Unit := do
  crAccess r
  let s ← get
  refuseIf (!crWritable r (slotClass s.cur.slot == 2) || (isGraphReg r && (s.ownView.graphSel s.cur.core s.cur.slot).2))

/-- CRRD's effect: RC fields clear (R93, R338, R353). -/
def crReadClear (r : Nat) (v : W64) : M Unit :=
  if r = 0x880 then act (.coreReg 0x880 (v &&& 0xFFFF0000))
  else if Lnk.isReg r ∧ (Lnk.split r).2 = 5 ∧ v ≠ 0 then act (.coreReg (BitVec.ofNat 12 r) v)
  else pure ()

/-- `crrd` (R93). -/
def crRead (d : Reg) (r : Nat) : M Unit := do
  okG d
  crAccess r
  let _ ← operands [] (some d)
  let v := (← get).crValue r
  crReadClear r v
  writeG d v
  done

/-- Writes a value that is in range into a register; `w1c` holds the W1C bits written with 1. -/
def crStore (r : Nat) (v w1c : W64) : M Unit := do
  let s ← get
  let sys := slotClass s.cur.slot == 2
  refuseIf (v &&& crZero r sys != 0)
  let old := s.crValue r
  let new := (old &&& ~~~ crRw r sys) ||| (v &&& crRw r sys)
  if r = 0x880 then
    if bit w1c 1 then act (.coreReg 0x880 2) else pure ()
  else if Lnk.isReg r then
    let p := Lnk.split r
    refuseIf (Lnk.refused s p.1 p.2 new)
    if p.2 = 5 then pure () else act (.coreReg (BitVec.ofNat 12 r) new)
  else if isGraphReg r then
    if (s.ownView.graphSel s.cur.core s.cur.slot).1.isSome then act (.coreReg (BitVec.ofNat 12 r) new) else pure ()
  else if r = 0x025 then
    refuseIf (new == 0)
    act (.coreReg 0x025 new)
  else if r = 0x882 ∨ r = 0x883 then act (.coreReg (BitVec.ofNat 12 r) new)
  else if r = 0x031 then
    let a := new &&& 0xFFF8
    refuseIf (decide (tcmSize s.cur.core < a.toNat + 8))
    if bit new 0 then memStore a (bvBytes (BitVec.ofNat 64 ((fld s.regs.batch 0 32 + 2 ^ 32 - 1) % 2 ^ 32)) 8) 0 3 0 else pure ()
    modify (fun s => s.modRegs (fun x => x.crSet r new))
  else if r = 0x028 then
    -- a pending matrix fault keeps the word it has by then (R263)
    modify (fun s => s.modMe (fun x => { x with matrix := x.matrixPending, regs := x.regs.crSet r new }))
    act (.coreReg 0x028 new)
  else modify (fun s => s.modRegs (fun x => x.crSet r new))

/-- `crwr` (R93). -/
def crWrite (r : Nat) (a : Reg) : M Unit := do
  okG a
  crOpen r
  let p ← operands [a] none
  let v ← readG p a
  crStore r v v
  done

def execCrrd (d : Reg) (r : BitVec 12) (s : State) := insn (crRead d r.toNat) s
def execCrwr (r : BitVec 12) (a : Reg) (s : State) := insn (crWrite r.toNat a) s

/-- CRSET: the register OR G(S1); a W1C bit is written with 1 where G(S1) holds 1 (R93). -/
def execCrset (r : BitVec 12) (a : Reg) (s : State) := insn (do
  okG a
  crOpen r.toNat
  let p ← operands [a] none
  let v ← readG p a
  crStore r.toNat ((← get).crValue r.toNat ||| v) v
  done) s

/-- CRCLR: the register AND NOT G(S1); W1C bits are untouched (R93). -/
def execCrclr (r : BitVec 12) (a : Reg) (s : State) := insn (do
  okG a
  crOpen r.toNat
  let p ← operands [a] none
  let v ← readG p a
  crStore r.toNat ((← get).crValue r.toNat &&& ~~~ v) 0
  done) s

def execCpydoneWrite (a : Reg) (s : State) := insn (crWrite 0x031 a) s
def execMwgtWrite (a : Reg) (s : State) := insn (crWrite 0x025 a) s
def execHealthRead (d : Reg) (s : State) := insn (crRead d 0x880) s
def execLnkRateWrite (link : Fin 18) (a : Reg) (s : State) := insn (crWrite (0x900 + 16 * link.val) a) s
def execLnkTrapWrite (link : Fin 18) (a : Reg) (s : State) := insn (crWrite (0x909 + 16 * link.val) a) s
def execLnkDegradeRead (link : Fin 18) (d : Reg) (s : State) := insn (crRead d (0x905 + 16 * link.val)) s

end Sys2Proof.Machine
end

