-- ==== Sys2Proof/Machine/System.lean ====
section
/-! DEFINITION. The system group: SDRAIN and SFQPOP (18 R322), TLBINV (09 R190, R191), GKILL (18 R326, R327). -/

namespace Sys2Proof.Machine

/-- SDRAIN (R322): it waits for the checks of the slot's stores with its own boundary behind it, so that a record found meanwhile is
taken at the boundary after it. -/
def execSdrain (s : State) := insn (do
  notOnHart
  let n := (← get).me.unchecked
  done
  if n = 0 then pure () else modify (fun (s : State) => s.modMe (fun x => { x with phase := .wait .drain }))) s

def execSfqpop (d : Reg) (s : State) := insn (do
  notOnHart
  okV d
  let _ ← operands [] (some d)
  let r := (← get).regs.sfq
  modify (fun s => s.modRegs (fun x => { x with sfq := r.drop 1 }))
  writeV d (r.headD 0)
  done) s

/-- A word TLBINV refuses as an address space: no ASID, or outside the system slot not the slot's own (R190). -/
def State.foreignAsid (s : State) (w : W64) : Bool :=
  decide (65536 ≤ w.toNat) || (s.cur.slot != 7 && w.setWidth 16 != s.me.asid)

/-- TLBINV (R190, R191): the entries of the issuing core's L1 go now, the broadcast waits for the commit. -/
def execTlbinv (a b c : Reg) (s : State) := insn (do
  notOnHart
  okG a
  okG b
  okG c
  let s ← get
  refuseKnown [a, b, c] (fun v => (v a).any s.foreignAsid || (v b).any (2 ^ 57 ≤ ·.toNat) || (v c).any (2 ^ 57 ≤ ·.toNat))
  let p ← operands [a, b, c] none
  let as ← readG p a
  let lo ← readG p b
  let hi ← readG p c
  refuseIf (s.foreignAsid as || decide (2 ^ 57 ≤ lo.toNat) || decide (2 ^ 57 ≤ hi.toNat))
  modify (fun s => s.modCore (tlbCore s.cur.core) (fun k =>
    { k with tlb := k.tlb.filter (fun e => !e.hits (as.setWidth 16) lo.toNat hi.toNat) }))
  act (.remove { heddle := false, asid := as.setWidth 16, lo := lo, hi := hi })
  done) s

/-- GKILL (R326, R327). -/
def execGkill (a : Reg) (s : State) := insn (do
  notOnHart
  okG a
  let p ← operands [a] none
  let v ← readG p a
  let s ← get
  let me := s.me
  let id : BitVec 8 := v.setWidth 8
  refuseIf (decide (256 ≤ v.toNat) || (s.group me.asid id).isNone)
  if me.act.any (fun x => x.stamp.group == id) then
    let k : Kill := { core := s.cur.core, slot := s.cur.slot, asid := me.asid, group := id, side := me.side, reached := [] }
    set (State.killActivation { s with kills := s.kills ++ [k] } s.cur.core s.cur.slot)
  else do
    act (.kill id)
    done) s

end Sys2Proof.Machine
end

