-- ==== Sys2Proof/Machine/Squash.lean ====
section
/-! DEFINITION. What committed writes do to everyone else: the bytes themselves, the squash of chunks that read them and the
watch entries they fire (11_consistency R228-R231; 10 R212). -/

namespace Sys2Proof.Machine

/-! Who is hit (R228, R231). -/

/-- The domain of a line, each core's own TCM apart (R229). -/
def domainKey (line : Nat) : Nat :=
  let k := line * 64
  if isTcm k then 1000 + (k - 2 ^ 61) / 65536 else domainOf k

/-- A read signature holds a broadcast line: the line itself, or one that aliases it when a line of its domain has been read (R228,
R231). -/
def readsHit (reads : List Nat) (line : Nat) : Bool :=
  reads.any (fun r => r == line ||
    (Config.sigBit r == Config.sigBit line && reads.any (fun q => domainKey q == domainKey line)))

def Chunk.reads? (c : Chunk) (line : Nat) : Bool := readsHit c.reads line

/-- Whether a slot's chunks read one of the lines: its ended chunk, its open chunk. -/
def Slot.hitBy (x : Slot) (lines : List Nat) : Bool × Bool :=
  let h (c : Option Chunk) : Bool :=
    match c with
    | some c => c.reads != [] && lines.any c.reads?
    | none => false
  (h x.ended, h x.chunk)

/-- Keeps what stood in a line before the writes of the commit that counts as this stamp, where they changed it (R59). -/
def State.recordLine (old : List Host.Cell) (s : State) (line : Nat) : State :=
  let was := Memory.readN old (line * 64) 64
  if was = Memory.readN s.mem (line * 64) 64 then s
  else { s with history := s.history.put line ((s.stamp, halves was) :: s.history.get line []) }

/-- Keeps what stood in lines that a commit has changed, for the activations running at it (R59). -/
def State.recordLines (s : State) (old : List Host.Cell) (lines : List Nat) : State :=
  let s := lines.foldl (State.recordLine old) s
  { s with stamp := s.stamp + 1 }

/-- Publishes committed lines, `old` being memory before the commit: squashes every chunk that read one of them, but for the slot
that made the commit (log 14), and fires their watch entries (R212, R231). -/
def State.published (s : State) (old : List Host.Cell) (lines : List Nat) (from_ : Option (Nat × Nat)) : State :=
  let s := s.recordLines old lines
  let s := s.cores.foldl (fun s p => p.2.slots.foldl (fun s q =>
    if from_ = some (p.1, q.1) then s
    else
      let h := (s.slot p.1 q.1).hitBy lines
      if h.1 then s.squash p.1 q.1 true else if h.2 then s.squash p.1 q.1 false else s) s) s
  lines.foldl State.fireLine s

/-- Writes committed bytes; a word written whole holds no error any more (R332). -/
def State.writeBytes (s : State) (k : Nat) (b : List Byte) : State :=
  { s with
    mem := Memory.writeAll s.mem k b
    bad := if s.bad = [] then [] else s.bad.filter (fun w => !(decide (k ≤ 8 * w) && decide (8 * w + 8 ≤ k + b.length)))
    soft := if s.soft = [] then [] else s.soft.filter (fun w => !(decide (k ≤ 8 * w) && decide (8 * w + 8 ≤ k + b.length))) }

/-- The lines of a range of n > 0 bytes. -/
def linesOf (k n : Nat) : List Nat := (List.range (lineOf (k + n - 1) - lineOf k + 1)).map (lineOf k + ·)

/-- A write that is a commit or a delivery of its own: an engine's chunk, an owner's, a flit of the unit (R231, R235). -/
def State.commitBytes (s : State) (k : Nat) (b : List Byte) : State :=
  if b = [] then s else (s.writeBytes k b).published s.mem (linesOf k b.length) none

end Sys2Proof.Machine
end

