-- ==== Sys2Proof/Machine/Tasks.lean ====
section
/-! DEFINITION. Ordered tasks as their instructions see them: SPAWN and TSKTS (16_ordered_tasks R297-R300, R305, R308). -/

namespace Sys2Proof.Machine

/-- Places of a cluster's task queue in use: entries that run have left it (R300, R301). -/
def State.queued (s : State) (cl : Nat) : Nat :=
  (s.tasks.filter (fun t => t.cluster == cl && !t.spilled && t.running.isNone)).length

/-- Places of a die's spill area in use. -/
def State.spilled (s : State) (die : Nat) : Nat :=
  (s.tasks.filter (fun t => t.cluster / 32 == die && t.spilled && t.running.isNone)).length

def queuePlaces : Nat := 256
def spillPlaces : Nat := 65536

/-- The entry of lowest key. -/
def lowest (l : List TaskEntry) : Option TaskEntry :=
  l.foldl (fun m t =>
    match m with
    | none => some t
    | some x => if t.key.toNat < x.key.toNat then some t else some x) none

/-- Spilled firm entries of a cluster move into its queue as places free, lowest key first (R300). -/
def State.refill (s : State) (cl : Nat) : Nat → State
  | 0 => s
  | fuel + 1 =>
    if queuePlaces ≤ s.queued cl then s
    else
      match lowest (s.tasks.filter (fun t => t.cluster == cl && t.spilled && t.parent.isNone && t.running.isNone)) with
      | none => s
      | some t =>
        State.refill { s with tasks := s.tasks.map (fun u => if u = t then { t with spilled := false } else u) } cl fuel

/-- The cluster a spawn targets: the hinted one, or the next higher that has a core of the graph's core lists (R299); the hinted one where
no cluster has (log 131). -/
def State.targetCluster (s : State) (g : Option Nat) (hint : Nat) : Nat :=
  let has (cl : Nat) : Bool :=
    match g with
    | some g => (s.graph g).nodes.any (fun n =>
        n.cores.any (fun c => Id.kind c.toNat == 0 && Id.clusterNo c.toNat == cl))
    | none => false
  ((List.range 128).map (fun i => (hint + i) % 128) |>.find? has).getD hint

/-- Where a place is free for a cluster: its queue (false) or the spill area of its die (true). -/
def State.freePlace (s : State) (cl : Nat) : Option Bool :=
  if s.queued cl < queuePlaces then some false else if s.spilled (cl / 32) < spillPlaces then some true else none

/-- A task holds tentative entries in a cluster's queue or its die's spill area. -/
def State.holdsPlaces (s : State) (cl : Nat) (x : Slot) : Bool :=
  s.tasks.any (fun t => x.orders.any (fun o => t.parent == some o) &&
    ((t.cluster == cl && !t.spilled) || (t.cluster / 32 == cl / 32 && t.spilled)))

/-- Head admission for a place (R305): candidates are aborted, highest key first, until one frees. -/
def State.admitPlace (s : State) (cl : Nat) : List (TaskKey × Nat × Nat) → State
  | [] => s
  | (_, c, i) :: r =>
    if (s.freePlace cl).isSome then s
    else if s.holdsPlaces cl (s.slot c i) then (s.abort c i).admitPlace cl r
    else s.admitPlace cl r

/-- The activation is a task that still speculates. -/
def Slot.isSpeculative (x : Slot) : Bool :=
  match x.act.bind (fun a => a.task) with
  | some t => t.state == .speculative
  | none => false

/-- Parks the spawner at the boundary (R300): an activation that is not a task commits its chunk first. -/
def State.park (s : State) : State :=
  let t := s.modMe (fun x => { x with parked := true })
  if s.me.taskKey.isSome then t else t.holdCommit

/-- An open kill of the stamp's group has passed a cluster's queue: a task of the group that comes there is removed too (R307, R327). -/
def State.killPassed (s : State) (cl : Nat) (st : Stamp) : Bool :=
  s.kills.any (fun k => k.hits st && k.reached.any (fun c => Id.kind c == 0 && Id.clusterNo c == cl))

/-- Places a tentative entry and completes with the status (R300). -/
def placeTask (d : Reg) (cl : Nat) (spill : Bool) (ts : W64) (typ : BitVec 8) (arg : W64) (g : Nat) : M Unit := do
  let s ← get
  let st := s.stampOf s.cur.core s.cur.slot
  let n := s.myCore.spawnSeq.get g 0
  let e : TaskEntry :=
    { cluster := cl, spilled := spill, key := { ts := ts, spawner := BitVec.ofNat 16 s.cur.core, seq := n }, typ := typ,
      arg := arg, stamp := st, parent := s.me.chunk.map (·.order), running := none, contained := 0 }
  set (if s.killPassed cl st then s else { s with tasks := s.tasks ++ [e] })
  modify (fun s => s.modCore s.cur.core (fun k => { k with spawnSeq := k.spawnSeq.put g (n + 1) }))
  writeG d (if s.me.parked then 2 else if spill then 1 else 0)
  done

def execSpawn (d a b c : Reg) (s : State) := insn (do
  notOnHart
  let start ← get
  okG d
  okG a
  okG b
  okG c
  let own := start.me.taskKey
  let early (ts : W64) : Bool := own.any (fun k => decide (ts.toNat ≤ k.ts.toNat))
  refuseIf (slotClass start.cur.slot == 1)
  refuseKnown [a, b, c] (fun v => (v a).any early || (v c).any (0xDF < ·.toNat))
  let p ← operands [a, b, c] (some d)
  let ts ← readG p a
  let arg ← readG p b
  let t ← readG p c
  refuseIf (decide (0xDF < t.toNat) || early ts)
  let s ← get
  let x := s.me
  if x.isSpeculative && decide (16 ≤ (s.tasks.filter (fun e => x.orders.any (fun o => e.parent == some o))).length)
  then throw .holdCommit else
  let g := s.graphOfStamp (s.stampOf s.cur.core s.cur.slot)
  let cl := s.targetCluster g (fld arg 0 7)
  modify (fun s => s.refill cl queuePlaces)
  let typ : BitVec 8 := t.setWidth 8
  match (← get).freePlace cl with
  | some spill => placeTask d cl spill ts typ arg (g.getD 64)
  | none =>
    if start.headSlot s.cur.core s.cur.slot then do
      modify (fun s => s.admitPlace cl ((s.speculative x.asid).filter (fun e => some e.1 != own)))
      match (← get).freePlace cl with
      | some spill => placeTask d cl spill ts typ arg (g.getD 64)
      | none => stopTrap Cause.taskOverflow (BitVec.ofNat 64 cl)
    else if start.me.parked then throw .hold
    else set start.park) s

def execTskts (d : Reg) (s : State) := insn (do
  notOnHart
  match d with
  | .k _ => illegalOperand
  | _ => okG d
  let _ ← operands [] (some d)
  match (← get).me.taskKey with
  | none => illegalOperand
  | some k => do
    writeG d k.ts
    done) s

end Sys2Proof.Machine
end

