-- ==== Sys2Proof/Machine/Commit.lean ====
section
/-! DEFINITION. Checks and commits: STORE_CHECK (18 R319, R320; 11 R236), CHUNK_COMMIT (11 R229-R232, R242; 05 R117) and what
follows a commit (04 R83, R98; 10 R213; 11 R241; 15 R290; 16 R302, R304), TRAP_ENTRY (18 R316, R317), the limits of a chunk
and of a service activation (11 R227, 02 R52), and the ends of waits. -/

namespace Sys2Proof.Machine

/-! Checks. -/

/-- The record of a failing store, with its data entry where it is wide (R319, R320): the lowest failing part describes it. -/
def Store.records (st : Store) (asid : Asid) : List V512 :=
  let bad := st.parts.filter (fun p => p.fail != 0)
  match bad with
  | [] => []
  | p :: _ =>
    let many := st.src == 2 || st.src == 3 || st.src == 5
    let w3 := asid.toNat + p.fail % 16 * 2 ^ 16 + (if st.wide = 0 then st.size % 4 * 2 ^ 20 else 0) + st.wide % 4 * 2 ^ 22 +
      st.src % 16 * 2 ^ 24 + (if many then p.lane % 64 * 2 ^ 28 else 0)
    let w4 := if many then bad.foldl (fun a q => a ||| 2 ^ (q.lane % 64)) 0 else 0
    let d0 := p.va.toNat % 2 ^ 57
    let d1 := if st.wide = 0 then bytesNat p.bytes % 2 ^ 64 else 0
    let r : V512 := BitVec.ofNat 512
      (d0 + d1 * 2 ^ 64 + st.pc.toNat % 2 ^ 57 * 2 ^ 128 + w3 * 2 ^ 192 + w4 * 2 ^ 256)
    if st.wide = 0 then [r] else [r, bytesBv 512 p.bytes]

/-- A checked store: the bytes of its failing parts leave the buffer, and every line it has taken stays to the chunk's end (R228), that
of a host or peer write that leaves too (R236). -/
def Store.kept (st : Store) : Store :=
  { st with
    checked := true
    parts := st.parts.map (fun p => if p.fail = 0 then p else { p with bytes := [] }) }

/-- The host and peer writes of a store whose check has passed (R236), in ascending lane order. -/
def Store.leaving (st : Store) : List ExtWrite :=
  st.parts.filterMap (fun p =>
    match p.key with
    | some k => if p.fail == 0 && isExt k then some { stream := st.src == 4, key := k, bytes := p.bytes } else none
    | none => none)

/-- Checks the first unchecked store of a list. -/
def checkFirst : List Store → List Store × Option Store
  | [] => ([], none)
  | st :: r =>
    if st.checked then
      let x := checkFirst r
      (st :: x.1, x.2)
    else (st.kept :: r, some st)

/-- STORE_CHECK: the check of the slot's oldest unchecked store ends (R319). A record of the ended chunk's stores is part of
the registers from then on, but not of those its squash restores (R316). -/
def Slot.check (x : Slot) : Slot :=
  let asid := x.asid
  let push (r : Regs) (l : List V512) : Regs := { r with sfq := r.sfq ++ l }
  match x.ended with
  | some e =>
    let c := checkFirst e.stores
    match c.2 with
    | some st =>
      { x with
        ended := some { e with stores := c.1 }
        chunk := x.chunk.map (fun ch => { ch with saved := push ch.saved (st.records asid) })
        regs := push x.regs (st.records asid)
        ext := x.ext ++ st.leaving }
    | none =>
      match x.chunk with
      | none => x
      | some ch =>
        let c := checkFirst ch.stores
        match c.2 with
        | some st =>
          { x with
            chunk := some { ch with stores := c.1 }, regs := push x.regs (st.records asid), ext := x.ext ++ st.leaving }
        | none => x
  | none =>
    match x.chunk with
    | none => x
    | some ch =>
      let c := checkFirst ch.stores
      match c.2 with
      | some st =>
        { x with
          chunk := some { ch with stores := c.1 }, regs := push x.regs (st.records asid), ext := x.ext ++ st.leaving }
      | none => x

def execStoreCheck (s : State) : Host.Outcome State Fault Refusal := .next (s.modMe Slot.check)

/-- A write in flight applies and is acknowledged, unless an older one to its flit has not been (R236); one to an unreachable peer is
dropped and counted (R355). -/
def State.ackWrite (s : State) (c i n : Nat) : State :=
  let x := s.slot c i
  match x.ext[n]? with
  | none => s
  | some w =>
    if (x.ext.take n).any (fun v => v.key / 64 == w.key / 64) || s.hubCut c then s
    else
      let s := s.modSlot c i (fun x => { x with ext := x.ext.take n ++ x.ext.drop (n + 1) })
      if s.peerGone w.key then s.loseWrites (w.key / 2 ^ 48 - 1) 1 else
      ((s.writeBytes w.key w.bytes).recordLines s.mem [lineOf w.key]).fireLine (lineOf w.key)

def execHostPeerAck (core slot : Nat) (i : Nat) (s : State) : Host.Outcome State Fault Refusal :=
  .next (s.ackWrite core slot i)

/-! The parts of a commit. -/

/-- The lines of device memory and TCM that a chunk writes: host and peer lines are outside chunks (R236). -/
def Chunk.written (c : Chunk) : List Nat :=
  c.stores.foldl (fun a st =>
    let a := st.parts.foldl (fun a p =>
      match p.key with
      | some k => if p.fail ≠ 0 || isExt k || a.contains (lineOf k) then a else lineOf k :: a
      | none => a) a
    match st.adds with
    | some d => if a.contains (lineOf d.key) then a else lineOf d.key :: a
    | none => a) []

/-- Adds a line to a side's written set (R347). -/
def DualRun.note (d : DualRun) (side : Side) (live key : Nat) : DualRun :=
  let e := (lineOf live, lineOf key)
  match side with
  | .none => d
  | .primary => if d.primary.contains e then d else { d with primary := e :: d.primary }
  | .mirror => if d.mirror.contains e then d else { d with mirror := e :: d.mirror }

/-- A line joins the written set of a side of a redundant node's run (R347); DSTAT.LINES counts the primary's of the node it
names (R349). -/
def Graph.noteDual (y : Graph) (node : Nat) (side : Side) (live key : Nat) : Graph :=
  match y.running with
  | none => y
  | some l =>
    let ds := l.duals.map (fun d => if d.node = node then d.note side live key else d)
    let y := { y with running := some { l with duals := ds } }
    match ds.find? (fun d => d.node == node) with
    | some d => if fld y.dstat 16 16 = node then { y with dstat := setFld y.dstat 32 32 d.primary.length } else y
    | none => y

/-- Records a line written for a redundant activation in its run's written set (R347). TCM lines lie in no reed. -/
def State.noteDual (s : State) (st : Stamp) (live key : Nat) : State :=
  if st.side = .none ∨ isTcm key then s
  else
    match s.graphOfStamp st with
    | none => s
    | some g => s.modGraph g (fun y => y.noteDual st.node.toNat st.side live key)

/-- Writes sums at the bank adders: the adder reads what it adds to, which corrects a flipped bit; a word with an uncorrectable error
keeps its check bits, so that its error is still there for a reader to consume (R332, log 86). -/
def State.writeSums (s : State) (k : Nat) (b : List Byte) : State :=
  let t := s.correctRange k b.length
  { t.writeBytes k b with bad := t.bad }

/-- Applies a buffered item to committed memory. -/
def State.applyStore (s : State) (st : Store) (stamp : Stamp) : State :=
  match st.adds with
  | some a =>
    s.writeSums a.key (bvBytes (addLanes a.t a.mask (bytesBv 512 (Memory.readN s.mem a.key 64)) a.v) 64)
  | none =>
    st.parts.foldl (fun s p =>
      match p.key with
      | some k => if p.fail = 0 ∧ !isExt k then (s.writeBytes k p.bytes).noteDual stamp p.live k else s
      | none => s) s

/-- A fill enters the heddle (R117). The heddle stands most recently matched or filled first. -/
def fillHeddle (h : List HedEntry) (e : HedEntry) : List HedEntry :=
  let rest := h.filter (fun y => !e.same y)
  if rest.length < h.length then e :: rest
  else if h.length < 32 then e :: h
  else
    match h.getLast? with
    | none => [e]
    | some v =>
      let hi := Path.hi v.widths v.e0
      e :: h.filter (fun y => !(y.asid == v.asid && (y.e0 == v.e0 ||
        (v.kind == 3 && decide (v.e0.toNat ≤ y.e0.toNat) && decide (y.e0.toNat ≤ hi.toNat)))))

/-- The owner core of a location (R220); 0xFFFF for a peer's. -/
def ownerOf (k : Nat) : Nat :=
  if isScratch k then
    let c := scratchCluster k
    Id.compute (c / 32) (c % 32) (scratchOff k / 4096 % 64)
  else if isHbm k then besideFrame k
  else if isSram k then
    -- slice s of die d: core s mod 2 of cluster s div 2 (R172, R220)
    let sl := sramOff k / 4096 % 64
    Id.compute (sramDie k) (sl / 2) (sl % 2)
  else 0xFFFF

/-- The message a request to an owner travels as: type 0xFD, in the requester's address space and group (R220). No order holds
between such messages. -/
def State.postOwner (s : State) (q : OwnerReq) : State :=
  { s with
    net := s.net ++ [{ Message.plain (BitVec.ofNat 16 q.owner) 0xFD q.stamp [] with owner := some q, fromSlot := 16 + s.stamp }]
    stamp := s.stamp + 1 }

/-- The requests of a SCATA to its owners, each with its lanes in ascending order (R219). -/
def scataOwners (r : Request) : List OwnerReq :=
  match r.work with
  | .scata int lanes =>
    let os := lanes.foldl (fun a l => if a.contains (ownerOf l.1) then a else a ++ [ownerOf l.1]) []
    os.map (fun o =>
      let mine := lanes.filter (fun l => ownerOf l.1 == o)
      { tag := r.tag, owner := o, key := (mine.headD (0, 0, 0)).1, live := 0, op := .scata int mine, core := r.core,
        slot := r.slot, act := r.act, stamp := r.stamp, pc := r.pc })
  | _ => []

/-- The batch a request of a chunk joins: that of the seal that follows it, or the one still open (R206, R207). -/
def batchOf (rest : List Action) (next : BitVec 32) : BitVec 32 :=
  match rest.findSome? (fun a => match a with
    | .seal n => some n
    | _ => none) with
  | some n => n
  | none => next

/-- An action of a committed chunk takes place. `after` are the actions behind it, `fin` the registers at the chunk's end: what engines
see of a control register is its committed value (R95), of CPYDONE as of BATCH. -/
def State.perform (s : State) (c i : Nat) (fin : Regs) (a : Action) (after : List Action) : State :=
  let x := s.slot c i
  let act := match x.act with
    | some y => y.id
    | none => 0
  let st := s.stampOf c i
  match a with
  | .send h => s.post h
  | .request w pc =>
    let r : Request :=
      { tag := s.stamp, work := w, core := c, slot := i, act := act, stamp := st, pc := pc, batch := batchOf after fin.next,
        progress := 0, ahead := [], flight := [], stopped := false }
    (scataOwners r).foldl State.postOwner { s with requests := s.requests ++ [r], stamp := s.stamp + 1 }
  | .seal n =>
    let word := if bit fin.cpydone 0 then tcmKey c (fld fin.cpydone 3 13 * 8) else 0
    { s with batches := s.batches ++ [{ core := c, slot := i, act := act, stamp := st, n := n, word := word, note := false }] }
  | .owner key live op pc =>
    s.postOwner
      { tag := 0, owner := ownerOf key, key := key, live := live, op := op, core := c, slot := i, act := act, stamp := st, pc := pc }
  | .kill g =>
    { s with kills := s.kills ++
      [{ core := c, slot := i, asid := st.asid, group := g, side := st.side, reached := [] }] }
  | .remove r =>
    { s with broadcasts := s.broadcasts ++
      [{ removal := r, core := c, slot := i, act := act, reached := if r.heddle then [c] else [] }] }
  | .push slot q mine v =>
    s.modRegsOf c slot x.asid (fun r =>
      let z := r.q[q]
      match z.bind with
      | .consumer sl pq => if sl = i ∧ pq = mine then r.writeQ q { z with entries := z.entries ++ [v] } else r
      | _ => r)
  | .close slot q mine => s.closeEnd c i x.asid (slot, q, mine, false)
  | .coreReg r v => if r = 0x028 then (if bit fin.mfrx 63 then s.cancelSlot c i else s) else s.applyReg c i r v
  | .arrive g =>
    let v : Arrival := { core := c, slot := i, act := act, asid := st.asid, group := g, side := st.side }
    let b : Barrier := { group := g, gen := none, released := false }
    { s with arrivals := s.arrivals ++ [v] }.modSlot c i (fun y =>
      { y with bars := b :: y.bars.filter (fun b => b.group != g) })

def State.performAll (s : State) (c i : Nat) (fin : Regs) : List Action → State
  | [] => s
  | a :: r => (s.perform c i fin a r).performAll c i fin r

/-- The atomic step of a commit (R230): stores and adds in program order, fills, actions, the spawns it made firm (R300). -/
def State.commitChunk (s : State) (c i : Nat) (ch : Chunk) (fin : Regs) : State :=
  let old := s.mem
  let st := s.stampOf c i
  let s := ch.stores.foldl (fun s x => s.applyStore x st) s
  let s := s.modCore c (fun k => { k with heddle := ch.fills.foldl fillHeddle k.heddle })
  let s := { s with tasks := s.tasks.map (fun (t : TaskEntry) =>
    if t.parent = some ch.order then { t with parent := none } else t) }
  let s := s.performAll c i fin ch.acts
  s.published old ch.written (some (c, i))

/-- A chunk asks for priority when it has been squashed four times in a row (R232): its order and the lines it last read. -/
def Chunk.priority (c : Chunk) : Option (Nat × List Nat) := if 4 ≤ c.squashes then some (c.order, c.last) else none

/-- The priority requests of a slot: that of a chunk which trap entry ended stands until it commits, beside that of the chunk after
it (R232). -/
def Slot.asks (x : Slot) : List (Nat × List Nat) :=
  (x.ended.bind Chunk.priority).toList ++
    (match x.chunk with
      | some c => c.priority
      | none => if 4 ≤ x.attempt.squashes then some (x.attempt.order, x.attempt.reads) else none).toList

/-- The request of the chunk a slot commits first, or else the one after it. -/
def Slot.priority (x : Slot) : Option (Nat × List Nat) := x.asks.head?

/-- No older priority request stands against the lines that a chunk writes (R232): a slot's chunk, whose own order is `mine` when it
asks for priority too, or an engine's or an owner's. A speculative task that is not the head asks for none (R304, R305; log 72). -/
def State.grants (s : State) (from_ : Option (Nat × Nat)) (mine : Option Nat) (w : List Nat) : Bool :=
  w == [] || s.cores.all (fun p => p.2.slots.all (fun q =>
    from_ == some (p.1, q.1) || q.2.mustWait s ||
    q.2.asks.all (fun r => mine.any (fun o => decide (o ≤ r.1)) || !w.any (readsHit r.2))))

/-- The commit of a slot's chunk is not withheld. -/
def State.mayGrant (s : State) (c i : Nat) (ch : Chunk) : Bool :=
  s.grants (some (c, i)) (if 4 ≤ ch.squashes then some ch.order else none) ch.written

/-- Every store of a chunk has been checked. -/
def Chunk.ready (c : Chunk) : Bool := c.stores.all (·.checked)

/-! What follows a commit. -/

/-- The end of an activation at ENDA (R83, R304, R325): its held messages leave, its tile is reported, its task leaves the
unfinished set, its pending faults go to type 0xFE, and its slot is freed. -/
def State.endNormal (s : State) (c i : Nat) (t : Bool) : State :=
  let x := s.slot c i
  match x.act with
  | none => s
  | some a =>
    let s := s.postHeld c i
    let s := if t && a.stamp.lseq != 0 then
        match s.graphOfStamp a.stamp with
        | some g => { s with tileDone := s.tileDone ++
            [{ graph := g, seq := a.stamp.lseq, node := a.stamp.node.toNat, x := a.stamp.tx.toNat, y := a.stamp.ty.toNat,
               z := a.stamp.tz.toNat, side := a.stamp.side }] }
        | none => s
      else s
    let s := { s with net := s.net ++ x.orphans c }
    let s := s.dropTask c i
    (s.freeSlot c i).modCore c Core.wakeWaiti

/-- A barrier wait ends when the slot's generation has been released (R241). -/
def Slot.passBarrier (x : Slot) : Slot :=
  match x.phase with
  | .wait (.gbar g) =>
    if x.bars.any (fun b => b.group == g && b.released) then
      { x with phase := .run, bars := x.bars.filter (fun b => b.group != g) }
    else x
  | _ => x

/-- What follows a commit (R227). -/
def State.follow (s : State) (c i : Nat) (a : After) : State :=
  match a with
  | .go => s.modSlot c i (fun x => { x with phase := .run })
  | .chkpt => s.modSlot c i (fun x => { x with phase := .run, attempt := { x.attempt with region := true } })
  | .wait w =>
    let s := s.modSlot c i (fun x => { x with phase := .wait w }.passBarrier)
    s.pollMwait c i
  | .enda t => s.endNormal c i t
  | .eret => s.modSlot c i (fun x =>
    { x with phase := .run, regs := x.regs.leave, attempt := { x.attempt with issued := x.under }, under := [] })
  | .migrate dst pc => s.depart c i dst pc

/-- The activation ends with this commit. -/
def After.last (a : After) : Bool :=
  match a with
  | .enda _ => true
  | .migrate _ _ => true
  | _ => false

/-- Commits the open chunk of a slot and goes on. -/
def State.commitOpen (s : State) (c i : Nat) (a : After) : State :=
  let x := s.slot c i
  match x.chunk with
  | none => s.follow c i a
  | some ch =>
    let s := s.modSlot c i (fun x =>
      { x with
        chunk := none
        attempt := Attempt.fresh
        act := if a.last then x.act else x.act.map (fun y => { y with restartable := false }) })
    (s.commitChunk c i ch x.regs).follow c i a

/-- CHUNK_COMMIT at a slot: the chunk a trap entry ended first (R311, R316), then a chunk at its end. A task that has reached
ENDA and is not the head is finished and waits (R302). -/
def State.commitSlot (s : State) (c i : Nat) : State :=
  let x := s.slot c i
  match x.ended with
  | some e =>
    if e.ready && s.mayGrant c i e then
      let s := s.modSlot c i (fun x =>
        { x with ended := none, act := x.act.map (fun y => { y with restartable := false }) })
      s.commitChunk c i e x.entryRegs
    else s
  | none =>
    match x.phase with
    | .commit a =>
      if x.mustWait s then
        if a.last then
          s.modSlot c i (fun x => { x with act := x.act.map (fun y => { y with task := y.task.map (fun t =>
            { t with state := .finished }) }) })
        else s
      else
        let ok := match x.chunk with
          | some ch => ch.ready && s.mayGrant c i ch
          | none => true
        if ok then s.commitOpen c i a else s
    | _ => s

def execChunkCommit (s : State) : Host.Outcome State Fault Refusal := .next (s.commitSlot s.cur.core s.cur.slot)

/-- TASK_COMMIT: the head of its address space commits once it is finished (R304). -/
def execTaskCommit (s : State) : Host.Outcome State Fault Refusal :=
  .next (if s.headSlot s.cur.core s.cur.slot then s.commitSlot s.cur.core s.cur.slot else s)

/-! Traps at a boundary. -/

/-- TRAP_ENTRY: the first pending imprecise trap is taken at the boundary (R317): store-fault, matrix-fault, engine-fault.
Without a handler the activation escalates with the fault still pending, so that it is not lost (R323). -/
def State.trapEntry (s : State) : State :=
  let c := s.cur.core
  let i := s.cur.slot
  let x := s.me
  let pc := x.regs.pc
  if x.act.isNone || x.phase != .run || !x.impreciseDue || x.mustWait s then s
  else if x.regs.sfq ≠ [] then s.storeFaultTrap c i pc
  else
    match x.matrixPending, x.engine with
    | f :: r, _ =>
      let s := if x.regs.tvec = 0 then s else s.setMe { x with matrix := r, entered := f.order }
      s.takeTrap c i pc Cause.matrixFault 0 true f.tval (some (f.k0, f.k1))
    | [], f :: r =>
      let s := if x.regs.tvec = 0 then s else s.setMe { x with engine := r, entered := f.order }
      s.takeTrap c i pc Cause.engineFault 0 true f.tval (some (f.k0, f.k1))
    | [], [] => s

def execTrapEntry (s : State) : Host.Outcome State Fault Refusal := .next s.trapEntry

/-! Limits. -/

/-- CHUNK_INSTRUCTION_LIMIT: the chunk ends after its 512th instruction (R227). -/
def execChunkInstructionLimit (s : State) : Host.Outcome State Fault Refusal :=
  let x := s.me
  .next (
    match x.chunk with
    | some ch =>
      if 512 ≤ ch.count ∧ x.phase = .run ∧ ¬ x.mustWait s then s.setMe { x.makeFirm with phase := .commit .go } else s
    | none => s)

/-- SERVICE_OVERRUN: a service activation is to execute its 2,049th instruction next (R52): its group is killed, itself first, and
the host is told. -/
def execServiceOverrun (s : State) : Host.Outcome State Fault Refusal :=
  let x := s.me
  .next (
    match x.act with
    | some a =>
      if x.phase = .run ∧ ¬ s.heldBack x a ∧ x.boundary a = some .serviceOverrun then
        ((s.killGroup a.stamp.asid a.stamp.group).killActivation s.cur.core s.cur.slot).interrupt 1
      else s
    | none => s)

/-! Ends of waits. -/

/-- WAITI_WAKE: 256 cycles have passed since WAITI began (R99). -/
def execWaitiWake (s : State) : Host.Outcome State Fault Refusal :=
  .next (s.modMe (fun x => if x.phase = .wait .waiti then { x with phase := .run } else x))

/-- MWAIT_TIMEOUT: the timeout of the slot's MWAIT ends (R213). -/
def execMwaitTimeout (s : State) : Host.Outcome State Fault Refusal :=
  .next (s.modMe (fun x => if x.phase = .wait .mwait then x.reply (some 2) else x))

/-- GATHER_LANES_DONE: no walk of the gathering slot is pending (R216). -/
def execGatherLanesDone (s : State) : Host.Outcome State Fault Refusal :=
  .next (
    if s.me.phase = .wait .gather ∧ s.myCore.walks.all (fun w => w.slot != s.cur.slot || w.result != .pending) then
      s.modMe (fun x => { x with phase := .run })
    else s)

end Sys2Proof.Machine
end

