-- ==== Sys2Proof/Machine/Fetch.lean ====
section
/-! DEFINITION. A slot's turn up to its instruction: what precedes it at the boundary, the line it executes from, its checks
and its decoding (03_instruction_lines R56-R61, R71; 18 R317; 11 R226, R227; 02 R52), and how a word is placed to be the
next instruction. -/

namespace Sys2Proof.Machine

/-- What a slot's turn comes to: an instruction or event to execute in a state, or a state with nothing executed, or a fault
of the model. -/
inductive Ready where
  | go (s : State) (i : Instr)
  | stay (s : State)
  | stop (f : Fault)

/-- A precise fault of a fetch or decode (R71): TPC holds the PC. -/
def State.fetchTrap (s : State) (c i : Nat) (cause : BitVec 8) (sub : BitVec 4) (val : W64) : State :=
  s.takeTrap c i (s.slot c i).regs.pc cause sub false val none

/-- Opens a chunk at the instruction, unless one is open (R226): the registers now are those a squash returns to. -/
def State.openChunk (s : State) (c i : Nat) : State :=
  let x := s.slot c i
  match x.chunk with
  | some _ => s
  | none =>
    let o := if x.attempt.order = 0 then s.stamp else x.attempt.order
    let ch : Chunk :=
      { saved := x.regs, stores := [], reads := [], fills := [], fillLines := 0, acts := [], count := 0,
        squashes := x.attempt.squashes, order := o, issued := x.attempt.issued, later := x.attempt.later, matched := 0,
        last := x.attempt.reads, region := x.attempt.region }
    { (s.setSlot c i { x with chunk := some ch }) with stamp := s.stamp + 1 }

/-- The bytes of a line as fetch finds them (R59, R71): own TCM directly, anything else through translation; of configuration space
only the capacity map is given (R340). A far core's fetch from a NEAR page raises permission (log 99). One from host
or peer memory waits where the die's hub link is retired (R354). -/
inductive LineBytes where
  | bytes (s : State) (k : Nat) (b : List Byte)
  | wait (s : State)
  | fail (code : Nat)
  | poison (k : Nat)
  | config

def State.lineBytes (s : State) (c i : Nat) (line : W64) : LineBytes :=
  let x := s.slot c i
  let at_ (s : State) (k : Nat) : LineBytes :=
    if isConfig k then
      match (List.range 64).mapM (fun j => CapMap.byte s (k + j)) with
      | some b => .bytes s k b
      | none => .config
    else if isExt k && s.hubCut c then .wait s
    else if s.bad != [] && (List.range 8).any (fun j => s.bad.contains (k / 8 + j)) then .poison k
    else .bytes (s.correctRange k 64) k (Memory.readN s.mem k 64)
  if line.toNat < tcmSize c then at_ s (tcmKey c line.toNat)
  else
    match s.lookup c i x.asid line with
    | .pending => .wait ({ s with cur := { s.cur with core := c, slot := i } }.askWalk line)
    | .fail code => .fail code
    | .poison k => .poison k
    | .page e =>
      match s.access c x.side (i == 7) .fetch e line with
      | .ok k => at_ (s.touch c e) k
      | .error code => .fail (if code = Code.far then Code.permission else code)

/-- The older states of a line that an activation may still fetch (R59), each with the stamp of the commit up to which it stood: the
activation was running at that commit and has fetched none newer. -/
def State.olderLines (s : State) (x : Slot) (k : Nat) : List (Nat × List Half) :=
  let id := match x.act with
    | some a => a.id
    | none => s.stamp
  let seen := match x.fetch.seen.find? (fun e => e.1 == k) with
    | some e => e.2
    | none => 0
  (s.history.get (lineOf k) []).filter (fun v => decide (id < v.1) && decide (seen ≤ v.1))

/-- Old or new, as a free choice, where a running activation may fetch either (R59): the line with the stamp up to which it stood, or
stands. -/
def State.freshLine (s : State) (x : Slot) (k : Nat) (now : List Half) : (Nat × List Half) × State :=
  match s.olderLines x k with
  | [] => ((s.stamp, now), s)
  | v :: r =>
    let l := (s.stamp, now) :: v :: r
    (l.getD ((Config.freeWord s.fresh).toNat % l.length) (s.stamp, now), { s with fresh := s.fresh + 1 })

/-- Enters a line (R57): reads it whole and keeps it for the slot. -/
def State.enterLine (s : State) (c i : Nat) (line : W64) : Ready :=
  match s.lineBytes c i line with
  | .config => .stop .configSpace
  | .wait t => .stay t
  | .fail code => .stay (s.fetchTrap c i Cause.fetch (BitVec.ofNat 4 code) (s.slot c i).regs.pc)
  | .poison k => .stay ((s.noteConsumed k 64).contain c i)
  | .bytes t k b =>
    let x := t.slot c i
    let r := t.freshLine x k (halves b)
    let x := { x with fetch := { line := some line, slots := r.1.2,
                                 seen := (k, r.1.1) :: x.fetch.seen.filter (fun e => e.1 != k) } }
    .go (r.2.setSlot c i x) .nop

/-- Checks the line and the head the PC names, decodes it, and readies the slot to execute it (R56, R58, R61, R70, R71). -/
def State.readyHead (s : State) (c i : Nat) (line : W64) : Ready :=
  let x := s.slot c i
  let l : Line := x.fetch.slots
  let pc := x.regs.pc
  let n := pc.toNat / 2 % 32
  if !Line.legal l then .stay (s.fetchTrap c i Cause.illegalLine 0 line)
  else if pc.toNat % 2 = 1 ∨ n = 0 ∨ Line.heads l < n then .stay (s.fetchTrap c i Cause.illegalTarget 0 pc)
  else
    let e := Line.enc l n
    let next := if Line.last l n then line + 66 else pc + 2
    match decode e with
    | .error _ => .stay (s.fetchTrap c i Cause.illegalInstruction 0 (encVal e))
    | .ok ins =>
      .go { (s.openChunk c i) with cur := { core := c, slot := i, enc := e, line := line, next := next } } ins

/-! Pre-emption (R328). -/

/-- A slot's phase in which a pre-emption waits: one that has halted, and one whose atomic is on its way (R221). -/
def Phase.stays (p : Phase) : Bool :=
  match p with
  | .halted _ => true
  | .wait .reply => true
  | _ => false

/-- A worker slot halts: a speculative task goes back to its queue (R307), any other open chunk is discarded as by a squash, and its
priority request ends (R232); a slot that waits with no chunk halts in its wait. -/
def State.halt (s : State) (c i : Nat) : State :=
  let x := s.slot c i
  if x.speculates x.asid then s.abortBack c i
  else
    let before := match x.phase, x.chunk with
      | .wait .gather, _ => none
      | .wait w, none => some w
      | _, _ => none
    (s.squash c i true).modSlot c i (fun x =>
      { x with phase := .halted before, attempt := { x.attempt with squashes := 0, order := 0, reads := [] } })

/-- The fetch of the head a slot's PC names: its line, entered where the slot executes from another, and the checks of both. -/
def State.fetchHead (s : State) (c i : Nat) : Ready :=
  let x := s.slot c i
  let pc := x.regs.pc
  if 2 ^ 57 ≤ pc.toNat then .stay (s.fetchTrap c i Cause.fetch 8 pc)
  else
    let line : W64 := pc &&& 0xFFFFFFFFFFFFFFC0
    if x.fetch.line = some line then s.readyHead c i line
    else
      match s.enterLine c i line with
      | .go t _ => t.readyHead c i line
      | r => r

/-- What a waiting instruction of a slot awaits is there: a pending trap, for WAITI (R99), and the checks of all its stores, for SDRAIN
(R322). -/
def Slot.awaited (x : Slot) : Bool :=
  match x.phase with
  | .wait .waiti => x.trapPending
  | .wait .drain => x.unchecked == 0
  | _ => false

/-- The turn of a slot. A WAITI or an SDRAIN ends once what it awaits is there. At the boundary a worker slot of an address space that is being pre-empted
halts; then comes what is due there, or the next instruction. -/
def State.slotTurn (s : State) (c i : Nat) : Ready :=
  let s := if (s.slot c i).awaited then s.modSlot c i (fun x => { x with phase := .run }) else s
  let x := s.slot c i
  if x.act.any (fun a => a.cls == 0 && s.halting a.stamp.asid) && !x.phase.stays then .stay (s.halt c i)
  else
  match x.act, x.phase with
  | some a, .run =>
    if s.heldBack x a then .stay s
    else
      match x.boundary a with
      | some e => .go { s with cur := { s.cur with core := c, slot := i } } e
      | none => s.fetchHead c i
  | _, _ => .stay s

/-- The trigger of the activation that stands for a program placed from outside (log 11). -/
def placedMessage : Message := Message.plain 0 0 (Stamp.none 0 0) []

/-- An activation of worker class in the runtime's address space, as R15 starts it (log 11). -/
def placedAct : Act :=
  { id := 0, typ := 0, cls := 0, stamp := Stamp.none 0 0, trigger := placedMessage, arrival := 0, restartable := true,
    contained := 0, executed := 0, task := none, spurious := false, nextCmd := 1, issuedMatrix := false,
    owner := none }

/-- Places one instruction as the only head of a line at TCM address 0 of core 0.0.0, whose slot 0 stands at it and has the
next turn (log 11). -/
def State.place (s : State) (e : Enc) : State :=
  let s := { s with mem := Memory.writeAll s.mem (tcmKey 0 0) (Line.bytes (Line.single e)), agenda := [.slot 0 0] }
  s.setSlot 0 0 { Slot.free with act := some placedAct, regs := { Regs.start with pc := 2 } }

end Sys2Proof.Machine
end

