-- ==== Sys2Proof/Machine/Inbox.lean ====
section
/-! DEFINITION. Arrival of messages and their selection (02_execution_model R15, R16, R21-R33, R50, R51; 16 R301, R306; 18 R325,
R327). -/

namespace Sys2Proof.Machine

/-! Vector table entries (R21-R26). -/

structure VEntry where
  slot : Nat
  line : Nat
  cls : Nat
  pri : Nat
  mask : Bool
  zeroOk : Bool
  deriving DecidableEq, Repr

def ventryOf (w : W64) : VEntry :=
  { slot := fld w 1 5, line := fld w 6 26, cls := fld w 32 3, pri := fld w 35 3, mask := bit w 38,
    zeroOk := !bit w 0 && fld w 39 25 == 0 }

/-- The types the runtime table serves (R26). -/
def runtimeType (t : Nat) : Bool := (decide (0xE0 ≤ t) && decide (t ≤ 0xF7)) || t == 0xFA || t == 0xFD

/-- The TCM base of the table that serves a type for an address space on a core; none where it is not installed. No table serves
type 0xFC (R26). -/
def State.tableBase (s : State) (c : Nat) (asid : Asid) (t : Nat) : Option Nat :=
  let b := if t = 0xFC then none
    else if runtimeType t then some (fld (s.core c).rvtbase 11 5 * 2048)
    else if ((s.core c).spaces.find asid.toNat).isSome || (s.spaces.find asid.toNat).isSome then
      some (fld (s.spaceRegs c asid).vtbase 11 5 * 2048)
    else none
  b.filter (fun b => decide (b + 2048 ≤ tcmSize c))

/-- What serves as a type's entry where none can be read: it is not usable. -/
def VEntry.unusable : VEntry := { ventryOf 0 with zeroOk := false }

/-- A type's entry as the core reads it from its TCM; none where no table is installed or the word fails correction (log 110). -/
def State.ventry (s : State) (c : Nat) (asid : Asid) (t : Nat) : VEntry :=
  match s.tableBase c asid t with
  | none => VEntry.unusable
  | some b =>
    let k := tcmKey c (b + 8 * t)
    if s.badRange k 8 then VEntry.unusable else ventryOf (bytesBv 64 (Memory.readN s.mem k 8))

/-- The read of a type's entry: a flipped bit is corrected, and a word that fails correction counts as consumed (R332, R335). -/
def State.readEntry (s : State) (c : Nat) (asid : Asid) (t : Nat) : State :=
  match s.tableBase c asid t with
  | none => s
  | some b =>
    let k := tcmKey c (b + 8 * t)
    (s.noteConsumed k 8).correctRange k 8

/-- The entry is usable for a type (R24): an ordered task needs the worker class, and its entry's SLOT counts for nothing (R301); an
atomic at its owner needs the service class (R26). -/
def VEntry.usable (e : VEntry) (t : Nat) : Bool :=
  (t == 0xFA || e.slot != 0) && e.zeroOk && decide (e.cls ≤ (if runtimeType t then 2 else 1)) && (t != 0xFA || e.cls == 0) &&
    (t != 0xFD || e.cls == 1)

/-- The mark of a treadle's tile message in `fromSlot`. -/
def tileMark : Nat := 9

/-- The message's entry is usable (R24): a tile message needs a worker-class entry, once it has gone to type 0xFF too (log 79); a
migration has no entry (R26), and a system slot's SEND of its type, which carries no context, starts from what stands in the VTBASE
table for 0xF8, usable or not (log 80). -/
def State.usableFor (s : State) (c : Nat) (m : Message) : Bool :=
  let t := m.typ.toNat
  let e := s.ventry c m.stamp.asid t
  t == 0xF8 || (e.usable t && (m.fromSlot != tileMark || e.cls == 0))

/-- The type is masked at the core (R23, R28). -/
def State.masked (s : State) (c : Nat) (m : Message) : Bool :=
  m.typ.toNat != 0xF8 && (s.ventry c m.stamp.asid m.typ.toNat).mask

/-! Drops (R29, R50, R51). -/

/-- A NACK to the sender of a dropped message, in the sender's address space (R51). It keeps the dropped message's stamp, and its
SRC is the core that message was for (log 81). -/
def nackOf (m : Message) (cause : BitVec 4) : Message :=
  { m with dst := m.stamp.src, typ := 0xFF, stamp := { m.stamp with src := m.dst }, nackReq := false, nack := true,
           otype := m.typ, cause := cause, portable := none, task := none, owner := none, fromSlot := 8 }

def State.nack (s : State) (m : Message) (cause : BitVec 4) : State :=
  if m.nackReq && !m.nack then { s with net := s.net ++ [nackOf m cause] } else s

/-- The graph of an address space that exited last, as long as it keeps its id (R50). -/
def State.lastExited (s : State) (a : Asid) : Option Nat := s.lastExit.find a.toNat

def sat32 (n : Nat) : Nat := satAdd n 1 (2 ^ 32 - 1)

/-- Counts a message dropped because its address space has exited (R50). -/
def State.countExit (s : State) (a : Asid) : State :=
  match (s.lowGraph a).or (s.lastExited a) with
  | some g => s.modGraph g (fun y => { y with exitDrop := sat32 y.exitDrop })
  | none => { s with hub := { s.hub with xdrop := sat32 s.hub.xdrop } }

/-- A task that commits with no effect, or whose message goes nowhere, leaves the unfinished set. -/
def State.dropKey (s : State) (a : Asid) (k : Option TaskKey) : State :=
  match k with
  | none => s
  | some k => { s with tasks := s.tasks.filter (fun t => !(t.key == k && t.stamp.asid == a)) }

/-- The task a message carries: one that is dispatched or one that migrates. -/
def Message.taskKey (m : Message) : Option TaskKey := m.task.or (m.portable.bind (·.task))

/-- A message whose address space has exited: dropped and counted; a NACK is dropped without count (R50, R51). -/
def State.dropExited (s : State) (m : Message) : State :=
  if m.nack then s else ((s.dropKey m.stamp.asid m.taskKey).countExit m.stamp.asid).nack m 2

/-- Drops a message that finds its die's parking area full (R50). -/
def State.dropFull (s : State) (m : Message) : State :=
  let s := match s.lowGraph m.stamp.asid with
    | some g => s.modGraph g (fun y => { y with parkDrop := sat32 y.parkDrop })
    | none => s
  (s.dropKey m.stamp.asid m.taskKey).nack m 3

/-- Parks a message that arrives now in its die's area, or drops it there (R28, R50). -/
def State.parkMessage (s : State) (m : Message) (byMask : Bool) : State :=
  let d := Id.die m.dst.toNat
  let l := s.parked.get d []
  if l.length < s.parkPlaces.get d 0 then
    { s with
      parked := s.parked.put d (l ++ [{ msg := m, arrival := s.stamp, contained := 0, undeliv := m.nack, byMask := byMask }])
      stamp := s.stamp + 1 }
  else s.dropFull m

/-! The inbox (R27, R28). -/

def inboxPlaces : Nat := 64

/-- Places held by messages of masked types. -/
def State.maskedHeld (s : State) (c : Nat) : Nat := ((s.core c).inbox.filter (fun p => s.masked c p.msg)).length

/-- A migrated task is reported by the new core's die once its message is accepted (R306). -/
def State.acceptTask (s : State) (c : Nat) (m : Message) : State :=
  match m.portable.bind (·.task) with
  | none => s
  | some k =>
    { s with tasks := s.tasks.map (fun (t : TaskEntry) =>
      if t.key = k ∧ t.stamp.asid = m.stamp.asid then { t with running := some (c, 99) } else t) }

/-- Accepts a message into its place among the messages that have arrived (R27, R28); a waiting WAITI wakes (R99). -/
def State.acceptAs (s : State) (p : Pending) : State :=
  let c := p.msg.dst.toNat
  ((s.acceptTask c p.msg).modCore c (fun k => { k with inbox := insertPending { p with byMask := false } k.inbox })).modCore c
    Core.wakeWaiti

/-- Accepts a message that arrives now (R27). -/
def State.accept (s : State) (m : Message) : State :=
  { s with stamp := s.stamp + 1 }.acceptAs
    { msg := m, arrival := s.stamp, contained := 0, undeliv := m.nack, byMask := false }

/-- A parked message can go back to its core: a place is free, and its type is unmasked (R28); or pre-emption parked it, its graph
runs again with the core's contexts restored, and it is not one that R28 parks (R50, R330). -/
def State.canReturn (s : State) (p : Pending) : Bool :=
  let c := p.msg.dst.toNat
  !s.preemptedAt p.msg.stamp.asid c && decide ((s.core c).inbox.length < inboxPlaces) &&
    (!s.masked c p.msg || (!p.byMask && decide (s.maskedHeld c < 48)))

/-- Returns a core's parked messages in arrival order as places free; none passes one of its own type and address space. One that
pre-emption parked and that finds 48 places held by masked types stays, until its type is unmasked. -/
def State.returnParked (s : State) (c : Nat) : State :=
  let d := Id.die c
  let l := s.parked.get d []
  if l.all (fun p => p.msg.dst.toNat != c) then s
  else
    let r := l.foldl (fun (a : State × List Pending) p =>
      let m := p.msg
      if m.dst.toNat = c ∧ a.2.all (fun x =>
            !(x.msg.dst == m.dst && x.msg.typ == m.typ && x.msg.stamp.asid == m.stamp.asid)) ∧ a.1.canReturn p
      then (a.1.acceptAs p, a.2)
      else
        let late := m.dst.toNat = c ∧ !a.1.preemptedAt m.stamp.asid c ∧ a.1.masked c m ∧ 48 ≤ a.1.maskedHeld c
        (a.1, a.2 ++ [if late then { p with byMask := true } else p])) (s, [])
    { r.1 with parked := r.1.parked.put d r.2 }

/-- Counts messages a kill dropped (R327). -/
def State.countDropped (s : State) (st : Stamp) (n : Nat) : State :=
  match s.graphOfStamp st with
  | some g => s.modGraph g (fun y => { y with dropped := satAdd y.dropped n (2 ^ 32 - 1) })
  | none => s

/-- A message leaves the network. -/
def State.takeNet (s : State) (n : Nat) : State := { s with net := s.net.take n ++ s.net.drop (n + 1) }

/-- The mark in `fromSlot` of a data arrival, whose data have been written (R32). -/
def writtenMark : Nat := 10

/-- An earlier message goes before a later one to its core: one that the same slot sent (R92), or one that counts as pending since its
data were written, of the same type and address space (R32). Nothing orders the messages that treadles, owners and other units send
(R368). -/
def Message.precedes (x m : Message) : Bool :=
  x.dst == m.dst && ((x.stamp.src == m.stamp.src && x.fromSlot == m.fromSlot && decide (x.fromSlot < 8)) ||
    (x.fromSlot == writtenMark && x.typ == m.typ && x.stamp.asid == m.stamp.asid))

/-- The request of an atomic or of a SCATA to the owner on a peer device: that owner works it there (R220). -/
def Message.toPeer (m : Message) : Bool := m.owner.isSome && m.dst == 0xFFFF

/-- What stands in the parking area ahead of a message that arrives: one of its type and address space. -/
def State.parkedAhead (s : State) (m : Message) : Bool :=
  (s.parked.get (Id.die m.dst.toNat) []).any (fun x =>
    x.msg.dst == m.dst && x.msg.typ == m.typ && x.msg.stamp.asid == m.stamp.asid)

/-- MESSAGE_ARRIVAL: the n-th message in the network reaches its core, unless an earlier one goes before it (R32, R92). By the
state of its address space it is accepted, parked, dropped, or waits for a place (R27, R28, R50, R327). One of a masked type is
accepted though an earlier one of its type is parked, which still goes first (log 106). One of a group whose kill is open at its
core is dropped, a tile's too (log 112). A request to an owner travels in the request class, which nothing parks (R221, R245). -/
def State.arrive (s : State) (n : Nat) : State :=
  match s.net[n]? with
  | none => s
  | some m =>
    let c := m.dst.toNat
    if m.toPeer || (s.net.take n).any (fun x => x.precedes m) then s
    else
      let a := m.stamp.asid
      if s.kills.any (fun k => k.hits m.stamp && k.reached.contains c) then
        if m.owner.isSome then s.takeNet n
        else ((s.takeNet n).dropKey a m.taskKey).countDropped m.stamp 1
      else if a != 0 && (s.graphsOf a).isEmpty then
        if m.owner.isSome then s.takeNet n else (s.takeNet n).dropExited m
      else if m.owner.isSome then
        if (s.core c).inbox.length < inboxPlaces then (s.takeNet n).accept m else s
      else if s.preemptedAt a c then (s.takeNet n).parkMessage m false
      else
        let s := (s.returnParked c).readEntry c a m.typ.toNat
        if s.masked c m then
          if 48 ≤ s.maskedHeld c then (s.takeNet n).parkMessage m true
          else if (s.core c).inbox.length < inboxPlaces then (s.takeNet n).accept m
          else s
        else if s.parkedAhead m || decide (inboxPlaces ≤ (s.core c).inbox.length) then s
        else (s.takeNet n).accept m

/-- The message of a data arrival counts as pending from now on: it is accepted, where a place is free, before every message of its
type that arrives later (R32). -/
def State.written (s : State) (m : Message) : State :=
  { s with net := s.net ++ [{ m with fromSlot := writtenMark }] }.arrive s.net.length

def execMessageArrival (i : Nat) (s : State) : Host.Outcome State Fault Refusal := .next (s.arrive i)

/-! Selection (R30, R31). -/

/-- Reads the entries of pending messages, and puts those whose entry is not usable to type 0xFF, or drops them there (R29). An orphan fault whose type is not
usable kills its group and tells the host (R26); a degrade message is dropped without count (R354). One whose entry is masked stays
pending, unusable or not (R23, log 82). -/
def State.redirect (s : State) (c : Nat) : State :=
  (s.core c).inbox.foldl (fun s p =>
    let m := p.msg
    let s := s.readEntry c m.stamp.asid m.typ.toNat
    if s.usableFor c m || s.masked c m then s
    else
      let out (s : State) : State := s.modCore c (fun k => { k with inbox := k.inbox.filter (fun q => q.arrival != p.arrival) })
      if m.typ = 0xFE then ((out s).killGroup m.stamp.asid m.stamp.group).interrupt 1
      else if m.stamp.asid = 0 then out s
      else if p.undeliv || m.typ == 0xFF then
        match s.lowGraph m.stamp.asid with
        | some g => (out s).modGraph g (fun y => { y with undl := sat32 y.undl })
        | none => out s
      else
        let s := s.dropKey m.stamp.asid m.task
        s.modCore c (fun k => { k with inbox := k.inbox.map (fun q =>
          if q.arrival = p.arrival then
            { q with undeliv := true, msg := { m with typ := 0xFF, otype := m.typ, cause := 1, task := none, owner := none } }
          else q) })) s

/-- A task's own type must have a usable entry in the graph's table; else it goes to type 0xFF and counts as committed (R301).
A task whose entry has been discarded leaves nothing. -/
def State.redirectTasks (s : State) (c : Nat) : State :=
  (s.core c).inbox.foldl (fun s p =>
    let m := p.msg
    match m.task with
    | none => s
    | some k =>
      match s.tasks.find? (fun t => t.key == k && t.stamp.asid == m.stamp.asid) with
      | none => s.modCore c (fun y => { y with inbox := y.inbox.filter (fun q => q.arrival != p.arrival) })
      | some t =>
        let s := s.readEntry c m.stamp.asid t.typ.toNat
        let e := s.ventry c m.stamp.asid t.typ.toNat
        if e.usable t.typ.toNat then s
        else
          (s.dropKey m.stamp.asid m.task).modCore c (fun y => { y with inbox := y.inbox.map (fun q =>
            if q.arrival = p.arrival then
              { q with undeliv := true, msg := { m with typ := 0xFF, otype := m.typ, cause := 1, task := none } }
            else q) })) s

/-- Slots of a class that are free for a message: no activation, and no saved context about to return (R13, R330). -/
def State.freeSlots (s : State) (c cls : Nat) : List Nat :=
  (List.range 8).filter (fun i => slotClass i == cls && (s.slot c i).act.isNone &&
    s.graphs.all (fun g => g.2.pre != .resuming || g.2.saved.all (fun v => v.core != c || v.slot != i)))

/-- The class and the type priority of a message's type at a core; a migration's are its own (R26, R290). -/
def State.classOf (s : State) (c : Nat) (m : Message) : Nat × Nat :=
  match m.portable with
  | some p => (p.cls, 7)
  | none =>
    let e := s.ventry c m.stamp.asid m.typ.toNat
    (e.cls, e.pri)

/-- The head of an address space whose message waits for a worker slot of a core, in its inbox or before a full one (log 73). -/
def State.headWaits (s : State) (c : Nat) : Option (Asid × TaskKey) :=
  let k := s.core c
  let l := k.inbox.map (·.msg) ++
    (if k.inbox.length < inboxPlaces then [] else s.net.filter (fun m => m.dst.toNat == c))
  l.findSome? (fun m =>
    match m.taskKey with
    | some x => if s.isHead m.stamp.asid x && (s.classOf c m).1 == 0 then some (m.stamp.asid, x) else none
    | none => none)

/-- A failing compute core takes no new activation (R335); a failing bank core goes on until the next quiesce (R336). What is no
core of the module, or no longer, takes none. -/
def State.closed (s : State) (c : Nat) : Bool := !s.provided c || ((s.core c).failing && Id.kind c == 0)

/-- Head admission for a worker slot of the core the head has been sent to (R305, log 73): one speculative task there goes back
to its queue, the one of the highest key. -/
def State.admitHead (s : State) (c : Nat) : State :=
  if s.closed c || !(s.freeSlots c 0).isEmpty then s
  else
    match s.headWaits c with
    | none => s
    | some (a, k) =>
      match (s.speculative a).find? (fun e => e.1 != k && e.2.1 == c && slotClass e.2.2 == 0) with
      | some (_, _, i) => s.abortBack c i
      | none => s

/-- An earlier message of the same core, type and address space stands in the parking area: it goes first (R28, R50, log 106). -/
def State.behindParked (s : State) (c : Nat) (p : Pending) : Bool :=
  (s.parked.get (Id.die c) []).any (fun x => x.msg.dst.toNat == c && x.msg.typ == p.msg.typ &&
    x.msg.stamp.asid == p.msg.stamp.asid && decide (x.arrival < p.arrival))

/-- The oldest pending message of each type and address space that is a candidate (R30). One that a containment put back
while its address space is pre-empted waits for the resume (R331), and one behind a parked one of its type until that one is back
(R28); a request to an owner waits for neither (R221). -/
def State.candidates (s : State) (c : Nat) : List Pending :=
  let firsts := (s.core c).inbox.foldl (fun (a : List Pending) p =>
    if a.any (fun q => q.msg.typ == p.msg.typ && q.msg.stamp.asid == p.msg.stamp.asid) then a else a ++ [p]) []
  firsts.filter (fun p => s.usableFor c p.msg && !s.masked c p.msg &&
    (p.msg.owner.isSome || (!s.preemptedAt p.msg.stamp.asid c && !s.behindParked c p)) &&
    !(s.freeSlots c (s.classOf c p.msg).1).isEmpty)

/-- The passed count and boost of a candidate. -/
def Core.passedOf (k : Core) (m : Message) : Nat × Nat :=
  match k.passed.find? (fun x => x.typ == m.typ && x.asid == m.stamp.asid) with
  | some x => (x.count, x.boost)
  | none => (0, 0)

/-- K of a candidate (R30). -/
def State.keyOf (s : State) (c : Nat) (m : Message) : Nat :=
  let k := 8 * m.stamp.lpri.toNat + (s.classOf c m).2 + ((s.core c).passedOf m).2
  if k ≤ 63 then k else 63

/-- How far a candidate stands after the last chosen one in the cyclic order (R30). -/
def Core.distance (k : Core) (m : Message) : Nat :=
  (m.typ.toNat * 65536 + m.stamp.asid.toNat + 2 ^ 24 - (k.lastType.toNat * 65536 + k.lastAsid.toNat) - 1) % 2 ^ 24

/-- The winner: the highest K, then the first in the cyclic order. -/
def State.winner (s : State) (c : Nat) : Option Pending :=
  (s.candidates c).foldl (fun a p =>
    match a with
    | none => some p
    | some q =>
      let x := s.keyOf c p.msg
      let y := s.keyOf c q.msg
      if y < x ∨ (x = y ∧ (s.core c).distance p.msg < (s.core c).distance q.msg) then some p else some q) none

/-- The start word (R16). -/
def startWord (m : Message) (typ : BitVec 8) (src : CoreId) : W64 :=
  BitVec.ofNat 64 (src.toNat + typ.toNat * 2 ^ 16 + m.stamp.lpri.toNat * 2 ^ 24 + m.stamp.group.toNat * 2 ^ 32 +
    (if typ = 0xFF then m.otype.toNat * 2 ^ 40 + m.cause.toNat * 2 ^ 48 else 0))

/-- The scalar payload in g1 to g7 (R15). -/
def Regs.loadPayload (r : Regs) (l : List W64) : Regs :=
  (l.take 7).zipIdx.foldl (fun r p => if h : p.2 + 1 < 32 then r.writeG ⟨p.2 + 1, h⟩ p.1 else r) r

/-- A handler's PC (R23). The runtime's own handlers count from 0, as the runtime's address space holds no CODEBASE (R22, log
59). -/
def State.handlerPc (s : State) (c : Nat) (asid : Asid) (t : Nat) (e : VEntry) : W64 :=
  (if runtimeType t then 0 else (s.spaceRegs c asid).codebase) + BitVec.ofNat 64 (64 * e.line + 2 * e.slot)

/-- The unfinished entry a task's message stands for. -/
def State.entryOf (s : State) (m : Message) : Option TaskEntry :=
  m.task.bind (fun k => s.tasks.find? (fun t => t.key == k && t.stamp.asid == m.stamp.asid))

/-- The registers an activation starts with (R15, R290, R301), with its task; after a migration the next SIGCHK compares nothing
(R342). -/
def State.startRegs (s : State) (c : Nat) (m : Message) : Regs × Option TaskInfo :=
  match m.portable with
  | some p =>
    let r := { Regs.start with
      g := p.g
      v := Vector.ofFn (fun (i : Fin 32) => p.v.getD i.val 0)
      m := p.m
      sigcfg := 3
      pc := p.pc }
    let t := p.task.bind (fun k => s.tasks.find? (fun t => t.key == k && t.stamp.asid == m.stamp.asid))
    (r, t.map (fun t => { key := t.key, typ := t.typ, arg := t.arg, state := .firm }))
  | none =>
    match s.entryOf m with
    | some t =>
      let e := s.ventry c m.stamp.asid t.typ.toNat
      let r := { Regs.start with pc := s.handlerPc c m.stamp.asid t.typ.toNat e }
      let r := r.loadPayload m.payload
      (r.writeG 8 (startWord m t.typ t.key.spawner),
        some { key := t.key, typ := t.typ, arg := t.arg, state := .speculative })
    | none =>
      let e := s.ventry c m.stamp.asid m.typ.toNat
      let r := { Regs.start with pc := s.handlerPc c m.stamp.asid m.typ.toNat e }
      let r := (r.loadPayload m.payload).writeV 0 (m.vec.getD 0)
      (r.writeG 8 (startWord m m.typ m.stamp.src), none)

/-- Starts a pending message in a slot (R14, R15). A task keeps its count of containments (R307). For the lines of R59 a context that
arrives by migration starts here (log 125). -/
def State.startIn (s : State) (c i : Nat) (p : Pending) : State :=
  let m := p.msg
  let r := s.startRegs c m
  let typ := match m.portable, r.2 with
    | some _, _ => m.otype
    | none, some t => t.typ
    | none, none => m.typ
  let a : Act :=
    { id := s.stamp, typ := typ, cls := slotClass i, stamp := m.stamp, trigger := m, arrival := p.arrival,
      restartable := true
      contained := match s.entryOf m with
        | some t => t.contained
        | none => p.contained
      executed := 0, task := r.2, spurious := m.portable.isSome,
      nextCmd := 1, issuedMatrix := false, owner := m.owner }
  let s := s.modSlot c i (fun x => { Slot.free with ext := x.ext, act := some a, regs := r.1 })
  let s := match r.2 with
    | none => s
    | some t => { s with tasks := s.tasks.map (fun (e : TaskEntry) =>
        if e.key = t.key ∧ e.stamp.asid = m.stamp.asid then { e with running := some (c, i) } else e) }
  { s with stamp := s.stamp + 1 }

/-- The counts after a selection: the chosen candidate's clear, the others' rise (R31). -/
def countPassed (l : List Passed) (cands : List Pending) (w : Message) : List Passed :=
  let rest := l.filter (fun x => !(x.typ == w.typ && x.asid == w.stamp.asid))
  cands.foldl (fun l p =>
    if p.msg.typ = w.typ ∧ p.msg.stamp.asid = w.stamp.asid then l
    else
      let mine (x : Passed) : Bool := x.typ == p.msg.typ && x.asid == p.msg.stamp.asid
      match l.find? mine with
      | none => { typ := p.msg.typ, asid := p.msg.stamp.asid, count := 1, boost := 0 } :: l
      | some x =>
        let y := if x.count + 1 = 4096 then { x with count := 0, boost := x.boost + 1 } else { x with count := x.count + 1 }
        y :: l.filter (fun z => !mine z)) rest

/-- SELECTION at a core: at most one message starts in one free slot (R30). -/
def State.select (s : State) (c : Nat) : State :=
  let s := (((s.returnParked c).redirect c).redirectTasks c).admitHead c
  if s.closed c then s
  else
    match s.winner c with
    | none => s
    | some p =>
      match s.freeSlots c (s.classOf c p.msg).1 with
      | [] => s
      | i :: _ =>
        let cands := s.candidates c
        let s := s.modCore c (fun k =>
          { k with
            inbox := k.inbox.filter (fun q => q.arrival != p.arrival)
            lastType := p.msg.typ
            lastAsid := p.msg.stamp.asid
            passed := countPassed k.passed cands p.msg })
        s.startIn c i p

def execSelection (core : Nat) (s : State) : Host.Outcome State Fault Refusal := .next (s.select core)

end Sys2Proof.Machine
end

