-- ==== Sys2Proof/Machine/Ordering.lean ====
section
/-! DEFINITION. CHKPT, FENCE and GBAR (11_consistency R237-R241). -/

namespace Sys2Proof.Machine

def execChkpt (s : State) := insn (do
  chunkEnds
  doneEnding .chkpt) s

/-- A store of the slot to host or peer memory that has not left yet (R236). -/
def Slot.extPending (x : Slot) : Bool :=
  x.stores.any (fun st => !st.checked && st.parts.any (fun p => p.key.any isExt))

/-- The places a broadcast removal reaches: the cores, and each die's L2 as 100,000 + die (R126, R191). -/
def State.places (s : State) : List Nat :=
  ((List.range 4).flatMap (fun d => (List.range 32).flatMap (fun cl => (List.range 64).map (Id.compute d cl)))).filter
      s.provided ++
    ((List.range 8).flatMap (fun st => (List.range 32).map (Id.bank st))).filter s.provided ++
    (List.range 4).map (100000 + ·)

/-- The places a removal has to reach: the L2s hold no heddle entries. -/
def State.removalPlaces (s : State) (r : Removal) : List Nat :=
  if r.heddle then s.places.filter (fun p => decide (p < 100000)) else s.places

/-- A place lies inside a FENCE's scope for a core (R73, R239). -/
def inScope (sc : Scope) (c p : Nat) : Bool :=
  match sc with
  | .core => p == c
  | .clus => p == c || (decide (p < 65536) && Id.kind c == 0 && Id.isCompute p && Id.clusterNo p == Id.clusterNo c)
  | .die => if 100000 ≤ p then p - 100000 == Id.die c else Id.die p == Id.die c
  | _ => true

/-- Broadcasts of the slot's committed chunks that some place inside the scope has not acknowledged (R239). -/
def State.xlatBusy (s : State) (sc : Scope) (c i : Nat) : Bool :=
  s.broadcasts.any (fun b => b.core == c && b.slot == i &&
    (s.removalPlaces b.removal).any (fun p => inScope sc c p && !b.reached.contains p))

/-- FENCE (R239): a release waits here; an acquire holds back the later reads it names. -/
def execFence (c : Scope) (k : FenceKind) (eng xlat : Bool) (s : State) := insn (do
  let s ← get
  let me := s.cur.core
  let i := s.cur.slot
  let rel := k != .acq
  let wait := rel && ((c == .sys && (s.me.ext != [] || s.me.extPending)) || (eng && s.engBusy me i) ||
    (xlat && s.xlatBusy c me i))
  if wait then throw .hold else
  if k == .rel then pure () else
    modify (fun s => s.modMe (fun x =>
      { x with
        acq := match x.act with
          | some a => a.nextCmd
          | none => 0
        acqEng := x.acqEng || eng
        acqOld := (x.regs.q.toList.zipIdx.filter (fun q => q.1.kind == 4 || q.1.kind == 7)).map (·.2) }))
  done) s

/-- A core is a member of a group, or of its image on the mirror side (R240, R345). -/
def Group.holds (g : Group) (side : Side) (c : Nat) : Bool :=
  if side = .mirror then g.members.any (fun m => Id.mirrorOf m.toNat == c) else g.members.contains (BitVec.ofNat 16 c)

/-- The group GBAR names is valid and holds the issuing core (R240). -/
def gbarGroup (id : BitVec 8) : M Unit := do
  let s ← get
  match s.group s.me.asid id with
  | none => illegalOperand
  | some g => refuseIf (!g.holds s.me.side s.cur.core)

/-- GBAR's arrival leaves with the chunk's commit; `a` is what follows it (R241). -/
def gbarArrive (id : BitVec 8) (a : After) : M Unit := do
  gbarGroup id
  chunkEnds
  act (.arrive id)
  doneEnding a

def execGbar (id : BitVec 8) (s : State) := insn (gbarArrive id (.wait (.gbar id))) s
def execGbarArrive (id : BitVec 8) (s : State) := insn (gbarArrive id .go) s

def execGbarWait (id : BitVec 8) (s : State) := insn (do
  gbarGroup id
  let s ← get
  refuseIf (!s.me.bars.any (fun b => b.group == id))
  chunkEnds
  doneEnding (.wait (.gbar id))) s

end Sys2Proof.Machine
end

