-- ==== Sys2Proof/Machine/Engines.lean ====
section
/-! DEFINITION. The engines: copy harts and shuttles (10_queues_streams_copies R203-R211; 19 R346), owners of atomics and
their replies (R219-R223), streams and strips (R201, R217, R281), barriers (11 R241), page walks and broadcast removals
(09 R186-R192; 05 R126). -/

namespace Sys2Proof.Machine

/-! What engines share. -/

/-- An address as an engine of a core translates it, through that core's buffers and else by a walk of its own, which fills them (R182,
R186). It reaches no configuration space, whichever slot issued the work (log 117). The answer is a location or a code of R209; a far
access is a permission failure. -/
def State.engineXlate (s : State) (c : Nat) (asid : Asid) (side : Side) (acc : Acc) (va : W64) : State × Except Nat Nat :=
  let soft (r : Except Nat Nat) : Except Nat Nat :=
    match r with
    | .error x => .error (if x = Code.far then Code.permission else x)
    | r => r
  if 2 ^ 57 ≤ va.toNat then (s, .error Code.address)
  else
    match ((s.core (tlbCore c)).tlb.find? (fun e => e.holds asid va.toNat)).or
        ((s.l2.get (Id.die c) []).find? (fun e => e.holds asid va.toNat)) with
    | some e => (s.touch c e, soft (s.access c side false acc e va))
    | none =>
      match s.walked asid va with
      | (t, .page e) => (t.fill c e, soft (s.access c side false acc e va))
      | (t, .fail x) => (t, .error x)
      | (t, .poison _) => (t, .error Code.poison)
      | (t, .pending) => (t, .error Code.translation)

/-- The uncorrectable error that an engine has met behind an address counts as consumed, in its data or in a table (R335, R337). -/
def State.noteEngine (s : State) (c : Nat) (st : Stamp) (va : W64) : State :=
  match (s.engineXlate c st.asid st.side .load va).2, s.walk st.asid va with
  | .ok k, _ => s.noteConsumed k (64 - va.toNat % 64)
  | .error _, .poison k => s.noteConsumed k 8
  | _, _ => s

/-- The cause of R209 for a code of R215: an unreachable peer is none of them and counts as physical-address (log 30). -/
def engineCause (code : Nat) : Nat := if code = Code.unreachable then Code.physical else code

/-- A request stops at what it met, an uncorrectable error counted as consumed. -/
def State.failRequest (s : State) (c : Nat) (r : Request) (req code : Nat) (va : W64) : State :=
  (if code = Code.poison then s.noteEngine c r.stamp va else s).stopRequest r req (engineCause code) va

def State.advanceRequest (s : State) (r : Request) (n : Nat) : State :=
  { s with requests := s.requests.map (fun (x : Request) => if x.tag = r.tag then { x with progress := x.progress + n } else x) }

/-- The message of a data arrival (R32, R33): of the activation that kicked the engine. -/
def arrivalOf (r : Request) (dst : CoreId) (typ : BitVec 8) (payload : List W64) : Message :=
  Message.plain dst typ { r.stamp with src := BitVec.ofNat 16 r.core } payload

/-- The requests of a cluster. -/
def Request.at (r : Request) (cluster : Nat) : Bool := Id.clusterNo r.core == cluster

/-- The copy hart of a cluster numbered die × 32 + cluster. -/
def hartOf (cluster : Nat) : Nat := Id.hart (cluster / 32) (cluster % 32)

/-- Bytes a request has in all, in the unit of its progress. -/
def Request.total (r : Request) : Nat :=
  match r.work with
  | .copy d => d.run * d.n1 * d.n2
  | .deal sh _ len => (dealOf sh).blocks len.toNat
  | .scata _ lanes => lanes.length

def Request.done (r : Request) : Bool := r.flight.isEmpty && (r.stopped || decide (r.total ≤ r.progress))

/-- A write of an engine that has no shadow page to go to is refused on a redundant node (R346). -/
def dualRefuses (st : Stamp) (k : Nat) : Bool := st.side != .none && (isTcm k || isExt k)

/-- A location with the shadow offset of a side removed, through the page that maps it (R347). -/
def State.liveOf (s : State) (c : Nat) (st : Stamp) (va : W64) (k : Nat) : Nat :=
  if st.side = .none then k
  else
    match (s.core (tlbCore c)).tlb.find? (fun e => e.holds st.asid va.toNat) with
    | some e => if Leaf.shadow e.leaf then e.place .none va else k
    | none => k

/-! Copies (R203-R205). -/

/-- The source and destination of byte p of a copy, and the bytes left in its run. -/
def CopyDesc.byteAt (d : CopyDesc) (p : Nat) : W64 × W64 × Nat :=
  let j := p % d.run
  let a := BitVec.ofNat 64 (p / d.run % d.n1)
  let b := BitVec.ofNat 64 (p / d.run / d.n1)
  (d.src + a * d.sst1.signExtend 64 + b * d.sst2.signExtend 64 + BitVec.ofNat 64 j,
   d.dst + a * d.dst1.signExtend 64 + b * d.dst2.signExtend 64 + BitVec.ofNat 64 j, d.run - j)

/-- A hart chunk as it is built: the state, its written lines, the bytes it has moved, and those read ahead of the writing. -/
structure Moved where
  s : State
  lines : List Nat
  n : Nat
  ahead : List Byte

/-- What one segment of a copy ends in. -/
inductive Segment where
  | moved (m : Moved)
  | full
  | fail (code : Nat) (va : W64)

/-- The next source bytes of a copy, at most n, and those read ahead: bytes of one source line; of a host or peer flit all that the
run takes, read at once (R205). -/
def Moved.source (m : Moved) (c : Nat) (r : Request) (src : W64) (left n : Nat) : Except (Option Nat) (State × List Byte × List Byte) :=
  if m.ahead ≠ [] then .ok (m.s, m.ahead.take n, m.ahead.drop n)
  else
    let room := 64 - src.toNat % 64
    match m.s.engineXlate c r.stamp.asid r.stamp.side .load src with
    | (_, .error x) => .error (some x)
    | (s, .ok k) =>
      let len := if isExt k then min left room else min n room
      if s.badRange k len then .error (some Code.poison)
      else if isExt k && s.hubCut c then .error none
      else
        let b := Memory.readN s.mem k len
        .ok (s.correctRange k len, b.take n, b.drop n)

/-- Where the next bytes of a copy go. -/
def CopyDesc.goal (d : CopyDesc) (s : State) (c : Nat) (r : Request) (va : W64) : State × Except Nat Nat :=
  if d.dkind then (s, .ok (tcmKey d.dcore.toNat va.toNat)) else s.engineXlate c r.stamp.asid r.stamp.side .store va

/-- Moves the next segment of a copy, to one destination line. A host or peer line is a chunk of its own, a flit, which the 4 KiB of
device memory do not cut; a write to an unreachable peer is dropped and counted (R355). -/
def State.segment (m : Moved) (c : Nat) (r : Request) (d : CopyDesc) : Segment :=
  let p := r.progress + m.n
  let e := d.byteAt p
  let flit := match (d.goal m.s c r e.2.1).2 with
    | .ok q => isExt q
    | .error _ => false
  let n := min e.2.2 (64 - e.2.1.toNat % 64)
  let n := if flit then n else min n (4096 - p % 4096)
  match m.source c r e.1 e.2.2 n with
  | .error none => .full
  | .error (some x) => .fail x e.1
  | .ok (s, b, ahead) =>
    match d.goal s c r e.2.1 with
    | (_, .error x) => .fail x e.2.1
    | (s, .ok q) =>
      if dualRefuses r.stamp q then .fail Code.permission e.2.1
      else
        let new := !m.lines.contains (lineOf q)
        let ends := decide (64 ≤ m.lines.length) || isExt q || m.lines.any (fun l => isExt (l * 64))
        if (m.n ≠ 0 && new && ends) || (isExt q && s.hubCut c) then .full
        else
          let s := if s.peerGone q then s.loseWrites (q / 2 ^ 48 - 1) (if new then 1 else 0)
            else (s.writeBytes q b).noteDual r.stamp (s.liveOf c r.stamp e.2.1 q) q
          .moved { s := s, lines := if new then lineOf q :: m.lines else m.lines, n := m.n + b.length, ahead := ahead }

/-- A hart chunk ends at 4 KiB of device-memory destination bytes, at 64 destination lines, after a flit written to host or peer memory, and at
the end of the copy (R205). -/
def State.hartChunk (m : Moved) (c : Nat) (r : Request) (d : CopyDesc) : Nat → Except (Nat × W64) Moved
  | 0 => .ok m
  | fuel + 1 =>
    if r.total ≤ r.progress + m.n ∨
        (m.n ≠ 0 ∧ (r.progress + m.n) % 4096 = 0 ∧ m.lines.all (fun l => !isExt (l * 64))) then .ok m
    else
      match State.segment m c r d with
      | .moved m => State.hartChunk m c r d fuel
      | .full => .ok m
      | .fail x va => .error (x, va)

/-- The i-th request of a cluster that is a copy, if it is its slot's oldest unfinished one. -/
def State.kickAt (s : State) (cluster i : Nat) : Option (Request × CopyDesc) :=
  let l := s.requests.filter (fun r => r.at cluster && !r.done && (match r.work with
    | .copy _ => true
    | _ => false))
  match l[i]? with
  | none => none
  | some r =>
    if (l.take i).any (fun x => x.core == r.core && x.slot == r.slot) then none
    else
      match r.work with
      | .copy d => some (r, d)
      | _ => none

/-- The hart's one slot holds the kick it works (R12). -/
def State.setHart (s : State) (cluster : Nat) (kick : Option Nat) : State :=
  { s with harts := s.harts.put cluster { kick := kick } }

/-- The device lines among those an engine has written: what its chunk presents to the reeds (R235, R236). -/
def deviceLines (l : List Nat) : List Nat := l.filter (fun x => !isExt (x * 64))

/-- What a chunk of a copy leaves of it: how far it is, the bytes read ahead, and the arrival when it is whole (R205). -/
def State.copied (s : State) (cluster : Nat) (r : Request) (d : CopyDesc) (m : Moved) : State :=
  let whole := decide (r.total ≤ r.progress + m.n)
  let s := s.advanceRequest r m.n
  let s := { s with requests := s.requests.map (fun (x : Request) => if x.tag = r.tag then { x with ahead := m.ahead } else x) }
  let s := s.setHart cluster (if whole then none else some r.tag)
  if d.arrv && whole then
    s.written (arrivalOf r d.dcore d.typ [d.dst, BitVec.ofNat 64 r.total, r.batch.setWidth 64])
  else s

/-- COPY_KICK: the hart works one chunk of the i-th copy of its cluster (R205), unless a priority request withholds the commit
(R232). -/
def execCopyKick (cluster : Nat) (i : Nat) (s : State) : Host.Outcome State Fault Refusal :=
  .next (
    match s.kickAt cluster i with
    | none => s
    | some (r, d) =>
      match State.hartChunk { s := s, lines := [], n := 0, ahead := r.ahead } (hartOf cluster) r d 4097 with
      | .error e => (s.failRequest (hartOf cluster) r 0 e.1 e.2).setHart cluster none
      | .ok m =>
        if s.grants none none (deviceLines m.lines) then (m.s.published s.mem m.lines none).copied cluster r d m
        else s)

/-! Deals (R211). -/

/-- n bytes at an address as an engine reads them, a line at a time, with the location of each piece. No error is named where a die
without its hub link would read host or peer memory: the read waits (R354). -/
def State.engineRead (s : State) (c : Nat) (st : Stamp) (va : W64) :
    Nat → Nat → State × Except (Option (Nat × W64)) (List (Nat × List Byte))
  | 0, _ => (s, .ok [])
  | fuel + 1, n =>
    if n = 0 then (s, .ok [])
    else
      let room := 64 - va.toNat % 64
      let m := if n ≤ room then n else room
      match s.engineXlate c st.asid st.side .load va with
      | (s, .error x) => (s, .error (some (x, va)))
      | (s, .ok k) =>
        if s.badRange k m then (s, .error (some (Code.poison, va)))
        else if isExt k && s.hubCut c then (s, .error none)
        else
          let b := Memory.readN s.mem k m
          match (s.correctRange k m).engineRead c st (va + BitVec.ofNat 64 m) fuel (n - m) with
          | (s, .ok r) => (s, .ok ((k, b) :: r))
          | e => e

/-- The bytes of what an engine has read. -/
def pieceBytes (l : List (Nat × List Byte)) : List Byte := l.flatMap (·.2)

/-- No commit has changed what was read of device memory. -/
def State.unchanged (s : State) (l : List (Nat × List Byte)) : Bool :=
  l.all (fun p => isExt p.1 || Memory.readN s.mem p.1 p.2.length == p.2)

/-- Block b of a deal arrives: it is delivered whole, with its arrival, unless a priority request withholds the commit (R232). -/
def State.deliverBlock (s : State) (r : Request) (d : Deal) (b : Nat) (x : List Byte) : Option State :=
  let dst := coreOfCluster r.core (d.core b)
  let k := tcmKey dst (d.tcm b)
  if s.grants none none (linesOf k x.length) then
    some ((s.commitBytes k x).written (arrivalOf r (BitVec.ofNat 16 dst) (BitVec.ofNat 8 d.typ)
      [BitVec.ofNat 64 (d.tcm b), BitVec.ofNat 64 x.length, BitVec.ofNat 64 b]))
  else none

/-- Sets what of a deal has left and not arrived. -/
def State.setFlight (s : State) (r : Request) (l : List (Nat × List (Nat × List Byte))) : State :=
  { s with requests := s.requests.map (fun (x : Request) => if x.tag = r.tag then { x with flight := l } else x) }

/-- The next block of a deal leaves: with `now` it arrives with that, where none of its core is under way; else it is under way. -/
def State.sendBlock (s : State) (cluster : Nat) (r : Request) (d : Deal) (src len : W64) (now : Bool) : State :=
  let b := r.progress
  let n := d.size len.toNat b
  if r.stopped || decide (r.total ≤ b) || (now && r.flight.any (fun f => d.core f.1 == d.core b)) then s
  else if dualRefuses r.stamp (tcmKey (coreOfCluster r.core (d.core b)) (d.tcm b)) then
    s.stopRequest r 1 Code.permission (BitVec.ofNat 64 (d.tcm b))
  else
    match s.engineRead (hartOf cluster) r.stamp (src + BitVec.ofNat 64 (b * d.block)) n n with
    | (_, .error none) => s
    | (_, .error (some e)) => s.failRequest (hartOf cluster) r 1 e.1 e.2
    | (t, .ok x) =>
      if now then ((t.advanceRequest r 1).deliverBlock r d b (pieceBytes x)).getD s
      else (t.advanceRequest r 1).setFlight r (r.flight ++ [(b, x)])

/-- The k-th of a deal's blocks under way arrives, after those of its core that left before it. The block is one chunk of the engine:
where a commit has changed what it read, it reads again (R231, R235). -/
def State.landBlock (s : State) (cluster : Nat) (r : Request) (d : Deal) (src len : W64) (k : Nat) : State :=
  match r.flight[k]? with
  | none => s
  | some f =>
    let rest := r.flight.take k ++ r.flight.drop (k + 1)
    let n := d.size len.toNat f.1
    if (r.flight.take k).any (fun e => d.core e.1 == d.core f.1) then s
    else if s.unchanged f.2 then ((s.setFlight r rest).deliverBlock r d f.1 (pieceBytes f.2)).getD s
    else
      match s.engineRead (hartOf cluster) r.stamp (src + BitVec.ofNat 64 (f.1 * d.block)) n n with
      | (_, .error none) => s
      | (_, .error (some e)) => (if r.stopped then s else s.failRequest (hartOf cluster) r 1 e.1 e.2).setFlight r rest
      | (t, .ok x) => ((t.setFlight r rest).deliverBlock r d f.1 (pieceBytes x)).getD s

/-- The i-th unfinished deal of a cluster: its shuttle works them in any order (R368). -/
def State.dealAt (s : State) (cluster i : Nat) : Option (Request × Deal × W64 × W64) :=
  match (s.requests.filter (fun r => r.at cluster && !r.done && (match r.work with
      | .deal .. => true
      | _ => false)))[i]? with
  | none => none
  | some r =>
    match r.work with
    | .deal sh src len => some (r, dealOf sh, src, len)
    | _ => none

/-- SHUTTLE_BLOCK: the shuttle of a cluster works one of its deals. The blocks of one leave in ascending order and arrive at one core
in that order, at different cores in any (R211). -/
def execShuttleBlock (m : ShuttleMove) (s : State) : Host.Outcome State Fault Refusal :=
  .next (
    match m with
    | .deliver c i => ((s.dealAt c i).map (fun w => s.sendBlock c w.1 w.2.1 w.2.2.1 w.2.2.2 true)).getD s
    | .leave c i => ((s.dealAt c i).map (fun w => s.sendBlock c w.1 w.2.1 w.2.2.1 w.2.2.2 false)).getD s
    | .land c i k => ((s.dealAt c i).map (fun w => s.landBlock c w.1 w.2.1 w.2.2.1 w.2.2.2 k)).getD s)

/-! Batches (R207). -/

/-- BATCH_FINISH: the i-th sealed batch of a cluster finishes once its requests are done and the slot's earlier ones have
finished. A batch word that fails correction keeps its error, which the next reader meets (log 109). -/
def execBatchFinish (cluster : Nat) (i : Nat) (s : State) : Host.Outcome State Fault Refusal :=
  let mine := s.batches.filter (fun b => Id.clusterNo b.core == cluster)
  .next (
    match mine[i]? with
    | none => s
    | some b =>
      let of (r : Request) : Bool := r.act == b.act && r.core == b.core && r.batch == b.n
      if (mine.take i).any (fun x => x.core == b.core && x.slot == b.slot && x.act == b.act) ||
          s.requests.any (fun r => of r && !r.done) || !s.grants none none (if b.word = 0 then [] else [lineOf b.word]) then s
      else
        let note := s.requests.any (fun r => of r && (match r.work with
          | .copy d => d.note
          | _ => false))
        let s := { s with requests := s.requests.filter (fun r => !of r), batches := s.batches.filter (· != b) }
        let s := if b.word = 0 then s
          else if s.badRange b.word 8 then s.noteConsumed b.word 8
          else (s.correctRange b.word 8).commitBytes b.word (bvBytes (bytesBv 64 (Memory.readN s.mem b.word 8) + 1) 8)
        if note then
          { s with net := s.net ++
            [Message.plain (BitVec.ofNat 16 b.core) 0xFB { b.stamp with src := BitVec.ofNat 16 b.core }
              [b.n.setWidth 64]] }
        else s)

/-! Owners (R219-R222). -/

/-- The old bytes and the flags a finished atomic answers with. -/
def State.answer (s : State) (q : OwnerReq) (old : List Byte) (fl : Flags) : State :=
  { s with replies := s.replies ++
    [{ core := q.core, slot := q.slot, act := q.act, old := some old, flags := fl.setWidth 64, pc := q.pc }] }

/-- One lane of a SCATA: the sum wraps, or is rounded with no flag (R219). -/
def scataAdd (int : Bool) (old x : Nat) : Nat :=
  if int then (old + x) % 2 ^ 32 else (Fop.add FFmt.fp32 .rne old x).1

/-- The lines of the lanes of a SCATA. -/
def laneLines (lanes : List (Nat × Nat × BitVec 32)) : List Nat :=
  lanes.foldl (fun a l => if a.contains (lineOf l.1) then a else lineOf l.1 :: a) []

/-- The owner adds its lanes in ascending order, as one chunk. -/
def State.scataLanes (s : State) (q : OwnerReq) (int : Bool) (lanes : List (Nat × Nat × BitVec 32)) : State :=
  let t := lanes.foldl (fun s l =>
    let b := natBytes (scataAdd int (bytesNat (Memory.readN s.mem l.1 4)) l.2.2.toNat) 4
    ((s.correctRange l.1 4).writeBytes l.1 b).noteDual q.stamp l.2.1 l.1) s
  t.published s.mem (laneLines lanes) none

/-- The lanes of a SCATA at one of its owners: an uncorrectable error stops it with an engine fault (R209). The answer is none where
a priority request withholds the commit (R232). -/
def State.workScata (s : State) (q : OwnerReq) (int : Bool) (lanes : List (Nat × Nat × BitVec 32)) : Option State :=
  match s.requests.find? (fun r => r.tag == q.tag) with
  | none => some s
  | some r =>
    if r.stopped then some s
    else
      match lanes.find? (fun l => s.badRange l.1 4) with
      | some l => some ((s.noteConsumed l.1 4).ownerFault q Code.poison l.1)
      | none =>
        if s.grants none none (laneLines lanes) then some ((s.scataLanes q int lanes).advanceRequest r lanes.length) else none

/-- An owner works a request as one chunk of its service activation (R219-R222): an AMO or AMOV answers with the old bytes; one that
meets an uncorrectable error ends with an engine fault of its requester (R209). -/
def State.workOwner (s : State) (q : OwnerReq) : Option State :=
  match q.op with
  | .scata int lanes => s.workScata q int lanes
  | op =>
    if s.badRange q.key op.size then some ((s.noteConsumed q.key op.size).ownerFault q Code.poison q.key)
    else
      let old := Memory.readN s.mem q.key op.size
      let r := op.run old
      let t := s.correctRange q.key op.size
      match r.1 with
      | some b =>
        if s.grants none none [lineOf q.key] then
          some (((t.commitBytes q.key b).noteDual q.stamp q.live q.key).answer q old r.2)
        else none
      | none => some (t.answer q old r.2)

/-- The service slots in which owners' activations run, in order of core and slot. -/
def State.ownerSlots (s : State) : List (Nat × Nat) :=
  s.cores.flatMap (fun p => (p.2.slots.filter (fun q => slotClass q.1 == 1 && q.2.act.any (fun a => a.owner.isSome))).map (fun q => (p.1, q.1)))

/-- The service activation of an owner does its work and ends (R220), after the fetch of its handler: a fault there escalates, which
answers the requester (R323). -/
def State.ownerTurn (s : State) (c i : Nat) : Host.Outcome State Fault Refusal :=
  match (s.slot c i).act.bind (·.owner) with
  | none => .next s
  | some q =>
    match s.fetchHead c i with
    | .stop f => .fault f
    | .stay t => .next t
    | .go t _ =>
      match t.workOwner q with
      | some t => .next ((t.freeSlot c i).modCore c Core.wakeWaiti)
      | none => .next s

/-- The locations an owner request names. -/
def OwnerReq.keys (q : OwnerReq) : List Nat :=
  match q.op with
  | .scata _ lanes => lanes.map (·.1)
  | _ => [q.key]

/-- A peer device's owner works the i-th request on its way there (R220), which a die without its hub link cannot send (R354); one to an
unreachable peer is dropped and counted, and faults its requester (R355, log 30). -/
def State.peerOwner (s : State) (i : Nat) : State :=
  match (s.net.filter Message.toPeer)[i]? with
  | none => s
  | some m =>
    if m.owner.any (fun q => s.hubCut q.core) then s else
    let lost := m.owner.bind (fun q => (q.keys.find? s.peerGone).map (fun k =>
      (s.ownerFault q Code.physical k).loseWrites (k / 2 ^ 48 - 1) q.keys.length))
    match lost.or (m.owner.bind s.workOwner) with
    | some t => { t with net := t.net.filter (fun x => x.fromSlot != m.fromSlot) }
    | none => s

/-- OWNER_REQUEST: the owner activation in the i-th of the slots that hold one works its request; beyond them, a peer's owner. -/
def execOwnerRequest (i : Nat) (s : State) : Host.Outcome State Fault Refusal :=
  match s.ownerSlots[i]? with
  | some p => s.ownerTurn p.1 p.2
  | none => .next (s.peerOwner (i - s.ownerSlots.length))

/-- AMO_REPLY: the i-th reply reaches the waiting slot; its flags are ORed into FPST (R221). -/
def execAmoReply (i : Nat) (s : State) : Host.Outcome State Fault Refusal :=
  .next (
    match s.replies[i]? with
    | none => s
    | some r =>
      let s := { s with replies := s.replies.take i ++ s.replies.drop (i + 1) }
      let x := s.slot r.core r.slot
      if x.act.any (fun a => a.id == r.act) ∧ x.phase = .wait .reply then
        s.setSlot r.core r.slot (
          { x with regs := { x.regs with fpst := x.regs.fpst ||| r.flags } }.reply (r.old.map (bytesBv 512)))
      else s)

/-! Streams and strips (R201, R217, R281). -/

/-- The next address to fetch for a queue and its length; none where nothing is left or 8 entries stand. -/
def Queue.nextFetch (x : Queue) : Option (W64 × Nat) :=
  let n := x.fetched.length
  if 8 ≤ n ∨ x.count ≤ n then none
  else
    match x.bind with
    | .stream false p pos => some (p.addr (pos + n), p.w)
    | .rows _ st => (st[n]?).map (fun e => (e.va, e.len))
    | _ => none

/-- Where an address of a fetch for a slot lies, or why it fails. -/
def State.fetchKey (s : State) (c i : Nat) (va : W64) : State × Except Nat Nat :=
  let x := s.slot c i
  if va.toNat < tcmSize c then (s, .ok (tcmKey c va.toNat)) else s.engineXlate c x.asid x.side .load va

/-- What a fetch of n bytes records: the strips of a gather may cross a page. -/
def State.fetchItem (s : State) (c i : Nat) (stream : Bool) (va : W64) (n : Nat) : State × Fetched :=
  if stream ∧ va.toNat % n ≠ 0 then (s, .fail codeMisaligned)
  else
    match s.fetchKey c i va with
    | (s, .error x) => (s, .fail x)
    | (s, .ok k) =>
      let room := 4096 - va.toNat % 4096
      if n ≤ room then (s, .ok k)
      else
        match s.fetchKey c i (va + BitVec.ofNat 64 room) with
        | (s, .error x) => (s, .fail x)
        | (s, .ok k2) => (s, .two k room k2)

/-- A fetched element joins a copy of the queue that awaits it and has a place (R196): a copy of the chunk's start may still hold what
the chunk has popped. -/
def Regs.joinFetch (r : Regs) (q : Fin 16) (next : W64 × Nat) (f : Fetched) : Regs :=
  let x := r.q[q]
  let due := match x.bind with
    | .stream false p pos => (p.addr (pos + x.fetched.length), p.w)
    | .rows _ st =>
      match st[x.fetched.length]? with
      | some e => (e.va, e.len)
      | none => (0, 0)
    | _ => (0, 0)
  if due = next ∧ x.fetched.length < 8 then r.writeQ q { x with fetched := x.fetched ++ [f] } else r

/-- Fetches the next element of a queue. -/
def State.fetchNext (s : State) (c i : Nat) (q : Fin 16) : State :=
  let x := (s.slot c i).regs.q[q]
  match x.nextFetch with
  | none => s
  | some e =>
    let r := s.fetchItem c i (x.kind == 3) e.1 e.2
    r.1.modSlot c i (fun y => y.everywhere (fun g => g.joinFetch q e r.2))

/-- STREAM_FETCH: an element of a read stream or a KV row. -/
def execStreamFetch (core slot : Nat) (q : Fin 16) (s : State) : Host.Outcome State Fault Refusal :=
  let k := ((s.slot core slot).regs.q[q]).kind
  .next (if k = 3 ∨ k = 6 then s.fetchNext core slot q else s)

/-- GATHQ_STRIP: a strip of a gathered row arrives, unless an acquire FENCE holds it (R239). -/
def execGathqStrip (core slot : Nat) (q : Fin 16) (s : State) : Host.Outcome State Fault Refusal :=
  let k := ((s.slot core slot).regs.q[q]).kind
  .next (if k = 7 ∧ !s.stripFenced core slot q then s.fetchNext core slot q else s)

/-! Barriers (R241). -/

def Group.homeOf (g : Group) (side : Side) : Home := if side = .mirror then g.mirror else g.own

def Group.setHome (g : Group) (side : Side) (h : Home) : Group :=
  if side = .mirror then { g with mirror := h } else { g with own := h }

/-- Changes a group of an address space. -/
def State.modGroup (s : State) (a : Asid) (g : BitVec 8) (f : Group → Group) : State :=
  match s.group a g with
  | none => s
  | some x =>
    let sp := s.space a
    { s with spaces := s.spaces.put a.toNat { sp with groups := sp.groups.put g.toNat (f x) } }

/-- Changes the barrier record of an activation. -/
def State.modBar (s : State) (c i act : Nat) (g : BitVec 8) (f : Barrier → Barrier) : State :=
  let h (l : List Barrier) : List Barrier := l.map (fun b => if b.group = g then f b else b)
  s.modAct c i act (fun x => { x with bars := h x.bars }) (fun v => { v with bars := h v.bars })

/-- A full count releases the generation to every member; the held arrivals count in the next. -/
def State.release (s : State) (a : Asid) (gid : BitVec 8) (side : Side) (g : Group) : Nat → State
  | 0 => s
  | fuel + 1 =>
    let h := g.homeOf side
    if h.arrived.length < g.members.length then s
    else
      let g := g.setHome side { gen := h.gen + 1, arrived := h.next, next := [] }
      let rs := g.members.map (fun m =>
        { core := if side = .mirror then Id.mirrorOf m.toNat else m.toNat, asid := a, group := gid, side := side,
          gen := h.gen : Release })
      let s := { s with releases := s.releases ++ rs }
      (s.modGroup a gid (fun _ => g)).release a gid side g fuel

/-- A later arrival of the slot in the group is on its way: the slot's record is of that one. -/
def Arrival.again (r : Arrival) (l : List Arrival) : Bool :=
  l.any (fun x => x.core == r.core && x.slot == r.slot && x.act == r.act && x.group == r.group)

/-- The generation an arrival joins, which is not released yet (R241). -/
def State.joinGen (s : State) (r : Arrival) (again : Bool) (gen : BitVec 32) : State :=
  if again then s else s.modBar r.core r.slot r.act r.group (fun b => { b with gen := some gen, released := false })

/-- The i-th arrival reaches its home, once the slot's host and peer writes are acknowledged; a core that has arrived already
counts in the next generation. -/
def State.barArrive (s : State) (i : Nat) : State :=
  match s.arrivals[i]? with
  | none => s
  | some r =>
    if s.stands r.core r.slot r.act && (s.slot r.core r.slot).ext != [] then s
    else
      match s.group r.asid r.group with
      | none => { s with arrivals := s.arrivals.take i ++ s.arrivals.drop (i + 1) }
      | some g =>
        let h := g.homeOf r.side
        if h.arrived.contains r.core ∧ h.next.contains r.core then s
        else
          let again := r.again (s.arrivals.drop (i + 1))
          let s := { s with arrivals := s.arrivals.take i ++ s.arrivals.drop (i + 1) }
          if h.arrived.contains r.core then
            let s := s.joinGen r again (h.gen + 1)
            s.modGroup r.asid r.group (fun g => g.setHome r.side { h with next := r.core :: h.next })
          else
            let g := g.setHome r.side { h with arrived := r.core :: h.arrived }
            let s := s.joinGen r again h.gen
            (s.modGroup r.asid r.group (fun _ => g)).release r.asid r.group r.side g 2

def execGbarArrival (i : Nat) (s : State) : Host.Outcome State Fault Refusal := .next (s.barArrive i)

/-- A release frees the records of its generation. -/
def Release.frees (r : Release) (a : Act) : Bool := a.stamp.asid == r.asid && (a.stamp.side == .mirror) == (r.side == .mirror)

def Release.mark (r : Release) (l : List Barrier) : List Barrier :=
  l.map (fun b => if b.group = r.group ∧ b.gen = some r.gen then { b with released := true } else b)

/-- GBAR_RELEASE: the i-th release reaches its core. -/
def execGbarRelease (i : Nat) (s : State) : Host.Outcome State Fault Refusal :=
  .next (
    match s.releases[i]? with
    | none => s
    | some r =>
      let s := { s with releases := s.releases.take i ++ s.releases.drop (i + 1) }
      let s := s.modCore r.core (fun k => { k with slots := k.slots.map (fun p =>
        (p.1, if p.2.act.any r.frees then { p.2 with bars := r.mark p.2.bars }.passBarrier else p.2)) })
      { s with graphs := s.graphs.map (fun p =>
        (p.1, { p.2 with saved := p.2.saved.map (fun v =>
          if v.core = r.core ∧ r.frees v.act then { v with bars := r.mark v.bars } else v) })) })

/-! Walks and removals (R188-R192; 05 R126). -/

/-- WALK_COMPLETE: the i-th walk of a core ends and fills its home and the core's L1, unless a removal has named its page since it
began (R188, R191). -/
def execWalkComplete (core : Nat) (i : Nat) (s : State) : Host.Outcome State Fault Refusal :=
  .next (
    match (s.core core).walks[i]? with
    | none => s
    | some w =>
      if w.result ≠ .pending then s
      else
        let r := s.walked w.asid w.va
        let s := r.1.modCore core (fun k => { k with walks := k.walks.set i { w with result := r.2 } })
        match r.2 with
        | .page e => if w.removed.any (fun g => e.hits w.asid g.1.toNat g.2.toNat) then s else s.fill core e
        | _ => s)

/-- The fills of walks under way in a removed range are discarded (R191); a page that a finished walk found there is not used. -/
def Core.discardFills (k : Core) (r : Removal) : Core :=
  { k with walks := (k.walks.filter (fun w =>
      match w.result with
      | .page e => !e.hits r.asid r.lo.toNat r.hi.toNat
      | _ => true)).map (fun w =>
    if w.asid = r.asid ∧ w.result = .pending then { w with removed := (r.lo, r.hi) :: w.removed } else w) }

/-- A core removes what a broadcast names. -/
def Core.remove (k : Core) (r : Removal) : Core :=
  if r.heddle then { k with heddle := k.heddle.filter (fun e => !e.within r.asid r.lo r.hi) }
  else { k with tlb := k.tlb.filter (fun e => !e.hits r.asid r.lo.toNat r.hi.toNat) }.discardFills r

/-- The slices of a die remove their entries, and with them what the die's L1s took from those slices meanwhile (R192). -/
def State.removeSlices (s : State) (d : Nat) (r : Removal) : State :=
  { s with
    l2 := s.l2.put d ((s.l2.get d []).filter (fun e => !e.hits r.asid r.lo.toNat r.hi.toNat))
    cores := s.cores.map (fun p => (p.1, if Id.die p.1 = d then p.2.remove r else p.2)) }

/-- INVALIDATION_COMPLETE: a place makes the i-th removal and acknowledges it, the L2s after every L1 (R191); without a place,
the broadcast ends once every place has. -/
def execInvalidationComplete (i : Nat) (part : Option Nat) (s : State) : Host.Outcome State Fault Refusal :=
  .next (
    match s.broadcasts[i]? with
    | none => s
    | some b =>
      let all := s.removalPlaces b.removal
      match part with
      | none =>
        if all.all (fun p => b.reached.contains p) then
          { s with broadcasts := s.broadcasts.take i ++ s.broadcasts.drop (i + 1) }
        else s
      | some p =>
        let ready := p < 100000 ∨ (all.filter (fun q => decide (q < 100000))).all (fun q => b.reached.contains q)
        if !all.contains p ∨ b.reached.contains p ∨ ¬ ready then s
        else
          let s := { s with broadcasts := s.broadcasts.set i { b with reached := p :: b.reached } }
          if 100000 ≤ p then s.removeSlices (p - 100000) b.removal else s.modCore p (fun k => k.remove b.removal))

end Sys2Proof.Machine
end

