-- ==== Sys2Proof/Machine/MatrixFmt.lean ====
section
/-! DEFINITION. What the matrix unit computes with: operand formats (13_matrix_unit R253-R255), CX8 blocks (07 R141, R142),
the sum of a K-group (07 R146), and the decomposition record (13 R267, R271). -/

namespace Sys2Proof.Machine

/-! Formats (R253). -/

/-- A float element format of FMTA's and FMTB's codes; INT8 (7) has none. -/
def mxElem (code : Nat) : Option FFmt :=
  match code with
  | 1 => some FFmt.fp16
  | 2 => some FFmt.bf16
  | 3 => some FFmt.e4m3
  | 4 => some FFmt.e5m2
  | 16 => some FFmt.e4m3
  | 17 => some FFmt.e5m2
  | 18 => some FFmt.e2m1
  | 19 => some FFmt.e4m3
  | _ => none

/-- The code is assigned. -/
def fmtKnown (code : Nat) : Bool := code == 7 || (mxElem code).isSome

def isMx (code : Nat) : Bool := code == 16 || code == 17 || code == 18

/-- The K-group of a format. -/
def groupOf (code : Nat) : Nat := if code ≤ 2 then 8 else if code = 18 then 64 else 16

/-- Bits of an element as stored; for CX8 those of the decoded element. -/
def elemBits (code : Nat) : Nat := if code ≤ 2 then 16 else if code = 18 then 4 else 8

/-- Two formats pair. -/
def fmtPair (a b : Nat) : Bool :=
  if a = 7 then b == 7 else if isMx a then isMx b else b != 7 && !isMx b

/-- The K-group of a command: the smaller of the two. -/
def cmdGroup (a b : Nat) : Nat := if groupOf a ≤ groupOf b then groupOf a else groupOf b

/-- FMT and PITCH of a format register. -/
def fmtCode (f : W64) : Nat := fld f 0 8
def fmtPitch (f : W64) : Nat := fld f 16 16

/-- PITCH breaks neither R254 nor R255 for K elements. -/
def pitchOk (f : W64) (k : Nat) : Bool :=
  if fmtCode f = 19 then fmtPitch f % 64 == 0
  else fmtPitch f % 32 == 0 && decide (k * elemBits (fmtCode f) ≤ 8 * fmtPitch f)

/-- K suits two formats (R254, R255, R260). -/
def kOk (fa fb k : Nat) : Bool :=
  k % cmdGroup fa fb == 0 && (!(isMx fa || isMx fb) || k % 32 == 0) && (!(fa == 19 || fb == 19) || k % 64 == 0)

/-! CX8 (R141, R142). -/

namespace Cx

/-- One code: d and the bits after it; none where the stream ends. -/
def code (table : Nat) (l : List Bool) : Option (Nat × List Bool) :=
  let raw (l : List Bool) : Option (Nat × List Bool) :=
    match l with
    | a :: b :: c :: d :: r =>
      some ((if a then 1 else 0) + (if b then 2 else 0) + (if c then 4 else 0) + (if d then 8 else 0), r)
    | _ => none
  match table with
  | 0 =>
    match l with
    | false :: r => some (0, r)
    | true :: false :: r => some (1, r)
    | true :: true :: false :: r => some (2, r)
    | true :: true :: true :: false :: r => some (3, r)
    | true :: true :: true :: true :: r => raw r
    | _ => none
  | 1 =>
    match l with
    | false :: false :: r => some (0, r)
    | false :: true :: r => some (1, r)
    | true :: false :: r => some (2, r)
    | true :: true :: r => raw r
    | _ => none
  | 2 => raw l
  | _ =>
    match l with
    | false :: r => some (0, r)
    | true :: r => raw r
    | _ => none

/-- n codes; none where the bits run out. -/
def codes (table : Nat) : Nat → List Bool → Option (List Nat)
  | 0, _ => some []
  | n + 1, l =>
    match code table l with
    | none => none
    | some (d, r) => (codes table n r).map (d :: ·)

def bitsOf (b : List Byte) : List Bool := b.flatMap (fun x => (List.range 8).map (fun i => x.getLsbD i))

/-- A block decoded: `short` where its bytes run out, `bad` where it is malformed. -/
inductive Out where
  | short
  | bad
  | ok (e4m3 : List Nat)
  deriving DecidableEq, Repr

/-- Decodes a block's bytes into 64 E4M3 codes. -/
def block (b : List Byte) : Out :=
  match b with
  | [] => .short
  | h :: r =>
    let emax := h.toNat % 16
    if h.toNat / 64 ≠ 0 then .bad
    else if r.length < 32 then .short
    else
      match codes (h.toNat / 16 % 4) 64 (bitsOf (r.drop 32)) with
      | none => .short
      | some ds =>
        if ds.any (fun d => decide (emax < d)) then .bad
        else .ok (ds.mapIdx (fun i d =>
          let nib := (r.getD (i / 2) 0).toNat / (if i % 2 = 0 then 1 else 16) % 16
          nib / 8 * 128 + (emax - d) * 8 + nib % 8))

end Cx

/-! The sum of a K-group (R146). -/

/-- One product of a group: the values of A and B, with the two scale codes of their blocks (254 together for none). -/
structure Prod where
  a : Val
  b : Val
  scale : Nat
  nan : Bool
  deriving DecidableEq, Repr

namespace Mx

/-- x × 2^k. -/
def shift (x : Val) (k : Int) : Val :=
  match x with
  | .fin s m e => .fin s m (e + k)
  | y => y

/-- The value of one product under its scales. -/
def term (p : Prod) : Val := shift (Val.mul p.a p.b).1 ((p.scale : Int) - 254)

/-- c after a group: the special values in the order of R146, else the exact sum rounded once. -/
def group (c : Nat) (ps : List Prod) : Nat × Flags :=
  let cv := FFmt.fp32.decode c
  let ts := ps.map term
  let all := cv :: ts
  if cv.isNan || ps.any (fun p => p.a.isNan || p.b.isNan || p.nan) then (FFmt.fp32.nanCode, 0)
  else if ps.any (fun p => (p.a.isZero && p.b.isInf) || (p.a.isInf && p.b.isZero)) then (FFmt.fp32.nanCode, Fl.nv)
  else if all.contains (.inf false) && all.contains (.inf true) then (FFmt.fp32.nanCode, Fl.nv)
  else
    match all.find? Val.isInf with
    | some v => ((roundTo FFmt.fp32 .rne false v).1, 0)
    | none => roundTo FFmt.fp32 .rne false (ts.foldl (fun a t => (Val.add .rne a t).1) cv)

/-- The groups of a row in ascending order. -/
def groups (c : Nat) : List (List Prod) → Nat × Flags
  | [] => (c, 0)
  | g :: r =>
    let x := group c g
    let y := groups x.1 r
    (y.1, x.2 ||| y.2)

/-- The INT32 accumulator after INT8 products: every sum wraps (R139, R146). -/
def intSum (c : Nat) (ps : List (Nat × Nat)) : Nat :=
  let s : Int := ps.foldl (fun a p => a + toSigned 8 p.1 * toSigned 8 p.2) (c : Int)
  (s % (2 ^ 32 : Int)).toNat

end Mx

/-! The decomposition record (R267). -/

namespace Rec

/-- N and M of a pattern. -/
def nm (pat : Nat) : Nat × Nat :=
  match pat with
  | 0 => (2, 4)
  | 1 => (1, 4)
  | 2 => (2, 8)
  | _ => (1, 8)

def log2M (pat : Nat) : Nat := if pat ≤ 1 then 2 else 3

/-- Bits of one group's indices. -/
def f (pat : Nat) : Nat := (nm pat).1 * log2M pat

def up32 (n : Nat) : Nat := (n + 31) / 32 * 32

/-- Value bytes of a row of a term. -/
def rv (pat k eb : Nat) : Nat := (nm pat).1 * (k / (nm pat).2) * eb
/-- Index bytes of a row of a term. -/
def rm (pat k : Nat) : Nat := 4 * ((f pat * (k / (nm pat).2) + 31) / 32)
def vb (pat k eb : Nat) : Nat := up32 (16 * rv pat k eb)
def mb (pat k : Nat) : Nat := up32 (16 * rm pat k)
/-- Bytes of one term. -/
def size (pat k eb : Nat) : Nat := vb pat k eb + mb pat k

end Rec

end Sys2Proof.Machine
end

