-- ==== Sys2Proof/Machine/Matrix.lean ====
section
/-! DEFINITION. The matrix instructions at issue (13_matrix_unit R250-R272). -/

namespace Sys2Proof.Machine

/-- Where the matrix instructions run, and their refusal in a service slot before every other check (R260, R272). -/
def matrixSlot : M Unit := do
  computeOnly
  refuseIf (slotClass (← get).cur.slot == 1)

/-- M, N and K of a shape word; none where it is refused (R259, R260). -/
def shapeOf (x : W64) : Option (Nat × Nat × Nat) :=
  let m := fld x 0 5
  let n := fld x 8 5
  let k := fld x 16 11
  if fld x 5 3 ≠ 0 ∨ fld x 13 3 ≠ 0 ∨ fld x 27 37 ≠ 0 ∨ 16 < m ∨ 16 < n ∨ 1024 < k then none else some (m, n, k)

/-- The target breaks neither form of R257. -/
def State.targetFits (s : State) (t : W64) : Bool :=
  if bit t 63 then (s.windowAt s.cur.core (s.stampOf s.cur.core s.cur.slot) t 1024).isSome
  else t.toNat % 64 == 0 && decide (t.toNat + 1024 ≤ 0x6000)

/-- A command's fields before they are known. -/
def MCmd.blank (s : State) : MCmd :=
  { num := 0, issue := s.stamp, core := s.cur.core, slot := s.cur.slot, act := 0, stamp := s.stampOf s.cur.core s.cur.slot, pc := s.regs.pc,
    structured := false, m := 0, n := 0, k := 0, fa := 0, fb := 0, sa := 0, sb := 0, target := 0, a := 0, b := 0,
    terms := 0, pat := 0, nres := 0, after := s.me.acq, afterEng := s.me.acqEng }

/-- The commands of a core that wait to start, in issue order. Those of a space that is pre-empted are to be saved and do not (R272,
R328); returned ones do (log 40). -/
def State.waiting (s : State) (u : MUnit) (c : Nat) : List MCmd :=
  ((s.core c).mq.filter (fun m =>
    !u.running.any (fun r => r.cmd.core == c && r.cmd.act == m.act && r.cmd.num == m.num) && !s.isPreempted m.stamp.asid)).takeWhile
    (fun m => !s.cmdFenced m)

/-- The arbiter visits a core of an octet: the visit may start the commands that wait now, up to the core's weight (R252). -/
def State.visitCore (s : State) (base : Nat) (u : MUnit) (v : Nat) : MUnit :=
  { u with visit := v, taken := ((s.waiting u (base + v)).take (u.weights.getD v 1)).map (·.issue) }

/-- A round begins, with the weights the cores have committed by then (R252). -/
def State.beginRound (s : State) (base : Nat) (u : MUnit) : MUnit :=
  s.visitCore base { u with weights := (List.range 8).map (fun i => fld (s.core (base + i)).mwgt 0 4) } 0

/-- Commands have entered the queues of an octet: where these were all empty in `s`, a round begins (R252). -/
def State.arouse (s t : State) (base : Nat) : State :=
  if (List.range 8).all (fun i => (s.core (base + i)).mq.isEmpty) then
    { t with munits := t.munits.put base (t.beginRound base (t.munit base)) }
  else t

/-- A command takes a place of its core's queue. -/
def State.enqueue (s : State) (c : MCmd) : State :=
  s.arouse (s.modCore c.core (fun k => { k with mq := k.mq ++ [c] })) (octetOf c.core)

/-- An MMA or MMAS of a chunk that executes again takes the command that its earlier attempt issued in its place: it issues nothing and
completes at once, its queue operands popped as before (R251). Any other goes on to its checks. -/
def reissue (srcs : List Reg) (first : M Unit) : M Unit := do
  match (← get).me.chunk with
  | some ch =>
    if ch.matched < ch.issued.length then do
      let _ ← operands srcs none
      modify (fun s => s.modChunk (fun ch => { ch with matched := ch.matched + 1 }))
      done
    else first
  | none => first

/-- Issues a command (R250, R263): it waits for a place (R260), and with MFRX.VALID set, as the unit sees it since its last commit (R95),
it completes at once. -/
def issue (c : MCmd) : M Unit := do
  let s ← get
  let x := s.me
  match x.act, x.chunk with
  | some a, some ch =>
    if 16 ≤ s.myCore.mq.length then throw .hold
    else do
      let n := a.nextCmd
      modify (fun s => s.modMe (fun x =>
        { x with
          act := some { a with nextCmd := n + 1, issuedMatrix := true }
          chunk := some { ch with issued := ch.issued ++ [n], matched := ch.matched + 1 } }))
      if bit x.oldest.mfrx 63 then modify (fun s => s.modMe (fun x => x.everywhere (fun r => r.cancel 1)))
      else modify (fun s => { s with stamp := s.stamp + 1 }.enqueue { c with num := n, act := a.id })
  | _, _ => pure ()
  done

/-- A handle of an operand: flat, within 57 bits, a multiple of `al` (R260). -/
def operandFlat (h : W64) : M Unit := refuseIf (bit h 63)

def operandAligned (h : W64) (al : Nat) : M Unit := if h.toNat % al ≠ 0 then stopTrap Cause.misaligned h else pure ()

/-- The codes and pitches MMA refuses for a K (R253-R255, R260). -/
def Regs.mmaBad (r : Regs) (k : Nat) : Bool :=
  let fa := fmtCode r.fmta
  let fb := fmtCode r.fmtb
  !fmtKnown fa || !fmtKnown fb || !fmtPair fa fb || !kOk fa fb k || !pitchOk r.fmta k || !pitchOk r.fmtb k

/-- Those MMAS refuses: its first operand is a record (R267, R270). -/
def Regs.mmasBad (r : Regs) (k : Nat) : Bool :=
  let fa := fmtCode r.fmta
  let fb := fmtCode r.fmtb
  !(decide (1 ≤ fa) && decide (fa ≤ 4)) || !fmtKnown fb || !fmtPair fa fb || !kOk fa fb k || !pitchOk r.fmtb k

/-- What MMA and MMAS refuse of the operands known before any queue is popped (R71, R260). -/
def refuseCmd (bad : Nat → Bool) (d a b c : Reg) : M Unit := do
  let s ← get
  refuseKnown [d, a, b, c] (fun v => (v d).any (fun x =>
    match shapeOf x with
    | none => true
    | some (m, n, k) => decide (m ≠ 0 ∧ n ≠ 0 ∧ k ≠ 0) &&
      (bad k || (v b).any (bit · 63) || (v c).any (bit · 63) || (v a).any (fun t => !s.targetFits t))))

def execMma (d a b c : Reg) (s : State) := insn (do
  matrixSlot
  okG d
  okG a
  okG b
  okG c
  reissue [d, a, b, c] (do
  refuseCmd (← get).regs.mmaBad d a b c
  let p ← operands [d, a, b, c] none
  match shapeOf (← readG p d) with
  | none => illegalOperand
  | some (m, n, k) => do
    let s ← get
    if m = 0 ∨ n = 0 ∨ k = 0 then issue (MCmd.blank s) else
    let t ← readG p a
    let ha ← readG p b
    let hb ← readG p c
    let r := s.regs
    let fa := fmtCode r.fmta
    let fb := fmtCode r.fmtb
    refuseIf (r.mmaBad k)
    operandFlat ha
    operandFlat hb
    refuseIf (!s.targetFits t)
    flatOk ha
    flatOk hb
    operandAligned ha 32
    operandAligned hb 32
    if fa = 19 then operandAligned r.scla 4 else pure ()
    if fb = 19 then operandAligned r.sclb 4 else pure ()
    issue { MCmd.blank s with
      m := m, n := n, k := k, fa := r.fmta, fb := r.fmtb, sa := r.scla, sb := r.sclb, target := t, a := ha, b := hb })) s

/-- Dword 0 of a record's header holds zero in its zero fields (R267). -/
def headerOk (h : W64) : Bool := fld h 2 6 == 0 && fld h 12 4 == 0 && fld h 27 5 == 0 && fld h 49 15 == 0

def execMmas (d a b c : Reg) (s : State) := insn (do
  matrixSlot
  okG d
  okG a
  okG b
  okG c
  reissue [d, a, b, c] (do
  refuseCmd (← get).regs.mmasBad d a b c
  let p ← operands [d, a, b, c] none
  match shapeOf (← readG p d) with
  | none => illegalOperand
  | some (m, n, k) => do
    let s ← get
    if m = 0 ∨ n = 0 ∨ k = 0 then issue (MCmd.blank s) else
    let t ← readG p a
    let ha ← readG p b
    let hb ← readG p c
    let r := s.regs
    let fa := fmtCode r.fmta
    let fb := fmtCode r.fmtb
    refuseIf (r.mmasBad k)
    operandFlat ha
    operandFlat hb
    refuseIf (!s.targetFits t)
    flatOk ha
    flatOk hb
    operandAligned ha 64
    operandAligned hb 32
    if fb = 19 then operandAligned r.sclb 4 else pure ()
    let hd ← memLoad ha 16
    let h := dwordAt hd 0
    let terms := fld h 8 4
    let nres := fld h 32 16
    let pat := fld h 0 2
    refuseIf (!headerOk h || fld h 16 11 != k ||
      decide (4032 < terms * Rec.size pat k (elemBits fa / 8) + 8 * nres))
    issue { MCmd.blank s with
      structured := true, m := m, n := n, k := k, fa := r.fmta, fb := r.fmtb, sa := r.scla, sb := r.sclb, target := t,
      a := ha, b := hb, terms := terms, pat := pat, nres := nres })) s

/-- MMSYNC (R265). -/
def execMmsync (i : Half) (s : State) := insn (do
  computeOnly
  let s ← get
  if i.toNat < s.outstanding s.cur.core s.cur.slot then throw .hold else
  modify (fun s => s.modRegs (fun r =>
    { r with fpst := r.fpst ||| (r.mstat &&& 0x3F), mstat := r.mstat &&& ~~~ 0x3F }))
  done) s

def execMqstat (d : Reg) (s : State) := insn (do
  computeOnly
  okG d
  let _ ← operands [] (some d)
  let s ← get
  writeG d (BitVec.ofNat 64 (s.outstanding s.cur.core s.cur.slot + (16 - s.myCore.mq.length) * 256 +
    fld s.myCore.mwgt 0 4 * 2 ^ 16 + (if bit s.regs.mfrx 63 then 2 ^ 32 else 0)))
  done) s

/-! SPDEC (R268, R269). -/

/-- n bytes of a flat address as loads of the chunk, a line at a time. -/
def memSpan (va : W64) : Nat → Nat → M (List Byte)
  | 0, _ => pure []
  | fuel + 1, n => do
    if n = 0 then pure [] else
    let room := 64 - va.toNat % 64
    let m := if n ≤ room then n else room
    flatOk va
    let b ← memLoad va m
    let r ← memSpan (va + BitVec.ofNat 64 m) fuel (n - m)
    pure (b ++ r)

namespace Spdec

/-- The rank of a code by magnitude: NaN above ±∞ above finite. -/
def rank (f : FFmt) (c : Nat) : Nat := if (f.decode c).isNan then f.signBit else c % f.signBit

/-- Inserts a position before those of lower rank, after those of equal rank. -/
def insert (f : FFmt) (row : Nat → Nat) (k : Nat) : List Nat → List Nat
  | [] => [k]
  | x :: r => if rank f (row x) < rank f (row k) then k :: x :: r else x :: insert f row k r

/-- Positions by descending magnitude, lower first on ties. -/
def byRank (f : FFmt) (row : Nat → Nat) (l : List Nat) : List Nat := l.foldl (fun a k => insert f row k a) []

/-- One group of a term: its positions in ascending order with the value stored at each, and what remains. -/
def group (f : FFmt) (row : Nat → Nat) (n m g : Nat) (rem : List Nat) : List (Nat × Nat) × List Nat :=
  let mine := rem.filter (fun k => k / m == g)
  let take := (byRank f row mine).take n
  let pad := ((List.range m).map (g * m + ·)).filter (fun k => !take.contains k) |>.take (n - take.length)
  let pos := ((List.range m).map (g * m + ·)).filter (fun k => take.contains k || pad.contains k)
  (pos.map (fun k => (k - g * m, if take.contains k then row k else 0)), rem.filter (fun k => !take.contains k))

/-- A row of a term: its groups in order, and what remains of the row. -/
def rowTerm (f : FFmt) (row : Nat → Nat) (n m : Nat) : Nat → Nat → List Nat → List (List (Nat × Nat)) × List Nat
  | 0, _, rem => ([], rem)
  | c + 1, g, rem =>
    let x := group f row n m g rem
    let y := rowTerm f row n m c (g + 1) x.2
    (x.1 :: y.1, y.2)

/-- The terms (R269): while fewer than LIMIT and something remains in some row. -/
def terms (f : FFmt) (val : Nat → Nat → Nat) (n m groups : Nat) :
    Nat → List (List Nat) → List (List (List (List (Nat × Nat)))) × List (List Nat)
  | 0, rem => ([], rem)
  | fuel + 1, rem =>
    if rem.all (·.isEmpty) then ([], rem)
    else
      let t := rem.mapIdx (fun i r => rowTerm f (val i) n m groups 0 r)
      let y := terms f val n m groups fuel (t.map (·.2))
      (t.map (·.1) :: y.1, y.2)

/-- Bytes padded with zeros to a length. -/
def padTo (n : Nat) (b : List Byte) : List Byte := b ++ List.replicate (n - b.length) 0

/-- A term's value block and index block (R267). -/
def termBytes (pat k eb : Nat) (t : List (List (List (Nat × Nat)))) : List Byte :=
  let lm := Rec.log2M pat
  let f := Rec.f pat
  let vals := t.flatMap (fun row => row.flatMap (fun g => g.flatMap (fun e => natBytes e.2 eb)))
  let idx := t.flatMap (fun row =>
    natBytes ((row.mapIdx (fun g es => (es.mapIdx (fun n e => e.1 * 2 ^ (n * lm))).sum * 2 ^ (f * g))).sum) (Rec.rm pat k))
  padTo (Rec.vb pat k eb) vals ++ padTo (Rec.mb pat k) idx

/-- An element converted exactly to FP32; a NaN keeps its sign and payload (R267). -/
def widen (f : FFmt) (c : Nat) : Nat :=
  match f.decode c with
  | .nan => c / f.signBit % 2 * 2 ^ 31 + 0x7F800000 + c % 2 ^ f.mb * 2 ^ (23 - f.mb)
  | v => (roundTo FFmt.fp32 .rne false v).1

/-- A residual entry's dword. -/
def entry (f : FFmt) (i k c : Nat) : Nat := i + k * 2 ^ 16 + widen f c * 2 ^ 32

/-- What SPDEC computes from the elements: the record's bytes, its header dword 0, DSUM, and whether the residual drops. -/
structure Result where
  bytes : List Byte
  header : W64
  dsum : Nat
  drop : Bool

def run (f : FFmt) (pat limit k bound : Nat) (val : Nat → Nat → Nat) : Result :=
  let nm := Rec.nm pat
  let eb := f.width / 8
  let rem0 := (List.range 16).map (fun i => (List.range k).filter (fun c => !(f.decode (val i c)).isZero))
  let r := terms f val nm.1 nm.2 (k / nm.2) limit rem0
  let res := (r.2.mapIdx (fun i l => l.map (fun c => (i, c)))).flatten
  let mags := res.map (fun e => f.decode (val e.1 e.2 % f.signBit))
  let s := if mags.any Val.isNan then Val.nan
    else mags.foldl (fun a v => (Val.add .rne a v).1) (.zero false)
  let bv := FFmt.fp32.decode bound
  let drop := !res.isEmpty && !s.isNan && !bv.isNan && !Val.lt bv s
  let dsum := (roundTo FFmt.fp32 .rne false s).1
  let nres := if drop then 0 else res.length
  let h := pat + r.1.length * 2 ^ 8 + k * 2 ^ 16 + nres * 2 ^ 32 + (if drop then 2 ^ 48 else 0)
  let body := r.1.flatMap (termBytes pat k eb)
  let es := if drop then [] else res.flatMap (fun e => natBytes (entry f e.1 e.2 (val e.1 e.2)) 8)
  { bytes := natBytes h 8 ++ natBytes (dsum + bound * 2 ^ 32) 8 ++ List.replicate 48 0 ++ body ++ es
    header := BitVec.ofNat 64 h
    dsum := dsum
    drop := drop }

end Spdec

/-- The record's lines as the parts of one store (R269). In the data entry of a failing last line that the record does not fill, zeros
follow its bytes (log 129). -/
def recordParts (h : W64) (b : List Byte) : List Nat → M (List Part)
  | [] => pure []
  | i :: r => do
    let va := h + BitVec.ofNat 64 (64 * i)
    flatOk va
    let p ← storePart i va ((b.drop (64 * i)).take 64)
    let t ← recordParts h b r
    pure (p :: t)

/-- The code of a pattern in X (R268). -/
def patCode (p : SpPat) : Nat :=
  match p with
  | .p2x4 => 0
  | .p1x4 => 1
  | .p2x8 => 2
  | .p1x8 => 3

def execSpdec (pt : SpPat) (d a b c : Reg) (s : State) := insn (do
  matrixSlot
  okG d
  okG a
  okG b
  okG c
  let r := (← get).regs
  let code := fmtCode r.fmta
  let pat := patCode pt
  let eb := elemBits code / 8
  let bad (w : W64) : Bool :=
    let k := fld w 4 11
    fld w 15 17 != 0 || k == 0 || decide (1024 < k) || k % (Rec.nm pat).2 != 0 || decide (fmtPitch r.fmta < k * eb)
  refuseIf (!(decide (1 ≤ code) && decide (code ≤ 4)))
  refuseKnown [a, b, c] (fun v => (v a).any (bit · 63) || (v b).any (bit · 63) || (v c).any bad)
  let p ← operands [a, b, c] (some d)
  let ha ← readG p a
  let hr ← readG p b
  let w ← readG p c
  let k := fld w 4 11
  refuseIf (bad w || bit ha 63 || bit hr 63)
  if ha.toNat % eb ≠ 0 then stopTrap Cause.misaligned ha else
  if hr.toNat % 64 ≠ 0 then stopTrap Cause.misaligned hr else
  match mxElem code with
  | none => illegalOperand
  | some f => do
    let rows ← (List.range 16).mapM (fun i =>
      memSpan (ha + BitVec.ofNat 64 (i * fmtPitch r.fmta)) (k * eb) (k * eb))
    let val (i j : Nat) : Nat := bytesNat (((rows.getD i []).drop (j * eb)).take eb)
    let o := Spdec.run f pat (fld w 0 4) k (fld w 32 32) val
    refuseIf (decide (4096 < o.bytes.length))
    let parts ← recordParts hr o.bytes (List.range ((o.bytes.length + 63) / 64))
    putStore { pc := r.pc, src := 5, size := 0, wide := 2, parts := parts, adds := none, checked := false } hr
    writeG d o.header
    if o.drop then
      modify (fun s => s.modRegs (fun r => { r with mdrop := BitVec.ofNat 64 o.dsum, mstat := r.mstat ||| 0x100 }))
    else pure ()
    done) s

end Sys2Proof.Machine
end

