-- ==== Sys2Proof/Machine/Preempt.lean ====
section
/-! DEFINITION. Pre-emption and resume (18_traps_and_preemption R328-R331; 02 R45, R50, R177; 10 R202; 13 R272). -/

namespace Sys2Proof.Machine

/-! GSTAT.STATE (R45, R328, R330). -/

/-- STATE of a graph: an idle graph that is pre-empted is in state 3 at once. -/
def Graph.state (y : Graph) : Nat :=
  if !y.resident then 0
  else
    match y.pre with
    | .stopped => 3
    | .stopping => if y.running.isSome then 2 else 3
    | .resuming => 2
    | .none => if y.running.isSome then 2 else 1

/-- Sets where every graph of an address space stands in a pre-emption (R177). -/
def State.setPre (s : State) (a : Asid) (p : PreState) : State :=
  (s.graphsOf a).foldl (fun s g => s.modGraph g (fun y => { y with pre := p })) s

/-! PREEMPT (R328). -/

/-- A core's pending messages of an address space move to its die's parking area in their order; what finds no place is
dropped there (R50). Requests to its owner cores go on: a waiting AMO gets its reply before its slot halts (R221). -/
def State.parkInbox (s : State) (a : Asid) (c : Nat) : State :=
  let d := Id.die c
  let ours (p : Pending) : Bool := p.msg.stamp.asid == a && p.msg.owner.isNone
  let mine := (s.core c).inbox.filter ours
  if mine.isEmpty then s
  else
    let s := s.modCore c (fun k => { k with inbox := k.inbox.filter (fun p => !ours p) })
    let l := s.parked.get d []
    let room := s.parkPlaces.get d 0 - l.length
    let s := { s with parked := s.parked.put d (mine.take room ++ l) }
    (mine.drop room).foldl (fun s p => s.dropFull p.msg) s

/-- A write of PREEMPT. -/
def State.preempt (s : State) (g : Nat) : State :=
  let y := s.graph g
  if !y.resident || y.pre == .stopping || y.pre == .stopped then s
  else if !bit y.gsave 0 then s.modGraph g (fun y => { y with err := 8 })
  else
    let s := s.setPre y.asid .stopping
    (s.cores.map (·.1)).foldl (fun s c => s.parkInbox y.asid c) s

/-- A resume is over when no context is saved any more. -/
def State.settlePre (s : State) (a : Asid) : State :=
  if (s.graphsOf a).all (fun g => (s.graph g).saved.isEmpty) then s.setPre a .none else s

/-- Resumes with no context left to restore are over, their last ones ended meanwhile (R330, R331). -/
def State.settleResumes (s : State) : State :=
  (s.graphs.filter (fun g => g.2.pre == .resuming)).foldl (fun s g => s.settlePre g.2.asid) s

def execPreempt (graph : Nat) (s : State) : Host.Outcome State Fault Refusal := .next (s.preempt graph)

/-! RESUME (R330). -/

/-- A slot that halted in its wait goes on waiting, with MWAIT's spurious-pending flag set. -/
def Slot.unhalt (x : Slot) (before : Option Wait) : Slot :=
  let x : Slot := { x with act := x.act.map (fun (a : Act) => { a with spurious := true }) }
  match before with
  | some w => ({ x with phase := .wait w } : Slot).passBarrier
  | none => { x with phase := .run }

/-- The halted slots of an address space go on where no context has been saved yet: the graph was idle and its pre-emption
has not completed. -/
def State.unhaltAll (s : State) (a : Asid) : State :=
  s.cores.foldl (fun s p => p.2.slots.foldl (fun s q =>
    match q.2.phase with
    | .halted w =>
      if q.2.act.any (fun b => b.stamp.asid == a) then (s.modSlot p.1 q.1 (fun x => x.unhalt w)).pollMwait p.1 q.1 else s
    | _ => s) s) s

/-- A saved command returns to the head of its core's queue, in order among those of its address space (R272). -/
def insertCmd (m : MCmd) : List MCmd → List MCmd
  | [] => [m]
  | x :: r => if x.stamp.asid ≠ m.stamp.asid ∨ m.issue < x.issue then m :: x :: r else x :: insertCmd m r

/-- Saved commands return; an octet whose queues were all empty begins a round (R252). -/
def State.returnCmds (s : State) (l : List MCmd) : State :=
  l.foldl (fun t m => s.arouse t (octetOf m.core)) (l.foldl (fun s m => s.modCore m.core (fun k => { k with mq := insertCmd m k.mq })) s)

/-- The saved commands of ended activations of an address space return when it resumes. -/
def State.returnEnded (s : State) (a : Asid) : State :=
  (s.graphsOf a).foldl (fun s g => (s.returnCmds (s.graph g).cmds).modGraph g (fun y => { y with cmds := [] })) s

/-- A write of RESUME, in state 3 alone. -/
def State.resume (s : State) (g : Nat) : State :=
  let y := s.graph g
  if y.state ≠ 3 then s
  else ((((s.setPre y.asid .resuming).unhaltAll y.asid).returnEnded y.asid).settlePre y.asid).beginRetrains

def execResume (graph : Nat) (s : State) : Host.Outcome State Fault Refusal := .next (s.resume graph)

/-! Save records (R329). -/

/-- Where the save record of a worker slot lies, for the BASE of a GSAVE. -/
def saveKey (base c i : Nat) : Nat :=
  if Id.kind c = 1 then
    Id.stack c * 2 ^ 36 + base * 2 ^ 28 + 160 * 2 ^ 20 + (5 * Id.index c + i) * 0x4000
  else 2 * Id.die c * 2 ^ 36 + base * 2 ^ 28 + (5 * (Id.cluster c * 64 + Id.index c) + i) * 0x4000

/-- n bytes whose layout is the hardware's own, each a free value (log 4). -/
def freeBytes (from_ : Nat) (n : Nat) : List Byte := (List.range n).map (fun j => (Config.freeWord (from_ + j)).setWidth 8)

/-- The dwords of a saved context in the order of R329. -/
def savedWords (s : State) (r : Regs) (a : Act) (sfqstat : W64) (x : Slot) : List W64 :=
  let pend := (if r.sfq = [] || r.inHandler then 0 else 1) + (if x.matrix = [] then 0 else 2) + (if x.engine = [] then 0 else 4)
  let key : W64 × W64 := match a.task with
    | some t => (t.key.ts, BitVec.ofNat 64 (t.key.spawner.toNat + t.key.seq.toNat * 2 ^ 16))
    | none => (0, 0)
  [r.pc, s.tstat, r.tpc, r.tcause, r.tval, r.tvec, r.lxmiss, r.lxstat, r.fpst, r.fmta, r.fmtb, r.scla, r.sclb, s.mstat,
   r.mfr, r.mfrx, r.mdrop, r.gfault, r.shpat, r.cpydone, r.batch, r.sigcfg, r.sigacc, sfqstat,
   BitVec.ofNat 64 (a.stamp.group.toNat + a.stamp.lpri.toNat * 256 + a.typ.toNat * 2 ^ 16 + pend * 2 ^ 24),
   a.stamp.lseq.setWidth 64,
   BitVec.ofNat 64 (a.stamp.node.toNat + a.stamp.tx.toNat * 2 ^ 16 + a.stamp.ty.toNat * 2 ^ 32 + a.stamp.tz.toNat * 2 ^ 48),
   key.1, key.2, BitVec.ofNat 64 a.nextCmd, 0, 0]

def wordBytes (l : List W64) : List Byte := l.flatMap (fun w => bvBytes w 8)

/-- Bytes of a popped entry as they lie now, zero beyond them. -/
def State.entryBytes (s : State) (k n : Nat) : List Byte :=
  if s.badRange k n then [] else Memory.readN s.mem k n

/-- The entries of a queue as the record holds them: those pushed, and of those fetched the bytes a pop would deliver now; where one has
none, free values (log 4). -/
def State.entriesOf (s : State) (q : Queue) (from_ : Nat) : List Byte :=
  let at_ (i : Nat) : Nat :=
    match q.bind with
    | .stream _ p _ => p.w
    | .rows _ l => (l.map (·.len)).getD i 0
    | _ => 0
  q.entries.flatMap (fun w => bvBytes w 64) ++ (q.fetched.take (8 - q.entries.length)).zipIdx.flatMap (fun e =>
    let b := match e.1 with
      | .ok k => s.entryBytes k (at_ e.2)
      | .two k n k2 => s.entryBytes k n ++ s.entryBytes k2 (at_ e.2 - n)
      | .fail _ => []
    if b.length < at_ e.2 || b = [] then freeBytes (from_ + 64 * e.2) 64 else b ++ List.replicate (64 - b.length) 0)

/-- The parts of a save record, each an offset and its bytes; `from_` counts the free values used. -/
def saveParts (s : State) (x : Slot) (a : Act) (from_ : Nat) : List (Nat × List Byte) :=
  let r := x.regs
  let v (l : List V512) : List Byte := l.flatMap (fun w => bvBytes w 64)
  let faults := (x.engine.take 4).flatMap (fun f => wordBytes [f.tval, f.k0, f.k1])
  [(0x0000, wordBytes ((List.finRange 32).map r.readG)), (0x0100, wordBytes ((List.finRange 8).map r.readM)),
   (0x0140, wordBytes r.k.toList), (0x0180, wordBytes (savedWords s r a x.sfqstat x)),
   (0x0280, v r.sfq ++ freeBytes from_ (512 - 64 * r.sfq.length)), (0x0480, freeBytes (from_ + 512) 1024)] ++
  (r.q.toList.zipIdx.map (fun p =>
    (0x0880 + 512 * p.2, s.entriesOf p.1 (from_ + 2048 + 512 * p.2)))) ++
  [(0x2880, v r.v.toList), (0x3080, freeBytes (from_ + 0x4000) (160 * r.held.length)), (0x3A80, freeBytes (from_ + 0x5000) 1024),
   (0x3E80, freeBytes (from_ + 0x6000) 128), (0x3F00, faults ++ List.replicate (96 - faults.length) 0),
   (0x3F60, List.replicate 160 0)]

/-- Writes a record. -/
def State.writeRecord (s : State) (base c i : Nat) (a : Act) : State :=
  let t := { s with cur := { s.cur with core := c, slot := i } }
  let s := (saveParts t (s.slot c i) a s.fresh).foldl (fun s p => s.commitBytes (saveKey base c i + p.1) p.2) s
  { s with fresh := s.fresh + 0x8000 }

/-! PREEMPTION_COMPLETE (R328). -/

/-- The worker slots of an address space that hold an activation, as core and slot. -/
def State.workersOf (s : State) (a : Asid) : List (Nat × Nat) :=
  s.cores.flatMap (fun p => (p.2.slots.filter (fun q =>
    slotClass q.1 == 0 && q.2.act.any (fun b => b.stamp.asid == a))).map (fun q => (p.1, q.1)))

/-- Every worker slot has halted, every service activation has finished and every started command has completed. -/
def State.allHalted (s : State) (a : Asid) : Bool :=
  s.cores.all (fun p => p.2.slots.all (fun q =>
    match q.2.act with
    | none => true
    | some b => b.stamp.asid != a || (match slotClass q.1, q.2.phase with
        | 0, .halted _ => true
        | 2, _ => true
        | _, _ => false))) &&
    s.munits.all (fun u => u.2.running.all (fun r => r.cmd.stamp.asid != a))

/-- Saves the context of a halted slot with its graph and frees the slot. -/
def State.saveContext (s : State) (g c i : Nat) : State :=
  let x := s.slot c i
  match x.act, x.phase with
  | some a, .halted w =>
    let k := s.core c
    let v : Saved :=
      { core := c, slot := i, regs := x.regs, act := a, wait := w, bars := x.bars, engine := x.engine, matrix := x.matrix,
        attempt := x.attempt, under := x.under, seen := x.fetch.seen, acq := x.acq, acqEng := x.acqEng, acqOld := x.acqOld,
        cmds := k.mq.filter (fun m => m.act == a.id),
        watches := k.watches.filter (fun y => y.slot == i) }
    let s := s.writeRecord (fld (s.graph g).gsave 28 8) c i a
    let s := s.modGraph g (fun y => { y with saved := y.saved ++ [v] })
    let s := s.modCore c (fun k =>
      { k with
        mq := k.mq.filter (fun m => m.act != a.id)
        watches := k.watches.filter (fun y => y.slot != i)
        walks := k.walks.filter (fun y => y.slot != i) })
    let s := s.modSlot c i (fun x => { Slot.free with ext := x.ext })
    { s with tasks := s.tasks.map (fun (t : TaskEntry) => if t.running = some (c, i) then { t with running := some (c, 97) } else t) }
  | _, _ => s

/-- The commands of an address space that have not started and whose activations have ended are saved with the graph (R328). -/
def State.saveCmds (s : State) (g : Nat) (a : Asid) : State :=
  let ours (m : MCmd) : Bool := m.stamp.asid == a
  let s := s.modGraph g (fun y => { y with cmds := y.cmds ++ s.cores.flatMap (fun p => p.2.mq.filter ours) })
  { s with cores := s.cores.map (fun p => (p.1, { p.2 with mq := p.2.mq.filter (fun m => !ours m) })) }

def execPreemptionComplete (graph : Nat) (s : State) : Host.Outcome State Fault Refusal :=
  let y := s.graph graph
  .next (
    if y.resident ∧ y.pre = .stopping ∧ bit y.gsave 0 ∧ s.allHalted y.asid then
      let s := ((s.workersOf y.asid).foldl (fun s p => s.saveContext graph p.1 p.2) s).saveCmds graph y.asid
      (s.setPre y.asid .stopped).beginRetrains
    else s)

/-! CONTEXT_RESTORE (R330). -/

/-- Arms the watches of a restored slot again, fired ones fired. -/
def State.rearm (s : State) (c i : Nat) (l : List Watch) : State :=
  l.foldl (fun s w =>
    let r := s.arm c i w.line
    if w.fired then r.1.modCore c (fun k => { k with watches := k.watches.map (fun y =>
      if y.index = r.2 then { y with fired := true } else y) }) else r.1) s

/-- A queue whose entries are fetched as a read stream: a read stream's elements and the rows of KVSCAN (R201, R281). -/
def Queue.refetches (q : Queue) : Bool := q.kind == 3 || q.kind == 6

/-- The registers of a restored context: a read stream refetches from its first unpopped element (R202); the strips of GATHQ that have
arrived stand. -/
def Regs.refetch (r : Regs) : Regs := { r with q := r.q.map (fun q => if q.refetches then { q with fetched := [] } else q) }

/-- Restores a saved context into the slot it left. -/
def State.restore (s : State) (v : Saved) : State :=
  let c := v.core
  let i := v.slot
  let s := s.modSlot c i (fun x =>
    { Slot.free with
      ext := x.ext, fetch := { Slot.free.fetch with seen := v.seen }, regs := v.regs.refetch, act := some v.act, bars := v.bars, engine := v.engine, matrix := v.matrix,
      attempt := v.attempt, under := v.under, acq := v.acq, acqEng := v.acqEng,
      acqOld := v.acqOld })
  let s := s.modSlot c i (fun x => x.unhalt v.wait)
  let s := s.returnCmds v.cmds
  let s := s.rearm c i v.watches
  let s := match v.act.task with
    | some t => { s with tasks := s.tasks.map (fun (e : TaskEntry) =>
        if e.key = t.key ∧ e.stamp.asid = v.act.stamp.asid then { e with running := some (c, i) } else e) }
    | none => s
  s.pollMwait c i

/-- CONTEXT_RESTORE: the saved context of a free slot, if its graph resumes. A failing compute core waits for its spare (R335). -/
def execContextRestore (s : State) : Host.Outcome State Fault Refusal :=
  let c := s.cur.core
  let i := s.cur.slot
  let here (v : Saved) : Bool := v.core == c && v.slot == i
  .next (
    if (s.slot c i).act.isSome || s.closed c then s
    else
      match s.graphs.find? (fun g => g.2.pre == .resuming && g.2.saved.any here) with
      | none => s
      | some (g, y) =>
        match y.saved.find? here with
        | none => s
        | some v =>
          let s := s.modGraph g (fun y => { y with saved := y.saved.filter (fun w => !here w) })
          (s.restore v).settlePre y.asid)

end Sys2Proof.Machine
end

