-- ==== Sys2Proof/Machine/Kills.lean ====
section
/-! DEFINITION. Kills of a group as they reach cores and complete (18_traps_and_preemption R327, R331; 16 R307). -/

namespace Sys2Proof.Machine

/-- Ends the activations of a core a predicate on stamps selects, in worker and service slots. -/
def State.endAll (s : State) (c : Nat) (p : Stamp → Bool) : State :=
  ((List.range 7).filter (fun i => (s.slot c i).act.any (fun a => p a.stamp))).foldl (fun s i => s.killActivation c i) s

/-- Drops messages of a core's inbox and its messages in the parking area, counted for their graph; a request to an owner is no
message of a program. -/
def State.dropMessages (s : State) (c : Nat) (p : Stamp → Bool) : State :=
  let d := Id.die c
  let gone := ((s.core c).inbox.filter (fun m => p m.msg.stamp)).map (·.msg) ++
    ((s.parked.get d []).filter (fun m => m.msg.dst.toNat == c && p m.msg.stamp)).map (·.msg)
  let s := s.modCore c (fun k => { k with inbox := k.inbox.filter (fun m => !p m.msg.stamp) })
  let s := { s with parked := s.parked.put d ((s.parked.get d []).filter (fun m => !(m.msg.dst.toNat == c && p m.msg.stamp))) }
  (gone.filter (fun m => m.owner.isNone)).foldl (fun s m => (s.dropKey m.stamp.asid m.taskKey).countDropped m.stamp 1) s

/-- Discards saved contexts as it would end running activations (R327, R331), each counted in GKILLS: the far ends of their queues
become CLOSED, their engine requests go, the tasks they run are no more; a resume that has no context left to restore is over. -/
def State.dropSaved (s : State) (hit : Saved → Bool) : State :=
  let gone := s.graphs.flatMap (fun g => g.2.saved.filter hit)
  let s := { s with graphs := s.graphs.map (fun g =>
    (g.1, { g.2 with
      saved := g.2.saved.filter (fun v => !hit v)
      ended := satAdd g.2.ended (g.2.saved.filter hit).length (2 ^ 32 - 1) })) }
  let s := gone.foldl (fun s v =>
    ((s.dropKey v.act.stamp.asid (v.act.task.map (·.key))).closeEnds v.core v.slot v.act.stamp.asid v.regs).dropRequests v.act.id) s
  if gone = [] then s else s.settleResumes

/-- Drops the queued entries of a cluster's tasks (R307). -/
def State.dropQueued (s : State) (cl : Nat) (p : Stamp → Bool) : State :=
  { s with tasks := s.tasks.filter (fun t => !(t.cluster == cl && t.running.isNone && p t.stamp)) }

/-- KILL_DELIVERY: the i-th kill reaches a core: its activations, messages, saved contexts and its cluster's queued tasks of the
group go. -/
def execKillDelivery (i : Nat) (core : Nat) (s : State) : Host.Outcome State Fault Refusal :=
  .next (
    match s.kills[i]? with
    | none => s
    | some k =>
      if k.reached.contains core ∨ !s.provided core then s
      else
        let s := { s with kills := s.kills.set i { k with reached := core :: k.reached } }
        let s := ((s.endAll core k.hits).dropMessages core k.hits).dropSaved (fun v => v.core == core && k.hits v.act.stamp)
        if Id.kind core = 0 then s.dropQueued (Id.clusterNo core) k.hits else s)

/-- The home of a killed group counts no arrivals; its generation stays (R327). -/
def State.zeroHome (s : State) (k : Kill) : State :=
  s.modGroup k.asid k.group (fun g =>
    let z (h : Home) : Home := { h with arrived := [], next := [] }
    { g with
      own := if k.slot = 8 ∨ k.side ≠ .mirror then z g.own else g.own
      mirror := if k.slot = 8 ∨ k.side = .mirror then z g.mirror else g.mirror })

/-- KILL_COMPLETE: every core has applied the i-th kill. -/
def execKillComplete (i : Nat) (s : State) : Host.Outcome State Fault Refusal :=
  .next (
    match s.kills[i]? with
    | none => s
    | some k =>
      if (s.places.filter (fun p => decide (p < 100000))).all (fun p => k.reached.contains p) then
        { s with kills := s.kills.take i ++ s.kills.drop (i + 1) }.zeroHome k
      else s)

end Sys2Proof.Machine
end

