-- ==== Sys2Proof/Machine/Launch.lean ====
section
/-! DEFINITION. Launches: TRIGGER, LAUNCH_START, TILE_SEND, TILE_REPORT and DUAL_COMPARE (02_execution_model R37-R48; 10 R224;
19 R345-R349). -/

namespace Sys2Proof.Machine

/-! Node records (R38, R40). -/

namespace Node

def word (n : NodeDecl) (i : Nat) : W64 := n.words.getD i 0
def index (n : NodeDecl) : Nat := fld (word n 0) 0 16
def etype (n : NodeDecl) : Nat := fld (word n 0) 16 8
def group (n : NodeDecl) : Nat := fld (word n 0) 24 8
def nreg (n : NodeDecl) : Nat := fld (word n 0) 32 3
def dual (n : NodeDecl) : Bool := bit (word n 0) 35
def ex (n : NodeDecl) : Nat := fld (word n 1) 0 16
def ey (n : NodeDecl) : Nat := fld (word n 1) 16 16
def ez (n : NodeDecl) : Nat := fld (word n 1) 32 16
def bx (n : NodeDecl) : Nat := fld (word n 2) 0 16
def bY (n : NodeDecl) : Nat := fld (word n 2) 16 16
def bz (n : NodeDecl) : Nat := fld (word n 2) 32 16
def ncore (n : NodeDecl) : Nat := fld (word n 2) 48 16
def clist (n : NodeDecl) : Nat := fld (word n 3) 0 20
def param (n : NodeDecl) : W64 := word n 4

/-- Tiles of a node. -/
def tiles (n : NodeDecl) : Nat := ex n * ey n * ez n

/-- The coordinates of the t-th tile, x fastest (R46). -/
def coords (n : NodeDecl) (t : Nat) : Nat × Nat × Nat := (t % ex n, t / ex n % ey n, t / ex n / ey n)

/-- The core of a tile (R39). -/
def core (n : NodeDecl) (x y z : Nat) : CoreId :=
  let nbx := (ex n + bx n - 1) / bx n
  let nby := (ey n + bY n - 1) / bY n
  let b := x / bx n + nbx * (y / bY n + nby * (z / bz n))
  n.cores.getD (b % ncore n) 0

end Node

/-- A region of a node (R40). -/
structure Region where
  base : Nat
  acc : Nat
  sx : Int
  sy : Int
  sz : Int
  len : Nat
  deriving DecidableEq, Repr

def Node.region (n : NodeDecl) (i : Nat) : Region :=
  let a := Node.word n (5 + 3 * i)
  let b := Node.word n (6 + 3 * i)
  let c := Node.word n (7 + 3 * i)
  { base := fld a 0 57, acc := fld a 62 2, sx := (b.setWidth 32 : BitVec 32).toInt, sy := (b.extractLsb' 32 32).toInt,
    sz := (c.setWidth 32 : BitVec 32).toInt, len := fld c 32 32 }

def Node.regions (n : NodeDecl) : List Region := (List.range (Node.nreg n)).map (Node.region n)

def Region.reads (r : Region) : Bool := r.acc % 2 == 1
def Region.writes (r : Region) : Bool := decide (2 ≤ r.acc)

/-- A tile's range of a region, its end excluded (R40). -/
def Region.at (r : Region) (x y z : Nat) : Int × Int :=
  let b : Int := r.base + r.sx * x + r.sy * y + r.sz * z
  (b, b + r.len)

/-- What a region covers over a whole tile space. -/
def Region.over (r : Region) (n : NodeDecl) : Int × Int :=
  let e (s : Int) (k : Nat) : Int := s * (k - 1 : Nat)
  let lo : Int := r.base + min 0 (e r.sx (Node.ex n)) + min 0 (e r.sy (Node.ey n)) + min 0 (e r.sz (Node.ez n))
  let hi : Int := r.base + max 0 (e r.sx (Node.ex n)) + max 0 (e r.sy (Node.ey n)) + max 0 (e r.sz (Node.ez n)) + r.len
  (lo, hi)

/-! TRIGGER (R41, R43, R44). -/

/-- Launches that wait behind the running one; while none runs, behind the one at the queue's head, which is to begin (R43, R45). -/
def Graph.waiting (y : Graph) : Nat := if y.running.isSome then y.queued.length else y.queued.length - 1

/-- A write of TRIGGER: refused with code 2 when four launches wait behind another. -/
def State.triggerWrite (s : State) (w : W64) : State :=
  let g := fld w 0 16
  if 64 ≤ g then { s with hub := { s.hub with trigErr := true } }
  else
    let y := s.graph g
    if !y.resident then s.setGraph g { y with err := 1 }
    else if 4 ≤ y.waiting then s.setGraph g { y with err := 2 }
    else s.setGraph g { y with queued := y.queued ++ [BitVec.ofNat 64 (fld w 16 48)] }

def execTrigger (w : W64) (s : State) : Host.Outcome State Fault Refusal := .next (s.triggerWrite w)

/-! LAUNCH_START (R42-R44). -/

/-- A read of the hub through an address space's tables: it is near no stack and no system slot. -/
def State.hubDword (s : State) (a : Asid) (va : W64) : Option W64 :=
  match s.walk a va with
  | .page e =>
    if Leaf.near e.leaf then none
    else
      match s.access 0 .none false .load e va with
      | .ok k => if s.bad.contains (k / 8) then none else some (bytesBv 64 (Memory.readN s.mem k 8))
      | .error _ => none
  | _ => none

/-- That read's effect: flipped bits of the table entries and of the word are corrected, and a word that fails correction counts as
consumed (R332, R337). -/
def State.hubRead (s : State) (a : Asid) (va : W64) : State :=
  match s.walked a va with
  | (t, .page e) =>
    match s.access 0 .none false .load e va with
    | .ok k => (t.noteConsumed k 8).correctRange k 8
    | .error _ => t
  | (t, .poison k) => t.noteConsumed k 8
  | (t, _) => t

/-- The effect of reading n dwords, up to the first that cannot be read. -/
def State.hubReads (s : State) (a : Asid) (va : W64) : Nat → State
  | 0 => s
  | n + 1 => if (s.hubDword a va).isSome then (s.hubRead a va).hubReads a (va + 8) n else s.hubRead a va

/-- n dwords from an address on; none where one cannot be read. -/
def State.hubDwords (s : State) (a : Asid) (va : W64) : Nat → Option (List W64)
  | 0 => some []
  | n + 1 =>
    match s.hubDword a va with
    | none => none
    | some x => (s.hubDwords a (va + 8) n).map (x :: ·)

/-- The entries of a patch list as node, dword and value, with the code of R44 where one is wrong. -/
def State.patchList (s : State) (a : Asid) (va : W64) : Except Nat (List (W64 × W64)) :=
  if va.toNat % 16 ≠ 0 then .error 3
  else
    match s.hubDwords a va 2 with
    | some [h, z] =>
      if fld h 12 52 ≠ 0 ∨ z ≠ 0 then .error 3
      else
        match s.hubDwords a (va + 16) (2 * fld h 0 12) with
        | some l => .ok ((List.range (fld h 0 12)).map (fun i => (l.getD (2 * i) 0, l.getD (2 * i + 1) 0)))
        | none => .error 3
    | _ => .error 3

/-- The effect of reading a patch list. -/
def State.patchReads (s : State) (a : Asid) (va : W64) : State :=
  if va = 0 ∨ va.toNat % 16 ≠ 0 then s
  else
    let t := s.hubReads a va 2
    match s.hubDwords a va 2 with
    | some [h, z] => if fld h 12 52 ≠ 0 ∨ z ≠ 0 then t else t.hubReads a (va + 16) (2 * fld h 0 12)
    | _ => t

/-- A patch entry is well-formed and names a node (R42, R44). -/
def patchOk (nodes : List NodeDecl) (e : W64 × W64) : Bool :=
  fld e.1 21 43 == 0 && fld e.1 16 5 != 0 && nodes.any (fun n => Node.index n == fld e.1 0 16)

/-- Applies one entry to the record it names. -/
def applyPatch (nodes : List NodeDecl) (e : W64 × W64) : List NodeDecl :=
  nodes.map (fun n => if Node.index n = fld e.1 0 16 then { n with words := n.words.set (fld e.1 16 5) e.2 } else n)

/-- The halfword at an offset of treadle memory, where the core lists of the uploaded records lie (R37, R38); elsewhere the
spec does not say what it holds (log 4). -/
def treadleHalf (nodes : List NodeDecl) (off : Nat) : CoreId :=
  match nodes.find? (fun n => decide (Node.clist n ≤ off) && decide (off < Node.clist n + 2 * n.cores.length)) with
  | some n => n.cores.getD ((off - Node.clist n) / 2) 0
  | none => (Config.freeWord (2 ^ 21 + off)).setWidth 16

/-- The record of a launch with the core list its dwords name: the uploaded one, or what the patched offset and length
name (R38, R42). -/
def withCores (uploaded : List NodeDecl) (n : NodeDecl) : NodeDecl :=
  let o := uploaded.find? (fun u => Node.index u == Node.index n)
  if o.any (fun u => Node.clist u == Node.clist n && decide (Node.ncore n ≤ u.cores.length)) then
    { n with cores := n.cores.take (Node.ncore n) }
  else { n with cores := (List.range (Node.ncore n)).map (fun i => treadleHalf uploaded (Node.clist n + 2 * i)) }

/-- A core list entry can name a compute or a bank core (R17, R44). -/
def nameable (c : CoreId) : Bool := Id.isCompute c.toNat || Id.isBank c.toNat

/-- The parts of a record's dwords that are zero (R38, R40), each a dword, its lowest bit and its width. -/
def zeroParts : List (Nat × Nat × Nat) :=
  [(0, 36, 28), (1, 48, 16), (3, 20, 44), (4, 57, 7)] ++ (List.range 4).map (fun i => (5 + 3 * i, 57, 5)) ++
    (List.range 15).map (fun i => (17 + i, 0, 64))

/-- A zero extent, block size or NCORE. -/
def emptyRecord (n : NodeDecl) : Bool :=
  [Node.ex, Node.ey, Node.ez, Node.bx, Node.bY, Node.bz, Node.ncore].any (fun f => f n == 0)

/-- A core list that leaves treadle memory, or that names what a node cannot run on (R17, R44, R345). -/
def coresWrong (n : NodeDecl) : Bool :=
  let twice := Node.dual n
  Node.clist n % 2 == 1 || decide (2 ^ 20 < Node.clist n + 2 * Node.ncore n) ||
    n.cores.any (fun c => !nameable c || (twice && (!Id.isCompute c.toNat || Id.die c.toNat % 2 == 1)))

/-- The checks of one record with code 5 (R44, R345). -/
def recordBad (n : NodeDecl) : Bool :=
  let regions := min (Node.nreg n) 4
  emptyRecord n || zeroParts.any (fun p => fld (Node.word n p.1) p.2.1 p.2.2 != 0) || decide (0xDF < Node.etype n) ||
    decide (4 < Node.nreg n) || (List.range regions).any (fun i => (Node.region n i).acc == 0) || coresWrong n

/-- A region leaves the address range at some corner (code 6). -/
def regionBad (n : NodeDecl) : Bool :=
  (Node.regions n).any (fun r => let o := r.over n; decide (o.1 < 0) || decide ((2 : Int) ^ 57 < o.2))

/-- A core of the list, or a mirror core, is not provided (code 7). -/
def State.coresBad (s : State) (n : NodeDecl) : Bool :=
  n.cores.any (fun c => nameable c && (!s.provided c.toNat || (Node.dual n && !s.provided (Id.mirrorOf c.toNat))))

/-- The lowest code of R44 among the errors of a launch's records; 0 for none. -/
def State.launchError (s : State) (g : Graph) (nodes : List NodeDecl) : Nat :=
  if nodes.any recordBad then 5 else if nodes.any regionBad then 6
  else if g.marked || nodes.any s.coresBad then 7 else 0

/-- Inserts a record in node order. -/
def insertNode (n : NodeDecl) : List NodeDecl → List NodeDecl
  | [] => [n]
  | x :: r => if Node.index n < Node.index x then n :: x :: r else x :: insertNode n r

/-- Every window of a graph is zeroed in every cluster where it exists (R224). -/
def State.zeroWindows (s : State) (g : Graph) : State :=
  let cl := g.clusters
  g.redwins.foldl (fun s w => cl.foldl (fun s k =>
    s.commitBytes (scratchKey k w.offset) (List.replicate w.bytes 0)) s) s

/-- The sequence number after another (R43). -/
def nextSeq (q : BitVec 48) : BitVec 48 := if q = BitVec.allOnes 48 then 1 else q + 1

/-- A launch whose tiles have all completed ends; DONE takes its number (R45). -/
def Graph.settle (g : Graph) : Graph :=
  match g.running with
  | none => g
  | some l =>
    if l.tiles = [] ∧ (List.range 4).all (fun d => decide (l.nodes.length ≤ (l.cursors.get d { node := 0, next := 0 }).node)) then
      { g with running := none, done := l.seq }
    else g

/-- The launch at the head of a graph's queue begins or is refused. It waits while its graph is pre-empted and while GCMD works on
any command (logs 27, 87). -/
def State.launch (s : State) (g : Nat) : State :=
  let y := s.graph g
  match y.queued with
  | [] => s
  | w :: rest =>
    if !y.resident || y.running.isSome || y.pre != .none || s.hub.busy.isSome then s
    else
      let t := s.patchReads y.asid w
      let refuse (c : Nat) : State := t.setGraph g { y with queued := rest, err := c }
      match (if w = 0 then .ok [] else s.patchList y.asid w) with
      | .error c => refuse c
      | .ok ps =>
        if ps.any (fun e => !patchOk y.nodes e) then refuse 4
        else
          let nodes := ((ps.foldl applyPatch y.nodes).map (withCores y.nodes)).foldl (fun a n => insertNode n a) []
          let code := s.launchError y nodes
          if code ≠ 0 then refuse code
          else
            let duals := (nodes.filter Node.dual).map (fun n =>
              { node := Node.index n, again := false, mismatch := false, primary := [], mirror := [] : DualRun })
            let l : Launch := { seq := y.next, nodes := nodes, cursors := [], tiles := [], duals := duals }
            let s := t.setGraph g { y with queued := rest, next := nextSeq y.next, running := some l }
            let s := { s with cores := s.cores.map (fun (p : Nat × Core) =>
              (p.1, { p.2 with spawnSeq := p.2.spawnSeq.filter (fun e => e.1 != g) })) }
            (s.zeroWindows y).modGraph g (fun y => if nodes = [] then y.settle else y)

def execLaunchStart (graph : Nat) (s : State) : Host.Outcome State Fault Refusal := .next (s.launch graph)

/-! The matcher (R46-R48). -/

def Launch.node (l : Launch) (i : Nat) : Option NodeDecl := l.nodes.find? (fun n => Node.index n == i)

/-- The core of an outstanding tile. -/
def Launch.coreOf (l : Launch) (t : Tile) : CoreId :=
  match l.node t.node with
  | some n => Node.core n t.x t.y t.z
  | none => 0

def Launch.dieOf (l : Launch) (t : Tile) : Nat := Id.die (l.coreOf t).toNat

/-- The tile records a die holds, over all graphs. -/
def State.records (s : State) (die : Nat) : Nat :=
  s.graphs.foldl (fun a p =>
    match p.2.running with
    | some l => a + (l.tiles.filter (fun t => l.dieOf t == die)).length
    | none => a) 0

def Launch.cursor (l : Launch) (die : Nat) : Cursor := l.cursors.get die { node := 0, next := 0 }

/-- A treadle enters tiles of its die until `room` more records are in use (R46), `order` counting the entries; `fuel` bounds the
tiles it passes. -/
def Launch.enter (l : Launch) (die room order : Nat) : Nat → Launch
  | 0 => l
  | fuel + 1 =>
    let c := l.cursor die
    match l.nodes[c.node]? with
    | none => l
    | some n =>
      if Node.tiles n ≤ c.next then { l with cursors := l.cursors.put die { node := c.node + 1, next := 0 } }.enter die room order fuel
      else
        let p := Node.coords n c.next
        if Id.die (Node.core n p.1 p.2.1 p.2.2).toNat = die then
          if room = 0 then l
          else
            let t : Tile := { order := order, node := Node.index n, x := p.1, y := p.2.1, z := p.2.2, sent := false,
                              mirrorDone := false, primaryDone := false }
            { l with cursors := l.cursors.put die { c with next := c.next + 1 }, tiles := l.tiles ++ [t] }.enter die (room - 1)
              (order + 1) fuel
        else { l with cursors := l.cursors.put die { c with next := c.next + 1 } }.enter die room order fuel

/-- Tiles and nodes of a launch, a bound for what a treadle passes. -/
def Launch.span (l : Launch) : Nat := l.nodes.foldl (fun a n => a + Node.tiles n + 1) 1

/-- Every treadle enters what it can of a graph's launch. The places in its matcher follow the entries (R46); which graph's tiles
it enters first when records are short is the model's choice (log 88). -/
def State.enterTiles (s : State) (g : Nat) : State :=
  (List.range 4).foldl (fun s d =>
    match (s.graph g).running with
    | none => s
    | some l =>
      let m := l.enter d (4096 - s.records d) s.stamp l.span
      { s with stamp := s.stamp + (m.tiles.length - l.tiles.length) }.modGraph g (fun y => { y with running := some m })) s

/-- Two ranges meet. An empty one strictly inside another counts as meeting it (log 31). -/
def overlap (a b : Int × Int) : Bool := decide (a.1 < b.2) && decide (b.1 < a.2)

/-- What a tile reads or writes. -/
def Node.ranges (n : NodeDecl) (t : Tile) (wr : Bool) : List (Int × Int) :=
  ((Node.regions n).filter (fun r => if wr then r.writes else r.reads)).map (fun r => r.at t.x t.y t.z)

/-- The span of ranges. -/
def spanOf : List (Int × Int) → List (Int × Int)
  | [] => []
  | a :: r => [r.foldl (fun x y => (min x.1 y.1, max x.2 y.2)) a]

/-- The tiles of a node that a die's treadle has yet to enter. -/
def Launch.toEnter (l : Launch) (d : Nat) (m : NodeDecl) : List Tile :=
  let c := l.cursor d
  (l.nodes.zipIdx.filter (fun p => Node.index p.1 == Node.index m && decide (c.node ≤ p.2))).flatMap (fun p =>
    let done := if p.2 = c.node then c.next else 0
    (((List.range (Node.tiles p.1)).drop done).map (fun k =>
      let q := Node.coords p.1 k
      { order := 0, node := Node.index m, x := q.1, y := q.2.1, z := q.2.2, sent := false, mirrorDone := false,
        primaryDone := false : Tile })).filter (fun t => l.dieOf t == d))

/-- The ranges of a lower-numbered node a tile on a die is held against: each outstanding tile's own on that die (R47), and
each other die's summary, which spans that die's own tiles of the node that have not completed (R48): those it has entered and
those it has yet to enter, as no summary lets a tile start past a real conflict (log 111). -/
def Launch.against (l : Launch) (die : Nat) (m : NodeDecl) (wr : Bool) : List (Int × Int) :=
  let mine := l.tiles.filter (fun t => t.node == Node.index m && l.dieOf t == die)
  mine.flatMap (fun t => Node.ranges m t wr) ++
    ((List.range 4).filter (· != die)).flatMap (fun d =>
      let own := l.tiles.filter (fun t => t.node == Node.index m && l.dieOf t == d)
      spanOf ((own ++ l.toEnter d m).flatMap (fun t => Node.ranges m t wr)))

/-- A tile may be sent (R47). -/
def Launch.clear (l : Launch) (t : Tile) : Bool :=
  match l.node t.node with
  | none => false
  | some n =>
    let die := l.dieOf t
    let rd := Node.ranges n t false
    let wr := Node.ranges n t true
    (l.nodes.filter (fun m => Node.index m < Node.index n)).all (fun m =>
      (l.against die m true).all (fun r => (rd ++ wr).all (fun x => !overlap r x)) &&
        (l.against die m false).all (fun r => wr.all (fun x => !overlap r x)))

/-- Where a side of a tile runs (R39, R345). -/
def Launch.sideCore (l : Launch) (t : Tile) (side : Side) : CoreId :=
  if side = .mirror then BitVec.ofNat 16 (Id.mirrorOf (l.coreOf t).toNat) else l.coreOf t

/-- The sides of a tile: both of a redundant node's (R345). -/
def Launch.sides (l : Launch) (t : Tile) : List Side :=
  if l.duals.any (fun d => d.node == t.node) then [.primary, .mirror] else [.none]

/-- No side of the tile runs on a die whose hub link is retired (R354). -/
def State.reaches (s : State) (l : Launch) (t : Tile) : Bool := (l.sides t).all (fun d => !s.hubCut (l.sideCore t d).toNat)

/-- A tile's message (R15, R20). -/
def tileMessage (y : Graph) (l : Launch) (n : NodeDecl) (t : Tile) (side : Side) : Message :=
  let dst := l.sideCore t side
  let b (x : Nat) : W64 := BitVec.ofNat 64 x
  { Message.plain dst (BitVec.ofNat 8 (Node.etype n))
      { src := Id.treadle, lpri := y.prio, group := BitVec.ofNat 8 (Node.group n), asid := y.asid, lseq := l.seq,
        node := BitVec.ofNat 16 t.node, tx := BitVec.ofNat 16 t.x, ty := BitVec.ofNat 16 t.y, tz := BitVec.ofNat 16 t.z,
        side := side }
      [b t.x, b t.y, b t.z, Node.param n, l.seq.setWidth 64, 0, 0] with fromSlot := 9 }

/-- DSTAT of a redundant node (R349). -/
def dstatWord (st : Nat) (again : Bool) (node lines : Nat) : W64 :=
  BitVec.ofNat 64 (st + (if again then 4 else 0) + node % 65536 * 65536 + lines % 2 ^ 32 * 2 ^ 32)

/-- Sends a tile's message, on a redundant node to both sides (R345). -/
def State.sendTile (s : State) (g : Nat) (l : Launch) (n : NodeDecl) (t : Tile) : State :=
  let y := s.graph g
  let dual := l.duals.find? (fun d => d.node == t.node)
  let ms := (l.sides t).map (tileMessage y l n t)
  let ts := l.tiles.map (fun u => if u = t then { t with sent := true } else u)
  let y := { y with
    running := some { l with tiles := ts }
    dstat := match dual with
      | some d =>
        if l.tiles.any (fun u => u.node == t.node && u.sent) then y.dstat
        else dstatWord 1 d.again d.node d.primary.length
      | none => y.dstat }
  { s with net := s.net ++ ms }.setGraph g y

/-- The next tile of a graph on a die that may be sent. -/
def State.nextTile (s : State) (die g : Nat) : Option (Launch × NodeDecl × Tile) :=
  let y := s.graph g
  match y.running with
  | none => none
  | some l =>
    if y.pre != .none then none
    else
      match l.tiles.find? (fun t => !t.sent && l.dieOf t == die && s.reaches l t && l.clear t) with
      | none => none
      | some t => (l.node t.node).map (fun n => (l, n, t))

/-- The tile a treadle sends next: of those that may go, of whatever graph, the first in its matcher (R47). -/
def State.firstTile (s : State) (die : Nat) (gs : List Nat) : Option (Nat × Launch × NodeDecl × Tile) :=
  gs.foldl (fun a g =>
    match s.nextTile die g, a with
    | some x, some y => if x.2.2.order < y.2.2.2.order then some (g, x) else a
    | some x, none => some (g, x)
    | none, _ => a) none

/-- TILE_SEND: the treadles enter tiles, and that of the die sends the next. -/
def execTileSend (die : Nat) (s : State) : Host.Outcome State Fault Refusal :=
  let gs := if s.hubCut (Id.compute die 0 0) then [] else (s.graphs.filter (fun p => p.2.running.isSome)).map (·.1)
  let s := gs.foldl State.enterTiles s
  .next (
    match s.firstTile die gs with
    | some (g, l, n, t) => s.sendTile g l n t
    | none => s)

/-! TILE_REPORT (R20, R46). -/

def Tile.is (t : Tile) (r : TileDone) : Bool := t.node == r.node && t.x == r.x && t.y == r.y && t.z == r.z && t.sent

/-- A side of a tile has completed it already. -/
def Tile.doneOn (t : Tile) (side : Side) : Bool :=
  match side with
  | .none => false
  | .primary => t.primaryDone
  | .mirror => t.mirrorDone

def Tile.finish (t : Tile) (side : Side) : Tile :=
  match side with
  | .none => t
  | .primary => { t with primaryDone := true }
  | .mirror => { t with mirrorDone := true }

/-- A tile's completion reaches its treadle: the first completes it, a later one counts in LATEEND. -/
def State.reportTile (s : State) (r : TileDone) : State :=
  let y := s.graph r.graph
  if !y.resident then s
  else
    let late := s.setGraph r.graph { y with lateEnd := satAdd y.lateEnd 1 (2 ^ 32 - 1) }
    match y.running with
    | none => late
    | some l =>
      if l.seq ≠ r.seq then late
      else
        match l.tiles.find? (fun t => t.is r) with
        | none => late
        | some t =>
          if t.doneOn r.side then late
          else if r.side = .none then
            let s := s.setGraph r.graph { y with running := some { l with tiles := l.tiles.filter (fun u => u != t) } }
            (s.enterTiles r.graph).modGraph r.graph Graph.settle
          else
            let l := { l with tiles := l.tiles.map (fun u => if u = t then t.finish r.side else u) }
            s.setGraph r.graph { y with running := some l }

def execTileReport (i : Nat) (s : State) : Host.Outcome State Fault Refusal :=
  .next (
    match s.tileDone[i]? with
    | none => s
    | some r =>
      let cut := (s.graph r.graph).running.any (fun l =>
        (l.tiles.find? (fun t => t.is r)).any (fun t => s.hubCut (l.sideCore t r.side).toNat))
      if cut then s else State.reportTile { s with tileDone := s.tileDone.take i ++ s.tileDone.drop (i + 1) } r)

/-! DUAL_COMPARE (R347-R349). -/

/-- One bit of CRC-64 (R347). -/
def crc64Bit (acc : W64) (b : Bool) : W64 :=
  let sh := acc <<< 1
  if acc.getLsbD 63 != b then sh ^^^ 0x42F0E1EBA9EA3693 else sh

/-- A byte, its most significant bit first. -/
def crc64Byte (acc : W64) (x : Byte) : W64 :=
  ((List.range 8).map (fun i => x.getLsbD (7 - i))).foldl crc64Bit acc

/-- Hash(a, d) of R347. -/
def dualHash (a : Nat) (d : List Byte) : W64 :=
  ~~~ ((natBytes a 8 ++ d).foldl crc64Byte (BitVec.allOnes 64))

/-- The signature of a side's written set, and the state its reads leave (R332). -/
def State.dualSig (s : State) (set : List (Nat × Nat)) : W64 × State :=
  set.foldl (fun a e =>
    let r := a.2.hostBytes (e.2 * 64) 64
    (a.1 ^^^ dualHash (e.1 * 64) r.1, r.2)) (0, s)

/-- Copies n > 0 bytes from one location to another: flipped bits are corrected, and words that fail correction keep their errors. -/
def State.copyBytes (s : State) (src dst n : Nat) : State :=
  let s := s.correctRange src n
  let b := Memory.readN s.mem src n
  let bad := (List.range (n / 8)).filter (fun i => s.bad.contains (src / 8 + i))
  let s := s.commitBytes dst b
  if bad = [] then s else { s with bad := bad.foldl (fun l i => (dst / 8 + i) :: l) s.bad }

def State.copyLine (s : State) (src dst : Nat) : State := s.copyBytes (src * 64) (dst * 64) 64

/-- The lines of two written sets with the shadow offset of each. -/
def unionSets (p m : List (Nat × Nat)) : List (Nat × Nat) :=
  let a := p.map (fun e => (e.1, e.2 - e.1))
  a ++ (m.map (fun e => (e.1, (e.2 - e.1) / 2))).filter (fun e => !a.contains e)

/-- Every tile of a redundant node has ended on both sides. -/
def Launch.dualDone (l : Launch) (n : NodeDecl) : Bool :=
  let mine := l.tiles.filter (fun t => t.node == Node.index n)
  mine.length == Node.tiles n && mine.all (fun t => t.primaryDone && t.mirrorDone)

/-- Compares the sides of a redundant node that has ended. -/
def State.compareNode (s : State) (g : Nat) (l : Launch) (d : DualRun) : State :=
  let r := s.dualSig d.primary
  let q := r.2.dualSig d.mirror
  let p := r.1
  let m := q.1
  let s := q.2
  let others := l.duals.filter (fun x => x.node != d.node)
  let set (st : Nat) (again : Bool) (lines : Nat) (y : Graph) : Graph :=
    { y with dstat := dstatWord st again d.node lines, dsigp := p, dsigm := m }
  if p = m then
    let s := d.primary.foldl (fun s e =>
      (s.copyLine e.2 e.1).copyLine e.2 (e.1 + 2 * (e.2 - e.1))) s
    let l := { l with duals := others, tiles := l.tiles.filter (fun t => t.node != d.node) }
    let s := s.modGraph g (fun y => { set 2 d.again d.primary.length y with running := some l })
    (s.enterTiles g).modGraph g Graph.settle
  else if !d.again then
    let s := (unionSets d.primary d.mirror).foldl (fun s e =>
      (s.copyLine e.1 (e.1 + e.2)).copyLine e.1 (e.1 + 2 * e.2)) s
    let l := { l with
      duals := { d with again := true, primary := [], mirror := [] } :: others
      tiles := l.tiles.map (fun t =>
        if t.node = d.node then { t with sent := false, primaryDone := false, mirrorDone := false } else t) }
    s.modGraph g (fun y => { set 1 true 0 y with running := some l })
  else
    let l := { l with duals := { d with mismatch := true } :: others }
    (s.modGraph g (fun y => { set 3 true d.primary.length y with running := some l })).interrupt 1

def execDualCompare (graph : Nat) (s : State) : Host.Outcome State Fault Refusal :=
  let y := s.graph graph
  .next (
    match y.running with
    | none => s
    | some l =>
      match l.duals.find? (fun d => !d.mismatch && (l.node d.node).any l.dualDone) with
      | some d => s.compareNode graph l d
      | none => s)

end Sys2Proof.Machine
end

