-- ==== Sys2Proof/Machine/Upload.lean ====
section
/-! DEFINITION. Graph upload and exit (20_host_and_boot R363; 02_execution_model R21, R26, R34, R35, R37, R50; 05 R102, R104; 09
R176, R177, R194; 10 R224; 22 R373, R375). -/

namespace Sys2Proof.Machine

/-! GCMD (R363). -/

/-- A bit of GCMD that must be zero is set, or its OP is unknown. -/
def gcmdBad (w : W64) : Bool :=
  let op := fld w 0 4
  let arg := fld w 16 48
  fld w 4 12 != 0 || (op != 1 && op != 2) || (op == 1 && (decide (2 ^ 47 ≤ arg) || arg % 4096 != 0)) ||
    (op == 2 && decide (64 ≤ arg))

/-- A command ends with one of the results that apply to it: R363 gives no order among them, and which one stands is free (log
42). None of them: the command is done. -/
def State.gcmdResult (s : State) (l : List Nat) : State :=
  let n := (Config.freeWord s.fresh).toNat % l.length
  { s with
    fresh := if l.length ≤ 1 then s.fresh else s.fresh + 1
    hub := { s.hub with busy := none, result := if l.length ≤ 1 then l.headD 0 else l.getD n 0 } }

/-- The results that refuse a GCMD write at once. -/
def State.gcmdRefusals (s : State) (w : W64) : List Nat :=
  (if gcmdBad w then [7] else []) ++ (if s.hub.bootState = 5 then [] else [5]) ++
    (if !gcmdBad w && fld w 0 4 == 2 && !(s.graph (fld w 16 48)).resident then [6] else [])

/-- A write of GCMD: ignored while a command is in progress, refused at once, or taken up. An exit's graph starts no more of its
launches. -/
def State.gcmd (s : State) (w : W64) : State :=
  if s.hub.busy.isSome then s
  else
    let exit := !gcmdBad w && fld w 0 4 == 2
    let g := fld w 16 48
    let s := if exit then { s with hub := { s.hub with graph := g } } else s
    if s.gcmdRefusals w ≠ [] then s.gcmdResult (s.gcmdRefusals w)
    else
      let s := { s with hub := { s.hub with busy := some w } }
      if exit then s.modGraph g (fun y => { y with queued := [], running := none }) else s

def execGraphUpload (w : W64) (s : State) : Host.Outcome State Fault Refusal := .next (if fld w 0 4 = 1 then s.gcmd w else s)

def execGraphExit (w : W64) (s : State) : Host.Outcome State Fault Refusal := .next (if fld w 0 4 = 2 then s.gcmd w else s)

/-! What an image asks for. -/

/-- Inserts a core into a list in rank order, once. -/
def insertRank (c : CoreId) : List CoreId → List CoreId
  | [] => [c]
  | x :: r =>
    if x = c then x :: r else if Id.rank c.toNat < Id.rank x.toNat then c :: x :: r else x :: insertRank c r

/-- The home cluster of a group (R34). -/
def homeCluster (members : List CoreId) (home : Option Nat) : Nat :=
  match home with
  | some h => h
  | none =>
    match members.find? (fun c => Id.isCompute c.toNat) with
    | some c => Id.clusterNo c.toNat
    | none => Id.stack (members.headD 0).toNat / 2 * 32

/-- A group table entry from its declaration (R34). -/
def Image.entry (d : GroupDecl) : Group :=
  let ms := d.members.foldl (fun a c => insertRank c a) []
  let z : Home := { gen := 0, arrived := [], next := [] }
  { members := ms, home := homeCluster ms d.home, own := z, mirror := z }

def Image.groupTable (m : GraphImage) : Tab Group := m.groups.foldl (fun t d => t.put d.id.toNat (Image.entry d)) []

def addCore (a : List Nat) (c : Nat) : List Nat := if a.contains c then a else a ++ [c]

/-- The cores a graph uses: those its nodes list, with the mirror cores of redundant nodes, and the members of its groups. -/
def Image.cores (m : GraphImage) : List Nat :=
  let a := m.nodes.foldl (fun a n => n.cores.foldl (fun a c =>
    let a := addCore a c.toNat
    if Node.dual n then addCore a (Id.mirrorOf c.toNat) else a) a) []
  m.groups.foldl (fun a d => d.members.foldl (fun a c => addCore a c.toNat) a) a

/-- Where the vector table lies on a core (R21). -/
def Image.tableAt (m : GraphImage) (c : Nat) : Nat := tablePlace m.vtbase c

/-- Where the runtime's area of a core begins (R26). -/
def runtimeArea (c : Nat) : Nat := tcmSize c - 2048

/-- A reduction window lies at a multiple of 64 and is a multiple of 64 from 64 to 65,536 bytes long (R224). -/
def redwinOk (w : RedwinDecl) : Bool :=
  w.offset % 64 == 0 && w.bytes % 64 == 0 && decide (64 ≤ w.bytes) && decide (w.bytes ≤ 65536)

/-- Two reduction windows overlap (R224). -/
def redwinOver (w v : RedwinDecl) : Bool := decide (w.offset < v.offset + v.bytes) && decide (v.offset < w.offset + w.bytes)

def redwinsClash : List RedwinDecl → Bool
  | [] => false
  | w :: r => r.any (redwinOver w) || redwinsClash r

def distinct : List Nat → Bool
  | [] => true
  | x :: r => !r.contains x && distinct r

/-- A window of the image overlaps one of a resident graph in a cluster where both exist, or passes what a scratchpad of one of its
clusters holds (R175, R224). -/
def State.redwinsTaken (s : State) (m : GraphImage) : Bool :=
  let cl := nodeClusters m.nodes
  m.redwins.any (fun w =>
    cl.any (fun k => decide (s.scratchBanks k * 32768 < w.offset + w.bytes)) ||
      s.graphs.any (fun g => g.2.resident && g.2.redwins.any (redwinOver w) && g.2.clusters.any cl.contains))

/-- The vector table a core holds for another address space lies where this image's would. -/
def State.tableClash (s : State) (a : Asid) (m : GraphImage) (c : Nat) : Bool :=
  decide (Image.tableAt m c + 2048 ≤ tcmSize c) &&
    (s.core c).spaces.any (fun e => e.1 != a.toNat && fld e.2.vtbase 11 5 * 2048 == Image.tableAt m c)

/-- Result 2: the image is malformed (R363, log 42). -/
def Image.malformed (m : GraphImage) : Bool :=
  !distinct (m.nodes.map Node.index) || m.redwins.any (fun w => !redwinOk w) || redwinsClash m.redwins ||
    m.tcmCores.any (fun c => !nameable c) ||
    m.groups.any (fun d => d.members.isEmpty || d.members.any (fun c => !nameable c) || d.home.any (fun h => decide (128 ≤ h)))

/-- Result 2: a placement of the image is refused (R21, R26, R224, R363). -/
def State.placementBad (s : State) (a : Asid) (m : GraphImage) : Bool :=
  (Image.cores m).any (fun c => Image.tableAt m c == runtimeArea c || s.tableClash a m c) || s.redwinsTaken m ||
    m.tcmCores.any (fun c => decide (runtimeArea c.toNat < m.tcm.length))

/-- Result 3: a core belongs to five or more groups (R35). -/
def Image.groupsBad (m : GraphImage) : Bool :=
  (Image.cores m).any (fun c => decide (4 < ((Image.groupTable m).filter (fun g => g.2.members.contains (BitVec.ofNat 16 c))).length))

/-! The leaves of an address space's tables. -/

/-- The valid leaves of a table of a level whose entries map addresses from `va` on, each with the first address that its entry
maps. -/
def State.leavesFrom (s : State) (t va : Nat) : Nat → List (Nat × W64)
  | 0 => (List.range 512).filterMap (fun i =>
      match s.tableEntry (t + 8 * i) with
      | .ok e => if Leaf.valid e && Leaf.isLeaf e then some (va + i * 2 ^ 12, e) else none
      | .error _ => none)
  | lvl + 1 => (List.range 512).flatMap (fun i =>
      let at_ := va + i * 2 ^ (12 + 9 * (lvl + 1))
      match s.tableEntry (t + 8 * i) with
      | .ok e =>
        if !Leaf.valid e then [] else if Leaf.isLeaf e then [(at_, e)] else s.leavesFrom (fld e 12 36 * 4096) at_ lvl
      | .error _ => [])

/-- The leaves of an address space. -/
def State.leaves (s : State) (a : Asid) : List (Nat × W64) := s.leavesFrom (s.space a).root 0 4

/-- The first address of the page that a leaf maps an address in (R180). -/
def pageOf (e : W64) (va : Nat) : Nat := va / 2 ^ Leaf.log2 e * 2 ^ Leaf.log2 e

/-- A mapping of an image overlaps one that an address space holds (R363). -/
def State.mapOverlap (s : State) (a : Asid) (m : GraphImage) : Bool :=
  m.maps != [] && (s.leaves a).any (fun l =>
    let p := pageOf l.2 l.1
    m.maps.any (fun r => decide (r.1 < p + 2 ^ Leaf.log2 l.2) && decide (p < r.1 + r.2)))

/-- The bytes of a vector table (R23). -/
def tableBytes (l : List VTypeDecl) : List Byte :=
  (List.range 256).flatMap (fun t =>
    match l.find? (fun v => v.typ.toNat == t) with
    | some v => bvBytes v.entry 8
    | none => List.replicate 8 0)

/-- The descriptor that declarations leave at an id of the skein table: the last one's (R102). -/
def skeinAt (l : List SkeinDecl) (id : BitVec 15) : Option (W64 × W64) :=
  ((l.filter (fun d => d.id == id)).getLast?).map (fun d => (d.d0, d.d1))

/-- Two lists of declarations make the same skein table. -/
def sameSkeins (l m : List SkeinDecl) : Bool := (l ++ m).all (fun d => skeinAt l d.id == skeinAt m d.id)

/-- An image's vector table lies where an address space's does, on the image's cores and on those that hold the space's copies. -/
def State.sameTables (s : State) (a : Asid) (m : GraphImage) : Bool :=
  let held := (s.cores.filter (fun p => (p.2.spaces.find a.toNat).isSome)).map (·.1)
  (Image.cores m ++ held).all (fun c => tablePlace (s.space a).vtbase c == Image.tableAt m c)

/-- The image carries what the graphs of a resident address space carry, the same tables however they are declared, node indices of
its own, and mappings that overlap none there (R176, R177, R363). -/
def State.joins (s : State) (a : Asid) (m : GraphImage) : Bool :=
  let sp := s.space a
  let theirs := (s.graphsOf a).flatMap (fun g => (s.graph g).nodes.map Node.index)
  s.sameTables a m && sp.codebase == m.codebase && sp.sktab == m.sktab && tableBytes sp.vtypes == tableBytes m.vtypes &&
    sameSkeins sp.skeins m.skeins &&
    (sp.groups.map (fun g => (g.1, g.2.members, g.2.home)) == (Image.groupTable m).map (fun g => (g.1, g.2.members, g.2.home))) &&
    m.nodes.all (fun n => !theirs.contains (Node.index n)) && !s.mapOverlap a m

/-- The id an upload receives (R363). -/
def State.freeId (s : State) (m : GraphImage) : Option Nat :=
  if m.name.toNat < 64 then (if (s.graph m.name.toNat).resident then none else some m.name.toNat)
  else (List.range 64).find? (fun g => !(s.graph g).resident)

/-- The ASID an upload receives: the one it asks for, or the lowest no resident graph holds. -/
def State.freeAsid (s : State) (m : GraphImage) : Asid :=
  match m.asid with
  | some a => a
  | none => BitVec.ofNat 16 (((List.range 66).find? (fun a => a != 0 && (s.graphsOf (BitVec.ofNat 16 a)).isEmpty)).getD 0)

/-- The results that refuse an upload (R363): of an unreadable image no more is known. -/
def State.uploadRefusals (s : State) (m : GraphImage) : List Nat :=
  let a := s.freeAsid m
  if !m.readable then [2]
  else
    (if (s.freeId m).isNone then [1] else []) ++ (if Image.malformed m || s.placementBad a m then [2] else []) ++
      (if Image.groupsBad m then [3] else []) ++ (if a == 0 || (!(s.graphsOf a).isEmpty && !s.joins a m) then [4] else [])

/-! Leaves beyond the reported capacity (R194). -/

/-- A leaf maps a frame of device memory that holds nothing. -/
def State.beyond (s : State) (e : W64) : Bool :=
  !Leaf.peerv e &&
    (List.range (2 ^ (Leaf.log2 e - 12) * (if Leaf.shadow e then 3 else 1))).any (fun i =>
      !s.populated (Leaf.frame e + 4096 * i))

/-- Some leaf of an address space lies beyond the capacity. -/
def State.tableBeyond (s : State) (a : Asid) : Bool := (s.leaves a).any (fun l => s.beyond l.2)

/-- The runtime checks the tables of every resident graph and marks those with a leaf beyond the capacity. -/
def State.markAll (s : State) : State :=
  { s with graphs := s.graphs.map (fun (p : Nat × Graph) =>
    (p.1, if p.2.resident then { p.2 with marked := s.tableBeyond p.2.asid } else p.2)) }

/-! Installing a graph. -/

/-- The memberships of a core, GMEM0 upward in ascending group id (R35). -/
def gmemOf (gs : Tab Group) (c : Nat) : Vector W64 4 :=
  let mine := gs.filterMap (fun g =>
    (g.2.members.findIdx? (fun m => m.toNat == c)).map (fun r => BitVec.ofNat 64 (g.1 % 256 + 256 + r * 2 ^ 16)))
  Vector.ofFn (fun i => mine.getD i.val 0)

/-- Fills a core's copies for an address space through GSEL, unless they stand already (R21, R22; log 41). -/
def State.installCore (s : State) (g : Nat) (a : Asid) (m : GraphImage) (c : Nat) : State :=
  if ((s.core c).spaces.find a.toNat).isSome then s
  else
    let r := SpaceRegs.of m.vtbase m.codebase m.sktab (gmemOf (Image.groupTable m) c) c
    let s := s.modCore c (fun k => { k with spaces := k.spaces.put a.toNat r, gsel := 0x100 ||| BitVec.ofNat 64 g })
    if Image.tableAt m c + 2048 ≤ tcmSize c then s.commitBytes (tcmKey c (Image.tableAt m c)) (tableBytes m.vtypes) else s

/-- What the runtime places of an image in device memory. -/
def State.placeBytes (s : State) (p : Placement) : State := s.commitBytes p.addr p.bytes

/-- The `.tcm` section is loaded at TCM address 0 of each core the runtime names (R373). -/
def State.loadTcm (s : State) (m : GraphImage) : State :=
  m.tcmCores.foldl (fun s c => s.commitBytes (tcmKey c.toNat 0) m.tcm) s

/-- Where the descriptor at an address of the skein table lies: in the TCM of each core of the image for which the address is one of
its own TCM, and for every other core where the address space maps it (R102, R170). -/
def State.skeinKeys (s : State) (a : Asid) (va : W64) (cores : List Nat) : List Nat :=
  let own := cores.filter (fun c => decide (va.toNat < tcmSize c))
  let mapped :=
    match s.walk a va with
    | .page e => [e.place .none va]
    | _ => []
  own.map (fun c => tcmKey c va.toNat) ++ (if own.isEmpty || cores.any (fun c => !own.contains c) then mapped else [])

/-- The address of a skein's descriptor in the table at SKTAB (R102). -/
def GraphImage.skeinAddr (m : GraphImage) (id : Nat) : W64 := (m.sktab &&& 0x01FFFFFFFFFFFFF0) + BitVec.ofNat 64 (16 * id)

/-- The skein descriptors are written to the table at SKTAB (R102, R104). -/
def State.installSkeins (s : State) (a : Asid) (m : GraphImage) : State :=
  m.skeins.foldl (fun s d =>
    let va := GraphImage.skeinAddr m d.id.toNat
    (s.skeinKeys a va (Image.cores m)).foldl (fun s k => s.commitBytes k (bvBytes d.d0 8 ++ bvBytes d.d1 8)) s) s

/-- The parking areas as an upload sets them: never fewer than 1,024 places, never fewer than before while a graph is resident;
the map is rewritten where one changes (R50, R340). -/
def State.setParking (s : State) (n : Nat) : State :=
  let held := s.graphs.any (fun p => p.2.resident)
  let size (d : Nat) : Nat :=
    let old := s.parkPlaces.get d 0
    let x := if n < 1024 then 1024 else n
    if held ∧ x < old then old else x
  let t := (List.range 4).map (fun d => (d, size d))
  if (List.range 4).all (fun d => size d == s.parkPlaces.get d 0) then s
  else { s with parkPlaces := t, capacity := { s.capacity with gen := s.capacity.gen + 1 } }

/-- A graph as it becomes resident; its counters are those of its id. -/
def Graph.install (y : Graph) (a : Asid) (m : GraphImage) (p : PreState) : Graph :=
  { y with
    resident := true, exited := false, asid := a, name := m.name, prio := m.prio, queued := [], done := 0, next := 1,
    running := none, nodes := m.nodes, redwins := m.redwins, marked := false, pre := p, saved := [], cmds := [], dstat := 0,
    dsigp := 0, dsigm := 0 }

/-- An accepted upload. -/
def State.install (s : State) (g : Nat) (a : Asid) (m : GraphImage) : State :=
  let pre := match s.lowGraph a with
    | some h => (s.graph h).pre
    | none => .none
  let s := s.setParking m.parkPlaces
  let sp : Space :=
    { root := m.root, groups := Image.groupTable m, vtbase := m.vtbase, codebase := m.codebase, sktab := m.sktab,
      vtypes := m.vtypes, skeins := m.skeins }
  let s := if (s.graphsOf a).isEmpty then { s with spaces := s.spaces.put a.toNat sp } else s
  let s := (m.placements.foldl State.placeBytes s).loadTcm m
  let s := (Image.cores m).foldl (fun s c => s.installCore g a m c) s
  let s := s.installSkeins a m
  let s := s.modGraph g (fun y => y.install a m pre)
  let s := s.modGraph g (fun y => { y with marked := s.tableBeyond a })
  { s with
    lastExit := s.lastExit.filter (fun e => e.2 != g)
    cores := s.cores.map (fun (p : Nat × Core) => (p.1, { p.2 with spawnSeq := p.2.spawnSeq.filter (fun e => e.1 != g) }))
    hub := { s.hub with busy := none, result := 0, graph := g, asid := a, name := m.name } }

/-- What the runtime placed adds the image's mappings to the address space's page tables and changes none that a resident graph has
there (R363). -/
def State.mapsAdded (s t : State) (a : Asid) (m : GraphImage) : Bool :=
  (m.placements == [] || s.graphs.all (fun g => !g.2.resident ||
    (let l := t.leaves g.2.asid; (s.leaves g.2.asid).all (fun e => l.contains e)))) &&
  (m.maps == [] || (let l := t.leaves a
    m.maps.all (fun r => (List.range ((r.2 + 4095) / 4096)).all (fun i =>
      l.any (fun e => decide (pageOf e.2 e.1 ≤ r.1 + 4096 * i) && decide (r.1 + 4096 * i < pageOf e.2 e.1 + 2 ^ Leaf.log2 e.2))))))

/-- The skein table stands where R102 has the runtime put it: SKTAB names it, in use where the image declares skeins, and its base and
the descriptors lie outside every range the image maps, each in own TCM of every core of the image or in a page mapped read and write. -/
def State.skeinsPlaced (t : State) (a : Asid) (m : GraphImage) : Bool :=
  let cores := Image.cores m
  let at_ : List W64 := (if bit m.sktab 0 then [GraphImage.skeinAddr m 0] else []) ++ m.skeins.map (fun d => GraphImage.skeinAddr m d.id.toNat)
  m.sktab &&& 0xFE0000000000000E == 0 && (m.skeins.isEmpty || bit m.sktab 0) &&
  at_.all (fun va =>
    m.maps.all (fun r => decide (va.toNat + 16 ≤ r.1) || decide (r.1 + r.2 ≤ va.toNat)) &&
      ((!cores.isEmpty && cores.all (fun c => decide (va.toNat < tcmSize c))) ||
        (match t.walk a va with
          | .page e => Leaf.r e.leaf && Leaf.w e.leaf
          | _ => false)))

/-- What an accepted upload leaves is as R102 and R363 have the runtime place it. -/
def State.placedWell (s t : State) (a : Asid) (m : GraphImage) : Bool := s.mapsAdded t a m && t.skeinsPlaced a m

/-- UPLOAD_DONE: the runtime has read the image and accepts or refuses it. An upload that is accepted but whose placements do not
map what the image maps, or touch a mapping that stands, or whose skein table lies elsewhere than R102 allows, is not one that R363
describes: the event does nothing (log 48). -/
def execUploadDone (img : GraphImage) (s : State) : Host.Outcome State Fault Refusal :=
  .next (
    if s.hub.busy.any (fun w => fld w 0 4 == 1) then
      match s.uploadRefusals img, s.freeId img with
      | [], some g =>
        let t := s.install g (s.freeAsid img) img
        if s.placedWell t (s.freeAsid img) img then t else s
      | l, _ => s.gcmdResult l
    else s)

/-! EXIT_DONE (R363). -/

/-- The last graph of an address space has exited: its buffers, fills and residency go. -/
def State.clearSpace (s : State) (a : Asid) : State :=
  { s with
    cores := s.cores.map (fun (p : Nat × Core) =>
      (p.1, { p.2 with
        heddle := p.2.heddle.filter (fun e => e.asid != a)
        tlb := p.2.tlb.filter (fun e => e.asid != a)
        walks := p.2.walks.filter (fun w => w.asid != a)
        passed := p.2.passed.filter (fun x => x.asid != a)
        spaces := p.2.spaces.filter (fun e => e.1 != a.toNat) }))
    l2 := s.l2.map (fun (p : Nat × List TlbEntry) => (p.1, p.2.filter (fun e => e.asid != a)))
    spaces := s.spaces.filter (fun e => e.1 != a.toNat)
    arrivals := s.arrivals.filter (fun r => r.asid != a)
    releases := s.releases.filter (fun r => r.asid != a) }

/-- Everything of a graph on every core ends, as by a kill of each of its groups (R327); its requests to owners go too. -/
def State.endGraph (s : State) (a : Asid) (p : Stamp → Bool) : State :=
  let cs := (s.cores.map (·.1)).foldl addCore ((s.parked.flatMap (fun l => l.2.map (fun m => m.msg.dst.toNat))).foldl addCore [])
  let cs := (s.graphs.flatMap (fun g => g.2.saved.map (·.core))).foldl addCore cs
  let s := (cs.foldl (fun s c => (s.endAll c p).dropMessages c p) s).dropSaved (fun v => p v.act.stamp)
  { s with
    tasks := s.tasks.filter (fun t => !(t.stamp.asid == a && p t.stamp))
    net := s.net.filter (fun m => !(m.owner.isSome && p m.stamp)) }

/-- What pre-emption saved with a graph that exits of the other graphs of its address space stays with the lowest of them. -/
def State.handOver (s : State) (g h : Nat) (p : Stamp → Bool) : State :=
  let y := s.graph g
  s.modGraph h (fun z => { z with saved := z.saved ++ y.saved, cmds := z.cmds ++ y.cmds.filter (fun m => !p m.stamp) })

/-- A resume that only waited for an exited graph's contexts is over. -/
def State.settleShared (s : State) (a : Asid) : State :=
  if (s.graphsOf a).any (fun h => (s.graph h).pre == .resuming) then s.settlePre a else s

/-- An exit: the graph is gone, and with the last graph its address space. The barrier counts of groups it shared stay (log 122). -/
def State.exitGraph (s : State) (g : Nat) : State :=
  let a := (s.graph g).asid
  let others := (s.graphsOf a).filter (fun h => h != g)
  let shared := !others.isEmpty
  let p (st : Stamp) : Bool := st.asid == a && (!shared || s.graphOfStamp st == some g)
  let s := s.endGraph a p
  let s := match others with
    | h :: _ => s.handOver g h p
    | [] => s
  let s := s.modGraph g (fun y =>
    { y with
      resident := false, exited := true, queued := [], running := none, saved := [], cmds := [], pre := .none, nodes := [],
      redwins := [], marked := false })
  let s := { s with tileDone := s.tileDone.filter (fun r => r.graph != g), lastExit := s.lastExit.put a.toNat g }
  let s := (if shared then s.settleShared a else s.clearSpace a).beginRetrains
  { s with hub := { s.hub with busy := none, result := 0, graph := g } }

/-- EXIT_DONE: the exit in progress has removed everything. -/
def execExitDone (s : State) : Host.Outcome State Fault Refusal :=
  .next (
    match s.hub.busy with
    | some w => if fld w 0 4 = 2 then s.exitGraph (fld w 16 48) else s
    | none => s)

end Sys2Proof.Machine
end

