-- ==== Sys2Proof/Machine/HostLink.lean ====
section
/-! DEFINITION. The host link: the hub's registers, the windows into device memory and the staging window, and the host's
reads and writes (20_host_and_boot R356-R360; 02 R41, R45; 18 R324; 19 R349). -/

namespace Sys2Proof.Machine

/-! Boot and attestation writes that BOOTCTL starts (R361, R365). -/

/-- BOOTSTAT.STATE changes; every change interrupts the host (R360). -/
def State.setBoot (s : State) (n : Nat) : State :=
  if s.hub.bootState = n then s else { s with hub := { s.hub with bootState := n } }.interrupt 3

/-- Bytes of the staging window, zero where the host has written none (log 1). -/
def State.staged (s : State) (off n : Nat) : List Byte := Memory.readN s.hub.staging off n

def State.stagedNat (s : State) (off n : Nat) : Nat := bytesNat (s.staged off n)

/-- The header of a staged image is well-formed: its magic, its length, parts that lie inside it, zeros where it has them (R361). How the
48 bytes at 0x10 and the first 16 at 0xC0 divide is log 121. -/
def State.headerOk (s : State) : Bool :=
  let len := s.stagedNat 0x08 8
  let part (o : Nat) : Bool := decide (s.stagedNat o 8 + s.stagedNat (o + 8) 8 ≤ len)
  s.stagedNat 0 4 == 0x53513934 && decide (0x100 ≤ len) && decide (len ≤ 0x4000000) &&
    part 0x10 && part 0x20 && part 0x30 && part 0xC0 && s.stagedNat 0xD0 48 == 0

/-- A number written big-endian. -/
def bigEndian (l : List Byte) : Nat := bytesNat l.reverse

/-- The image passes verification (R361): its signature over the digest of bytes 0 to 0x3F and 0x100 on, and its key. -/
def State.imageVerifies (s : State) : Bool :=
  let len := s.stagedNat 0x08 8
  let digest := sha256 (s.staged 0 0x40 ++ s.staged 0x100 (len - 0x100))
  let key := s.staged 0x40 64
  P256.verify (BitVec.ofNat 512 (bigEndian key)) digest (BitVec.ofNat 512 (bigEndian (s.staged 0x80 64))) &&
    sha256 key == Config.romKeyHash

/-- A write of BOOTCTL bit 0: the staged image is checked and verified, from a state in which the module waits for one
(R361, R362). -/
def State.download (s : State) : State :=
  if !([0, 2, 3].contains s.hub.bootState) then s
  else
    let s := s.setBoot 1
    if !s.headerOk then s.setBoot 3
    else if !s.imageVerifies then s.setBoot 2
    else
      let s := { s with hub := { s.hub with
        imageHash := sha256 (s.staged 0 (s.stagedNat 0x08 8)), imageVersion := BitVec.ofNat 32 (s.stagedNat 4 4) } }
      s.setBoot 4

/-- A write of BOOTCTL bit 1 asks for a report on the nonce written (R365). -/
def State.askReport (s : State) : State := { s with hub := { s.hub with attest := some s.hub.nonce } }

/-! Per-graph registers (R45, R324). -/

/-- GSTAT; QUEUED counts the launches that wait behind another (R43). -/
def Graph.gstat (y : Graph) : W64 :=
  BitVec.ofNat 64 (y.state + (if y.exited then 4 else 0) + y.err % 256 * 16 + y.waiting % 8 * 4096 + y.done.toNat * 65536)

/-- A per-graph register as it reads. -/
def Graph.read (y : Graph) (n : Nat) : W64 :=
  match n with
  | 0x00 => y.prio.setWidth 64
  | 0x08 => y.gstat
  | 0x10 => BitVec.ofNat 64 (y.exitDrop + y.parkDrop * 2 ^ 32)
  | 0x18 => BitVec.ofNat 64 (y.undl + y.lateEnd * 2 ^ 32)
  | 0x20 => y.gsave
  | 0x28 => y.gesc
  | 0x30 => y.gescpc
  | _ => BitVec.ofNat 64 (y.ended + y.dropped * 2 ^ 32)

/-- A per-graph register after it was read: its RC fields clear. -/
def Graph.cleared (y : Graph) (n : Nat) : Graph :=
  match n with
  | 0x08 => { y with err := 0 }
  | 0x10 => { y with exitDrop := 0, parkDrop := 0 }
  | 0x18 => { y with undl := 0, lateEnd := 0 }
  | 0x28 => { y with gesc := setFld y.gesc 48 16 0 }
  | 0x38 => { y with ended := 0, dropped := 0 }
  | _ => y

/-! The register region (R356). -/

/-- An offset names a register. -/
def isHubReg (o : Nat) : Bool :=
  o % 8 == 0 && (
    o == 0x0 || o == 0x8 || o == 0x20 || o == 0x28 || o == 0x30 ||
    (decide (0x10000 ≤ o) && decide (o < 0x11000)) ||
    (decide (0x20000 ≤ o) && decide (o < 0x20800)) ||
    (decide (0x30000 ≤ o) && decide (o < 0x30080)) || o == 0x30080 ||
    (decide (0x30100 ≤ o) && decide (o < 0x30120)) || o == 0x40000 || o == 0x40008 ||
    (decide (0x40040 ≤ o) && decide (o < 0x400A0)) || (decide (0x40200 ≤ o) && decide (o < 0x402C0)))

/-- Dword i of bytes. -/
def dwordOf (l : List Byte) (i : Nat) : W64 := bytesBv 64 ((l.drop (8 * i)).take 8)

/-- The window and interrupt registers, by index. -/
def finOf (n k : Nat) (h : 0 < n) : Fin n := ⟨k % n, Nat.mod_lt _ h⟩

/-- GCMDST (R363). -/
def Hub.gcmdst (h : Hub) : W64 :=
  BitVec.ofNat 64 ((if h.busy.isSome then 1 else 0) + h.result % 16 * 16 + h.graph % 64 * 256 + h.asid.toNat * 2 ^ 14 +
    h.name.toNat * 2 ^ 32)

/-- A register read: the value and the state after it (RC fields clear). What BOOTCTL reads as is not given (log 4). -/
def State.regRead (s : State) (o : Nat) : W64 × State :=
  let h := s.hub
  if 0x10000 ≤ o ∧ o < 0x11000 then
    let g := (o - 0x10000) / 64
    let n := (o - 0x10000) % 64
    ((s.graph g).read n, if n = 0x08 ∨ n = 0x10 ∨ n = 0x18 ∨ n = 0x28 ∨ n = 0x38 then s.modGraph g (fun y => y.cleared n) else s)
  else if 0x20000 ≤ o ∧ o < 0x20800 then
    let y := s.graph ((o - 0x20000) / 32)
    ([y.dstat, y.dsigp, y.dsigm, 0].getD ((o - 0x20000) % 32 / 8) 0, s)
  else if 0x30000 ≤ o ∧ o < 0x30080 then (h.hwin[finOf 16 ((o - 0x30000) / 8) (by decide)], s)
  else if 0x30100 ≤ o ∧ o < 0x30120 then (h.hint[finOf 4 ((o - 0x30100) / 8) (by decide)], s)
  else if 0x40040 ≤ o ∧ o < 0x40080 then (dwordOf (pairBytes h.attPub) ((o - 0x40040) / 8), s)
  else if 0x40080 ≤ o ∧ o < 0x400A0 then (dwordOf (bvBytes h.nonce 32) ((o - 0x40080) / 8), s)
  else if 0x40200 ≤ o ∧ o < 0x402C0 then (dwordOf h.report ((o - 0x40200) / 8), s)
  else
    match o with
    | 0x8 => (if h.trigErr then 1 else 0, { s with hub := { h with trigErr := false } })
    | 0x28 => (h.gcmdst, s)
    | 0x30 => (BitVec.ofNat 64 h.xdrop, { s with hub := { h with xdrop := 0 } })
    | 0x30080 => (BitVec.ofNat 64 h.herr, { s with hub := { h with herr := 0 } })
    | 0x40000 => (Config.freeWord s.fresh, { s with fresh := s.fresh + 1 })
    | 0x40008 => (BitVec.ofNat 64 (h.bootState + (if h.recRej then 16 else 0)), s)
    | _ => (0, s)

/-- HERR counts (R356). -/
def State.hostError (s : State) : State := { s with hub := { s.hub with herr := sat32 s.hub.herr } }

/-- A HWIN value is accepted: a size of 12 to 40, a base aligned to it, and in HBM, shared SRAM or scratchpads (R356). -/
def hwinOk (w : W64) : Bool :=
  let l := fld w 2 6
  let base := fld w 12 36 * 4096
  let inside (lo hi : Nat) : Bool := decide (lo ≤ base) && decide (base < hi)
  decide (12 ≤ l) && decide (l ≤ 40) && base % 2 ^ l == 0 &&
    (inside 0 hbmEnd || inside sramBase (sramBase + 0x20000000) || inside scratchBase (scratchBase + 0x20000000))

/-- A write of HWIN n. -/
def State.hwinWrite (s : State) (n : Fin 16) (w : W64) : State :=
  if hwinOk w then { s with hub := { s.hub with hwin := s.hub.hwin.set n (w &&& 0x0000FFFFFFFFF0FF) } } else s

/-- A write of a per-graph register: GCTL and GSAVE. A new PRIO takes effect at every treadle with the write (log 115). One with PREEMPT
and RESUME both set pre-empts and then resumes; R45 gives no order (log 90). -/
def State.graphWrite (s : State) (g n : Nat) (w : W64) : State :=
  if n = 0x00 then
    let s := s.modGraph g (fun y => { y with prio := w.setWidth 3 })
    let s := if bit w 8 then s.preempt g else s
    if bit w 9 then s.resume g else s
  else if n = 0x20 then s.modGraph g (fun y => { y with gsave := w &&& 0xFF0000001 })
  else s

/-- A register write (R356). -/
def State.regWrite (s : State) (o : Nat) (w : W64) : State :=
  if o = 0x0 then s.triggerWrite w
  else if o = 0x20 then s.gcmd w
  else if 0x10000 ≤ o ∧ o < 0x11000 then s.graphWrite ((o - 0x10000) / 64) ((o - 0x10000) % 64) w
  else if 0x30000 ≤ o ∧ o < 0x30080 then s.hwinWrite (finOf 16 ((o - 0x30000) / 8) (by decide)) w
  else if 0x30100 ≤ o ∧ o < 0x30120 then
    { s with hub := { s.hub with
      hint := s.hub.hint.set (finOf 4 ((o - 0x30100) / 8) (by decide)) (w &&& 0x0000FFFFFFFFFFFD) } }
  else if o = 0x40000 then
    let s := if bit w 0 then s.download else s
    if bit w 1 then s.askReport else s
  else if 0x40080 ≤ o ∧ o < 0x400A0 then
    let i := (o - 0x40080) / 8
    let l := bvBytes s.hub.nonce 32
    { s with hub := { s.hub with nonce := bytesBv 256 (l.take (8 * i) ++ bvBytes w 8 ++ l.drop (8 * i + 8)) } }
  else s

/-! Host link addresses (R356). -/

def linkRegs : Nat := 0x100000000000
def linkStaging : Nat := 0x100010000000

/-- What a host access reaches. -/
inductive Reach where
  | memory (pa : Nat)
  | registers (off : Nat)
  | staging (off : Nat)
  | shut
  | nothing

/-- Where an access of n bytes at a link address goes. Memory of a die whose hub link is retired is as beyond capacity (log 107). -/
def State.reach (s : State) (a n : Nat) (wr : Bool) : Reach :=
  if a < 2 ^ 44 then
    let w := s.hub.hwin[finOf 16 (a / 2 ^ 40) (by decide)]
    let o := a % 2 ^ 40
    let pa := fld w 12 36 * 4096 + o
    if bit w 0 && (!wr || bit w 1) && decide (o + n ≤ 2 ^ fld w 2 6) && (List.range n).all (fun i => s.populated (pa + i) && !s.hubCutAt (pa + i)) then
      .memory pa
    else .shut
  else if linkRegs ≤ a ∧ a + n ≤ linkRegs + 0x100000 then
    if a % 8 = 0 ∧ n % 8 = 0 then .registers (a - linkRegs) else .nothing
  else if linkStaging ≤ a ∧ a + n ≤ linkStaging + 0x4000000 then .staging (a - linkStaging)
  else .nothing

/-- Reads n registers in ascending order. -/
def State.readRegs (s : State) (o : Nat) : Nat → List Byte × State
  | 0 => ([], s)
  | n + 1 =>
    let r := if isHubReg o then s.regRead o else (BitVec.allOnes 64, s)
    let t := r.2.readRegs (o + 8) n
    (bvBytes r.1 8 ++ t.1, t.2)

/-- Writes registers in ascending order; an offset that names none counts in HERR. -/
def State.writeRegs (s : State) (o : Nat) : List W64 → State
  | [] => s
  | w :: r => (if isHubReg o then s.regWrite o w else s.hostError).writeRegs (o + 8) r

/-- A host read of n bytes at a link address; what it returned stands in `hostRead`. -/
def State.linkRead (s : State) (a n : Nat) : State :=
  let ones := List.replicate n (BitVec.allOnes 8)
  let give (l : List Byte) (t : State) : State := { t with hostRead := l }
  match s.reach a n false with
  | .memory pa => let r := s.hostBytes pa n; give r.1 r.2
  | .registers o => let r := s.readRegs o (n / 8); give r.1 r.2
  | .staging o => give (s.staged o n) s
  | .shut => give ones s.hostError
  | .nothing => give ones s

/-- Host bytes as one-flit writes of 32 bytes, in order (R357). -/
def State.hostFlits (s : State) (pa : Nat) (l : List Byte) : Nat → State
  | 0 => s
  | fuel + 1 =>
    if l = [] then s
    else
      let n := 32 - pa % 32
      (s.commitBytes pa (l.take n)).hostFlits (pa + n) (l.drop n) fuel

/-- A host write at a link address. -/
def State.linkWrite (s : State) (a : Nat) (l : List Byte) : State :=
  match s.reach a l.length true with
  | .memory pa => s.hostFlits pa l (l.length + 1)
  | .registers o => s.writeRegs o ((List.range (l.length / 8)).map (dwordOf l))
  | .staging o => { s with hub := { s.hub with staging := Memory.writeAll s.hub.staging o l } }
  | .shut => s.hostError
  | .nothing => s.hostError

/-! The events. -/

def execRegisterWrite (off : Nat) (w : W64) (s : State) : Host.Outcome State Fault Refusal :=
  .next (s.writeRegs off [w])

def execHwinWrite (n : Nat) (w : W64) (s : State) : Host.Outcome State Fault Refusal :=
  .next (if h : n < 16 then s.hwinWrite ⟨n, h⟩ w else s)

/-- The identity key: a private scalar of what the PUF yields (R365). -/
def identityKey : Nat := P256.scalar Config.puf

/-- The repair log as the host reads it: signed by the identity key (R339, R364). -/
def State.signedLog (s : State) : List Byte :=
  let b := repairBytes s.hub.repairLog
  recordJoin b (P256.sign identityKey (sha256 b) s.fresh)

/-- HOST_READ: n bytes at a link address; or of the hub's configuration space, where reading HEALTH takes its events (R338) and a port shows its
counters (R355). -/
def execHostRead (src : HostSrc) (n : Nat) (s : State) : Host.Outcome State Fault Refusal :=
  .next (
    match src with
    | .link a => s.linkRead a n
    | .health => { s.applyReg 0 0 0x880 (s.healthWord &&& 0xFFFF0000) with hostRead := bvBytes s.healthWord 8 }
    | .repairLog => { s with hostRead := s.signedLog, fresh := s.fresh + 256 }
    | .port p =>
      let x := s.ports.get p.val Port.init
      { s with hostRead := [x.replay, x.crcerr, x.flits, x.dropped].flatMap (fun w => bvBytes w 8) })

/-- HOST_WRITE: through the link, or to the host's own memory (R358). -/
def execHostWrite (dst : HostDst) (bytes : List Byte) (s : State) : Host.Outcome State Fault Refusal :=
  .next (
    match dst with
    | .link a => s.linkWrite a bytes
    | .own h => if h + bytes.length ≤ 2 ^ 47 then s.writeBytes (hostKey h) bytes else s)

/-- A host read of one hub register. -/
def State.readReg (s : State) (o : Nat) : State :=
  let r := s.readRegs o 1
  { r.2 with hostRead := r.1 }

def execGstatRead (graph : Nat) (s : State) : Host.Outcome State Fault Refusal :=
  .next (if graph < 64 then s.readReg (0x10008 + 64 * graph) else s)
def execGdropRead (graph : Nat) (s : State) : Host.Outcome State Fault Refusal :=
  .next (if graph < 64 then s.readReg (0x10010 + 64 * graph) else s)
def execGundlRead (graph : Nat) (s : State) : Host.Outcome State Fault Refusal :=
  .next (if graph < 64 then s.readReg (0x10018 + 64 * graph) else s)
def execGescRead (graph : Nat) (s : State) : Host.Outcome State Fault Refusal :=
  .next (if graph < 64 then s.readReg (0x10028 + 64 * graph) else s)
def execGkillsRead (graph : Nat) (s : State) : Host.Outcome State Fault Refusal :=
  .next (if graph < 64 then s.readReg (0x10038 + 64 * graph) else s)
def execTrigerrRead (s : State) : Host.Outcome State Fault Refusal := .next (s.readReg 0x8)
def execHerrRead (s : State) : Host.Outcome State Fault Refusal := .next (s.readReg 0x30080)
def execXdropRead (s : State) : Host.Outcome State Fault Refusal := .next (s.readReg 0x30)

def execBootDownload (s : State) : Host.Outcome State Fault Refusal := .next s.download

def execAttestRequest (s : State) : Host.Outcome State Fault Refusal := .next s.askReport

end Sys2Proof.Machine
end

