-- ==== Sys2Proof/Machine/Boot.lean ====
section
/-! DEFINITION. Power-up, boot and attestation (20_host_and_boot R361-R366; 19_resilience_and_links R333-R340; 09 R193; 02
R26). -/

namespace Sys2Proof.Machine

/-- POWER_UP: nothing of the module survives but the host's and the peers' memory; the identity key is derived (R361, R365). -/
def execPowerUp (s : State) : Host.Outcome State Fault Refusal :=
  .next { State.reset with
    mem := s.mem.filter (fun c => isExt c.1)
    agenda := s.agenda
    fresh := s.fresh
    stamp := s.stamp
    hostRead := s.hostRead
    hub := { Hub.init with attPub := P256.publicOf identityKey } }

/-! Self-test and repair (R333, R335, R337, R193, R364). -/

/-- A bank that the module has (R170-R172). -/
def bankExists (b : Bank) : Bool :=
  match b with
  | .scratch cl k => decide (cl < 128) && decide (k < 64)
  | .sram d sl k => decide (d < 4) && decide (sl < 64) && decide (k < 40)
  | .tcm c k => (Id.isCompute c || Id.isBank c) && decide (k * 32768 < tcmSize c)

/-- Spare rows of a bank in use, of the 8 it has (R333). -/
def Capacity.spareRows (c : Capacity) (b : Bank) : Nat :=
  match c.rowSpares.find? (fun e => e.1 == b) with
  | some e => e.2
  | none => 0

/-- One more spare row of a bank is in use. -/
def Capacity.useSpare (c : Capacity) (b : Bank) : Capacity :=
  { c with rowSpares := (b, c.spareRows b + 1) :: c.rowSpares.filter (fun e => e.1 != b) }

/-- The bank of a core's TCM that a bank is, if it is one. -/
def bankOfCore (b : Bank) (c : Nat) : Bool :=
  match b with
  | .tcm k _ => k == c
  | _ => false

/-- A spare core takes a core's place: its TCM has rows of its own (R335). What self-test did to them is not given: they have all
their spares (log 92). -/
def Capacity.freshTcm (p : Capacity) (c : Nat) : Capacity :=
  { p with
    rowSpares := p.rowSpares.filter (fun e => !bankOfCore e.1 c)
    sramRows := p.sramRows.filter (fun e => !bankOfCore e.1.bank c)
    scheduled := p.scheduled.filter (fun r => !bankOfCore r.bank c)
    noSpare := p.noSpare.filter (fun r => !bankOfCore r.bank c) }

/-- A failing compute core goes to a spare of its cluster, or is no longer provided (R335, R336). -/
def State.retireCompute (s : State) (c : Nat) : State :=
  let cl := Id.clusterNo c
  let used := s.capacity.spares.get cl 0
  if used < 2 then
    let h := s.hub.health
    { s with
      capacity := { s.capacity.freshTcm c with spares := s.capacity.spares.put cl (used + 1) }
      hub := { s.hub with health := setFld h 32 9 (fld h 32 9 - 1) } }.healthEvent 3 (.core c)
  else { s with capacity := { s.capacity with lostCores := addCore s.capacity.lostCores c } }.healthEvent 4 (.core c)

def State.retireBank (s : State) (c : Nat) : State :=
  { s with capacity := { s.capacity with lostBankCores := addCore s.capacity.lostBankCores c } }.healthEvent 4 (.core c)

def State.retireChannel (s : State) (e : Nat × Nat) : State :=
  if s.capacity.lostChannels.contains e then s
  else { s with capacity := { s.capacity with lostChannels := e :: s.capacity.lostChannels } }.healthEvent 5 (.channel e.1 e.2)

/-- The capacity map is rewritten (R340). -/
def State.rewriteMap (s : State) : State := { s with capacity := { s.capacity with gen := s.capacity.gen + 1 } }

/-- A failing row of a bank goes to a spare row; a bank with more failing rows than spares is lost (R333). -/
def Capacity.failRow (p : Capacity × List Bank) (r : Row) : Capacity × List Bank :=
  if !bankExists r.bank || p.2.contains r.bank then p
  else if p.1.spareRows r.bank < 8 then (p.1.useSpare r.bank, p.2)
  else (p.1, p.2 ++ [r.bank])

/-- The banks of a slice of a die's shared SRAM among lost ones. -/
def lostOfSlice (l : List Bank) (d sl : Nat) : Nat :=
  (l.filter (fun b => match b with
    | .sram x y _ => x == d && y == sl
    | _ => false)).length

/-- The loss of banks at boot, applied under R193: the scratchpads lose them, every slice of a die's shared SRAM counts as many as
its poorest. `l` are all that are lost, `new` those lost now. -/
def State.loseBanks (s : State) (l new : List Bank) : State :=
  let scratch := l.filterMap (fun b => match b with
    | .scratch cl k => some (cl, k)
    | _ => none)
  let q (d : Nat) : Nat := (List.range 64).foldl (fun a sl => min a (40 - lostOfSlice l d sl)) 40
  let s := { s with capacity := { s.capacity with lostBanks := scratch, sramQ := (List.range 4).map (fun d => (d, q d)) } }
  new.foldl (fun s b => s.healthEvent 10 (.bank b)) s

/-- A core whose TCM fails at boot is retired (R335, R336). -/
def State.retireCore (s : State) (c : Nat) : State :=
  if !s.provided c then s else if Id.isCompute c then s.retireCompute c else s.retireBank c

/-- Elements of a list once each. -/
def once {α : Type} [BEq α] (l : List α) : List α := l.foldl (fun a x => if a.contains x then a else a ++ [x]) []

/-- The core whose TCM a bank is part of. -/
def tcmOf (b : Bank) : Option Nat :=
  match b with
  | .tcm c _ => some c
  | _ => none

/-- Findings are applied (R333): rows, the banks and cores they cost, cores, pseudo-channels. `p` holds the state and the banks lost so
far; those of a TCM are not kept, since a spare core brings its own. -/
def applyFindings (p : State × List Bank) (t : SelfTest) : State × List Bank :=
  let q := (once t.rows).foldl Capacity.failRow (p.1.capacity, p.2)
  let new := q.2.drop p.2.length
  let s := { p.1 with capacity := q.1 }.loseBanks q.2 new
  let named := (t.cores.map (·.toNat)).filter (fun c => Id.isCompute c || Id.isBank c)
  let s := (once (new.filterMap tcmOf ++ named)).foldl State.retireCore s
  (((once t.channels).filter (fun e => decide (e.1 < 8) && decide (e.2 < 64))).foldl State.retireChannel s,
    q.2.filter (fun b => (tcmOf b).isNone))

/-! Field records (R364). -/

/-- The banks that entries of a repair log name as lost. -/
def recordedBanks (l : List RepairEvent) : List Bank :=
  once (l.filterMap (fun e => match e.what with
    | .bank b => some b
    | _ => none))

/-- What else entries name: rows, cores, the cores of lost banks of a TCM, and pseudo-channels. Those that name a link change nothing
(log 74). -/
def recordedFindings (l : List RepairEvent) : SelfTest :=
  { pass := true
    rows := l.filterMap (fun e => match e.what with
      | .row r => some r
      | _ => none)
    cores := l.filterMap (fun e => match e.what with
        | .core c => some (BitVec.ofNat 16 c)
        | _ => none) ++ ((recordedBanks l).filter bankExists).filterMap (fun b => (tcmOf b).map (BitVec.ofNat 16))
    channels := l.filterMap (fun e => match e.what with
      | .channel t c => some (t, c)
      | _ => none) }

/-- The field records are applied: the banks lost at an earlier boot, then what else they name (R333, R364). The banks lost so far
come with the state. -/
def State.applyRecords (s : State) (l : List RepairEvent) : State × List Bank :=
  let bs := (recordedBanks l).filter (fun b => bankExists b && (tcmOf b).isNone)
  applyFindings (if bs = [] then s else s.loseBanks bs bs, bs) (recordedFindings l)

/-- What verified field records name is applied first, and then what self-test found (R364). -/
def State.applySelfTest (s : State) (records : List RepairEvent) (t : SelfTest) : State :=
  (applyFindings (s.applyRecords records) t).1

/-- The repair records of the staged image: none where it holds none; else the entries of the log they are, or `none` where their
signature is not the identity key's (R361, R364). -/
def State.fieldRecords (s : State) : Option (List RepairEvent) :=
  let n := s.stagedNat 0xC8 8
  if n = 0 then some []
  else
    let b := s.staged (s.stagedNat 0xC0 8) n
    let p := recordSplit b
    if P256.verify s.hub.attPub (sha256 p.1) p.2 then some (recordEvents p.1 p.1.length) else none

/-- The runtime's table base of every core (R26). -/
def State.bootTables (s : State) : State :=
  (s.places.filter (fun p => decide (p < 100000))).foldl (fun s c =>
    s.modCore c (fun k => { k with rvtbase := BitVec.ofNat 64 (runtimeArea c) })) s

/-- BOOT_READY: firmware is loaded, self-test and repair have run, the map is written, and the module is ready, or self-test
failed (R362). Records that fail verification are ignored (R364). -/
def execBootReady (t : SelfTest) (s : State) : Host.Outcome State Fault Refusal :=
  .next (
    if s.hub.bootState ≠ 4 then s
    else
      let records := s.fieldRecords
      let s := { s with hub := { s.hub with recRej := records.isNone } }
      let s := (s.applySelfTest (records.getD []) t).rewriteMap.bootTables
      s.setBoot (if t.pass then 5 else 6))

/-! Attestation (R365). -/

/-- The first 0x80 bytes of a report. -/
def State.reportBody (s : State) (nonce : BitVec 256) : List Byte :=
  let hash : BitVec 256 := if s.hub.bootState = 5 then s.hub.imageHash else 0
  bvBytes nonce 32 ++ (bvBytes hash 32).reverse ++ bvBytes s.hub.imageVersion 4 ++ bvBytes Config.romVersion 4 ++
    bvBytes s.healthWord 8 ++ bvBytes s.capacity.gen 8 ++ List.replicate 40 0

/-- ATTEST_REPORT: the report asked for appears, signed by the identity key. -/
def execAttestReport (s : State) : Host.Outcome State Fault Refusal :=
  .next (
    match s.hub.attest with
    | none => s
    | some n =>
      let body := s.reportBody n
      let sig := P256.sign identityKey (sha256 body) s.fresh
      { s with
        fresh := s.fresh + 256
        hub := { s.hub with attest := none, report := body ++ pairBytes sig } })

/-! Power (R366). -/

/-- POWER_LIMIT: the clock goes down one step of 100 MHz. -/
def execPowerLimit (s : State) : Host.Outcome State Fault Refusal :=
  .next { s with clock := if 100 < s.clock then s.clock - 100 else s.clock }

end Sys2Proof.Machine
end

