-- ==== Sys2Proof/Machine/Control.lean ====
section
/-! DEFINITION. Branches, loops, jumps and the end of an activation (04_scalar_and_control R80-R83), traps, returns and waits
(R97-R99), and the signature check (19 R343). -/

namespace Sys2Proof.Machine

/-- A conditional branch (R80). -/
def branch (a b : Reg) (i : Half) (cond : W64 → W64 → Bool) : M Unit := do
  okG a
  okG b
  let p ← operands [a, b] none
  let s ← get
  if cond (← readG p a) (← readG p b) then jumpTo (rel16 s.cur.line i) (some true)
  else modify (fun s => s.retire s.cur.next false (some false))

def execBeq (a b : Reg) (i : Half) (s : State) := insn (branch a b i (· == ·)) s
def execBne (a b : Reg) (i : Half) (s : State) := insn (branch a b i (· != ·)) s
def execBlt (a b : Reg) (i : Half) (s : State) := insn (branch a b i BitVec.slt) s
def execBge (a b : Reg) (i : Half) (s : State) := insn (branch a b i (fun x y => !x.slt y)) s
def execBltu (a b : Reg) (i : Half) (s : State) := insn (branch a b i BitVec.ult) s
def execBgeu (a b : Reg) (i : Half) (s : State) := insn (branch a b i (fun x y => !x.ult y)) s

/-- LOOP (R81). With g0 as the counter the write is discarded and G(D) reads zero. -/
def execLoop (d : Reg) (i : Half) (s : State) := insn (do
  okGOnly d
  writeG d ((← readG [] d) - 1)
  let s ← get
  if (← readG [] d) ≠ 0 then jumpTo (rel16 s.cur.line i) (some true)
  else modify (fun s => s.retire s.cur.next false (some false))) s

def execJmp (i : BitVec 32) (s : State) := insn (jumpTo (rel32 s.cur.line i) none) s

def execJal (d : Reg) (i : BitVec 32) (s : State) := insn (do
  okG d
  let _ ← operands [] (some d)
  writeG d s.cur.next
  jumpTo (rel32 s.cur.line i) none) s

def execJalr (d a : Reg) (i : Half) (s : State) := insn (do
  okG d
  okG a
  let p ← operands [a] (some d)
  let t := (← readG p a) + i.signExtend 64
  writeG d s.cur.next
  jumpTo t none) s

/-- ENDA up to its commit (R83): every store checked, a record traps with TPC at this ENDA, and the chunk ends; CHUNK_COMMIT
goes on with the rest. A finished ordered task waits for headship there (16 R302). -/
def enda (t : Bool) : M Unit := do
  drain
  let s ← get
  if s.regs.sfq ≠ [] then modify (fun s => s.storeFaultTrap s.cur.core s.cur.slot s.regs.pc)
  else doneEnding (.enda t)

def execEnda (s : State) := insn (enda false) s
def execEndaT (s : State) := insn (enda true) s

/-- TRAP (R97): the trap is taken with TPC at the head that follows; inside a handler, or without one, it escalates at
its own PC (R323, R324; log 70). -/
def execTrap (c : BitVec 7) (s : State) := insn (do
  notOnHart
  let s ← get
  if s.me.trapHeld s then throw .hold else
  modify (fun s =>
    (if s.regs.escalates then s else s.advance).takeTrap s.cur.core s.cur.slot s.cur.next Cause.programTrap 0 false
      (c.setWidth 64) none)) s

/-- ERET (R98): the handler's chunk ends and commits; CHUNK_COMMIT then leaves the handler. -/
def execEret (s : State) := insn (do
  refuseIf (!s.regs.inHandler)
  chunkEnds
  doneEnding .eret) s

/-- WAITI (R99): the slot pauses; it has completed when it wakes. -/
def execWaiti (s : State) := insn (do
  notOnHart
  done
  let s ← get
  if s.me.trapPending then pure () else
  modify (fun (s : State) => s.modMe (fun x => { x with phase := .wait .waiti }))) s

/-- SIGCHK (R343): a mismatch is contained; otherwise SKIP clears and the signature restarts. It is not fed itself (R341). -/
def execSigchk (i : Half) (s : State) := insn (do
  let r := s.regs
  if bit r.sigcfg 0 && !bit r.sigcfg 1 && r.sigacc.setWidth 16 != i then throw (.contain none) else
  done
  modify (fun s => s.modRegs (fun r => { r with sigcfg := r.sigcfg &&& 1, sigacc := 0xFFFF }))) s

end Sys2Proof.Machine
end

