-- ==== Sys2Proof/Machine/Queues.lean ====
section
/-! DEFINITION. Queue bindings and streams (10_queues_streams_copies R195-R202). -/

namespace Sys2Proof.Machine

/-- A queue with a new binding. -/
def Queue.bound (b : Binding) (count : Nat) : Queue :=
  { bind := b, entries := [], count := count, closed := false, fetched := [] }

/-- QBIND (R197). -/
def bindSlot (d : Reg) (ps : BitVec 3) (hi : BitVec 8) (b : Binding) : M Unit := do
  notOnHart
  let i ← okQ d
  freeQueue i
  let s ← get
  refuseIf (hi != 0 || ps.toNat == s.cur.slot || (ps.toNat == 7 && s.cur.slot != 7))
  setQueue i (Queue.bound b 0)
  done

def execQbind (d : Reg) (pq : BitVec 4) (ps : BitVec 3) (hi : BitVec 8) (s : State) :=
  insn (bindSlot d ps hi (.consumer ps.toNat pq.toFin)) s
def execQbindProd (d : Reg) (pq : BitVec 4) (ps : BitVec 3) (hi : BitVec 8) (s : State) :=
  insn (bindSlot d ps hi (.producer ps.toNat pq.toFin)) s

/-- Bytes of a stream element (R200). -/
def streamBytes (w : StreamW) : Nat :=
  match w with
  | .w4 => 4
  | .w16 => 16
  | .w64 => 64

/-- A pattern descriptor of four dwords; none where R200 refuses it. -/
def patternOf (d0 d1 d2 d3 : W64) (w : Nat) : Option Pattern :=
  let p : Pattern :=
    { base := d0, n0 := fld d1 0 16, n1 := fld d1 16 16, n2 := fld d1 32 16,
      st0 := d2.setWidth 32, st1 := d2.extractLsb' 32 32, st2 := d3.setWidth 32, w := w }
  if fld d0 57 7 = 0 ∧ fld d1 48 16 = 0 ∧ fld d3 32 32 = 0 ∧ p.n0 ≠ 0 ∧ p.n1 ≠ 0 ∧ p.n2 ≠ 0 then some p else none

/-- QSTREAM (R200): the descriptor is loads of the chunk. -/
def bindStream (w : StreamW) (wr : Bool) (d a : Reg) : M Unit := do
  notOnHart
  let i ← okQ d
  okG a
  freeQueue i
  let p ← operands [a] none
  let va ← accessAddr (← readG p a) 0 32 4
  let b ← memLoad va 32
  let dw (k : Nat) : W64 := bytesBv 64 ((b.drop (8 * k)).take 8)
  match patternOf (dw 0) (dw 1) (dw 2) (dw 3) (streamBytes w) with
  | none => illegalOperand
  | some pt => do
    setQueue i (Queue.bound (.stream wr pt 0) (pt.n0 * pt.n1 * pt.n2))
    done

def execQstream (w : StreamW) (d a : Reg) (s : State) := insn (bindStream w false d a) s
def execQstreamWr (w : StreamW) (d a : Reg) (s : State) := insn (bindStream w true d a) s

/-- QSTAT.OCC (R196). It stays at 8 where a squash has returned popped entries to those fetched ahead (R201). -/
def State.queueOcc (s : State) (i : Fin 16) : Nat :=
  let x := s.regs.q[i]
  match x.bind with
  | .unbound => x.entries.length
  | .consumer _ _ => x.entries.length
  | .producer sl pq => s.pushPlaces s.cur.core s.cur.slot i sl pq
  | .stream true _ _ => 0
  | .labels .. => if x.count ≤ 8 then x.count else 8
  | _ => min 8 (x.fetched.takeWhile (fun f => match f with
      | .fail _ => false
      | _ => true)).length

/-- QSTAT.FAULTED (R196). -/
def Queue.faulted (x : Queue) : Bool :=
  match x.fetched with
  | .fail _ :: _ => true
  | _ => false

/-- The word QSTAT writes (R196). -/
def State.qstat (s : State) (i : Fin 16) : W64 :=
  let x := s.regs.q[i]
  let k := x.kind
  let cnt := if k ≤ 2 then 2 ^ 32 - 1 else if x.count < 2 ^ 32 then x.count else 2 ^ 32 - 1
  BitVec.ofNat 64 (cnt + s.queueOcc i % 256 * 2 ^ 32 + k * 2 ^ 40 + (if x.closed then 2 ^ 43 else 0) +
    (if x.faulted then 2 ^ 44 else 0))

def execQstat (d a : Reg) (s : State) := insn (do
  notOnHart
  okG d
  let i ← okQ a
  let _ ← operands [] (some d)
  writeG d ((← get).qstat i)
  done) s

/-- A kind 4 queue waits until every element pushed in a committed chunk has been written (R196). -/
def waitWritten (x : Queue) : M Unit := do
  let s ← get
  if x.kind = 4 ∧ s.me.ext ≠ [] then throw .hold else pure ()

/-- QFLUSH (R196). -/
def Queue.flush (x : Queue) : Queue :=
  match x.bind with
  | .unbound => { x with entries := [] }
  | .consumer _ _ => { x with entries := [] }
  | .rows kv _ => { x with bind := .rows kv [], count := 0, fetched := [] }
  | _ => { x with count := 0, fetched := [] }

def execQflush (d : Reg) (s : State) := insn (do
  notOnHart
  let i ← okQ d
  let x := (← get).regs.q[i]
  refuseIf (x.kind == 2)
  waitWritten x
  setQueue i x.flush
  done) s

/-- QUNBIND (R196): the partner of a slot-bound queue becomes CLOSED when the chunk commits (R198, R226). -/
def execQunbind (d : Reg) (s : State) := insn (do
  notOnHart
  let i ← okQ d
  let x := (← get).regs.q[i]
  waitWritten x
  match x.bind with
  | .consumer sl pq => act (.close sl pq i)
  | .producer sl pq => act (.close sl pq i)
  | _ => pure ()
  setQueue i Queue.empty
  done) s

end Sys2Proof.Machine
end

