-- ==== Sys2Proof/Machine/Gathers.lean ====
section
/-! DEFINITION. Gathers and scatters (10_queues_streams_copies R215-R219). -/

namespace Sys2Proof.Machine

/-- What a gather lane's address resolves to: a location, or a cause of R215. -/
abbrev LaneAt := Nat × W64 × Except Nat Nat

/-- A lane's address resolved now: a lane whose translation no buffer holds has cause 1 (R216). -/
def resolveLane (e : Nat × W64) : M LaneAt := do
  let s ← get
  let c := s.cur.core
  let va := e.2
  if va.toNat < tcmSize c then pure (e.1, va, .ok (tcmKey c va.toNat))
  else if 2 ^ 57 ≤ va.toNat then pure (e.1, va, .error Code.address)
  else
    match s.lookup c s.cur.slot s.me.asid va with
    | .pending => pure (e.1, va, .error 1)
    | .fail code => pure (e.1, va, .error code)
    | .poison k => throw (.contain (some (k, 8)))
    | .page p => do
      modify (fun s => s.touch c p)
      pure (e.1, va, s.access c s.me.side (s.cur.slot == 7) .load p va)

/-- GFAULT's word (R215). -/
def gfaultWord (l : List LaneAt) : W64 :=
  BitVec.ofNat 64 (l.foldl (fun a e =>
    match e.2.2 with
    | .error c => a + c % 16 * 16 ^ e.1
    | .ok _ => a) 0)

/-- The lanes with data. -/
def gathered (l : List LaneAt) : List (Nat × W64 × Nat) :=
  l.filterMap (fun e =>
    match e.2.2 with
    | .ok k => some (e.1, e.2.1, k)
    | .error _ => none)

def laneMask (l : List (Nat × W64 × Nat)) : W64 := BitVec.ofNat 64 (l.foldl (fun a e => a + 2 ^ e.1) 0)

/-- What .t does with the causes (R216): it waits while a walk runs, and raises the lowest failing lane's fault. -/
inductive Tight where
  | go
  | walks
  | fail (code : Nat) (va : W64)
  deriving DecidableEq, Repr

def tightOf (l : List LaneAt) : Tight :=
  if l.any (fun e => match e.2.2 with
    | .error 1 => true
    | _ => false) then .walks
  else
    match l.find? (fun e => match e.2.2 with
      | .error _ => true
      | .ok _ => false) with
    | some (_, va, .error c) => .fail c va
    | _ => .go

/-- Walks are asked for every lane that needs one (R216). -/
def State.askWalks (s : State) (l : List LaneAt) : State :=
  l.foldl (fun s e =>
    match e.2.2 with
    | .error 1 => s.askWalk e.2.1
    | _ => s) s

/-- The lanes of a gather (R216). Without .t a lane that needs a walk reports cause 1; with .t the slot waits for its walks
and the instruction begins again, so `none` says that it waits. `start` is the state before the instruction. -/
def resolveLanes (start : State) (t : Bool) (es : List (Nat × W64)) : M (Option (List LaneAt)) := do
  let s ← get
  if es ≠ [] ∧ s.fenced s.cur.core s.cur.slot then throw .hold else
  let l ← es.mapM resolveLane
  if t then
    match tightOf l with
    | .go => pure (some l)
    | .walks => do
      set ((start.askWalks l).modMe (fun x => { x with phase := .wait .gather }))
      pure none
    | .fail c va => throw (.trap Cause.dataAccess va (BitVec.ofNat 4 (if c = Code.far then Code.permission else c)) none none)
  else do
    modify (fun s => s.askWalks l)
    pure (some l)

/-- The gather's base: a flat address, a multiple of 4 (R216). -/
def gatherBase (base : W64) : M Unit := do
  refuseIf (bit base 63)
  if base.toNat % 4 ≠ 0 then stopTrap Cause.misaligned base else pure ()

def execGath (t : Bool) (d a b : Reg) (mk : Fin 8) (s : State) := insn (do
  notOnHart
  let start ← get
  okV d
  okG a
  okV b
  refuseKnown [a, b] (fun v => (v a).any (bit · 63))
  let p ← operands [a, b] (some d)
  let base ← readG p a
  let idx ← readV p b
  gatherBase base
  let act := activeLanes 16 (← maskOf mk)
  match ← resolveLanes start t (act.map (fun i => (i, base + BitVec.ofNat 64 (4 * lane 32 idx i)))) with
  | none => pure ()
  | some l => do
    let g := gathered l
    let xs ← g.mapM (fun e => do pure (e.1, bytesNat (← loadAt e.2.2 4)))
    writeV d (putLanes 32 (← oldV d) xs)
    writeM (.m mk) (laneMask g)
    modify (fun s => s.modRegs (fun r => { r with gfault := gfaultWord l }))
    done) s

/-- The strips of a row: 64 bytes each but the last (R217). -/
def rowStrips (va : W64) (rowb : Nat) : List Strip :=
  (List.range ((rowb + 63) / 64)).map (fun j =>
    { va := va + BitVec.ofNat 64 (64 * j), len := if 64 * (j + 1) ≤ rowb then 64 else rowb - 64 * j })

/-- The row word GATHQ takes (R217). -/
def rowsOk (r : W64) : Bool :=
  fld r 0 9 != 0 && decide (fld r 0 9 ≤ 256) && fld r 9 7 == 0 && fld r 48 16 == 0 && fld r 16 32 % 4 == 0

def execGathq (t : Bool) (d a b c : Reg) (mk : Fin 8) (s : State) := insn (do
  notOnHart
  let start ← get
  let i ← okQ d
  okG a
  okV b
  okG c
  freeQueue i
  refuseKnown [a, b, c] (fun v => (v a).any (bit · 63) || (v c).any (fun r => !rowsOk r))
  let p ← operands [a, b, c] none
  let base ← readG p a
  let idx ← readV p b
  let r ← readG p c
  let rowb := fld r 0 9
  refuseIf (!rowsOk r)
  gatherBase base
  let act := activeLanes 16 (← maskOf mk)
  match ← resolveLanes start t (act.map (fun j => (j, base + BitVec.ofNat 64 (fld r 16 32 * lane 32 idx j)))) with
  | none => pure ()
  | some l => do
    let g := gathered l
    let strips := g.flatMap (fun e => rowStrips e.2.1 rowb)
    writeM (.m mk) (laneMask g)
    modify (fun s => s.modRegs (fun r => { r with gfault := gfaultWord l }))
    setQueue i { bind := .rows false strips, entries := [], count := strips.length, closed := false, fetched := [] }
    modify (fun s => s.modMe (fun x => { x with acqOld := x.acqOld.filter (· != i.val) }))
    done) s

/-- The addresses of a scatter: the base and four times each lane's index (R218). -/
def scatterAt (base : W64) (idx : V512) (mask : W64) (src : Nat) : M (List (Nat × W64)) :=
  elementsAt base (fun i => BitVec.ofNat 64 (4 * lane 32 idx i)) 4 (activeLanes 16 mask) src

def execScat (a b c : Reg) (mk : Fin 8) (s : State) := insn (do
  notOnHart
  okG a
  okV b
  okV c
  let p ← operands [a, b, c] none
  let es ← scatterAt (← readG p a) (← readV p b) (← maskOf mk) srcOther
  storeElements es 32 (← readV p c) 3 2
  done) s

/-- Where a lane of SCATA lies (R219): own TCM is refused; host memory and a far page fail permission. -/
def scataKey (va : W64) : M Nat := do
  let s ← get
  refuseIf (decide (va.toNat < tcmSize s.cur.core))
  match ← xlate va .both with
  | .error code =>
    throw (.trap Cause.dataAccess va (BitVec.ofNat 4 (if code = Code.far then Code.permission else code)) none none)
  | .ok k =>
    if isConfig k then throw (.fault .configSpace)
    else if isExt k && decide (k < 2 ^ 48) then dataFault Code.permission va
    else pure k

/-- A lane of a flat base lies in the issuer's own TCM (R219). Of a label base that is known only from the translation, an act of
execution, and `scataKey` refuses the lane in its turn (log 113). -/
def ownLane (core : Nat) (lanes : List Nat) (h : W64) (idx : V512) : Bool :=
  !bit h 63 && lanes.any (fun i => decide ((h + BitVec.ofNat 64 (4 * lane 32 idx i)).toNat < tcmSize core))

/-- SCATA (R219): a lane in own TCM is refused before every fault of execution, a pop's among them (R71). The request joins the open batch
and leaves with the chunk. -/
def execScata (int : Bool) (a b c : Reg) (mk : Fin 8) (s : State) := insn (do
  notOnHart
  okG a
  okV b
  okV c
  let ls := activeLanes 16 (← maskOf mk)
  let core := (← get).cur.core
  if [a, b, c].any isQ then do
    let h ← peekG a
    let idx ← peekV b
    refuseIf (h.any (fun h => idx.any (ownLane core ls h)))
  else pure ()
  let p ← operands [a, b, c] none
  let h ← readG p a
  let idx ← readV p b
  let x ← readV p c
  refuseIf (ownLane core ls h idx)
  let lanes ← elementsWith h (fun i => BitVec.ofNat 64 (4 * lane 32 idx i)) 4 ls 4 (fun i va => do
      let k ← scataKey va
      pure (k, (← get).live va k, BitVec.ofNat 32 (lane 32 x i)))
  act (.request (.scata int lanes) (← get).regs.pc)
  modify (fun s => s.modRegs Regs.openBatch)
  done) s

end Sys2Proof.Machine
end

