-- ==== Sys2Proof/Machine/Links.lean ====
section
/-! DEFINITION. Die links and peer ports: flits, windows, retrains, retirement, unreachable peers, peers' writes
(19_resilience_and_links R350-R355; 02 R32, R33; 11 R236). -/

namespace Sys2Proof.Machine

/-! Flits (R352). -/

/-- One more error attributed to a lane. -/
def bumpLane (t : List (Lane × Nat)) (x : Lane) : List (Lane × Nat) :=
  (x, Lnk.count t x + 1) :: t.filter (fun e => e.1 != x)

/-- The sequence number a receiver expects after a good flit: the next one's delivery moves it on, and a duplicate, or one ahead
of its turn, is discarded (R352). -/
def nextFlit (expected seq : Nat) : Nat := if seq = expected then seq + 1 else expected

/-- A flit at a receiver: counted, and with a CRC error replayed, its failing lanes charged. -/
def Link.flit (x : Link) (atB : Bool) (seq : Nat) (crcOk : Bool) (lanes : List (Nat × Nat)) : Link :=
  let x := { x with flits := x.flits + 1, winFlits := x.winFlits + 1 }
  if crcOk then
    if atB then { x with seqB := nextFlit x.seqB seq } else { x with seqA := nextFlit x.seqA seq }
  else
    let ls := lanes.map (fun l => { mod := l.1, dir := atB, lane := l.2 : Lane })
    { x with
      crcerr := x.crcerr + 1, replay := x.replay + 1, winReplay := x.winReplay + 1
      lanes := ls.foldl bumpLane x.lanes, window := ls.foldl bumpLane x.window }

/-- A flit at a peer port, at the peer's end or the module's, in the same way (R355). -/
def Port.flit (x : Port) (atB : Bool) (seq : Nat) (crcOk : Bool) : Port :=
  let x := { x with flits := x.flits + 1 }
  if !crcOk then { x with crcerr := x.crcerr + 1, replay := x.replay + 1 }
  else if atB then { x with seqB := nextFlit x.seqB seq }
  else { x with seqA := nextFlit x.seqA seq }

/-- FLIT_RECEIVE on a die link, or on peer port 18 + n (R355). Nothing crosses a link that retrains (R351). -/
def execFlitReceive (link : Nat) (atB : Bool) (seq : Nat) (crcOk : Bool) (lanes : List (Nat × Nat)) (s : State) :
    Host.Outcome State Fault Refusal :=
  .next (
    if link < 18 then
      let x := Lnk.get s link
      if x.down || x.training then s
      else Lnk.put s link (x.flit atB seq crcOk (lanes.filter (fun l => decide (l.1 < Lnk.modules link) && decide (l.2 < 68))))
    else if link < 30 then
      { s with ports := s.ports.put (link - 18) ((s.ports.get (link - 18) Port.init).flit atB seq crcOk) }
    else s)

/-! Degradation (R354). -/

/-- The log of 16 entries takes one more. -/
def logEntry (l : List W64) (e : W64) : List W64 := (if l.length < 16 then l else l.drop 1) ++ [e]

/-- An entry of LNK_DEGRADE (R353). Of an event that names no lane the lane fields are left open, and so is the module time
(log 4): `open_` gives them. -/
def degradeWord (kind : Nat) (lane : Option Lane) (rate : Nat) (open_ : W64) : W64 :=
  let at_ := match lane with
    | some e => e.mod % 16 * 2 ^ 8 + e.lane % 128 * 2 ^ 12 + (if e.dir then 2 ^ 19 else 0)
    | none => fld open_ 0 12 * 2 ^ 8
  BitVec.ofNat 64 (kind + at_ + rate % 8 * 2 ^ 20 + fld open_ 32 32 * 2 ^ 32)

/-- A step down: its log entry, the retrain it asks for, the degrade message and the link interrupt. -/
def State.degrade (s : State) (l : Nat) (x : Link) (kind : Nat) (lane : Option Lane) : State :=
  let e := degradeWord kind lane (fld x.rate 0 3) (Config.freeWord s.fresh)
  let s := (Lnk.put { s with fresh := s.fresh + 1 } l { x with log := logEntry x.log e }).beginRetrain l
  let x := Lnk.get s l
  let c := fld x.trap 0 16
  let s := if bit x.trap 24 && Id.isCompute c && s.provided c then
      let m := Message.plain (BitVec.ofNat 16 c) (BitVec.ofNat 8 (fld x.trap 16 8))
        { Stamp.none Id.treadle 0 with lpri := 7 } [BitVec.ofNat 64 l, e, Lnk.rateWord x]
      { s with net := s.net ++ [m] }
    else s
  s.interrupt 2

/-- The lane that holds at least three quarters of a window's attributed errors, with a spare of its direction unused. -/
def Link.worst (x : Link) : Option Lane :=
  let total := x.window.foldl (fun a e => a + e.2) 0
  (x.window.find? (fun e => decide (0 < e.2) && decide (3 * total ≤ 4 * e.2) && decide (Lnk.used x e.1.mod e.1.dir < 4) &&
    Lnk.count x.retired e.1 == 0)).map (·.1)

/-- LINK_WINDOW_END: after 2^WLOG flits; over budget the link takes one step. A lane's retirement and a change of rate
retrain it (R351). -/
def execLinkWindowEnd (link : Nat) (s : State) : Host.Outcome State Fault Refusal :=
  .next (
    let x := Lnk.get s link
    if 18 ≤ link ∨ x.down ∨ x.winFlits < 2 ^ fld x.budget 16 5 then s
    else
      let y := { x with window := [], winReplay := 0, winFlits := 0 }
      if x.winReplay ≤ fld x.budget 0 16 then Lnk.put s link y
      else
        match (if bit x.budget 24 then none else x.worst) with
        | some e =>
          let y := { y with retired := (e, 64 + Lnk.used x e.mod e.dir) :: y.retired, rate := y.rate ||| 0x200 }
          (s.degrade link y 1 (some e)).healthEvent 6 (.lane link e.mod e.dir e.lane)
        | none =>
          let cur := fld x.rate 0 3
          if 0 < cur then
            let y := { y with rate := setFld (setFld y.rate 0 3 (cur - 1)) 4 3 (cur - 1) ||| 0x200 }
            let s := s.degrade link y 2 none
            if cur - 1 < 2 then s.healthEvent 7 (.link link) else s
          else (s.degrade link y 3 none).healthEvent 8 (.link link))

/-- RETRAIN_DONE: a retraining link comes up at its target rate; one that cannot train even at 16 GT/s is retired (R351,
R354). A base die's bank cores and pseudo-channels then fail, and go at the next quiesces as R336 and R337 have it
(`State.coreFails`, `State.channelFails`; until then they serve, log 83). -/
def execRetrainDone (link : Nat) (trained : Bool) (s : State) : Host.Outcome State Fault Refusal :=
  .next (
    let x := Lnk.get s link
    if 18 ≤ link ∨ x.down ∨ !x.training then s
    else if trained then
      Lnk.put s link { x with rate := setFld (setFld x.rate 9 1 0) 0 3 (fld x.rate 4 3), training := false }
    else
      let y := { x with rate := setFld (setFld (setFld x.rate 9 1 0) 0 3 0) 4 3 0, training := false, down := true }
      (s.degrade link y 4 none).healthEvent 9 (.link link))

/-! Peers (R355, R236). -/

/-- PEER_UNREACHABLE: the unacknowledged writes to the peer are dropped and counted at its port, as those made later are; which
interrupt tells the host is not given (log 4). -/
def execPeerUnreachable (peer : Nat) (s : State) : Host.Outcome State Fault Refusal :=
  .next (
    if 4096 ≤ peer ∨ s.unreachable.contains peer then s
    else
      let lost := s.cores.foldl (fun a p => p.2.slots.foldl (fun a q =>
        a + (q.2.ext.filter (fun v => ofPeer peer v.key)).length) a) 0
      let s := { s.loseWrites peer lost with
        fresh := s.fresh + 1
        unreachable := s.unreachable ++ [peer]
        cores := s.cores.map (fun (p : Nat × Core) => (p.1, { p.2 with slots := p.2.slots.map (fun (q : Nat × Slot) =>
          (q.1, { q.2 with ext := q.2.ext.filter (fun v => !ofPeer peer v.key) })) })) }
      s.interrupt (finOf 4 (Config.freeWord (s.fresh - 1)).toNat (by decide)))

/-- The stamp of a peer's data arrival (R33): what it carries of the remote kicker where that names a graph of the module. -/
def State.peerStamp (s : State) (asid : Asid) (lpri : BitVec 3) (group : BitVec 8) (lseq : BitVec 48)
    (node tx ty tz : BitVec 16) : Stamp :=
  if (s.graphsOf asid).isEmpty then Stamp.none Id.treadle asid
  else
    { src := Id.treadle, lpri := lpri, group := group, asid := asid, lseq := lseq, node := node, tx := tx, ty := ty, tz := tz,
      side := .none }

/-- PEER_WRITE: a peer's flit reaches device memory, or a TCM with its arrival, which carries the TCM address and the length (R15) and
no sequence (log 105). A write to what holds nothing, or into a die whose hub link is retired (R354), is lost. -/
def execPeerWrite (dst : PeerDst) (bytes : List Byte) (s : State) : Host.Outcome State Fault Refusal :=
  .next (
    match dst with
    | .mem pa =>
      if (List.range bytes.length).all (fun i =>
          (isHbm (pa + i) || isSram (pa + i) || isScratch (pa + i)) && s.populated (pa + i) && !s.hubCutAt (pa + i)) then
        s.commitBytes pa bytes
      else s
    | .tcm core off typ asid lpri group lseq node tx ty tz =>
      if s.provided core.toNat && decide (off + bytes.length ≤ tcmSize core.toNat) && !s.hubCut core.toNat then
        let s := s.commitBytes (tcmKey core.toNat off) bytes
        s.written (Message.plain core (typ.getD 0xF9) (s.peerStamp asid lpri group lseq node tx ty tz)
          [BitVec.ofNat 64 off, BitVec.ofNat 64 bytes.length])
      else s)

end Sys2Proof.Machine
end

