-- ==== Sys2Proof/Machine/MatrixUnit.lean ====
section
/-! DEFINITION. The matrix unit at work: the arbiter's rounds, operand reads, results and faults (13_matrix_unit R250-R271;
07 R140-R146). -/

namespace Sys2Proof.Machine

/-! Operands (R254-R258, R267, R271). -/

/-- A range of bytes a command needs: the operand in the codes of R262, the first address, the length. -/
structure Need where
  opnd : Nat
  va : Nat
  len : Nat
  deriving DecidableEq, Repr

/-- The rows of a panel and its scale or offset array: `o` is 0 for A and 1 for B. -/
def panelNeeds (o : Nat) (f h scl : W64) (rows k : Nat) : List Need :=
  let code := fmtCode f
  let pitch := fmtPitch f
  (List.range rows).flatMap (fun r =>
    if code = 19 then [{ opnd := 2 + o, va := scl.toNat + 4 * (r * pitch / 64), len := 4 * (k / 64) }]
    else
      let data : Need := { opnd := o, va := h.toNat + r * pitch, len := (k * elemBits code + 7) / 8 }
      if isMx code then
        let bb := if code = 18 then 16 else 32
        [data, { opnd := 2 + o, va := scl.toNat + r * (pitch / bb), len := k / 32 }]
      else [data])

/-- Bytes of an element of the record's values. -/
def MCmd.eb (c : MCmd) : Nat := elemBits (fmtCode c.fa) / 8

/-- What the body of a record holds for a command: rows of each term, then the residual entries (R267, R271). -/
def MCmd.bodyNeeds (c : MCmd) : List Need :=
  let base := c.a.toNat + 64
  let sz := Rec.size c.pat c.k c.eb
  (List.range c.terms).flatMap (fun t => (List.range c.m).flatMap (fun i =>
    [{ opnd := 5, va := base + t * sz + i * Rec.rv c.pat c.k c.eb, len := Rec.rv c.pat c.k c.eb },
     { opnd := 5, va := base + t * sz + Rec.vb c.pat c.k c.eb + i * Rec.rm c.pat c.k, len := Rec.rm c.pat c.k }])) ++
  [{ opnd := 5, va := base + c.terms * sz, len := 8 * c.nres }]

def MCmd.needs (c : MCmd) : List Need :=
  (if c.structured then c.bodyNeeds else panelNeeds 0 c.fa c.a c.sa c.m c.k) ++ panelNeeds 1 c.fb c.b c.sb c.n c.k

/-- Where an address of an operand lies: the issuing core's TCM or its cluster's scratchpad; else a cause of R262. Where placement and
another cause apply, the order is the model's (log 118). A NEAR page is permission to a core that is far from it (R182), and placement to
one that is near (R256). An address of 2^57 or more is translation (log 103). -/
def State.operandKey (s : State) (c : MCmd) (va : Nat) : State × Except Nat Nat :=
  if va < tcmSize c.core then (s, .ok (tcmKey c.core va))
  else
    let v : W64 := BitVec.ofNat 64 va
    let judge (e : TlbEntry) : Except Nat Nat :=
      let k := e.place c.stamp.side v
      if !Leaf.r e.leaf || (Leaf.near e.leaf && !nearTo c.core (hbmStack k)) then .error 2
      else if Leaf.near e.leaf || Leaf.peerv e.leaf then .error 5
      else if isScratch k && scratchCluster k == Id.clusterNo c.core then (if s.populated k then .ok k else .error 4)
      else if s.populated k then .error 5
      else .error 4
    if 2 ^ 57 ≤ va then (s, .error 1)
    else
      match ((s.core c.core).tlb.find? (fun e => e.holds c.stamp.asid va)).or
          ((s.l2.get (Id.die c.core) []).find? (fun e => e.holds c.stamp.asid va)) with
      | some e => (s.touch c.core e, judge e)
      | none =>
        match s.walked c.stamp.asid v with
        | (s, .page e) => (s.fill c.core e, judge e)
        | (s, .fail x) => (s, .error (x - 1))
        | (s, .poison k) => (s.noteConsumed k 8, .error 8)
        | (s, .pending) => (s, .error 1)

/-- What a command has read, or the fault it met. -/
abbrev Reading := State × List Flit × Option CmdFault

/-- Reads the flit of an operand that holds an address, once. -/
def readFlit (c : MCmd) (opnd va : Nat) (r : Reading) : Reading :=
  let at_ := va / 32 * 32
  if r.2.2.isSome || r.2.1.any (fun f => f.opnd == opnd && f.va == at_) then r
  else
    match r.1.operandKey c va with
    | (s, .error x) => (s, r.2.1, some { opnd := opnd, cause := x, va := BitVec.ofNat 64 va })
    | (s, .ok k) =>
      let k := k / 32 * 32
      if s.badRange k 32 then (s.noteConsumed k 32, r.2.1, some { opnd := opnd, cause := 8, va := BitVec.ofNat 64 va })
      else (s.correctRange k 32, r.2.1 ++ [{ opnd := opnd, va := at_, key := k, bytes := Memory.readN s.mem k 32 }], none)

/-- Reads the flits of a range. -/
def readNeed (c : MCmd) (r : Reading) (n : Need) : Reading :=
  if n.len = 0 then r
  else
    (List.range ((n.va + n.len - 1) / 32 - n.va / 32 + 1)).foldl (fun r i =>
      readFlit c n.opnd (if i = 0 then n.va else (n.va / 32 + i) * 32) r) r

/-- A byte of an operand as the flits hold it. -/
def flitByte (fl : List Flit) (opnd va : Nat) : Byte :=
  match fl.find? (fun f => f.opnd == opnd && f.va == va / 32 * 32) with
  | some f => f.bytes.getD (va % 32) 0
  | none => 0

def flitBytes (fl : List Flit) (opnd va n : Nat) : List Byte := (List.range n).map (fun i => flitByte fl opnd (va + i))

/-- The block of a CX8 operand in a row: where it begins (R255). -/
def cxStart (fl : List Flit) (o : Nat) (f h scl : W64) (r b : Nat) : Nat :=
  h.toNat + bytesNat (flitBytes fl (2 + o) (scl.toNat + 4 * (r * fmtPitch f / 64 + b)) 4)

/-- Reads a block flit by flit until it is whole; a malformed one is a fault (R142). -/
def readBlock (c : MCmd) (opnd start : Nat) (len : Nat) : Nat → Reading → Reading
  | 0, r => r
  | fuel + 1, r =>
    let n := 32 - (start + len) % 32
    let r := readFlit c opnd (start + len) r
    if r.2.2.isSome then r
    else
      match Cx.block (flitBytes r.2.1 opnd start (len + n)) with
      | .short => readBlock c opnd start (len + n) fuel r
      | .bad => (r.1, r.2.1, some { opnd := opnd, cause := 6, va := BitVec.ofNat 64 start })
      | .ok _ => r

/-- Reads the CX8 blocks of an operand. -/
def readBlocks (c : MCmd) (o : Nat) (f h scl : W64) (rows : Nat) (r : Reading) : Reading :=
  if fmtCode f ≠ 19 then r
  else
    (List.range rows).foldl (fun r i => (List.range (c.k / 64)).foldl (fun r b =>
      if r.2.2.isSome then r else readBlock c (6 + o) (cxStart r.2.1 o f h scl i b) 0 16 r) r) r

/-! The record (R267, R271). -/

/-- A group of a term: its values with their positions, in stored order. -/
def MCmd.termGroup (c : MCmd) (fl : List Flit) (t i g : Nat) : List (Nat × Nat) :=
  let n := (Rec.nm c.pat).1
  let lm := Rec.log2M c.pat
  let base := c.a.toNat + 64 + t * Rec.size c.pat c.k c.eb
  let idx := bytesNat (flitBytes fl 5 (base + Rec.vb c.pat c.k c.eb + i * Rec.rm c.pat c.k) (Rec.rm c.pat c.k))
  (List.range n).map (fun v =>
    ((Rec.nm c.pat).2 * g + idx / 2 ^ (Rec.f c.pat * g + v * lm) % 2 ^ lm,
     bytesNat (flitBytes fl 5 (base + i * Rec.rv c.pat c.k c.eb + (n * g + v) * c.eb) c.eb)))

/-- The residual entries' dwords. -/
def MCmd.residuals (c : MCmd) (fl : List Flit) : List W64 :=
  (List.range c.nres).map (fun j =>
    bytesBv 64 (flitBytes fl 5 (c.a.toNat + 64 + c.terms * Rec.size c.pat c.k c.eb + 8 * j) 8))

/-- Positions strictly rise. -/
def rising : List Nat → Bool
  | a :: b :: r => decide (a < b) && rising (b :: r)
  | _ => true

/-- The residual entries are in order and well-formed; entries of a row of M or more are not read (R271), but
stand before the next one in the order (log 104). -/
def residualsOk (m k : Nat) : List W64 → Option Nat → Bool
  | [], _ => true
  | e :: r, prev =>
    let row := fld e 0 5
    let key := row * 2048 + fld e 16 11
    if m ≤ row then residualsOk m k r (some key)
    else
      fld e 5 11 == 0 && fld e 27 5 == 0 && decide (fld e 16 11 < k) &&
        (match prev with
          | some p => decide (p < key)
          | none => true) && residualsOk m k r (some key)

/-- The body is not malformed (R271). -/
def MCmd.bodyOk (c : MCmd) (fl : List Flit) : Bool :=
  (List.range c.terms).all (fun t => (List.range c.m).all (fun i => (List.range (c.k / (Rec.nm c.pat).2)).all (fun g =>
    rising ((c.termGroup fl t i g).map (·.1))))) &&
    residualsOk c.m c.k (c.residuals fl) none

/-! Starting (R261). -/

/-- Where the accumulator lies. -/
def State.accumulator (s : State) (c : MCmd) : Option Nat :=
  if bit c.target 63 then s.windowAt c.core c.stamp c.target 1024 else some (tcmKey c.core c.target.toNat)

/-- The checks of the accumulator (R256-R258, R346): the failing address of an error is that of its row (R263). -/
def State.accFault (s : State) (c : MCmd) : Option CmdFault :=
  let f (x : Nat) : Option CmdFault := some { opnd := 4, cause := x, va := c.target }
  let bad (i : Nat) : Bool := s.badRange (tcmKey c.core c.target.toNat + 64 * i) (4 * c.n)
  if bit c.target 63 then (if c.stamp.side ≠ .none then f 2 else if (s.accumulator c).isNone then f 5 else none)
  else ((List.range c.m).find? bad).map (fun i => { opnd := 4, cause := 8, va := c.target + BitVec.ofNat 64 (64 * i) })

/-- An error in a TCM accumulator is consumed (R335). -/
def State.noteAccumulator (s : State) (c : MCmd) : State :=
  match (List.range c.m).find? (fun i => s.badRange (tcmKey c.core c.target.toNat + 64 * i) (4 * c.n)) with
  | some i => if bit c.target 63 then s else s.noteConsumed (tcmKey c.core c.target.toNat + 64 * i) (4 * c.n)
  | none => s

/-- Reads the operands of a command as it starts, in the order of the operand codes of R262. Which address of a malformed
record counts as the failing one is a free value (log 4); the order among several faults is log 71. -/
def State.startReads (s : State) (c : MCmd) : Reading :=
  if c.m = 0 ∨ c.n = 0 ∨ c.k = 0 then (s, [], none)
  else
    let ns := c.needs
    let r := (([0, 1, 2, 3].flatMap (fun o => ns.filter (fun n => n.opnd == o)))).foldl (readNeed c) (s, [], none)
    let acc := if r.2.2.isSome then none else r.1.accFault c
    let r := (if acc.isSome then r.1.noteAccumulator c else r.1, r.2.1, r.2.2.or acc)
    let r := (ns.filter (fun n => n.opnd == 5)).foldl (readNeed c) r
    if r.2.2.isSome then r
    else if c.structured && !c.bodyOk r.2.1 then
      ({ r.1 with fresh := r.1.fresh + 1 }, r.2.1, some { opnd := 5, cause := 7, va := Config.freeWord r.1.fresh })
    else
      let r := if c.structured then r else readBlocks c 0 c.fa c.a c.sa c.m r
      readBlocks c 1 c.fb c.b c.sb c.n r

/-- MFRX at a fault (R262). -/
def mfrxWord (num opnd cause : Nat) : W64 := BitVec.ofNat 64 (num % 2 ^ 32 + opnd * 2 ^ 32 + cause * 2 ^ 40 + 2 ^ 63)

/-- Records a command's fault (R262, R263). -/
def State.matrixFault (s : State) (c : MCmd) (f : CmdFault) : State :=
  let order := s.stamp
  let s := { s with stamp := s.stamp + 1 }
  let w := mfrxWord c.num f.opnd f.cause
  let pc := c.pc &&& 0x01FFFFFFFFFFFFFE
  let x := s.slot c.core c.slot
  if x.act.any (fun a => a.id == c.act) then
    if bit x.oldest.mfrx 63 then s
    else
      let r := s.cancelQueued c.core c.act
      let w := setFld w 48 8 (satAdd 0 r.2 255)
      r.1.modSlot c.core c.slot (fun x =>
        { x.everywhere (fun g => { g with mfr := pc, mfrx := w }) with
          matrix := x.matrix ++ [{ order := order, tval := f.va, k0 := c.pc, k1 := w }] })
  else
    let r := s.cancelQueued c.core c.act
    let w := setFld w 48 8 (satAdd 0 r.2 255)
    { r.1 with net := r.1.net ++ [orphan c.core c.stamp { order := order, tval := f.va, k0 := c.pc, k1 := w } true] }

/-! The arbiter (R252). -/

/-- The first core of an octet numbered 0 to 1,023. -/
def octetBase (o : Nat) : Nat := Id.compute (o / 256) (o / 8 % 32) (8 * (o % 8))

/-- Moves the arbiter to the next command it may start, beginning a round where one ends: a visit lasts while a command it found
still waits. -/
def State.nextVisit (s : State) (base : Nat) (u : MUnit) : Nat → MUnit
  | 0 => u
  | fuel + 1 =>
    if u.visit < 8 ∧ (s.waiting u (base + u.visit)).any (fun m => u.taken.contains m.issue) then u
    else if 7 ≤ u.visit then
      if (List.range 8).all (fun i => (s.waiting u (base + i)).isEmpty) then { u with visit := 8, taken := [] }
      else s.nextVisit base (s.beginRound base u) fuel
    else s.nextVisit base (s.visitCore base u (u.visit + 1)) fuel

/-- The command the arbiter starts next. -/
def State.nextCmd (s : State) (base : Nat) (u : MUnit) : Option MCmd :=
  if u.visit < 8 then (s.waiting u (base + u.visit)).find? (fun m => u.taken.contains m.issue) else none

/-- MATRIX_COMMAND_START: the arbiter of an octet starts the next command: it translates and reads the operands, and a fault
found is recorded. -/
def execMatrixCommandStart (octet : Nat) (s : State) : Host.Outcome State Fault Refusal :=
  let base := octetBase octet
  let u := s.nextVisit base (s.munit base) 20
  let put (s : State) (u : MUnit) : State := { s with munits := s.munits.put base u }
  .next (
    match s.nextCmd base u with
    | none => put s u
    | some c =>
      let r := s.startReads c
      let s := put r.1 { u with running := u.running ++ [{ cmd := c, flits := r.2.1, fault := r.2.2 }] }
      match r.2.2 with
      | some f => s.matrixFault c f
      | none => s)

/-! Results (R146, R261, R271). -/

/-- The codes of a panel's rows; a CX8 block decodes to E4M3. -/
def rowCodes (fl : List Flit) (o : Nat) (f h scl : W64) (rows k : Nat) : List (List Nat) :=
  let code := fmtCode f
  let pitch := fmtPitch f
  (List.range rows).map (fun r =>
    if code = 19 then
      (List.range (k / 64)).flatMap (fun b =>
        match Cx.block (flitBytes fl (6 + o) (cxStart fl o f h scl r b) 97) with
        | .ok l => l
        | _ => List.replicate 64 0)
    else if code = 18 then
      (List.range k).map (fun i => (flitByte fl o (h.toNat + r * pitch + i / 2)).toNat / (if i % 2 = 0 then 1 else 16) % 16)
    else
      let eb := elemBits code / 8
      (List.range k).map (fun i => bytesNat (flitBytes fl o (h.toNat + r * pitch + i * eb) eb)))

/-- The scale code of each 32-element block of a row: 127 where the format has none. -/
def rowScales (fl : List Flit) (o : Nat) (f scl : W64) (r b : Nat) : Nat :=
  let code := fmtCode f
  if isMx code then
    (flitByte fl (2 + o) (scl.toNat + r * (fmtPitch f / (if code = 18 then 16 else 32)) + b)).toNat
  else 127

/-- The values of a panel's element. -/
def valueOf (code c : Nat) : Val :=
  match mxElem code with
  | some f => f.decode c
  | none => .zero false

/-- The values a command's A supplies at each position of a row: one each for a panel; those of a record that are not zero. -/
def MCmd.supply (c : MCmd) (fl : List Flit) : List (List (List Val)) :=
  if c.structured then
    let res := c.residuals fl
    (List.range c.m).map (fun i =>
      let es := (List.range c.terms).flatMap (fun t =>
        (List.range (c.k / (Rec.nm c.pat).2)).flatMap (fun g =>
          (c.termGroup fl t i g).map (fun e => (e.1, valueOf (fmtCode c.fa) e.2)))) ++
        (res.filter (fun e => fld e 0 5 == i)).map (fun e => (fld e 16 11, FFmt.fp32.decode (fld e 32 32)))
      (List.range c.k).map (fun k => (es.filter (fun e => e.1 == k && !e.2.isZero)).map (·.2)))
  else (rowCodes fl 0 c.fa c.a c.sa c.m c.k).map (fun r => r.map (fun x => [valueOf (fmtCode c.fa) x]))

/-- A list cut into pieces of g; `fuel` bounds their number. -/
def pieces {α : Type} (g : Nat) : Nat → List α → List (List α)
  | 0, _ => []
  | fuel + 1, l => if l.isEmpty then [] else l.take g :: pieces g fuel (l.drop g)

/-- One output of a floating command from its old value. -/
def dotOut (g : Nat) (old : Nat) (ps : List (List Prod)) : Nat × Flags :=
  Mx.groups old ((pieces g (ps.length + 1) ps).map List.flatten)

/-- The results of a command over the old accumulator, with its flags. -/
def MCmd.results (c : MCmd) (fl : List Flit) (old : Nat → Nat → Nat) : List (List Nat) × Flags :=
  let fa := fmtCode c.fa
  let fb := fmtCode c.fb
  let bs := rowCodes fl 1 c.fb c.b c.sb c.n c.k
  if fa = 7 then
    let as := rowCodes fl 0 c.fa c.a c.sa c.m c.k
    (as.mapIdx (fun i r => bs.mapIdx (fun j q => Mx.intSum (old i j) (r.zip q))), 0)
  else
    let g := cmdGroup fa fb
    let bv := bs.map (fun r => r.map (valueOf fb))
    let r := (c.supply fl).mapIdx (fun i row => bv.mapIdx (fun j q =>
      let ps := (row.zip q).mapIdx (fun k e =>
        let sa := rowScales fl 0 c.fa c.sa i (k / 32)
        let sb := rowScales fl 1 c.fb c.sb j (k / 32)
        e.1.map (fun a => ({ a := a, b := e.2, scale := sa + sb, nan := sa == 255 || sb == 255 } : Prod)))
      let o := dotOut g (old i j) ps
      let skip := c.structured && (row.zip q).any (fun e => e.1.isEmpty && (e.2.isInf || e.2.isNan))
      (o.1, o.2 ||| (if skip then Fl.sknf else 0))))
    (r.map (fun l => l.map (·.1)), r.foldl (fun a l => l.foldl (fun a x => a ||| x.2) a) 0)

/-- Each flit of a panel reads as it stood at the start or as it stands now, by a free choice (R258); a scale array of an MX
panel likewise. What decides where others lie keeps the bytes of the start. -/
def settleFlits (s : State) (c : MCmd) (l : List Flit) (n : Nat) : List Flit :=
  l.mapIdx (fun i f =>
    let free := f.opnd ≤ 1 ∨ (f.opnd = 2 ∧ isMx (fmtCode c.fa)) ∨ (f.opnd = 3 ∧ isMx (fmtCode c.fb))
    if free ∧ Config.freeBit (n + i) ∧ !s.badRange f.key 32 then { f with bytes := Memory.readN s.mem f.key 32 } else f)

/-- Sums that the bank adders commit as a write of the unit (R258). -/
def State.commitSums (s : State) (k : Nat) (b : List Byte) : State :=
  if b = [] then s else (s.writeSums k b).published s.mem (linesOf k b.length) none

/-- Adds a row to a window at the bank adders, a flit at a time (R225, R258). -/
def State.windowAdd (s : State) (int : Bool) (k : Nat) (row : List Nat) : State :=
  (List.range ((row.length + 7) / 8)).foldl (fun s q =>
    let x := (row.drop (8 * q)).take 8
    let old := Memory.readN s.mem (k + 32 * q) (4 * x.length)
    s.commitSums (k + 32 * q) ((x.mapIdx (fun j v =>
      let o := bytesNat ((old.drop (4 * j)).take 4)
      natBytes (scataAdd int o v) 4)).flatten)) s

/-- Writes a row to a TCM accumulator, a flit at a time, each a delivery (R258). -/
def State.writeRow (s : State) (k : Nat) (row : List Nat) : State :=
  (List.range ((row.length + 7) / 8)).foldl (fun s q =>
    s.commitBytes (k + 32 * q) (((row.drop (8 * q)).take 8).flatMap (fun v => natBytes v 4))) s

/-- The unit's flags join MSTAT of the issuing slot, and no squash undoes it (R264). -/
def State.matrixFlags (s : State) (c : MCmd) (fl : Flags) : State :=
  if (s.slot c.core c.slot).act.any (fun a => a.id == c.act) then
    s.modSlot c.core c.slot (fun x => x.everywhere (fun r => { r with mstat := r.mstat ||| fl.setWidth 64 }))
  else s

/-- A command's accumulator writes and flags. It reads a TCM accumulator here too, in the step that writes it (log 22). -/
def State.finishCmd (s : State) (r : Running) : State :=
  let c := r.cmd
  if r.fault.isSome ∨ c.m = 0 ∨ c.n = 0 ∨ c.k = 0 then s
  else
    match s.accumulator c with
    | none => s
    | some k =>
      let fl := settleFlits s c r.flits s.fresh
      let s := { s with fresh := s.fresh + r.flits.length }
      let win := bit c.target 63
      let s := if win then s else (List.range c.m).foldl (fun t i => t.correctRange (k + 64 * i) (4 * c.n)) s
      let old (i j : Nat) : Nat := if win then 0 else bytesNat (Memory.readN s.mem (k + 64 * i + 4 * j) 4)
      let o := c.results fl old
      let s := o.1.zipIdx.foldl (fun s e =>
        if win then s.windowAdd (fmtCode c.fa == 7) (k + 64 * e.2) e.1 else s.writeRow (k + 64 * e.2) e.1) s
      s.matrixFlags c o.2

/-- The started commands that may complete: the oldest of each core (R250). -/
def oldestOfCores (l : List Running) : List Running :=
  l.foldl (fun a r => if a.any (fun x => x.cmd.core == r.cmd.core) then a else a ++ [r]) []

/-- MATRIX_COMMAND_COMPLETE: a started command completes, one of the oldest of each core by a free choice. Its accumulator writes lie
outside chunks (R235), so that no priority request withholds them (R232). -/
def execMatrixCommandComplete (octet : Nat) (s : State) : Host.Outcome State Fault Refusal :=
  let base := octetBase octet
  let u := s.munit base
  let l := oldestOfCores u.running
  .next (
    match l[(Config.freeWord s.fresh).toNat % l.length]? with
    | none => s
    | some r =>
      let s := State.finishCmd { s with fresh := s.fresh + 1 } r
      let same (m : MCmd) : Bool := m.act == r.cmd.act && m.num == r.cmd.num
      let s := { s with munits := s.munits.put base { u with running := u.running.filter (fun x => !(x.cmd.core == r.cmd.core && same x.cmd)) } }
      s.modCore r.cmd.core (fun k => { k with mq := k.mq.filter (fun m => !same m) }))

end Sys2Proof.Machine
end

