-- ==== Sys2Proof/Machine/Messages.lean ====
section
/-! DEFINITION. Sends (04_scalar_and_control R88-R92; 19 R346) and migration (15_attention_and_selection R288-R292). -/

namespace Sys2Proof.Machine

/-- A payload dword: register first + i (R90). -/
def Regs.payload (r : Regs) (first n : Nat) : List W64 :=
  (List.range n).map (fun i => if h : first + i < 32 then r.readG ⟨first + i, h⟩ else 0)

/-- A destination SEND and SENDV may name (R89, R346). -/
def State.sendTo (s : State) (st : Stamp) (x : W64) : Bool :=
  decide (x.toNat < 65536) && s.provided x.toNat && (st.side == .none || s.inSets st (x.setWidth 16))

/-- A group SENDG may name: a valid entry; on a redundant node every member lies in the node's core sets (R89, R346). -/
def State.sendGroup (s : State) (st : Stamp) (x : W64) : Bool :=
  decide (x.toNat < 256) &&
    match s.group st.asid (x.setWidth 8) with
    | none => false
    | some g => st.side == .none || g.members.all (fun c => s.inSets st c)

/-- A send that is not refused (R90): it is held, or with .now it leaves at the commit that ends the chunk. -/
def sendOut (h : Held) (now : Bool) : M Unit := do
  let s ← get
  if now then do
    chunkEnds
    act (.send h)
    doneEnding .go
  else if 16 ≤ s.regs.held.length then stopTrap Cause.heldOverflow 0
  else do
    modify (fun s => s.modRegs (fun r => { r with held := r.held ++ [h] }))
    done

/-- The three sends (R88-R90); `v` is the vector payload register and `grp` SENDG. -/
def sendMsg (d a : Reg) (v : Option Reg) (t : BitVec 8) (n : BitVec 3) (nack now grp : Bool) : M Unit := do
  notOnHart
  okG a
  match d with
  | .g first => do
    refuseIf (decide (0 < n.toNat) && decide (32 < first.val + n.toNat))
    refuseIf (decide (0xE0 ≤ t.toNat) && slotClass (← get).cur.slot != 2)
    match v with
    | some r => okVOnly r
    | none => pure ()
    let p ← operands [a] none
    let x ← readG p a
    let s ← get
    let st := s.stampOf s.cur.core s.cur.slot
    refuseIf (!(if grp then s.sendGroup st x else s.sendTo st x))
    let vec ← match v with
      | some r => do pure (some (← readV p r))
      | none => pure none
    let m := { Message.plain (if grp then 0 else x.setWidth 16) t st (s.regs.payload first.val n.toNat) with
      nackReq := nack, vec := vec, fromSlot := s.cur.slot }
    sendOut { msg := m, group := if grp then some (x.setWidth 8) else none } now
  | _ => illegalOperand

def execSend (d a : Reg) (t : BitVec 8) (n : BitVec 3) (nack now : Bool) (s : State) :=
  insn (sendMsg d a none t n nack now false) s
def execSendv (d a b : Reg) (t : BitVec 8) (n : BitVec 3) (nack now : Bool) (s : State) :=
  insn (sendMsg d a (some b) t n nack now false) s
def execSendg (d a : Reg) (t : BitVec 8) (n : BitVec 3) (nack now : Bool) (s : State) :=
  insn (sendMsg d a none t n nack now true) s

/-- MIGRATE once its target is known (R290): portability, the checks of the stores, a pending record, and the chunk's end;
the context ships at the commit. A pop of S1 has been made when R289's reasons are judged (log 130). -/
def migrateTo (dst : CoreId) : M Unit := do
  let s ← get
  let why := s.portReasons s.cur.core s.cur.slot
  if why ≠ 0 then stopTrap Cause.nonPortable why else
  drain
  let s ← get
  if s.regs.sfq ≠ [] then modify (fun s => s.storeFaultTrap s.cur.core s.cur.slot s.regs.pc)
  else do
    chunkEnds
    let pc := (← get).cur.next
    doneEnding (.migrate dst pc)

def execMigrate (a : Reg) (hi : BitVec 15) (s : State) := insn (do
  notOnHart
  refuseIf (hi != 0)
  okG a
  let p ← operands [a] none
  let x ← readG p a
  let s ← get
  refuseIf (decide (65536 ≤ x.toNat) || !s.provided x.toNat)
  migrateTo (x.setWidth 16)) s

/-- The frame `.near` finds for a handle's address, translated as a load would be (R288). -/
def nearFrame (va : W64) : M Nat := do
  match ← xlate va .load with
  | .ok k => pure k
  | .error code =>
    if code = Code.far then do
      let s ← get
      match s.lookup s.cur.core s.cur.slot s.me.asid va with
      | .page e => pure (e.place s.me.side va)
      | _ => illegalOperand
    else dataFault code va

def execMigrateNear (a : Reg) (hi : BitVec 15) (s : State) := insn (do
  notOnHart
  refuseIf (hi != 0)
  okG a
  let p ← operands [a] none
  let va ← handleAddr (← readG p a) 0 1 4
  let k ← nearFrame va
  refuseIf (!isHbm k)
  let s ← get
  refuseIf (!s.provided (besideFrame k))
  migrateTo (BitVec.ofNat 16 (besideFrame k))) s

end Sys2Proof.Machine
end

