-- ==== Sys2Proof/Machine/Repair.lean ====
section
/-! DEFINITION. Repair at a quiesce (19_resilience_and_links R334-R337, R339, R340, R354; 09 R192-R194). -/

namespace Sys2Proof.Machine

/-- A die is quiet: no activation runs on its cores, no matrix command has started there, no engine works for them, and no
graph that is not pre-empted has a tile outstanding there (R334). -/
def State.quiet (s : State) (die : Nat) : Bool :=
  s.cores.all (fun p => Id.die p.1 != die || p.2.slots.all (fun q => q.2.act.isNone)) &&
    s.munits.all (fun u => Id.die u.1 != die || u.2.running.isEmpty) &&
    s.requests.all (fun r => r.done || Id.die r.core != die) &&
    s.graphs.all (fun g => g.2.pre == .stopped || !g.2.running.any (fun l => l.tiles.any (fun t => l.dieOf t == die)))

/-! Rows (R334). -/

/-- The die a bank lies on, a base die's with its compute die. -/
def dieOfBank (b : Bank) : Nat :=
  match b with
  | .scratch cl _ => cl / 32
  | .sram d _ _ => d
  | .tcm c _ => Id.die c

/-- A core whose TCM has a row that cannot be remapped fails (R335). -/
def State.failTcm (s : State) (b : Bank) : State :=
  match b with
  | .tcm c _ => s.modCore c (fun y => { y with failing := true })
  | _ => s

/-- A scheduled row is copied to a free spare of its bank, or finds none and stays in service until the next boot. No address and
no value changes. -/
def State.repairRow (s : State) (r : Row) : State :=
  let c := s.capacity
  if !c.scheduled.contains r || c.noSpare.contains r then s
  else if c.spareRows r.bank < 8 then
    { s with capacity := { c.useSpare r.bank with
      scheduled := c.scheduled.filter (· != r), sramRows := c.sramRows.filter (fun e => e.1 != r) } }.healthEvent 1 (.row r)
  else ({ s with capacity := { c with noSpare := r :: c.noSpare } }.healthEvent 2 (.row r)).failTcm r.bank

/-! Cores (R335, R336). -/

/-- A base die's link has been retired (R354). -/
def State.baseCut (s : State) (st : Nat) : Bool := (Lnk.get s (6 + st)).down

/-- A core fails: by its TCM, or a bank core with the link to its base die. -/
def State.coreFails (s : State) (c : Nat) : Bool :=
  (s.core c).failing || (Id.isBank c && s.baseCut (Id.stack c))

/-- The saved contexts of a core that is no longer provided go, and their groups are killed (R336). -/
def State.loseContexts (s : State) (c : Nat) : State :=
  let here (v : Saved) : Bool := v.core == c
  let gs := s.graphs.flatMap (fun g => (g.2.saved.filter here).map (fun v => (v.act.stamp.asid, v.act.stamp.group)))
  (once gs).foldl (fun s e => s.killGroup e.1 e.2) (s.dropSaved here)

/-- A failing core is retired: its TCM, words with errors included, stands in the spare from now on, which CAPMAP shows, or it is
no longer provided, which changes capacity. -/
def State.repairCore (s : State) (c : Nat) : State :=
  if !s.coreFails c || !s.provided c then s
  else
    let t := s.retireCore c
    if t.provided c then (t.modCore c (fun y => { y with failing := false, consumed := 0 })).rewriteMap
    else (t.loseContexts c).rewriteMap.markAll

/-! Pseudo-channels (R337). -/

/-- A pseudo-channel is to be retired: uncorrectable errors were consumed on three of its rows, or its base die is cut off. -/
def State.channelFails (s : State) (st ch : Nat) : Bool :=
  decide (3 ≤ (s.capacity.channelRows.filter (fun e => e.1 == st * 64 + ch)).length) || s.baseCut st

/-- A location lies on a pseudo-channel. -/
def onChannel (st ch k : Nat) : Bool := isHbm k && hbmStack k == st && hbmChannel k == ch

/-- A frame of a pseudo-channel as a page maps it: the address space, the address, the side whose frame it is (R346). -/
structure Mapping where
  asid : Asid
  va : Nat
  side : Side
  frame : Nat
  deriving DecidableEq, Repr

/-- The frames of a pseudo-channel that one leaf maps, its shadow frames included. -/
def leafOn (st ch : Nat) (a : Asid) (l : Nat × W64) : List Mapping :=
  let e := l.2
  let page := pageOf e l.1
  let sides : List (Side × Nat) := if Leaf.shadow e then [(.none, 0), (.primary, 1), (.mirror, 2)] else [(.none, 0)]
  if Leaf.peerv e then []
  else
    sides.flatMap (fun x => (List.range (2 ^ (Leaf.log2 e - 12))).filterMap (fun i =>
      let k := Leaf.frame e + x.2 * 2 ^ Leaf.log2 e + 4096 * i
      if onChannel st ch k then some { asid := a, va := page + 4096 * i, side := x.1, frame := k } else none))

/-- Every mapping of a frame of a pseudo-channel. -/
def State.mappedOn (s : State) (st ch : Nat) : List Mapping :=
  s.spaces.flatMap (fun p =>
    let a : Asid := BitVec.ofNat 16 p.1
    (s.leaves a).flatMap (leafOn st ch a))

/-- The moves firmware makes: each from a frame of the channel to a frame of its own that serves and lies on another, and one of
every frame that some page maps. -/
def State.movesOk (s : State) (st ch : Nat) (moved : List (Nat × Nat)) : Bool :=
  moved.all (fun m => m.1 % 4096 == 0 && m.2 % 4096 == 0 && onChannel st ch m.1 && (isHbm m.2 || isSram m.2 || isScratch m.2) &&
    s.populated m.2 && !onChannel st ch m.2) &&
  distinct (moved.map (·.2)) && (s.mappedOn st ch).all (fun x => moved.any (fun m => m.1 == x.frame))

/-- The edited tables map every page of the channel where its frame went, and nothing on the channel any more. -/
def State.editsOk (t : State) (st ch : Nat) (old : List Mapping) (moved : List (Nat × Nat)) : Bool :=
  (t.mappedOn st ch).isEmpty && old.all (fun x =>
    let va : W64 := BitVec.ofNat 64 x.va
    match t.walk x.asid va with
    | .page e => moved.any (fun m => m.1 == x.frame && m.2 == e.place x.side va)
    | _ => false)

/-- What TLBINV over the moved pages removes, and more: every translation of every buffer, with the fills of the walks under way
(R191, R192). -/
def State.flushXlat (s : State) : State :=
  let all (a : Asid) : Removal := { heddle := false, asid := a, lo := 0, hi := BitVec.allOnes 64 }
  { s with
    cores := s.cores.map (fun (p : Nat × Core) =>
      (p.1, { (once (p.2.walks.map (·.asid))).foldl (fun k a => k.discardFills (all a)) p.2 with tlb := [] }))
    l2 := [] }

/-- Retires a pseudo-channel: its pages are copied, errors intact, the tables edited, the buffers invalidated. -/
def State.repairChannel (s : State) (st ch : Nat) (moved : List (Nat × Nat)) (edits : List Placement) : State :=
  if 8 ≤ st ∨ 64 ≤ ch ∨ s.capacity.lostChannels.contains (st, ch) ∨ !s.channelFails st ch ∨ !s.movesOk st ch moved then s
  else
    let t := moved.foldl (fun s m => s.copyBytes m.1 m.2 4096) s
    let t := edits.foldl State.placeBytes t
    if t.editsOk st ch (s.mappedOn st ch) moved then (t.flushXlat.retireChannel (st, ch)).rewriteMap.markAll else s

/-! The runtime's check (R194). -/

/-- The runtime checks the edited tables of a graph again: its mark stands or is cleared. -/
def State.recheck (s : State) (g : Nat) : State :=
  if (s.graph g).resident then s.modGraph g (fun y => { y with marked := s.tableBeyond y.asid }) else s

/-- QUIESCE_REPAIR: one part of a die's repair while it is quiet; the check of a graph's tables waits for no quiesce. -/
def execQuiesceRepair (die : Nat) (item : RepairItem) (s : State) : Host.Outcome State Fault Refusal :=
  let atQuiesce (d : Nat) (t : State) : State := if d = die ∧ die < 4 ∧ s.quiet die then t else s
  .next (
    match item with
    | .row r => atQuiesce (dieOfBank r.bank) (s.repairRow r)
    | .core c => atQuiesce (Id.die c.toNat) (s.repairCore c.toNat)
    | .channel st ch moved edits => atQuiesce (st / 2) (s.repairChannel st ch moved edits)
    | .recheck g => s.recheck g)

end Sys2Proof.Machine
end

