-- ==== Sys2Proof/Machine/TaskUnit.lean ====
section
/-! DEFINITION. The order arbiters and the cluster task queues (16_ordered_tasks R298, R300, R301, R305). -/

namespace Sys2Proof.Machine

/-- The die that reports a task: that of the core it runs on or is on its way from, else that of its queue (R298, R306). -/
def TaskEntry.die (t : TaskEntry) : Nat :=
  match t.running with
  | some (c, _) => Id.die c
  | none => t.cluster / 32

/-- The smallest unfinished key of each address space on a die. -/
def State.smallest (s : State) (die : Nat) : Report :=
  s.tasks.foldl (fun r t =>
    if t.die ≠ die then r
    else
      let a := t.stamp.asid.toNat
      match r.find a with
      | some k => if t.key.toNat < k.toNat then r.put a t.key else r
      | none => r.put a t.key) []

/-- ORDER_REPORT: the arbiters send their smallest keys to each other, all four in the same cycle (R298; log 84). -/
def execOrderReport (die : Nat) (s : State) : Host.Outcome State Fault Refusal :=
  .next (if die < 4 then { s with reports := (List.range 4).map (fun d => (d, s.smallest d)) } else s)

/-- The compute cores of a cluster. -/
def clusterCores (cl : Nat) : List Nat := (List.range 64).map (Id.compute (cl / 32) (cl % 32))

/-- Tasks on their way to a core, each of which takes a worker slot there (log 73). -/
def State.onWay (s : State) (c : Nat) : Nat :=
  (s.tasks.filter (fun t => t.running == some (c, 98) || t.running == some (c, 99))).length

/-- Cores of a cluster a task of an address space can go to. -/
def State.takers (s : State) (cl : Nat) (a : Asid) : List Nat :=
  (clusterCores cl).filter (fun c => !s.closed c && ((s.core c).spaces.find a.toNat).isSome &&
    decide (s.onWay c < (s.freeSlots c 0).length))

/-- The message a task travels as (R301): its payload is the argument, the timestamp and the rest of the key. -/
def taskMessage (t : TaskEntry) (c : Nat) : Message :=
  { Message.plain (BitVec.ofNat 16 c) 0xFA t.stamp
      [t.arg, t.key.ts, BitVec.ofNat 64 (t.key.spawner.toNat + t.key.seq.toNat * 2 ^ 16)] with task := some t.key }

/-- Sends a firm entry to a core. -/
def State.dispatch (s : State) (t : TaskEntry) (c : Nat) : State :=
  { s with
    net := s.net ++ [taskMessage t c]
    tasks := s.tasks.map (fun (u : TaskEntry) =>
      if u.key = t.key ∧ u.stamp.asid = t.stamp.asid then { u with running := some (c, 98), spilled := false } else u) }

/-- Head admission for a worker slot (R305): speculative tasks of the cluster go back to its queue, highest key first, until a core
can take the head. -/
def State.admitSlot (s : State) (cl : Nat) (a : Asid) : List (TaskKey × Nat × Nat) → State
  | [] => s
  | (_, c, i) :: r =>
    if s.takers cl a ≠ [] then s
    else if Id.kind c = 0 ∧ Id.clusterNo c = cl ∧ slotClass i = 0 then (s.abortBack c i).admitSlot cl a r
    else s.admitSlot cl a r

/-- Firm entries of a cluster that wait for dispatch, in its queue or with `all` also in the spill area of its die. -/
def State.queuedTasks (s : State) (cl : Nat) (all : Bool) : List TaskEntry :=
  s.tasks.filter (fun t => t.cluster == cl && (all || !t.spilled) && t.parent.isNone && t.running.isNone &&
    !s.preempted t.stamp.asid)

/-- The first of some heads that wait in the cluster for which a slot is free or frees, and the state the aborts leave (R305). -/
def State.admitFirst (s : State) (cl : Nat) : List TaskEntry → State × Option TaskEntry
  | [] => (s, none)
  | t :: r =>
    let a := t.stamp.asid
    let u := s.admitSlot cl a ((s.speculative a).filter (fun e => e.1 != t.key))
    if u.takers cl a = [] then u.admitFirst cl r else (u, some t)

/-- The head of an address space that waits in the cluster. It goes before entries of lower key that find no slot, and from the spill
area of a full queue (log 85). -/
def State.admitted (s : State) (cl : Nat) : State × Option TaskEntry :=
  s.admitFirst cl ((s.queuedTasks cl true).filter (fun t => s.isHead t.stamp.asid t.key))

/-- What the queue of a cluster dispatches: its lowest firm entry, where a core can take it; or else a head. -/
def State.toDispatch (s : State) (cl : Nat) : State × Option TaskEntry :=
  match lowest (s.queuedTasks cl false) with
  | some t => if s.takers cl t.stamp.asid = [] then s.admitted cl else (s, some t)
  | none => s.admitted cl

/-- TASK_DISPATCH: a cluster's queue dispatches an entry. Which of the cores that can take it does is a free choice. -/
def execTaskDispatch (cluster : Nat) (s : State) : Host.Outcome State Fault Refusal :=
  .next (
    match (s.refill cluster queuePlaces).toDispatch cluster with
    | (s, none) => s
    | (s, some t) =>
      let l := s.takers cluster t.stamp.asid
      match l[(Config.freeWord s.fresh).toNat % l.length]? with
      | none => s
      | some c => State.dispatch { s with fresh := s.fresh + 1 } t c)

end Sys2Proof.Machine
end

