-- ==== Sys2Proof/Machine/Vector.lean ====
section
/-! DEFINITION. Vector float, integer, conversion, move, reduction and mask instructions (08_vector_instructions R156-R164). -/

namespace Sys2Proof.Machine

/-! Shapes. -/

/-- A lane operation of one source under a write mask; its flags are raised (R151, R144). -/
def vector1 (w : Nat) (d a : Reg) (mk : Fin 8) (f : Rnd → Nat → Nat × Flags) : M Unit := do
  okV d
  okV a
  let p ← operands [a] (some d)
  let rm := (← get).regs.rm
  let x ← readV p a
  let r := mapLanes w (← maskOf mk) (← oldV d) (fun i => f rm (lane w x i))
  raiseFlags r.2
  writeV d r.1
  done

/-- A lane operation of two sources. -/
def vector2 (w : Nat) (d a b : Reg) (mk : Fin 8) (f : Rnd → Nat → Nat → Nat × Flags) : M Unit := do
  okV d
  okV a
  okV b
  let p ← operands [a, b] (some d)
  let rm := (← get).regs.rm
  let x ← readV p a
  let y ← readV p b
  let r := mapLanes w (← maskOf mk) (← oldV d) (fun i => f rm (lane w x i) (lane w y i))
  raiseFlags r.2
  writeV d r.1
  done

/-- A lane operation of three sources. -/
def vector3 (w : Nat) (d a b c : Reg) (mk : Fin 8) (f : Rnd → Nat → Nat → Nat → Nat × Flags) : M Unit := do
  okV d
  okV a
  okV b
  okV c
  let p ← operands [a, b, c] (some d)
  let rm := (← get).regs.rm
  let x ← readV p a
  let y ← readV p b
  let z ← readV p c
  let r := mapLanes w (← maskOf mk) (← oldV d) (fun i => f rm (lane w x i) (lane w y i) (lane w z i))
  raiseFlags r.2
  writeV d r.1
  done

/-- A comparison into a mask register (R158). -/
def compare2 (w : Nat) (d a b : Reg) (mk : Fin 8) (f : Nat → Nat → Bool × Flags) : M Unit := do
  okM d
  okV a
  okV b
  let p ← operands [a, b] none
  let x ← readV p a
  let y ← readV p b
  let r := maskLanes w (← maskOf mk) (fun i => f (lane w x i) (lane w y i))
  raiseFlags r.2
  writeM d r.1
  done

/-! The float group. -/

def vf1 (f : FltTy) (d a : Reg) (mk : Fin 8) (op : FFmt → Rnd → Nat → Nat × Flags) : M Unit := do
  notOnHart
  vector1 (fltFmt f).width d a mk (op (fltFmt f))

def vf2 (f : FltTy) (d a b : Reg) (mk : Fin 8) (op : FFmt → Rnd → Nat → Nat → Nat × Flags) : M Unit := do
  notOnHart
  vector2 (fltFmt f).width d a b mk (op (fltFmt f))

def vf3 (f : FltTy) (d a b c : Reg) (mk : Fin 8) (op : FFmt → Rnd → Nat → Nat → Nat → Nat × Flags) : M Unit := do
  notOnHart
  vector3 (fltFmt f).width d a b c mk (op (fltFmt f))

def execVadd (f : FltTy) (d a b : Reg) (mk : Fin 8) (s : State) := insn (vf2 f d a b mk Fop.add) s
def execVsub (f : FltTy) (d a b : Reg) (mk : Fin 8) (s : State) := insn (vf2 f d a b mk Fop.sub) s
def execVmul (f : FltTy) (d a b : Reg) (mk : Fin 8) (s : State) := insn (vf2 f d a b mk Fop.mul) s
def execVfma (f : FltTy) (d a b c : Reg) (mk : Fin 8) (s : State) := insn (vf3 f d a b c mk Fop.fma) s
def execVfms (f : FltTy) (d a b c : Reg) (mk : Fin 8) (s : State) := insn (vf3 f d a b c mk Fop.fms) s
def execVmin (f : FltTy) (d a b : Reg) (mk : Fin 8) (s : State) :=
  insn (vf2 f d a b mk (fun t _ x y => (Fop.min t x y, 0))) s
def execVmax (f : FltTy) (d a b : Reg) (mk : Fin 8) (s : State) :=
  insn (vf2 f d a b mk (fun t _ x y => (Fop.max t x y, 0))) s
def execVabs (f : FltTy) (d a : Reg) (mk : Fin 8) (s : State) := insn (vf1 f d a mk (fun t _ x => (Fop.abs t x, 0))) s
def execVneg (f : FltTy) (d a : Reg) (mk : Fin 8) (s : State) := insn (vf1 f d a mk (fun t _ x => (Fop.neg t x, 0))) s
def execVdiv (f : FltTy) (d a b : Reg) (mk : Fin 8) (s : State) := insn (vf2 f d a b mk Fop.div) s
def execVrcp (f : FltTy) (d a : Reg) (mk : Fin 8) (s : State) := insn (vf1 f d a mk Fop.rcp) s
def execVrsq (f : FltTy) (d a : Reg) (mk : Fin 8) (s : State) := insn (vf1 f d a mk Fop.rsq) s
def execVsqrt (f : FltTy) (d a : Reg) (mk : Fin 8) (s : State) := insn (vf1 f d a mk Fop.sqrt) s
def execVexp2 (f : FltTy) (d a : Reg) (mk : Fin 8) (s : State) := insn (vf1 f d a mk (fun t m x => exp2To t m (t.decode x))) s
def execVlog2 (f : FltTy) (d a : Reg) (mk : Fin 8) (s : State) := insn (vf1 f d a mk (fun t m x => log2To t m (t.decode x))) s

/-- A condition on two codes, with its flag (R158). -/
def fcond (t : FFmt) (c : FCond) (a b : Nat) : Bool × Flags :=
  let x := t.decode a
  let y := t.decode b
  let nan := x.isNan || y.isNan
  let nv : Flags := if nan then Fl.nv else 0
  match c with
  | .eq => (Val.eq x y, 0)
  | .ne => (!Val.eq x y, 0)
  | .lt => (Val.lt x y, nv)
  | .le => (!nan && !Val.lt y x, nv)
  | .gt => (Val.lt y x, nv)
  | .ge => (!nan && !Val.lt x y, nv)
  | .unord => (nan, 0)
  | .ord => (!nan, 0)

def execVcmp (f : FltTy) (c : FCond) (d a b : Reg) (mk : Fin 8) (s : State) := insn (do
  notOnHart
  compare2 (fltFmt f).width d a b mk (fcond (fltFmt f) c)) s

def execVsel (f : FltTy) (d a b : Reg) (mk : Fin 8) (s : State) := insn (do
  notOnHart
  okV d
  okV a
  okV b
  let p ← operands [a, b] (some d)
  let w := (fltFmt f).width
  let x ← readV p a
  writeV d (mapLanes w (← maskOf mk) (← readV p b) (fun i => (lane w x i, 0))).1
  done) s

/-! The integer group (R159). -/

/-- A lane operation on w-bit codes; the result is taken modulo 2^w. -/
def vi2 (w : Width) (d a b : Reg) (mk : Fin 8) (op : Nat → Nat → Nat → Nat) : M Unit := do
  notOnHart
  vector2 (widthBits w) d a b mk (fun _ x y => (op (widthBits w) x y % 2 ^ widthBits w, 0))

namespace Vi

def slt (w a b : Nat) : Bool := decide (toSigned w a < toSigned w b)
def sra (w a n : Nat) : Nat := (toSigned w a / ((2 ^ n : Nat) : Int) % ((2 ^ w : Nat) : Int)).toNat

/-- The conditions of VICMP (R73). -/
def cond (w : Nat) (c : ICond) (a b : Nat) : Bool :=
  match c with
  | .eq => a == b
  | .ne => a != b
  | .lt => slt w a b
  | .le => !slt w b a
  | .ltu => decide (a < b)
  | .leu => decide (a ≤ b)

end Vi

def execViadd (w : Width) (d a b : Reg) (mk : Fin 8) (s : State) := insn (vi2 w d a b mk (fun _ x y => x + y)) s
def execVisub (w : Width) (d a b : Reg) (mk : Fin 8) (s : State) := insn (vi2 w d a b mk (fun n x y => x + 2 ^ n - y)) s
def execVimul (w : Width) (d a b : Reg) (mk : Fin 8) (s : State) := insn (vi2 w d a b mk (fun _ x y => x * y)) s
def execVimin (w : Width) (d a b : Reg) (mk : Fin 8) (s : State) :=
  insn (vi2 w d a b mk (fun n x y => if Vi.slt n y x then y else x)) s
def execVimax (w : Width) (d a b : Reg) (mk : Fin 8) (s : State) :=
  insn (vi2 w d a b mk (fun n x y => if Vi.slt n x y then y else x)) s
def execViminu (w : Width) (d a b : Reg) (mk : Fin 8) (s : State) :=
  insn (vi2 w d a b mk (fun _ x y => if y < x then y else x)) s
def execVimaxu (w : Width) (d a b : Reg) (mk : Fin 8) (s : State) :=
  insn (vi2 w d a b mk (fun _ x y => if x < y then y else x)) s
def execVand (w : Width) (d a b : Reg) (mk : Fin 8) (s : State) := insn (vi2 w d a b mk (fun _ x y => x &&& y)) s
def execVor (w : Width) (d a b : Reg) (mk : Fin 8) (s : State) := insn (vi2 w d a b mk (fun _ x y => x ||| y)) s
def execVxor (w : Width) (d a b : Reg) (mk : Fin 8) (s : State) := insn (vi2 w d a b mk (fun _ x y => x ^^^ y)) s
def execVshl (w : Width) (d a b : Reg) (mk : Fin 8) (s : State) :=
  insn (vi2 w d a b mk (fun n x y => x * 2 ^ (y % n))) s
def execVshr (w : Width) (d a b : Reg) (mk : Fin 8) (s : State) :=
  insn (vi2 w d a b mk (fun n x y => x / 2 ^ (y % n))) s
def execVsra (w : Width) (d a b : Reg) (mk : Fin 8) (s : State) :=
  insn (vi2 w d a b mk (fun n x y => Vi.sra n x (y % n))) s

def execVicmp (w : Width) (c : ICond) (d a b : Reg) (mk : Fin 8) (s : State) := insn (do
  notOnHart
  compare2 (widthBits w) d a b mk (fun x y => (Vi.cond (widthBits w) c x y, 0))) s

/-! VCVT (R160, R161). -/

namespace Cvt

/-- Width in bits of a type. -/
def width : CvtTy → Nat
  | .fp32 => 32
  | .fp16 => 16
  | .bf16 => 16
  | .e4m3 => 8
  | .e5m2 => 8
  | .e2m1 => 4
  | .e8m0 => 8
  | .int8 => 8
  | .int16 => 16
  | .int32 => 32
  | .int64 => 64
  | .uint8 => 8
  | .uint16 => 16
  | .uint32 => 32
  | .uint64 => 64

/-- The exact value of an element. -/
def value (t : CvtTy) (c : Nat) : Val :=
  match t with
  | .fp32 => FFmt.fp32.decode c
  | .fp16 => FFmt.fp16.decode c
  | .bf16 => FFmt.bf16.decode c
  | .e4m3 => FFmt.e4m3.decode c
  | .e5m2 => FFmt.e5m2.decode c
  | .e2m1 => FFmt.e2m1.decode c
  | .e8m0 => if c = 0xFF then .nan else .fin false 1 ((c : Int) - 127)
  | .int8 => Val.ofInt (toSigned 8 c)
  | .int16 => Val.ofInt (toSigned 16 c)
  | .int32 => Val.ofInt (toSigned 32 c)
  | .int64 => Val.ofInt (toSigned 64 c)
  | .uint8 => Val.ofInt c
  | .uint16 => Val.ofInt c
  | .uint32 => Val.ofInt c
  | .uint64 => Val.ofInt c

/-- Round into a type (R136-R138). -/
def round (t : CvtTy) (mode : Rnd) (sat : Bool) (x : Val) : Nat × Flags :=
  match t with
  | .fp32 => roundTo FFmt.fp32 mode sat x
  | .fp16 => roundTo FFmt.fp16 mode sat x
  | .bf16 => roundTo FFmt.bf16 mode sat x
  | .e4m3 => roundTo FFmt.e4m3 mode sat x
  | .e5m2 => roundTo FFmt.e5m2 mode sat x
  | .e2m1 => roundTo FFmt.e2m1 mode sat x
  | .e8m0 => roundE8M0 mode x
  | .int8 => roundInt 8 true mode x
  | .int16 => roundInt 16 true mode x
  | .int32 => roundInt 32 true mode x
  | .int64 => roundInt 64 true mode x
  | .uint8 => roundInt 8 false mode x
  | .uint16 => roundInt 16 false mode x
  | .uint32 => roundInt 32 false mode x
  | .uint64 => roundInt 64 false mode x

end Cvt

def execVcvt (dst src : CvtTy) (r : Option Rnd) (sat : Bool) (d a : Reg) (mk : Fin 8) (s : State) := insn (do
  notOnHart
  okV d
  okV a
  let p ← operands [a] (some d)
  let mode := r.getD (← get).regs.rm
  let ws := Cvt.width src
  let wd := Cvt.width dst
  let n := 512 / (if ws < wd then wd else ws)
  let x ← readV p a
  let old ← oldV d
  let mask ← maskOf mk
  let l := (List.range n).map (fun i =>
    if mask.getLsbD i then Cvt.round dst mode sat (Cvt.value src (lane ws x i)) else (lane wd old i, 0))
  raiseFlags (l.foldl (fun f e => f ||| e.2) 0)
  writeV d (ofLanes wd (l.map (·.1)))
  done) s

/-! The move group (R162). -/

/-- A lane operation of the move group: what each active lane becomes. -/
def moveLanes (w : Nat) (d : Reg) (mk : Fin 8) (f : Nat → Nat) : M Unit := do
  writeV d (mapLanes w (← maskOf mk) (← oldV d) (fun i => (f i, 0))).1
  done

def execVbcast (w : Width) (d a : Reg) (mk : Fin 8) (s : State) := insn (do
  okV d
  okG a
  let p ← operands [a] (some d)
  let x ← readG p a
  moveLanes (widthBits w) d mk (fun _ => x.toNat % 2 ^ widthBits w)) s

def execVextr (w : Width) (d a b : Reg) (s : State) := insn (do
  okG d
  okV a
  okG b
  let p ← operands [a, b] (some d)
  let n := widthBits w
  let i ← readG p b
  writeG d (BitVec.ofNat 64 (lane n (← readV p a) (i.toNat % (512 / n))))
  done) s

def execVins (w : Width) (d a b : Reg) (s : State) := insn (do
  okVOnly d
  okG a
  okG b
  let p ← operands [a, b] none
  let n := widthBits w
  let i ← readG p b
  let x ← readG p a
  writeV d (putLanes n (← readV [] d) [(i.toNat % (512 / n), x.toNat % 2 ^ n)])
  done) s

def execVidx (w : Width) (d : Reg) (mk : Fin 8) (s : State) := insn (do
  okV d
  let _ ← operands [] (some d)
  moveLanes (widthBits w) d mk id) s

def execVperm (w : Width) (d a b : Reg) (mk : Fin 8) (s : State) := insn (do
  okV d
  okV a
  okV b
  let p ← operands [a, b] (some d)
  let n := widthBits w
  let x ← readV p a
  let y ← readV p b
  moveLanes n d mk (fun i => lane n x (lane n y i % (512 / n)))) s

def execVslide (w : Width) (d a b : Reg) (mk : Fin 8) (s : State) := insn (do
  okV d
  okV a
  okG b
  let p ← operands [a, b] (some d)
  let n := widthBits w
  let x ← readV p a
  let k := (← readG p b).toInt
  moveLanes n d mk (fun i =>
    let j : Int := (i : Int) + k
    if 0 ≤ j ∧ j < ((512 / n : Nat) : Int) then lane n x j.toNat else 0)) s

def execVcomp (w : Width) (d a : Reg) (mk : Fin 8) (s : State) := insn (do
  okV d
  okV a
  let p ← operands [a] (some d)
  let n := widthBits w
  let x ← readV p a
  writeV d (ofLanes n ((activeLanes (512 / n) (← maskOf mk)).map (lane n x)))
  done) s

def execVexpnd (w : Width) (d a : Reg) (mk : Fin 8) (s : State) := insn (do
  okV d
  okV a
  let p ← operands [a] (some d)
  let n := widthBits w
  let x ← readV p a
  let mask ← maskOf mk
  writeV d (ofLanes n ((List.range (512 / n)).map (fun i =>
    if mask.getLsbD i then lane n x (activeLanes i mask).length else 0)))
  done) s

def execVmov (w : Width) (d a : Reg) (mk : Fin 8) (s : State) := insn (do
  okV d
  okV a
  let p ← operands [a] (some d)
  let x ← readV p a
  moveLanes (widthBits w) d mk (lane (widthBits w) x)) s

/-! Reductions and scans (R145, R163). -/

/-- One round of the pairwise tree. -/
def pairUp (f : FFmt) (rm : Rnd) : List (Option Nat) → List (Option Nat) × Flags
  | a :: b :: r =>
    let t := pairUp f rm r
    match a, b with
    | some x, some y =>
      let z := Fop.add f rm x y
      (some z.1 :: t.1, z.2 ||| t.2)
    | some x, none => (some x :: t.1, t.2)
    | none, y => (y :: t.1, t.2)
  | l => (l, 0)

/-- The pairwise tree, `rounds` deep. -/
def treeSum (f : FFmt) (rm : Rnd) : Nat → List (Option Nat) → Nat × Flags
  | 0, l => ((l.head?.getD none).getD 0, 0)
  | n + 1, l =>
    let r := pairUp f rm l
    let t := treeSum f rm n r.1
    (t.1, r.2 ||| t.2)

/-- The result of an operation with no active lane (R163). -/
def redStart (op : RedOp) (t : Arith) : Nat :=
  match op, arithFmt t with
  | .sum, _ => 0
  | .min, some f => f.infCode
  | .max, some f => withSign f true f.infCode
  | .min, none => 0x7FFFFFFF
  | .max, none => 0x80000000

/-- One step of a running result, floats rounded in a mode. -/
def redStep (op : RedOp) (t : Arith) (rm : Rnd) (a b : Nat) : Nat × Flags :=
  match op, arithFmt t with
  | .sum, some f => Fop.add f rm a b
  | .sum, none => ((a + b) % 2 ^ 32, 0)
  | .min, some f => (Fop.min f a b, 0)
  | .max, some f => (Fop.max f a b, 0)
  | .min, none => (if Vi.slt 32 b a then b else a, 0)
  | .max, none => (if Vi.slt 32 a b then b else a, 0)

/-- VRED's result over the lanes of a vector. -/
def reduce (op : RedOp) (t : Arith) (rm : Rnd) (mask : W64) (x : V512) : Nat × Flags :=
  let w := arithW t
  let n := 512 / w
  match op, arithFmt t with
  | .sum, some f =>
    treeSum f rm 5 ((List.range n).map (fun i => if mask.getLsbD i then some (lane w x i) else none))
  | _, _ =>
    (activeLanes n mask).foldl (fun a i =>
      let r := redStep op t rm a.1 (lane w x i)
      (r.1, a.2 ||| r.2)) (redStart op t, 0)

/-- VSCAN's running results from lane i on; `acc` is the previous output, if a lane was active. -/
def scanFrom (op : RedOp) (t : Arith) (rm : Rnd) (mask : W64) (x : V512) (i : Nat) (acc : Option Nat) :
    Nat → List Nat × Flags
  | 0 => ([], 0)
  | n + 1 =>
    let v := lane (arithW t) x i
    if mask.getLsbD i then
      let r := match op, acc with
        | .sum, none => (v, 0)
        | _, a => redStep op t rm (a.getD (redStart op t)) v
      let rest := scanFrom op t rm mask x (i + 1) (some r.1) n
      (r.1 :: rest.1, r.2 ||| rest.2)
    else
      let rest := scanFrom op t rm mask x (i + 1) acc n
      (v :: rest.1, rest.2)

def execVred (op : RedOp) (t : Arith) (d a : Reg) (mk : Fin 8) (s : State) := insn (do
  notOnHart
  okG d
  okV a
  let p ← operands [a] (some d)
  let r := reduce op t (← get).regs.rm (← maskOf mk) (← readV p a)
  raiseFlags r.2
  writeG d (match t with
    | .i32 => (BitVec.ofNat 32 r.1).signExtend 64
    | _ => BitVec.ofNat 64 r.1)
  done) s

def execVscan (op : RedOp) (t : Arith) (d a : Reg) (mk : Fin 8) (s : State) := insn (do
  notOnHart
  okV d
  okV a
  let p ← operands [a] (some d)
  let r := scanFrom op t (← get).regs.rm (← maskOf mk) (← readV p a) 0 none (512 / arithW t)
  raiseFlags r.2
  writeV d (ofLanes (arithW t) r.1)
  done) s

/-! Masks (R164). -/

def mask2 (d a b : Reg) (f : W64 → W64 → W64) : M Unit := do
  okM d
  okM a
  okM b
  writeM d (f (← readM a) (← readM b))
  done

def execMand (d a b : Reg) (s : State) := insn (mask2 d a b (· &&& ·)) s
def execMor (d a b : Reg) (s : State) := insn (mask2 d a b (· ||| ·)) s
def execMxor (d a b : Reg) (s : State) := insn (mask2 d a b (· ^^^ ·)) s

def execMnot (d a : Reg) (s : State) := insn (do
  okM d
  okM a
  writeM d (~~~ (← readM a))
  done) s

/-- G(D) from a mask. -/
def maskToG (d a : Reg) (f : W64 → W64) : M Unit := do
  okG d
  okM a
  let _ ← operands [] (some d)
  writeG d (f (← readM a))
  done

def execMpop (d a : Reg) (s : State) := insn (maskToG d a Alu.popc) s
def execMfirst (d a : Reg) (s : State) := insn (maskToG d a Alu.ctz) s
def execMget (d a : Reg) (s : State) := insn (maskToG d a id) s

def execMset (d a : Reg) (s : State) := insn (do
  okM d
  okG a
  let p ← operands [a] none
  writeM d (← readG p a)
  done) s

end Sys2Proof.Machine
end

