-- ==== Sys2Proof/Machine/WideAcc.lean ====
section
/-! DEFINITION. The wide accumulator (07_number_formats R147-R149, 08_vector_instructions R165-R167). -/

namespace Sys2Proof.Machine

/-- A window as read: the integer I, the sticky bits of word 10, and the words that additions have reached or changed. -/
structure Wide where
  i : Int
  sticky : Nat
  reached : List Nat
  deriving DecidableEq, Repr

namespace Wide

/-- The two's-complement integer in words 0 to 9 (R147). -/
def ofBytes (b : List Byte) : Wide :=
  { i := toSigned 640 (bytesNat (b.take 80)), sticky := (b.getD 80 0).toNat % 16, reached := [] }

/-- I as the 640-bit number held in words 0 to 9. -/
def code (w : Wide) : Nat := (w.i % ((2 ^ 640 : Nat) : Int)).toNat

/-- Word j of words 0 to 9. -/
def word (w : Wide) (j : Nat) : Nat := w.code / 2 ^ (64 * j) % 2 ^ 64

/-- ORs sticky bits into word 10: 1 NAN, 2 PINF, 4 NINF, 8 WOVF. -/
def stick (w : Wide) (s : Nat) : Wide := { w with sticky := w.sticky ||| s }

/-- Bits of a non-zero number below its lowest one. -/
def trailing (n : Nat) : Nat → Nat
  | 0 => 0
  | f + 1 => if n % 2 = 1 then 0 else 1 + trailing (n / 2) f

/-- Adds a finite term of x × 2^320 = t (R165); the words it reaches and those its carries change are noted. -/
def addInt (w : Wide) (t : Int) : Wide :=
  if t = 0 then w else
  let lo : Int := -((2 ^ 639 : Nat) : Int)
  let hi : Int := ((2 ^ 639 : Nat) : Int) - 1
  let n := w.i + t
  let c := (n % ((2 ^ 640 : Nat) : Int)).toNat
  let v : Wide := { w with i := toSigned 640 c, sticky := if n < lo ∨ hi < n then w.sticky ||| 8 else w.sticky }
  let m := t.natAbs
  let first := trailing m 640 / 64
  let last := log2Nat m / 64
  let hit := (List.range 10).filter (fun j => (decide (first ≤ j) && decide (j ≤ last)) || w.word j != v.word j)
  { v with reached := w.reached ++ hit.filter (fun j => !w.reached.contains j) }

/-- Adds an exact value (R165). -/
def addVal (w : Wide) (x : Val) : Wide :=
  match x with
  | .nan => w.stick 1
  | .inf false => w.stick 2
  | .inf true => w.stick 4
  | .zero _ => w
  | .fin neg m e => w.addInt (Val.scaled neg m e (-320))

/-- Adds another window (R148). -/
def addWin (w s : Wide) : Wide := (w.addInt s.i).stick s.sticky

/-- The value of R149 in a mode, with its flags. -/
def round (w : Wide) (mode : Rnd) : Nat × Flags :=
  let b (n : Nat) : Bool := w.sticky.testBit n
  if b 0 then (FFmt.fp32.nanCode, 0)
  else if b 1 && b 2 then (FFmt.fp32.nanCode, Fl.nv)
  else if b 1 then (FFmt.fp32.infCode, 0)
  else if b 2 then (withSign FFmt.fp32 true FFmt.fp32.infCode, 0)
  else if b 3 then (FFmt.fp32.nanCode, Fl.nv ||| Fl.of)
  else if w.i = 0 then (0, 0)
  else roundTo FFmt.fp32 mode false (.fin (decide (w.i < 0)) w.i.natAbs (-320))

end Wide

/-- Reads words 0 to 10 of a window as loads of the chunk, a flit at a time. -/
def loadWindow (va : W64) : M Wide := do
  let a ← memLoad va 32
  flatOk (va + 32)
  let b ← memLoad (va + 32) 32
  flatOk (va + 64)
  let c ← memLoad (va + 64) 24
  pure (Wide.ofBytes (a ++ b ++ c))

/-- The checks of a target window (R165, R167). -/
def targetOk (t : W64) : M Unit := do
  refuseIf (bit t 63)
  if t.toNat % 32 ≠ 0 then stopTrap Cause.misaligned t else
  let s ← get
  refuseIf (decide (tcmSize s.cur.core < t.toNat + 96))

/-- The checks of a source window (R165). -/
def sourceOk (a : W64) : M Unit := do
  refuseIf (bit a 63)
  if a.toNat % 32 ≠ 0 then stopTrap Cause.misaligned a else flatOk a

/-- Stores words of a window in the issuing core's own TCM: the given ones of 0 to 9, and words 10 and 11, as
one store of one entry at the address of the window (log 97). -/
def storeWindow (t : W64) (w : Wide) (words : List Nat) : M Unit := do
  let part (j x : Nat) : M Part := storePart 0 (t + BitVec.ofNat 64 (8 * j)) (natBytes x 8)
  let l ← ((List.range 10).filter (fun j => words.contains j)).mapM (fun j => part j (w.word j))
  let p ← part 10 w.sticky
  let q ← part 11 0
  putStore { pc := (← get).regs.pc, src := 0, size := 3, wide := 0, parts := l ++ [p, q], adds := none,
             checked := false } t

/-- Adds terms to the window at an address. -/
def accumulate (t : W64) (f : Wide → Wide) : M Unit := do
  let w := f (← loadWindow t)
  storeWindow t w w.reached
  done

/-- The target address in S1, checked before the other sources are read, and the entries popped (R165). -/
def waccTarget (a : Reg) (rest : List Reg) : M (Pops × W64) := do
  kindsOk (queuesOf (a :: rest)) none
  let p ← popList (queuesOf [a])
  let t ← readG p a
  targetOk t
  let q ← popList ((queuesOf rest).filter (fun i => !p.any (fun e => e.1 == i)))
  pure (p ++ q, t)

def execWacc (a b : Reg) (mk : Fin 8) (s : State) := insn (do
  notOnHart
  okG a
  okV b
  let (p, t) ← waccTarget a [b]
  let x ← readV p b
  let l := activeLanes 16 (← maskOf mk)
  accumulate t (fun w => l.foldl (fun w i => w.addVal (FFmt.fp32.decode (lane 32 x i))) w)) s

def execWaccMul (a b c : Reg) (mk : Fin 8) (s : State) := insn (do
  notOnHart
  okG a
  okV b
  okV c
  let (p, t) ← waccTarget a [b, c]
  let x ← readV p b
  let y ← readV p c
  let l := activeLanes 16 (← maskOf mk)
  accumulate t (fun w => l.foldl (fun w i =>
    w.addVal (Val.mul (FFmt.fp32.decode (lane 32 x i)) (FFmt.fp32.decode (lane 32 y i))).1) w)) s

def execWaccWin (a b : Reg) (s : State) := insn (do
  notOnHart
  okG a
  okG b
  let (p, t) ← waccTarget a [b]
  let x ← readG p b
  sourceOk x
  let src ← loadWindow x
  accumulate t (fun w => w.addWin src)) s

def execWaccS (a b : Reg) (s : State) := insn (do
  notOnHart
  okG a
  okG b
  let (p, t) ← waccTarget a [b]
  let x ← readG p b
  accumulate t (fun w => w.addVal (FFmt.fp32.decode (x.toNat % 2 ^ 32)))) s

def execWrd (r : Rnd) (d a : Reg) (s : State) := insn (do
  notOnHart
  okG d
  okG a
  let p ← operands [a] (some d)
  let t ← readG p a
  sourceOk t
  let x := (← loadWindow t).round r
  raiseFlags x.2
  writeG d (BitVec.ofNat 64 x.1)
  done) s

def execWclr (a : Reg) (s : State) := insn (do
  notOnHart
  okG a
  let p ← operands [a] none
  let t ← readG p a
  targetOk t
  storeWindow t { i := 0, sticky := 0, reached := [] } (List.range 10)
  done) s

end Sys2Proof.Machine
end

