-- ==== Sys2Proof/Machine/Dispatch.lean ====
section
/-! DEFINITION. One arm per constructor of Instr, each a direct call of its meaning. -/

namespace Sys2Proof.Machine

def exec (i : Instr) (s : State) : Host.Outcome State Fault Refusal :=
  match i with
  | .add d a b => Sys2Proof.Machine.execAdd d a b s
  | .sub d a b => Sys2Proof.Machine.execSub d a b s
  | .mul d a b => Sys2Proof.Machine.execMul d a b s
  | .mulh d a b => Sys2Proof.Machine.execMulh d a b s
  | .mulhu d a b => Sys2Proof.Machine.execMulhu d a b s
  | .div d a b => Sys2Proof.Machine.execDiv d a b s
  | .divu d a b => Sys2Proof.Machine.execDivu d a b s
  | .rem d a b => Sys2Proof.Machine.execRem d a b s
  | .remu d a b => Sys2Proof.Machine.execRemu d a b s
  | .and d a b => Sys2Proof.Machine.execAnd d a b s
  | .or d a b => Sys2Proof.Machine.execOr d a b s
  | .xor d a b => Sys2Proof.Machine.execXor d a b s
  | .shl d a b => Sys2Proof.Machine.execShl d a b s
  | .shr d a b => Sys2Proof.Machine.execShr d a b s
  | .sra d a b => Sys2Proof.Machine.execSra d a b s
  | .slt d a b => Sys2Proof.Machine.execSlt d a b s
  | .sltu d a b => Sys2Proof.Machine.execSltu d a b s
  | .min d a b => Sys2Proof.Machine.execMin d a b s
  | .max d a b => Sys2Proof.Machine.execMax d a b s
  | .minu d a b => Sys2Proof.Machine.execMinu d a b s
  | .maxu d a b => Sys2Proof.Machine.execMaxu d a b s
  | .sel d a b c => Sys2Proof.Machine.execSel d a b c s
  | .clz d a => Sys2Proof.Machine.execClz d a s
  | .ctz d a => Sys2Proof.Machine.execCtz d a s
  | .popc d a => Sys2Proof.Machine.execPopc d a s
  | .mov d a => Sys2Proof.Machine.execMov d a s
  | .addi d a imm => Sys2Proof.Machine.execAddi d a imm s
  | .andi d a imm => Sys2Proof.Machine.execAndi d a imm s
  | .ori d a imm => Sys2Proof.Machine.execOri d a imm s
  | .xori d a imm => Sys2Proof.Machine.execXori d a imm s
  | .shli d a n => Sys2Proof.Machine.execShli d a n s
  | .shri d a n => Sys2Proof.Machine.execShri d a n s
  | .srai d a n => Sys2Proof.Machine.execSrai d a n s
  | .slti d a imm => Sys2Proof.Machine.execSlti d a imm s
  | .li d imm => Sys2Proof.Machine.execLi d imm s
  | .lih d imm => Sys2Proof.Machine.execLih d imm s
  | .addpc d imm => Sys2Proof.Machine.execAddpc d imm s
  | .bext d a lo w1 => Sys2Proof.Machine.execBext d a lo w1 s
  | .bexts d a lo w1 => Sys2Proof.Machine.execBexts d a lo w1 s
  | .bins d a b lo w1 => Sys2Proof.Machine.execBins d a b lo w1 s
  | .beq a b imm => Sys2Proof.Machine.execBeq a b imm s
  | .bne a b imm => Sys2Proof.Machine.execBne a b imm s
  | .blt a b imm => Sys2Proof.Machine.execBlt a b imm s
  | .bge a b imm => Sys2Proof.Machine.execBge a b imm s
  | .bltu a b imm => Sys2Proof.Machine.execBltu a b imm s
  | .bgeu a b imm => Sys2Proof.Machine.execBgeu a b imm s
  | .loop d imm => Sys2Proof.Machine.execLoop d imm s
  | .jmp imm => Sys2Proof.Machine.execJmp imm s
  | .jal d imm => Sys2Proof.Machine.execJal d imm s
  | .jalr d a imm => Sys2Proof.Machine.execJalr d a imm s
  | .crrd d r => Sys2Proof.Machine.execCrrd d r s
  | .crwr r a => Sys2Proof.Machine.execCrwr r a s
  | .crset r a => Sys2Proof.Machine.execCrset r a s
  | .crclr r a => Sys2Proof.Machine.execCrclr r a s
  | .cpydoneWrite a => Sys2Proof.Machine.execCpydoneWrite a s
  | .mwgtWrite a => Sys2Proof.Machine.execMwgtWrite a s
  | .trap c => Sys2Proof.Machine.execTrap c s
  | .sfqpop d => Sys2Proof.Machine.execSfqpop d s
  | .tlbinv a b c => Sys2Proof.Machine.execTlbinv a b c s
  | .gkill a => Sys2Proof.Machine.execGkill a s
  | .ld z d a imm => Sys2Proof.Machine.execLd z d a imm s
  | .ldu z d a imm => Sys2Proof.Machine.execLdu z d a imm s
  | .ldx z d a b => Sys2Proof.Machine.execLdx z d a b s
  | .st z a b imm => Sys2Proof.Machine.execSt z a b imm s
  | .stx z a b c => Sys2Proof.Machine.execStx z a b c s
  | .vld d a imm => Sys2Proof.Machine.execVld d a imm s
  | .vst a b imm => Sys2Proof.Machine.execVst a b imm s
  | .vlds w d a b mk => Sys2Proof.Machine.execVlds w d a b mk s
  | .vsts w a b c mk => Sys2Proof.Machine.execVsts w a b c mk s
  | .qbind d pq ps hi => Sys2Proof.Machine.execQbind d pq ps hi s
  | .qbindProd d pq ps hi => Sys2Proof.Machine.execQbindProd d pq ps hi s
  | .qstream w d a => Sys2Proof.Machine.execQstream w d a s
  | .qstreamWr w d a => Sys2Proof.Machine.execQstreamWr w d a s
  | .qunbind d => Sys2Proof.Machine.execQunbind d s
  | .qstat d a => Sys2Proof.Machine.execQstat d a s
  | .qflush d => Sys2Proof.Machine.execQflush d s
  | .cpy a => Sys2Proof.Machine.execCpy a s
  | .cpyseal d => Sys2Proof.Machine.execCpyseal d s
  | .cpywait a imm => Sys2Proof.Machine.execCpywait a imm s
  | .deal a b => Sys2Proof.Machine.execDeal a b s
  | .mon d a imm => Sys2Proof.Machine.execMon d a imm s
  | .mwait d a imm => Sys2Proof.Machine.execMwait d a imm s
  | .mdisarm a => Sys2Proof.Machine.execMdisarm a s
  | .amoAdd z d a b => Sys2Proof.Machine.execAmoAdd z d a b s
  | .amoAnd z d a b => Sys2Proof.Machine.execAmoAnd z d a b s
  | .amoOr z d a b => Sys2Proof.Machine.execAmoOr z d a b s
  | .amoXor z d a b => Sys2Proof.Machine.execAmoXor z d a b s
  | .amoMin z d a b => Sys2Proof.Machine.execAmoMin z d a b s
  | .amoMax z d a b => Sys2Proof.Machine.execAmoMax z d a b s
  | .amoMinu z d a b => Sys2Proof.Machine.execAmoMinu z d a b s
  | .amoMaxu z d a b => Sys2Proof.Machine.execAmoMaxu z d a b s
  | .amoSwap z d a b => Sys2Proof.Machine.execAmoSwap z d a b s
  | .amoCas z d a b c => Sys2Proof.Machine.execAmoCas z d a b c s
  | .amoFadd d a b => Sys2Proof.Machine.execAmoFadd d a b s
  | .amov op t d a b mk => Sys2Proof.Machine.execAmov op t d a b mk s
  | .ared t a b mk => Sys2Proof.Machine.execAred t a b mk s
  | .fence c k eng xlat => Sys2Proof.Machine.execFence c k eng xlat s
  | .gbar id => Sys2Proof.Machine.execGbar id s
  | .gbarArrive id => Sys2Proof.Machine.execGbarArrive id s
  | .gbarWait id => Sys2Proof.Machine.execGbarWait id s
  | .send d a t n nack now => Sys2Proof.Machine.execSend d a t n nack now s
  | .sendv d a b t n nack now => Sys2Proof.Machine.execSendv d a b t n nack now s
  | .sendg d a t n nack now => Sys2Proof.Machine.execSendg d a t n nack now s
  | .migrate a hi => Sys2Proof.Machine.execMigrate a hi s
  | .migrateNear a hi => Sys2Proof.Machine.execMigrateNear a hi s
  | .spawn d a b c => Sys2Proof.Machine.execSpawn d a b c s
  | .tskts d => Sys2Proof.Machine.execTskts d s
  | .gath t d a b mk => Sys2Proof.Machine.execGath t d a b mk s
  | .gathq t d a b c mk => Sys2Proof.Machine.execGathq t d a b c mk s
  | .scat a b c mk => Sys2Proof.Machine.execScat a b c mk s
  | .scata int a b c mk => Sys2Proof.Machine.execScata int a b c mk s
  | .lmake d a b => Sys2Proof.Machine.execLmake d a b s
  | .lpar d a => Sys2Proof.Machine.execLpar d a s
  | .ldep d a => Sys2Proof.Machine.execLdep d a s
  | .lanc d a b => Sys2Proof.Machine.execLanc d a b s
  | .lrange d a => Sys2Proof.Machine.execLrange d a s
  | .lcmp d a b => Sys2Proof.Machine.execLcmp d a b s
  | .lcanon d a => Sys2Proof.Machine.execLcanon d a s
  | .lxlook d a => Sys2Proof.Machine.execLxlook d a s
  | .lxinv a b => Sys2Proof.Machine.execLxinv a b s
  | .lxfill a b => Sys2Proof.Machine.execLxfill a b s
  | .lscan d a b c => Sys2Proof.Machine.execLscan d a b c s
  | .wacc a b mk => Sys2Proof.Machine.execWacc a b mk s
  | .waccMul a b c mk => Sys2Proof.Machine.execWaccMul a b c mk s
  | .waccWin a b => Sys2Proof.Machine.execWaccWin a b s
  | .waccS a b => Sys2Proof.Machine.execWaccS a b s
  | .wrd r d a => Sys2Proof.Machine.execWrd r d a s
  | .wclr a => Sys2Proof.Machine.execWclr a s
  | .vadd f d a b mk => Sys2Proof.Machine.execVadd f d a b mk s
  | .vsub f d a b mk => Sys2Proof.Machine.execVsub f d a b mk s
  | .vmul f d a b mk => Sys2Proof.Machine.execVmul f d a b mk s
  | .vfma f d a b c mk => Sys2Proof.Machine.execVfma f d a b c mk s
  | .vfms f d a b c mk => Sys2Proof.Machine.execVfms f d a b c mk s
  | .vmin f d a b mk => Sys2Proof.Machine.execVmin f d a b mk s
  | .vmax f d a b mk => Sys2Proof.Machine.execVmax f d a b mk s
  | .vabs f d a mk => Sys2Proof.Machine.execVabs f d a mk s
  | .vneg f d a mk => Sys2Proof.Machine.execVneg f d a mk s
  | .vdiv f d a b mk => Sys2Proof.Machine.execVdiv f d a b mk s
  | .vrcp f d a mk => Sys2Proof.Machine.execVrcp f d a mk s
  | .vrsq f d a mk => Sys2Proof.Machine.execVrsq f d a mk s
  | .vsqrt f d a mk => Sys2Proof.Machine.execVsqrt f d a mk s
  | .vexp2 f d a mk => Sys2Proof.Machine.execVexp2 f d a mk s
  | .vlog2 f d a mk => Sys2Proof.Machine.execVlog2 f d a mk s
  | .vcmp f c d a b mk => Sys2Proof.Machine.execVcmp f c d a b mk s
  | .vsel f d a b mk => Sys2Proof.Machine.execVsel f d a b mk s
  | .viadd w d a b mk => Sys2Proof.Machine.execViadd w d a b mk s
  | .visub w d a b mk => Sys2Proof.Machine.execVisub w d a b mk s
  | .vimul w d a b mk => Sys2Proof.Machine.execVimul w d a b mk s
  | .vimin w d a b mk => Sys2Proof.Machine.execVimin w d a b mk s
  | .vimax w d a b mk => Sys2Proof.Machine.execVimax w d a b mk s
  | .viminu w d a b mk => Sys2Proof.Machine.execViminu w d a b mk s
  | .vimaxu w d a b mk => Sys2Proof.Machine.execVimaxu w d a b mk s
  | .vand w d a b mk => Sys2Proof.Machine.execVand w d a b mk s
  | .vor w d a b mk => Sys2Proof.Machine.execVor w d a b mk s
  | .vxor w d a b mk => Sys2Proof.Machine.execVxor w d a b mk s
  | .vshl w d a b mk => Sys2Proof.Machine.execVshl w d a b mk s
  | .vshr w d a b mk => Sys2Proof.Machine.execVshr w d a b mk s
  | .vsra w d a b mk => Sys2Proof.Machine.execVsra w d a b mk s
  | .vicmp w c d a b mk => Sys2Proof.Machine.execVicmp w c d a b mk s
  | .vcvt dst src r sat d a mk => Sys2Proof.Machine.execVcvt dst src r sat d a mk s
  | .vbcast w d a mk => Sys2Proof.Machine.execVbcast w d a mk s
  | .vextr w d a b => Sys2Proof.Machine.execVextr w d a b s
  | .vins w d a b => Sys2Proof.Machine.execVins w d a b s
  | .vidx w d mk => Sys2Proof.Machine.execVidx w d mk s
  | .vperm w d a b mk => Sys2Proof.Machine.execVperm w d a b mk s
  | .vslide w d a b mk => Sys2Proof.Machine.execVslide w d a b mk s
  | .vcomp w d a mk => Sys2Proof.Machine.execVcomp w d a mk s
  | .vexpnd w d a mk => Sys2Proof.Machine.execVexpnd w d a mk s
  | .vmov w d a mk => Sys2Proof.Machine.execVmov w d a mk s
  | .vred op t d a mk => Sys2Proof.Machine.execVred op t d a mk s
  | .vscan op t d a mk => Sys2Proof.Machine.execVscan op t d a mk s
  | .mand d a b => Sys2Proof.Machine.execMand d a b s
  | .mor d a b => Sys2Proof.Machine.execMor d a b s
  | .mxor d a b => Sys2Proof.Machine.execMxor d a b s
  | .mnot d a => Sys2Proof.Machine.execMnot d a s
  | .mpop d a => Sys2Proof.Machine.execMpop d a s
  | .mfirst d a => Sys2Proof.Machine.execMfirst d a s
  | .mset d a => Sys2Proof.Machine.execMset d a s
  | .mget d a => Sys2Proof.Machine.execMget d a s
  | .vrope d a b c => Sys2Proof.Machine.execVrope d a b c s
  | .vsmax d a b c => Sys2Proof.Machine.execVsmax d a b c s
  | .kvscan d a => Sys2Proof.Machine.execKvscan d a s
  | .posadd d a b => Sys2Proof.Machine.execPosadd d a b s
  | .vthrc f d a b c mk => Sys2Proof.Machine.execVthrc f d a b c mk s
  | .vargmx f d a => Sys2Proof.Machine.execVargmx f d a s
  | .tkmerge d a b c => Sys2Proof.Machine.execTkmerge d a b c s
  | .mma d a b c => Sys2Proof.Machine.execMma d a b c s
  | .mmas d a b c => Sys2Proof.Machine.execMmas d a b c s
  | .spdec p d a b c => Sys2Proof.Machine.execSpdec p d a b c s
  | .mmsync imm => Sys2Proof.Machine.execMmsync imm s
  | .mqstat d => Sys2Proof.Machine.execMqstat d s
  | .sigchk imm => Sys2Proof.Machine.execSigchk imm s
  | .messageArrival imm => Sys2Proof.Machine.execMessageArrival imm s
  | .selection core => Sys2Proof.Machine.execSelection core s
  | .trigger w => Sys2Proof.Machine.execTrigger w s
  | .launchStart graph => Sys2Proof.Machine.execLaunchStart graph s
  | .tileSend die => Sys2Proof.Machine.execTileSend die s
  | .tileReport imm => Sys2Proof.Machine.execTileReport imm s
  | .preempt graph => Sys2Proof.Machine.execPreempt graph s
  | .resume graph => Sys2Proof.Machine.execResume graph s
  | .graphUpload w => Sys2Proof.Machine.execGraphUpload w s
  | .uploadDone img => Sys2Proof.Machine.execUploadDone img s
  | .graphExit w => Sys2Proof.Machine.execGraphExit w s
  | .registerWrite off w => Sys2Proof.Machine.execRegisterWrite off w s
  | .hwinWrite n w => Sys2Proof.Machine.execHwinWrite n w s
  | .hostRead src n => Sys2Proof.Machine.execHostRead src n s
  | .hostWrite dst bytes => Sys2Proof.Machine.execHostWrite dst bytes s
  | .hostPeerAck core slot imm => Sys2Proof.Machine.execHostPeerAck core slot imm s
  | .gstatRead graph => Sys2Proof.Machine.execGstatRead graph s
  | .gdropRead graph => Sys2Proof.Machine.execGdropRead graph s
  | .gundlRead graph => Sys2Proof.Machine.execGundlRead graph s
  | .gescRead graph => Sys2Proof.Machine.execGescRead graph s
  | .gkillsRead graph => Sys2Proof.Machine.execGkillsRead graph s
  | .healthRead d => Sys2Proof.Machine.execHealthRead d s
  | .bootReady t => Sys2Proof.Machine.execBootReady t s
  | .copyKick cluster imm => Sys2Proof.Machine.execCopyKick cluster imm s
  | .batchFinish cluster imm => Sys2Proof.Machine.execBatchFinish cluster imm s
  | .shuttleBlock m => Sys2Proof.Machine.execShuttleBlock m s
  | .ownerRequest imm => Sys2Proof.Machine.execOwnerRequest imm s
  | .amoReply imm => Sys2Proof.Machine.execAmoReply imm s
  | .gbarArrival imm => Sys2Proof.Machine.execGbarArrival imm s
  | .gbarRelease imm => Sys2Proof.Machine.execGbarRelease imm s
  | .walkComplete core imm => Sys2Proof.Machine.execWalkComplete core imm s
  | .invalidationComplete imm part => Sys2Proof.Machine.execInvalidationComplete imm part s
  | .streamFetch core slot q => Sys2Proof.Machine.execStreamFetch core slot q s
  | .gathqStrip core slot q => Sys2Proof.Machine.execGathqStrip core slot q s
  | .matrixCommandStart octet => Sys2Proof.Machine.execMatrixCommandStart octet s
  | .matrixCommandComplete octet => Sys2Proof.Machine.execMatrixCommandComplete octet s
  | .orderReport die => Sys2Proof.Machine.execOrderReport die s
  | .taskDispatch cluster => Sys2Proof.Machine.execTaskDispatch cluster s
  | .killDelivery imm core => Sys2Proof.Machine.execKillDelivery imm core s
  | .killComplete imm => Sys2Proof.Machine.execKillComplete imm s
  | .quiesceRepair die item => Sys2Proof.Machine.execQuiesceRepair die item s
  | .dualCompare graph => Sys2Proof.Machine.execDualCompare graph s
  | .lnkRateWrite link a => Sys2Proof.Machine.execLnkRateWrite link a s
  | .lnkTrapWrite link a => Sys2Proof.Machine.execLnkTrapWrite link a s
  | .lnkDegradeRead link d => Sys2Proof.Machine.execLnkDegradeRead link d s
  | .retrainDone link trained => Sys2Proof.Machine.execRetrainDone link trained s
  | .flitReceive link atB seq crcOk lanes => Sys2Proof.Machine.execFlitReceive link atB seq crcOk lanes s
  | .linkWindowEnd link => Sys2Proof.Machine.execLinkWindowEnd link s
  | .peerUnreachable peer => Sys2Proof.Machine.execPeerUnreachable peer s
  | .peerWrite dst bytes => Sys2Proof.Machine.execPeerWrite dst bytes s
  | .preemptionComplete graph => Sys2Proof.Machine.execPreemptionComplete graph s
  | .nop => Sys2Proof.Machine.execNop s
  | .enda => Sys2Proof.Machine.execEnda s
  | .endaT => Sys2Proof.Machine.execEndaT s
  | .eret => Sys2Proof.Machine.execEret s
  | .waiti => Sys2Proof.Machine.execWaiti s
  | .sdrain => Sys2Proof.Machine.execSdrain s
  | .mdisarmAll => Sys2Proof.Machine.execMdisarmAll s
  | .chkpt => Sys2Proof.Machine.execChkpt s
  | .trigerrRead => Sys2Proof.Machine.execTrigerrRead s
  | .herrRead => Sys2Proof.Machine.execHerrRead s
  | .xdropRead => Sys2Proof.Machine.execXdropRead s
  | .attestReport => Sys2Proof.Machine.execAttestReport s
  | .powerUp => Sys2Proof.Machine.execPowerUp s
  | .powerLimit => Sys2Proof.Machine.execPowerLimit s
  | .exitDone => Sys2Proof.Machine.execExitDone s
  | .waitiWake => Sys2Proof.Machine.execWaitiWake s
  | .mwaitTimeout => Sys2Proof.Machine.execMwaitTimeout s
  | .serviceOverrun => Sys2Proof.Machine.execServiceOverrun s
  | .chunkInstructionLimit => Sys2Proof.Machine.execChunkInstructionLimit s
  | .chunkCommit => Sys2Proof.Machine.execChunkCommit s
  | .storeCheck => Sys2Proof.Machine.execStoreCheck s
  | .trapEntry => Sys2Proof.Machine.execTrapEntry s
  | .taskCommit => Sys2Proof.Machine.execTaskCommit s
  | .gatherLanesDone => Sys2Proof.Machine.execGatherLanesDone s
  | .contextRestore => Sys2Proof.Machine.execContextRestore s
  | .bootDownload => Sys2Proof.Machine.execBootDownload s
  | .attestRequest => Sys2Proof.Machine.execAttestRequest s

end Sys2Proof.Machine
end

