-- ==== Sys2Proof/Machine/Step.lean ====
section
/-! DEFINITION. One step of the module: the agent whose turn it is acts (log 3). -/

namespace Sys2Proof.Machine

/-- Acts on a turn: a slot executes up to one instruction, or an event takes place; a turn that names an instruction as an
event changes nothing. -/
def runTurn (t : Turn) (s : State) : Host.Outcome State Fault Refusal :=
  match t with
  | .slot c i =>
    match s.slotTurn c i with
    | .go u ins => exec ins u
    | .stay u => .next u
    | .stop f => .fault f
  | .strike c i e => if isEvent e then exec e { s with cur := { s.cur with core := c, slot := i } } else .next s
  | .event e => if isEvent e then exec e s else .next s

/-- One step: the first turn of the agenda, or a free choice when it is empty. -/
def step (s : State) : Host.Outcome State Fault Refusal :=
  match s.agenda with
  | t :: r => runTurn t { s with agenda := r }
  | [] => runTurn (Config.schedule s.fresh) { s with fresh := s.fresh + 1 }

/-- The state with one instruction, given as a word of spec/opcode_table.json, where step fetches next (log 11). -/
def State.withFetchWord (s : State) (nbits w : Nat) : State := s.place (tableEnc nbits w)

end Sys2Proof.Machine
end

