-- ==== Sys2Proof/Certificates/Slice0/Obligations.lean ====
section
/-! DEFINITION. The statements for the provers, each citing the rules of spec/ it comes from, and the vocabulary they share.
An instruction completes when `exec` answers the next state its own effect gives: the statements assume only that its fields
are accepted, its sources can be read and its destination can be written, and conclude that state. -/

/-! The vocabulary. -/

namespace Sys2Proof.Claim

open Sys2Proof.Machine

/-- A part of an instruction, run in a state, answers and leaves a state. -/
def Gives {α : Type} (m : M α) (s : State) (a : α) (t : State) : Prop := m s = .ok a t

/-- The register fields of an instruction are accepted (R64, R65), and its source queues popped (R66): the entries are p and
the state left is t. -/
structure Reads (fields : List (M Unit)) (srcs : List Reg) (dst : Option Reg) (s : State) (p : Pops) (t : State) : Prop where
  fields : ∀ f ∈ fields, f s = .ok () s
  pops : operands srcs dst s = .ok p t

/-- A scalar source has a value in a state: a g register, a k register, or the popped entry of a queue. -/
def G (p : Pops) (r : Reg) (t : State) (x : W64) : Prop := readG p r t = .ok x t

/-- A vector source has a value in a state. -/
def V (p : Pops) (r : Reg) (t : State) (x : V512) : Prop := readV p r t = .ok x t

/-- A mask source has a value in a state. -/
def MK (r : Reg) (t : State) (x : W64) : Prop := readM r t = .ok x t

/-- The instruction being executed does not run on a copy hart. -/
def NotOnHart (s : State) : Prop := Id.kind s.cur.core ≠ 2

/-- The slot being executed need not wait to become the head of its order (R303). -/
def Free (s : State) : Prop := s.me.mustWait s = false

/-- The special registers of a slot but PC, SIGACC and FPST. -/
def special (r : Regs) : List W64 :=
  [r.fmta, r.fmtb, r.scla, r.sclb, r.mstat, r.mfr, r.mfrx, r.mdrop, r.gfault, r.shpat, r.cpydone, r.batch, r.tvec, r.tpc,
   r.tcause, r.tval, r.tstat, r.lxmiss, r.lxstat, r.sigcfg]

/-- What an instruction that writes only the registers named leaves as it was: every other register of the slot, its special
registers, its store-fault queue and held messages; every byte of memory; the registers of every other slot where the slot
is not the head of an ordered space; graphs, address spaces, groups, messages on their way and the hub. PC may change. -/
structure Kept (s t : State) (written : List Reg) : Prop where
  g : ∀ n, Reg.g n ∉ written → t.regs.readG n = s.regs.readG n
  v : ∀ n, Reg.v n ∉ written → t.regs.readV n = s.regs.readV n
  m : ∀ n, Reg.m n ∉ written → t.regs.readM n = s.regs.readM n
  k : ∀ n, Reg.k n ∉ written → t.regs.k[n] = s.regs.k[n]
  q : ∀ n, Reg.q n ∉ written → t.regs.q[n] = s.regs.q[n]
  special : special t.regs = special s.regs
  sfq : t.regs.sfq = s.regs.sfq
  held : t.regs.held = s.regs.held
  mem : ∀ a, Memory.read t.mem a = Memory.read s.mem a
  others : s.headSlot s.cur.core s.cur.slot = false → ∀ c i, (c, i) ≠ (s.cur.core, s.cur.slot) → (t.slot c i).regs = (s.slot c i).regs
  graphs : t.graphs = s.graphs
  spaces : t.spaces = s.spaces
  net : t.net = s.net
  hub : t.hub = s.hub

/-- Lane i of a vector is what a function gives, for every lane of a width. -/
def Lanes (w : Nat) (r : V512) (f : Nat → Nat) : Prop := ∀ i, i < 512 / w → lane w r i = f i % 2 ^ w

/-- The number 1 for a condition that holds, else 0. -/
def one (p : Prop) [Decidable p] : W64 := if p then 1 else 0

/-- The words of a head raise illegal-instruction (R70): they do not decode, and a slot whose PC names them in a legal line takes
that trap, TPC at the PC and TVAL the words, with nothing of the instruction executed. -/
def IllegalHead (e : Enc) : Prop :=
  (∃ x, decode e = .error x) ∧
  ∀ (s : State) (c i : Nat) (line : W64),
    let x := s.slot c i
    let n := x.regs.pc.toNat / 2 % 32
    Line.legal x.fetch.slots = true → x.regs.pc.toNat % 2 = 0 → 1 ≤ n → n ≤ Line.heads x.fetch.slots → Line.enc x.fetch.slots n = e →
    s.readyHead c i line = .stay (s.takeTrap c i x.regs.pc Cause.illegalInstruction 0 false (e.t3 ++ e.t2 ++ e.t1 ++ e.head) none)

/-- A read of k bytes at a flat address of the slot's own TCM reaches them (R84). -/
def own (s : State) (va : W64) (n : Nat) : Prop := va.toNat + n ≤ tcmSize s.cur.core

end Sys2Proof.Claim

open Sys2Proof Sys2Proof.Machine Sys2Proof.Claim

/-! Fetching and decoding. -/

/-- R57, R58, R70: a slot whose turn it is, at an instruction boundary with nothing pending, in a legal line it holds, executes
the decoded instruction of the head its PC names; the PC of the next head is the next slot of the line or slot 1 of the next
line. -/
def Obligations.StepRunsDecoded : Prop :=
  ∀ (s : State) (r : List Turn) (c i : Nat) (a : Act) (ins : Instr),
    let x := s.slot c i
    let n := x.regs.pc.toNat / 2 % 32
    s.agenda = .slot c i :: r → x.act = some a → x.phase = .run → a.owner = none →
    ¬(a.cls = 0 ∧ s.halting a.stamp.asid = true) →
    (x.ext = [] ∨ ∀ y ∈ s.arrivals, y.act ≠ a.id) →
    (∀ ch, x.chunk = some ch → ch.count < 512) → ¬(a.cls = 1 ∧ 2048 ≤ a.executed) →
    (x.impreciseDue = false ∨ x.regs.resumed = true) → x.regs.pc.toNat < 2 ^ 57 →
    x.fetch.line = some (x.regs.pc &&& 0xFFFFFFFFFFFFFFC0) → Line.legal x.fetch.slots = true →
    x.regs.pc.toNat % 2 = 0 → 1 ≤ n → n ≤ Line.heads x.fetch.slots →
    decode (Line.enc x.fetch.slots n) = .ok ins →
    step s = exec ins { (State.openChunk { s with agenda := r, cur := { s.cur with core := c, slot := i } } c i) with
      cur := { core := c, slot := i, enc := Line.enc x.fetch.slots n, line := x.regs.pc &&& 0xFFFFFFFFFFFFFFC0,
               next := if Line.heads x.fetch.slots = n then (x.regs.pc &&& 0xFFFFFFFFFFFFFFC0) + 66 else x.regs.pc + 2 } }

/-- R57, R59, R170: a slot whose PC lies in a line of its own TCM other than the one it executes from takes the line whole; the
turn goes on as if it had held those 32 halfwords. They are what the line holds, unless a commit changed it while the activation
was running: then they are what it holds or what it held before such a commit. -/
def Sys2Proof.Claim.StepFetchesOwnLine : Prop :=
  ∀ (s : State) (r : List Turn) (c i : Nat) (a : Act),
    let x := s.slot c i
    let line := x.regs.pc &&& 0xFFFFFFFFFFFFFFC0
    let k := tcmKey c line.toNat
    let got := halves (Memory.readN s.mem k 64)
    s.agenda = .slot c i :: r → x.act = some a → x.phase = .run → a.owner = none →
    ¬(a.cls = 0 ∧ s.halting a.stamp.asid = true) →
    (x.ext = [] ∨ ∀ y ∈ s.arrivals, y.act ≠ a.id) →
    (∀ ch, x.chunk = some ch → ch.count < 512) → ¬(a.cls = 1 ∧ 2048 ≤ a.executed) →
    (x.impreciseDue = false ∨ x.regs.resumed = true) → x.regs.pc.toNat < 2 ^ 57 →
    x.fetch.line ≠ some line → line.toNat + 64 ≤ tcmSize c → s.bad = [] → s.soft = [] →
    ∃ v f, (v = (s.stamp, got) ∨ (v ∈ s.history.get (lineOf k) [] ∧ a.id < v.1)) ∧
      ((∀ w ∈ s.history.get (lineOf k) [], w.1 ≤ a.id) → v = (s.stamp, got) ∧ f = s.fresh) ∧
      step s = step ({ s with fresh := f }.setSlot c i { x with
        fetch := { line := some line, slots := v.2, seen := (k, v.1) :: x.fetch.seen.filter (fun e => e.1 != k) } })

/-- R58, R59, R71, R181: a line outside the core's own TCM is read through translation with execute permission. A page that grants it
gives the line whole from its frame, with the use of its buffer entry noted; a page that refuses it, or a failed translation, is an
instruction access fault with TPC and TVAL the PC and the cause in SUB (a far core's fetch from a NEAR page is permission by the model's
choice, log 99); an error met in a table is contained; with no translation yet the slot asks for a walk and waits. A PC beyond 57 bits
raises the fault with cause address. -/
def Sys2Proof.Claim.StepFetchesMappedLine : Prop :=
  ∀ (s : State) (r : List Turn) (c i : Nat) (a : Act),
    let x := s.slot c i
    let u := { s with agenda := r }
    let line := x.regs.pc &&& 0xFFFFFFFFFFFFFFC0
    let faults (code : Nat) : Prop :=
      step s = .next (u.takeTrap c i x.regs.pc Cause.fetch (BitVec.ofNat 4 code) false x.regs.pc none)
    s.agenda = .slot c i :: r → x.act = some a → x.phase = .run → a.owner = none →
    ¬(a.cls = 0 ∧ s.halting a.stamp.asid = true) →
    (x.ext = [] ∨ ∀ y ∈ s.arrivals, y.act ≠ a.id) →
    (∀ ch, x.chunk = some ch → ch.count < 512) → ¬(a.cls = 1 ∧ 2048 ≤ a.executed) →
    (x.impreciseDue = false ∨ x.regs.resumed = true) →
    (2 ^ 57 ≤ x.regs.pc.toNat → faults 8) ∧
    (x.regs.pc.toNat < 2 ^ 57 → x.fetch.line ≠ some line → tcmSize c ≤ line.toNat →
      (∀ e k, s.lookup c i x.asid line = .page e → s.access c x.side (i == 7) .fetch e line = .ok k → isConfig k = false →
        s.bad = [] → s.soft = [] →
        let got := halves (Memory.readN s.mem k 64)
        ∃ v f, (v = (s.stamp, got) ∨ (v ∈ s.history.get (lineOf k) [] ∧ a.id < v.1)) ∧
          ((∀ w ∈ s.history.get (lineOf k) [], w.1 ≤ a.id) → v = (s.stamp, got) ∧ f = s.fresh) ∧
          step s = step (({ s with fresh := f }.touch c e).setSlot c i { x with
            fetch := { line := some line, slots := v.2, seen := (k, v.1) :: x.fetch.seen.filter (fun e => e.1 != k) } })) ∧
      (∀ e code, s.lookup c i x.asid line = .page e → s.access c x.side (i == 7) .fetch e line = .error code →
        faults (if code = Code.far then Code.permission else code)) ∧
      (∀ code, s.lookup c i x.asid line = .fail code → faults code) ∧
      (∀ k, s.lookup c i x.asid line = .poison k → step s = .next ((u.noteConsumed k 64).contain c i)) ∧
      (s.lookup c i x.asid line = .pending →
        step s = .next ({ u with cur := { u.cur with core := c, slot := i } }.askWalk line)))

/-- R56, R61, R70, R71: where the line at the PC is not legal, the PC names no head of it, or the head does not decode, the
turn ends in the trap illegal-line (TVAL the line), illegal-target (TVAL the PC) or illegal-instruction (TVAL the head and its
tails), with TPC at the PC; nothing of the instruction executes. -/
def Sys2Proof.Claim.FetchFaults : Prop :=
  ∀ (s : State) (c i : Nat) (line : W64),
    let x := s.slot c i
    let l := x.fetch.slots
    let n := x.regs.pc.toNat / 2 % 32
    (Line.legal l = false →
      s.readyHead c i line = .stay (s.takeTrap c i x.regs.pc Cause.illegalLine 0 false line none)) ∧
    (Line.legal l = true → (x.regs.pc.toNat % 2 = 1 ∨ n = 0 ∨ Line.heads l < n) →
      s.readyHead c i line = .stay (s.takeTrap c i x.regs.pc Cause.illegalTarget 0 false x.regs.pc none)) ∧
    (∀ e, Line.legal l = true → x.regs.pc.toNat % 2 = 0 → 1 ≤ n → n ≤ Line.heads l → decode (Line.enc l n) = .error e →
      s.readyHead c i line = .stay (s.takeTrap c i x.regs.pc Cause.illegalInstruction 0 false
        ((Line.enc l n).t3 ++ (Line.enc l n).t2 ++ (Line.enc l n).t1 ++ (Line.enc l n).head) none))

/-- R56-R61, R70, R71, R170, R181: the line a slot executes from, and what stops it before the instruction. -/
def Obligations.LineFetch : Prop := Claim.StepFetchesOwnLine ∧ Claim.StepFetchesMappedLine ∧ Claim.FetchFaults

/-- R62-R74 and the encodings of each chapter: decoding the encoding of a well-formed instruction gives it back, every operand
at every value its fields admit. -/
def Obligations.DecodeEncode : Prop := ∀ i : Instr, i.wf = true → decode (encode i) = .ok i

/-- R69-R74: what decodes is well-formed; in particular no event of the opcode table has a word, and no word decodes to two
rows. -/
def Sys2Proof.Claim.DecodedWellFormed : Prop := ∀ (e : Enc) (i : Instr), decode e = .ok i → i.wf = true

/-- R74: every reserved major raises illegal-instruction, whatever the other fields hold, as does major 0x00 (R70). -/
def Sys2Proof.Claim.ReservedMajors : Prop :=
  ∀ (e : Enc), (headMajor e.head).toNat ∈
    [0x00, 0x0F, 0x25, 0x26, 0x27, 0x2C, 0x2D, 0x2E, 0x2F, 0x33, 0x3B, 0x42, 0x43, 0x4E, 0x4F, 0x51, 0x52, 0x53, 0x57, 0x58, 0x59,
     0x5A, 0x5B, 0x5C, 0x5D, 0x5E, 0x5F, 0x67, 0x6F, 0x75, 0x76, 0x77, 0x79, 0x7A, 0x7B, 0x7C, 0x7D, 0x7E, 0x7F] →
    IllegalHead e

/-- R69-R74: what decodes is well-formed, and what is reserved does not decode. -/
def Obligations.DecodeRefuses : Prop := Claim.DecodedWellFormed ∧ Claim.ReservedMajors

/-- Words the spec writes out: R78's LIH, LI and ADD, R88's SEND.NOW, R165's WACC.MUL, R283's POSADD, R343's SIGCHK. -/
def Obligations.DecodeWrittenWords : Prop :=
  decode { head := 0xC601, t1 := 0x0000, t2 := 0x1234, t3 := 0x5679 } = .ok (.lih (.g 1) 0x12345679) ∧
  decode { head := 0xC582, t1 := 0x0000, t2 := 0x9ABC, t3 := 0xDEF0 } = .ok (.li (.g 2) 0x9ABCDEF0) ∧
  decode { head := 0x8101, t1 := 0x0208, t2 := 0x0000, t3 := 0 } = .ok (.add (.g 1) (.g 1) (.g 2)) ∧
  decode { head := 0xE20A, t1 := 0x0E00, t2 := 0x0000, t3 := 0x1321 } = .ok (.send (.g 10) (.g 7) 0x21 3 false true) ∧
  decode { head := 0xAA00, t1 := 0x2499, t2 := 0x4C03, t3 := 0 } = .ok (.waccMul (.g 18) (.v 6) (.v 6) 3) ∧
  decode { head := 0x758A, t1 := 0x142C, t2 := 0, t3 := 0 } = .ok (.posadd (.g 10) (.g 10) (.g 11)) ∧
  decode { head := 0xBC00, t1 := 0x0000, t2 := 0x27CA, t3 := 0 } = .ok (.sigchk 0x27CA)

/-! The whole machine. -/

/-- Memory's canonical form at reset. -/
def Obligations.ResetMemoryCanonical : Prop := Memory.wf State.reset.mem = true

/-- Every step of the module keeps memory in its canonical form, the host's staging window too: addresses strictly rise and no
entry equals what an unlisted byte reads as. -/
def Obligations.StepKeepsMemory : Prop :=
  ∀ s t : State, Memory.wf s.mem = true → Memory.wf s.hub.staging = true → step s = .next t →
    Memory.wf t.mem = true ∧ Memory.wf t.hub.staging = true

/-- R226, R228, R323: executing an instruction changes no byte of committed memory, device, TCM, host or peer: its stores wait
in the chunk's store buffer. The one exception is an instruction that ends its activation by escalation or containment, which
frees the slot: the host is told by interrupt 1, where that is enabled: the 4 bytes of the number 1 at the host address of HINT1. -/
def Obligations.InstructionsLeaveMemory : Prop :=
  ∀ (i : Instr) (s t : State), isEvent i = false → Memory.wf s.mem = true → exec i s = .next t →
    t.mem = s.mem ∨
    ((t.slot s.cur.core s.cur.slot).act = none ∧ bit s.hub.hint[1] 0 = true ∧
      t.mem = Memory.writeAll s.mem (hostKey (fld s.hub.hint[1] 2 45 * 4)) [1, 0, 0, 0])

/-- R174: no row of the opcode table is refused by the model, and the one way an instruction stops it is an access of
configuration space outside the capacity map (R174); the events never stop it. -/
def Obligations.NothingRefused : Prop :=
  ∀ (i : Instr) (s : State),
    (∀ r, exec i s ≠ .refused r) ∧ (∀ f, exec i s = .fault f → f = .configSpace) ∧
    (isEvent i = true → ∃ t, exec i s = .next t)

/-- What the spec states for reset: MWGT reads 1 (R252); each link runs at rate code 2 with target 2 and a budget of 16 replays
in a window of 2^30 flits (R353); each host window is closed, with LOG2 12 (R356); no interrupt is enabled (R360); the module
waits for an image (R361); TRIGERR and HERR read 0 (R41, R356); the clock is 2 GHz (R366). That no slot holds an activation and
no graph is resident is the model's state of a module with nothing uploaded (log 2). -/
def Obligations.ResetValues : Prop :=
  (∀ c i, (State.reset.slot c i).act = none) ∧ (∀ c, (State.reset.core c).mwgt = 1) ∧
  (∀ g, (State.reset.graph g).resident = false) ∧
  (∀ n : Fin 16, State.reset.hub.hwin[n] = 0x30) ∧ (∀ n : Fin 4, State.reset.hub.hint[n] = 0) ∧
  (∀ l, Lnk.read l (Lnk.get State.reset l) 0 = 0x22) ∧ (∀ l, fld (Lnk.read l (Lnk.get State.reset l) 6) 0 16 = 16) ∧
  (∀ l, fld (Lnk.read l (Lnk.get State.reset l) 6) 16 5 = 30) ∧
  State.reset.hub.bootState = 0 ∧ State.reset.hub.trigErr = false ∧ State.reset.hub.herr = 0 ∧ State.reset.clock = 2000

/-! Operands. -/

/-- R62, R64: g0 reads zero and discards a write, m0 reads all ones and discards a write; a k register is accepted only inside
a trap handler, and outside one raises illegal-operand. -/
def Sys2Proof.Claim.FixedRegisters : Prop :=
  ∀ (s : State) (p : Pops) (x : W64) (n : Fin 8),
    readG p (.g 0) s = .ok 0 s ∧ (∃ t, writeG (.g 0) x s = .ok () t ∧ t.regs = s.regs ∧ t.mem = s.mem) ∧
    readM (.m 0) s = .ok (BitVec.allOnes 64) s ∧ (∃ t, writeM (.m 0) x s = .ok () t ∧ t.regs = s.regs ∧ t.mem = s.mem) ∧
    (s.regs.inHandler = true → okG (.k n) s = .ok () s) ∧
    (s.regs.inHandler = false → okG (.k n) s = .error (.trap Cause.illegalOperand (encVal s.cur.enc) 0 none none) s)

/-- R66, R67: an unbound queue is the slot's private FIFO of 8 entries: a pop takes the oldest, a scalar read is its bytes
[7:0]; a pop while it is empty raises queue-empty, a push while it is full queue-full, each with the queue's index; a scalar
push appends an entry whose other bytes are zero. -/
def Sys2Proof.Claim.PrivateQueues : Prop :=
  ∀ (s : State) (i : Fin 16) (e : V512) (l : List V512) (x : W64), s.regs.q[i].bind = .unbound →
    (s.regs.q[i].entries = e :: l →
      ∃ t, operands [.q i] none s = .ok [(i, e)] t ∧ readG [(i, e)] (.q i) t = .ok (e.setWidth 64) t ∧
        t.regs.q[i].entries = l ∧ t.regs.q[i].bind = .unbound) ∧
    (s.regs.q[i].entries = [] →
      ∃ t, operands [.q i] none s = .error (.trap Cause.queueEmpty (BitVec.ofNat 64 i.val) 0 none none) t) ∧
    (s.regs.q[i].entries.length < 8 →
      ∃ t, writeG (.q i) x s = .ok () t ∧ t.regs.q[i].entries = s.regs.q[i].entries ++ [x.setWidth 512]) ∧
    (8 ≤ s.regs.q[i].entries.length →
      ∃ t, writeG (.q i) x s = .error (.trap Cause.queueFull (BitVec.ofNat 64 i.val) 0 none none) t)

/-- R62, R64, R66, R67: what reading and writing an operand does. -/
def Obligations.RegisterFiles : Prop := Claim.FixedRegisters ∧ Claim.PrivateQueues

/-! Scalar instructions. -/

namespace Sys2Proof.Claim

/-- R76, members of two sources: the result from a = G(S1) and b = G(S2). -/
def aluTwo : List ((Reg → Reg → Reg → Instr) × (W64 → W64 → W64)) :=
  [(.add, fun a b => BitVec.ofInt 64 (a.toInt + b.toInt)),
   (.sub, fun a b => BitVec.ofInt 64 (a.toInt - b.toInt)),
   (.mul, fun a b => BitVec.ofNat 64 (a.toNat * b.toNat)),
   (.mulh, fun a b => BitVec.ofInt 64 (a.toInt * b.toInt / 2 ^ 64)),
   (.mulhu, fun a b => BitVec.ofNat 64 (a.toNat * b.toNat / 2 ^ 64)),
   (.div, fun a b => if b = 0 then BitVec.allOnes 64 else BitVec.ofInt 64 (a.toInt.tdiv b.toInt)),
   (.divu, fun a b => if b = 0 then BitVec.allOnes 64 else BitVec.ofNat 64 (a.toNat / b.toNat)),
   (.rem, fun a b => if b = 0 then a else BitVec.ofInt 64 (a.toInt.tmod b.toInt)),
   (.remu, fun a b => if b = 0 then a else BitVec.ofNat 64 (a.toNat % b.toNat)),
   (.and, fun a b => a &&& b),
   (.or, fun a b => a ||| b),
   (.xor, fun a b => a ^^^ b),
   (.shl, fun a b => BitVec.ofNat 64 (a.toNat * 2 ^ (b.toNat % 64))),
   (.shr, fun a b => BitVec.ofNat 64 (a.toNat / 2 ^ (b.toNat % 64))),
   (.sra, fun a b => BitVec.ofInt 64 (a.toInt / 2 ^ (b.toNat % 64))),
   (.slt, fun a b => one (a.toInt < b.toInt)),
   (.sltu, fun a b => one (a.toNat < b.toNat)),
   (.min, fun a b => if a.toInt ≤ b.toInt then a else b),
   (.max, fun a b => if a.toInt ≤ b.toInt then b else a),
   (.minu, fun a b => if a.toNat ≤ b.toNat then a else b),
   (.maxu, fun a b => if a.toNat ≤ b.toNat then b else a)]

/-- R76, members of one source. -/
def aluOne : List ((Reg → Reg → Instr) × (W64 → W64)) :=
  [(.clz, fun a => if a = 0 then 64 else BitVec.ofNat 64 (63 - a.toNat.log2)),
   (.ctz, fun a => BitVec.ofNat 64 (((List.range 64).find? (fun i => a.toNat.testBit i)).getD 64)),
   (.popc, fun a => BitVec.ofNat 64 ((List.range 64).filter (fun i => a.toNat.testBit i)).length),
   (.mov, fun a => a)]

/-- R77: the result from a = G(S1) and IMM16. -/
def aluImm : List ((Reg → Reg → Half → Instr) × (W64 → Half → W64)) :=
  [(.addi, fun a i => BitVec.ofInt 64 (a.toInt + i.toInt)),
   (.andi, fun a i => a &&& BitVec.ofInt 64 i.toInt),
   (.ori, fun a i => a ||| BitVec.ofNat 64 i.toNat),
   (.xori, fun a i => a ^^^ BitVec.ofNat 64 i.toNat),
   (.slti, fun a i => one (a.toInt < i.toInt))]

/-- R77: the shifts by i[5:0]. -/
def shiftImm : List ((Reg → Reg → BitVec 6 → Instr) × (W64 → Nat → W64)) :=
  [(.shli, fun a n => BitVec.ofNat 64 (a.toNat * 2 ^ n)),
   (.shri, fun a n => BitVec.ofNat 64 (a.toNat / 2 ^ n)),
   (.srai, fun a n => BitVec.ofInt 64 (a.toInt / 2 ^ n))]

/-- The words of a format HC instruction with X and the mask field zero (R68). -/
def wordHC (major fn : Nat) (d a b c : BitVec 7) : Enc :=
  { head := BitVec.ofNat 16 (0x8000 + major * 128 + d.toNat), t1 := BitVec.ofNat 16 (a.toNat * 512 + b.toNat * 4),
    t2 := BitVec.ofNat 16 (c.toNat * 512 + fn * 8), t3 := 0 }

/-- The words of a format HA instruction with X zero (R68). -/
def wordHA (major : Nat) (d a b : BitVec 7) : Enc :=
  { head := BitVec.ofNat 16 (0x4000 + major * 128 + d.toNat), t1 := BitVec.ofNat 16 (a.toNat * 512 + b.toNat * 4), t2 := 0,
    t3 := 0 }

/-- The words of a format HB instruction (R68). -/
def wordHB (major x : Nat) (d a b : BitVec 7) (imm : Nat) : Enc :=
  { head := BitVec.ofNat 16 (0x8000 + major * 128 + d.toNat), t1 := BitVec.ofNat 16 (a.toNat * 512 + b.toNat * 4 + x),
    t2 := BitVec.ofNat 16 imm, t3 := 0 }

end Sys2Proof.Claim

/-- R76: each member of the ALU group has the words of major 0x02 and its FN, and completes with its result in G(D); all
sources are read before D is written. -/
def Obligations.AluGroup : Prop :=
  (∀ k e, aluTwo[k]? = some e → ∀ d a b : Reg, encode (e.1 d a b) = wordHC 0x02 k d.enc a.enc b.enc 0) ∧
  (∀ k e, aluOne[k]? = some e → ∀ d a : Reg, encode (e.1 d a) = wordHC 0x02 (22 + k) d.enc a.enc 0 0) ∧
  (∀ d a b c : Reg, encode (.sel d a b c) = wordHC 0x02 21 d.enc a.enc b.enc c.enc) ∧
  (∀ e ∈ aluTwo, ∀ (s t u : State) (p : Pops) (d a b : Reg) (x y : W64),
    Reads [okG d, okG a, okG b] [a, b] (some d) s p t → G p a t x → G p b t y → Gives (writeG d (e.2 x y)) t () u →
    exec (e.1 d a b) s = .next u.advance) ∧
  (∀ e ∈ aluOne, ∀ (s t u : State) (p : Pops) (d a : Reg) (x : W64),
    Reads [okG d, okG a] [a] (some d) s p t → G p a t x → Gives (writeG d (e.2 x)) t () u →
    exec (e.1 d a) s = .next u.advance) ∧
  (∀ (s t u : State) (p : Pops) (d a b c : Reg) (x y z : W64),
    Reads [okG d, okG a, okG b, okG c] [a, b, c] (some d) s p t → G p a t x → G p b t y → G p c t z →
    Gives (writeG d (if x ≠ 0 then y else z)) t () u → exec (.sel d a b c) s = .next u.advance)

/-- R77: each immediate form has the words of its major and completes with its result in G(D); a shift whose IMM16[15:6] is not
zero raises illegal-instruction. -/
def Obligations.ImmediateForms : Prop :=
  (∀ (k : Nat) (e : (Reg → Reg → Half → Instr) × (W64 → Half → W64)) (m : Nat), aluImm[k]? = some e →
    [0x03, 0x04, 0x05, 0x06, 0x0A][k]? = some m → ∀ (d a : Reg) (i : Half), encode (e.1 d a i) = wordHB m 0 d.enc a.enc 0 i.toNat) ∧
  (∀ k e, shiftImm[k]? = some e → ∀ (d a : Reg) (n : BitVec 6), encode (e.1 d a n) = wordHB (0x07 + k) 0 d.enc a.enc 0 n.toNat) ∧
  (∀ e ∈ aluImm, ∀ (s t u : State) (p : Pops) (d a : Reg) (i : Half) (x : W64),
    Reads [okG d, okG a] [a] (some d) s p t → G p a t x → Gives (writeG d (e.2 x i)) t () u →
    exec (e.1 d a i) s = .next u.advance) ∧
  (∀ e ∈ shiftImm, ∀ (s t u : State) (p : Pops) (d a : Reg) (n : BitVec 6) (x : W64),
    Reads [okG d, okG a] [a] (some d) s p t → G p a t x → Gives (writeG d (e.2 x n.toNat)) t () u →
    exec (e.1 d a n) s = .next u.advance) ∧
  (∀ e : Enc, (headMajor e.head).toNat ∈ [0x07, 0x08, 0x09] → 64 ≤ e.t2.toNat → IllegalHead e)

/-- R78, R60, R100: LI, LIH and ADDPC put their constant in G(D): IMM32 sign-extended; IMM32 × 2^32; the value of R60, the
line IMM32[31:5] lines on and the slot IMM32[4:0]. NOP changes nothing but PC and what every instruction feeds. -/
def Obligations.Constants : Prop :=
  (∀ (s t u : State) (p : Pops) (d : Reg) (i : BitVec 32), Reads [okG d] [] (some d) s p t →
    (Gives (writeG d (BitVec.ofInt 64 i.toInt)) t () u → exec (.li d i) s = .next u.advance) ∧
    (Gives (writeG d (BitVec.ofNat 64 (i.toNat * 2 ^ 32))) t () u → exec (.lih d i) s = .next u.advance) ∧
    (Gives (writeG d (BitVec.ofInt 64 (s.cur.line.toInt + i.toInt / 32 * 64 + i.toInt % 32 * 2))) t () u →
      exec (.addpc d i) s = .next u.advance)) ∧
  (∀ s, exec .nop s = .next s.advance ∧ Kept s s.advance [] ∧ s.advance.regs.pc = s.cur.next ∧
    s.advance.regs.fpst = s.regs.fpst)

/-- R79: the bit-field group, with its words: BEXT and BEXTS give the field of w bits from lo, zero- or sign-extended from its top bit, BINS
G(S1) with the field replaced by the low w bits of G(S2); a field that reaches beyond bit 63 raises illegal-instruction. -/
def Obligations.BitFields : Prop :=
  (∀ (d a b : Reg) (lo w1 : BitVec 6), let f := lo.toNat + w1.toNat * 64
    encode (.bext d a lo w1) = wordHB 0x0E 0 d.enc a.enc 0 f ∧ encode (.bexts d a lo w1) = wordHB 0x0E 1 d.enc a.enc 0 f ∧
    encode (.bins d a b lo w1) = wordHB 0x0E 2 d.enc a.enc b.enc f) ∧
  (∀ (s t u : State) (p : Pops) (d a : Reg) (lo w1 : BitVec 6) (x : W64), fieldOk lo w1 = true →
    Reads [okG d, okG a] [a] (some d) s p t → G p a t x →
    (Gives (writeG d (BitVec.ofNat 64 (x.toNat / 2 ^ lo.toNat % 2 ^ (w1.toNat + 1)))) t () u →
      exec (.bext d a lo w1) s = .next u.advance) ∧
    (Gives (writeG d (BitVec.ofInt 64 (((x.toNat / 2 ^ lo.toNat : Nat) : Int).bmod (2 ^ (w1.toNat + 1))))) t () u →
      exec (.bexts d a lo w1) s = .next u.advance)) ∧
  (∀ (s t u : State) (p : Pops) (d a b : Reg) (lo w1 : BitVec 6) (x y r : W64), fieldOk lo w1 = true →
    Reads [okG d, okG a, okG b] [a, b] (some d) s p t → G p a t x → G p b t y →
    (∀ i, i < 64 → r.getLsbD i =
      if lo.toNat ≤ i ∧ i ≤ lo.toNat + w1.toNat then y.getLsbD (i - lo.toNat) else x.getLsbD i) →
    Gives (writeG d r) t () u → exec (.bins d a b lo w1) s = .next u.advance) ∧
  (∀ e : Enc, (headMajor e.head).toNat = 0x0E → (64 ≤ e.t2.toNat % 64 + e.t2.toNat / 64 % 64 ∨ 4096 ≤ e.t2.toNat) →
    IllegalHead e)

/-- R62, R66, R76-R79: what the scalar instructions leave: under the hypotheses of their results, every register but the
destination and the queues read or written, every special register, FPST, and every byte of memory. -/
def Obligations.ScalarFrame : Prop :=
  (∀ e ∈ aluTwo, ∀ (s t u v : State) (p : Pops) (d a b : Reg) (x y : W64),
    Reads [okG d, okG a, okG b] [a, b] (some d) s p t → G p a t x → G p b t y → Gives (writeG d (e.2 x y)) t () u →
    exec (e.1 d a b) s = .next v →
    Kept s v (d :: [a, b].filter isQ) ∧ v.regs.fpst = s.regs.fpst ∧ v.regs.pc = s.cur.next) ∧
  (∀ e ∈ aluOne, ∀ (s t u v : State) (p : Pops) (d a : Reg) (x : W64),
    Reads [okG d, okG a] [a] (some d) s p t → G p a t x → Gives (writeG d (e.2 x)) t () u →
    exec (e.1 d a) s = .next v →
    Kept s v (d :: [a].filter isQ) ∧ v.regs.fpst = s.regs.fpst ∧ v.regs.pc = s.cur.next) ∧
  (∀ e ∈ aluImm, ∀ (s t u v : State) (p : Pops) (d a : Reg) (i : Half) (x : W64),
    Reads [okG d, okG a] [a] (some d) s p t → G p a t x → Gives (writeG d (e.2 x i)) t () u →
    exec (e.1 d a i) s = .next v →
    Kept s v (d :: [a].filter isQ) ∧ v.regs.fpst = s.regs.fpst ∧ v.regs.pc = s.cur.next) ∧
  (∀ e ∈ shiftImm, ∀ (s t u v : State) (p : Pops) (d a : Reg) (n : BitVec 6) (x : W64),
    Reads [okG d, okG a] [a] (some d) s p t → G p a t x → Gives (writeG d (e.2 x n.toNat)) t () u →
    exec (e.1 d a n) s = .next v →
    Kept s v (d :: [a].filter isQ) ∧ v.regs.fpst = s.regs.fpst ∧ v.regs.pc = s.cur.next) ∧
  (∀ (s t u v : State) (p : Pops) (d a b c : Reg) (x y z : W64),
    Reads [okG d, okG a, okG b, okG c] [a, b, c] (some d) s p t → G p a t x → G p b t y → G p c t z →
    Gives (writeG d (if x ≠ 0 then y else z)) t () u → exec (.sel d a b c) s = .next v →
    Kept s v (d :: [a, b, c].filter isQ) ∧ v.regs.fpst = s.regs.fpst ∧ v.regs.pc = s.cur.next) ∧
  (∀ (s t u v : State) (p : Pops) (d a : Reg) (lo w1 : BitVec 6) (x : W64),
    Reads [okG d, okG a] [a] (some d) s p t → G p a t x →
    (Gives (writeG d (Alu.bext x lo w1)) t () u → exec (.bext d a lo w1) s = .next v →
      Kept s v (d :: [a].filter isQ) ∧ v.regs.fpst = s.regs.fpst) ∧
    (Gives (writeG d (Alu.bexts x lo w1)) t () u → exec (.bexts d a lo w1) s = .next v →
      Kept s v (d :: [a].filter isQ) ∧ v.regs.fpst = s.regs.fpst)) ∧
  (∀ (s t u v : State) (p : Pops) (d a b : Reg) (lo w1 : BitVec 6) (x y : W64),
    Reads [okG d, okG a, okG b] [a, b] (some d) s p t → G p a t x → G p b t y →
    Gives (writeG d (Alu.bins x y lo w1)) t () u → exec (.bins d a b lo w1) s = .next v →
    Kept s v (d :: [a, b].filter isQ) ∧ v.regs.fpst = s.regs.fpst) ∧
  (∀ (s t u v : State) (p : Pops) (d : Reg) (i : BitVec 32), Reads [okG d] [] (some d) s p t →
    (Gives (writeG d (i.signExtend 64)) t () u → exec (.li d i) s = .next v → Kept s v [d] ∧ v.regs.fpst = s.regs.fpst) ∧
    (Gives (writeG d (i.setWidth 64 <<< 32)) t () u → exec (.lih d i) s = .next v → Kept s v [d] ∧ v.regs.fpst = s.regs.fpst) ∧
    (Gives (writeG d (rel32 s.cur.line i)) t () u → exec (.addpc d i) s = .next v →
      Kept s v [d] ∧ v.regs.fpst = s.regs.fpst))

/-! Control flow. -/

namespace Sys2Proof.Claim

/-- R80: the conditions. -/
def branches : List ((Reg → Reg → Half → Instr) × (W64 → W64 → Bool)) :=
  [(.beq, fun a b => decide (a.toNat = b.toNat)),
   (.bne, fun a b => decide (a.toNat ≠ b.toNat)),
   (.blt, fun a b => decide (a.toInt < b.toInt)),
   (.bge, fun a b => decide (b.toInt ≤ a.toInt)),
   (.bltu, fun a b => decide (a.toNat < b.toNat)),
   (.bgeu, fun a b => decide (b.toNat ≤ a.toNat))]

/-- R60: the target of IMM16 at a line. -/
def target16 (line : W64) (i : Half) : W64 := BitVec.ofInt 64 (line.toInt + i.toInt / 32 * 64 + i.toInt % 32 * 2)

/-- R60: the target of IMM32 at a line. -/
def target32 (line : W64) (i : BitVec 32) : W64 := BitVec.ofInt 64 (line.toInt + i.toInt / 32 * 64 + i.toInt % 32 * 2)

end Sys2Proof.Claim

/-- R80: a conditional branch completes; PC is the target of R60 where the condition on G(S1) and G(S2) holds, and the next
head otherwise. It writes no register. -/
def Sys2Proof.Claim.Branches : Prop :=
  ∀ e ∈ branches, ∀ (s t : State) (p : Pops) (a b : Reg) (i : Half) (x y : W64),
    Reads [okG a, okG b] [a, b] none s p t → G p a t x → G p b t y →
    ∃ v, exec (e.1 a b i) s = .next v ∧
      v.regs.pc = (if e.2 x y then target16 s.cur.line i else s.cur.next) ∧
      Kept s v ([a, b].filter isQ) ∧ v.regs.fpst = s.regs.fpst

/-- R81: LOOP completes: G(D) goes down by one, modulo 2^64, and where it is not zero then, PC is the target of R60 for IMM16.
A counter that enters as 0 leaves as all ones, and the branch is taken. With D = g0, whose write is discarded and which reads
zero (R62), it falls through. -/
def Sys2Proof.Claim.LoopInstruction : Prop :=
  ∀ (s : State) (d : Reg) (i : Half) (x : W64), Reads [okGOnly d] [] none s [] s → G [] d s x →
    ∃ v, exec (.loop d i) s = .next v ∧
      v.regs.pc = (if d ≠ .g 0 ∧ x ≠ 1 then target16 s.cur.line i else s.cur.next) ∧
      G [] d v (if d = .g 0 then 0 else x - 1) ∧ Kept s v [d] ∧ v.regs.fpst = s.regs.fpst

/-- R82: JMP, JAL and JALR complete: PC is the target of R60 for IMM32, or G(S1) plus the sign-extended IMM16; the link, the
byte PC of the head that follows, goes to G(D), which JALR writes after it reads G(S1). -/
def Sys2Proof.Claim.Jumps : Prop :=
  (∀ (s : State) (i : BitVec 32), ∃ v, exec (.jmp i) s = .next v ∧ v.regs.pc = target32 s.cur.line i ∧ Kept s v [] ∧
    v.regs.fpst = s.regs.fpst) ∧
  (∀ (s t u : State) (p : Pops) (d : Reg) (i : BitVec 32), Reads [okG d] [] (some d) s p t →
    Gives (writeG d s.cur.next) t () u →
    ∃ v, exec (.jal d i) s = .next v ∧ v.regs.pc = target32 s.cur.line i ∧ v.regs.g = u.regs.g ∧ v.regs.k = u.regs.k ∧
      v.regs.q = u.regs.q ∧ Kept s v [d] ∧ v.regs.fpst = s.regs.fpst) ∧
  (∀ (s t u : State) (p : Pops) (d a : Reg) (i : Half) (x : W64), Reads [okG d, okG a] [a] (some d) s p t → G p a t x →
    Gives (writeG d s.cur.next) t () u →
    ∃ v, exec (.jalr d a i) s = .next v ∧ v.regs.pc = BitVec.ofInt 64 (x.toInt + i.toInt) ∧ v.regs.g = u.regs.g ∧
      v.regs.k = u.regs.k ∧ v.regs.q = u.regs.q ∧ Kept s v (d :: [a].filter isQ) ∧ v.regs.fpst = s.regs.fpst)

/-- R60, R80-R82: branches, the loop and the jumps. (That LOOP of g0 falls through is DEDUCED, NOTES.md.) -/
def Obligations.ControlFlow : Prop := Claim.Branches ∧ Claim.LoopInstruction ∧ Claim.Jumps

/-! Control registers, traps, waits and the ends of chunks. -/

namespace Sys2Proof.Claim

/-- R96: numbers of registers a slot holds, with the field that holds each. -/
def slotRegs : List (Nat × (Regs → W64)) :=
  [(0x012, Regs.tvec), (0x013, Regs.tpc), (0x018, Regs.lxmiss), (0x020, Regs.fpst), (0x021, Regs.fmta), (0x022, Regs.fmtb),
   (0x023, Regs.scla), (0x024, Regs.sclb), (0x028, Regs.mfrx), (0x02A, Regs.gfault), (0x030, Regs.shpat),
   (0x040, Regs.sigcfg), (0x041, Regs.sigacc)]

/-- R96: the other registers a slot holds: those that only the hardware writes, and CPYDONE. -/
def otherRegs : List (Nat × (Regs → W64)) :=
  [(0x014, Regs.tcause), (0x015, Regs.tval), (0x01A, Regs.lxstat), (0x027, Regs.mfr), (0x029, Regs.mdrop), (0x031, Regs.cpydone),
   (0x032, Regs.batch)]

/-- The number may be named by the slot (R94): it names a register, and one from 0x800 only from a system slot. -/
def Named (s : State) (r : Nat) : Prop := crKnown r = true ∧ (r < 0x800 ∨ slotClass s.cur.slot = 2)

/-- A write may name the register (R94): some field of it is writable for the slot, and of a graph register a system slot's GSEL
selects a resident graph or none (R22). -/
def Open (s : State) (r : Nat) : Prop :=
  Named s r ∧ crWritable r (slotClass s.cur.slot == 2) = true ∧
  (isGraphReg r = true → (s.ownView.graphSel s.cur.core s.cur.slot).2 = false)

/-- A state, with the lines in its open chunk's read signature that an instruction has read by the state u (R102, R228). -/
def withReads (s u : State) : State := s.keepReads (.trap 0 0 0 none none) u.myReads

/-- The instruction raises a precise fault (R316, R318), having read what it had by the state u: the trap is taken with TPC at the
instruction, and nothing else of it stands. -/
def Traps (i : Instr) (s u : State) (cause : BitVec 8) (val : W64) : Prop :=
  exec i s = .next ((withReads s u).takeTrap s.cur.core s.cur.slot s.regs.pc cause 0 false val none)

/-- A precise fault with a code in TCAUSE.SUB (R215, R314). -/
def TrapsSub (i : Instr) (s u : State) (cause : BitVec 8) (sub : BitVec 4) (val : W64) : Prop :=
  exec i s = .next ((withReads s u).takeTrap s.cur.core s.cur.slot s.regs.pc cause sub false val none)

/-- The value a write leaves in a register: its RW fields of x, every other field as it was (R93). -/
def written (s : State) (r : Nat) (x : W64) : W64 :=
  (s.crValue r &&& ~~~ crRw r (slotClass s.cur.slot == 2)) ||| (x &&& crRw r (slotClass s.cur.slot == 2))

/-- A value a write may leave has zero in every field that must be zero (R94). -/
def ZeroOk (s : State) (r : Nat) (x : W64) : Prop := x &&& crZero r (slotClass s.cur.slot == 2) = 0

/-- A location a buffered item writes when it commits. -/
def Written (l : List Store) (a : Nat) : Prop :=
  ∃ st ∈ l, (∃ d, st.adds = some d ∧ d.key ≤ a ∧ a < d.key + 64) ∨
    (st.adds = none ∧ ∃ p ∈ st.parts, p.fail = 0 ∧ ∃ k, p.key = some k ∧ k ≤ a ∧ a < k + p.bytes.length)

/-- A chunk whose stores have all been checked and that no older request holds back (R232). -/
def Ripe (s : State) (ch : Chunk) : Prop := ch.ready = true ∧ s.mayGrant s.cur.core s.cur.slot ch = true

/-- No tentative entry of the task queues stands for the activation of the slot: what commits is firm (R300, R304). -/
def Firm (s : State) : Prop := ∀ e ∈ s.tasks, e.running = some (s.cur.core, s.cur.slot) → e.parent = none

/-- A trap raised now is taken now: the slot is inside a handler, or need not wait to become the head of its order (R303). -/
def TrapReady (s : State) : Prop := s.regs.inHandler = true ∨ Free s

end Sys2Proof.Claim

/-- R93, R338, R353: a control register read completes with the register's value in G(D); what the read clears leaves with the
chunk. HEALTH and a link's LNK_DEGRADE are rows of their own. The registers a slot holds read as they stand; TSTAT gives IN and LX, whether the activation is
non-restartable, whether it is a speculative task, and whether an imprecise trap is held inside a handler (R314); MSTAT holds in OUT
the slot's outstanding commands (R264); SFQSTAT counts the records held and the stores not yet checked (R321). -/
def Sys2Proof.Claim.ControlRegisterReads : Prop :=
  (∀ (s t u v : State) (p : Pops) (d : Reg) (r : BitVec 12), Reads [okG d] [] (some d) s p t → Named t r.toNat →
    Gives (crReadClear r.toNat (t.crValue r.toNat)) t () u → Gives (writeG d (t.crValue r.toNat)) u () v →
    exec (.crrd d r) s = .next v.advance ∧ (r = 0x880 → exec (.healthRead d) s = .next v.advance) ∧
    (∀ l : Fin 18, r.toNat = 0x905 + 16 * l.val → exec (.lnkDegradeRead l d) s = .next v.advance)) ∧
  (∀ (s : State) (r : Nat), r ≠ 0x880 → Lnk.isReg r = false → Gives (crReadClear r (s.crValue r)) s () s) ∧
  (∀ e ∈ slotRegs ++ otherRegs, ∀ s : State, s.crValue e.1 = e.2 s.regs) ∧
  (∀ s : State, let v := s.crValue 0x016
    fld v 0 2 = fld s.regs.tstat 0 2 ∧ fld v 5 59 = 0 ∧
    (bit v 2 = true ↔ ∃ a, s.me.act = some a ∧ (a.restartable = false ∨ s.me.ended.isSome = true)) ∧
    (bit v 3 = true ↔ ∃ a t, s.me.act = some a ∧ a.task = some t ∧ (t.state = .speculative ∨ t.state = .finished)) ∧
    (bit v 4 = true ↔ s.regs.inHandler = true ∧ (s.me.matrix ≠ [] ∨ s.me.engine ≠ []))) ∧
  (∀ s : State, let v := s.crValue 0x026
    v &&& ~~~ 0x1F0000 = s.regs.mstat &&& ~~~ 0x1F0000 ∧
      (s.outstanding s.cur.core s.cur.slot ≤ 16 → fld v 16 5 = s.outstanding s.cur.core s.cur.slot)) ∧
  (∀ s : State, s.regs.sfq.length ≤ 8 → let v := s.crValue 0x048
    fld v 0 4 = s.regs.sfq.length ∧ fld v 8 4 = min s.me.unchecked 8 ∧ fld v 4 4 = 0 ∧ fld v 12 52 = 0)

/-- R93, R94: a control register write completes: CRWR sets the RW fields to G(S1), CRSET to the register OR G(S1), CRCLR to the
register AND NOT G(S1), and leaves every other field. CPYDONE, MWGT and a link's LNK_RATE and LNK_TRAP are rows of their own.
Of a register the slot holds, the new value is stated, every other register stands. -/
def Sys2Proof.Claim.ControlRegisterWrites : Prop :=
  (∀ (s t u : State) (p : Pops) (r : BitVec 12) (a : Reg) (x : W64), Reads [okG a] [a] none s p t → Open s r.toNat →
    G p a t x →
    (Gives (crStore r.toNat x x) t () u → exec (.crwr r a) s = .next u.advance ∧
      (r = 0x031 → exec (.cpydoneWrite a) s = .next u.advance) ∧ (r = 0x025 → exec (.mwgtWrite a) s = .next u.advance) ∧
      (∀ l : Fin 18, r.toNat = 0x900 + 16 * l.val → exec (.lnkRateWrite l a) s = .next u.advance) ∧
      (∀ l : Fin 18, r.toNat = 0x909 + 16 * l.val → exec (.lnkTrapWrite l a) s = .next u.advance)) ∧
    (Gives (crStore r.toNat (t.crValue r.toNat ||| x) x) t () u → exec (.crset r a) s = .next u.advance) ∧
    (Gives (crStore r.toNat (t.crValue r.toNat &&& ~~~ x) 0) t () u → exec (.crclr r a) s = .next u.advance)) ∧
  (∀ e ∈ slotRegs, ∀ (s : State) (x y : W64), x &&& crZero e.1 (slotClass s.cur.slot == 2) = 0 →
    ∃ t, Gives (crStore e.1 x y) s () t ∧
      e.2 t.regs = (e.2 s.regs &&& ~~~ crRw e.1 false) ||| (x &&& crRw e.1 false) ∧
      (∀ f ∈ slotRegs ++ otherRegs, f.1 ≠ e.1 → f.2 t.regs = f.2 s.regs) ∧
      t.regs.g = s.regs.g ∧ t.regs.v = s.regs.v ∧ t.regs.m = s.regs.m ∧ t.regs.k = s.regs.k ∧ t.regs.q = s.regs.q ∧
      t.mem = s.mem)

/-- R95, R206, R351, R353: registers that more than the slot's activation sees. A write of MWGT, RVTBASE, GSEL, of a graph
register of the space the slot reaches, or of a link's LNK_BUDGET, LNK_LANESEL and LNK_TRAP leaves with the chunk: the slot
reads the new value at once, and the register holds it once the chunk's action takes place at the commit; of LNK_RATE the target
and its enable. A write of MFRX reaches the matrix unit so too: where VALID is set at the commit, the activation's commands that have not
started go and count in CANCEL (R263). -/
def Sys2Proof.Claim.SharedRegisterWrites : Prop :=
  (∀ (s : State) (r : BitVec 12) (x y : W64) (ch : Chunk), s.me.chunk = some ch → ZeroOk s r.toNat x →
    ((r = 0x025 ∧ written s r.toNat x ≠ 0) ∨ r = 0x882 ∨ r = 0x883 ∨
      (isGraphReg r.toNat = true ∧ (s.ownView.graphSel s.cur.core s.cur.slot).1.isSome = true) ∨
      (Lnk.isReg r.toNat = true ∧ (Lnk.split r.toNat).2 ∈ [6, 7, 9] ∧
        Lnk.refused s (Lnk.split r.toNat).1 (Lnk.split r.toNat).2 (written s r.toNat x) = false)) →
    ∃ t, Gives (crStore r.toNat x y) s () t ∧ t.crValue r.toNat = written s r.toNat x ∧ t.regs = s.regs ∧ t.mem = s.mem ∧
      t.me.chunk = some { ch with acts := ch.acts ++ [.coreReg r (written s r.toNat x)] }) ∧
  (∀ (s : State) (c i : Nat) (n : Regs) (r : BitVec 12) (v : W64) (l : List Action),
    let t := s.perform c i n (.coreReg r v) l
    (r = 0x025 → (t.core c).mwgt = v) ∧ (r = 0x882 → (t.core c).rvtbase = v) ∧ (r = 0x883 → (t.core c).gsel = v) ∧
    (∀ a, isGraphReg r.toNat = true → (s.graphSel c i).1 = some a → (t.spaceRegs c a).read r.toNat = v) ∧
    (Lnk.isReg r.toNat = true →
      let p := Lnk.split r.toNat
      (p.2 ∈ [6, 7, 9] → Lnk.read p.1 (Lnk.get t p.1) p.2 = v) ∧
      (p.2 = 0 → Lnk.read p.1 (Lnk.get t p.1) 0 &&& 0x170 = v &&& 0x170) ∧
      (∀ q, q ≠ p.1 → Lnk.get t q = Lnk.get s q))) ∧
  (∀ (s : State) (x y : W64) (ch : Chunk), s.me.chunk = some ch → ZeroOk s 0x028 x → ∃ t, Gives (crStore 0x028 x y) s () t ∧
    t.crValue 0x028 = written s 0x028 x ∧ t.mem = s.mem ∧
    t.me.chunk = some { ch with acts := ch.acts ++ [.coreReg 0x028 (written s 0x028 x)] }) ∧
  (∀ (s : State) (c i : Nat) (n : Regs) (v : W64) (l : List Action), let t := s.perform c i n (.coreReg 0x028 v) l
    (bit n.mfrx 63 = false → t = s) ∧
    (∀ a, bit n.mfrx 63 = true → (s.slot c i).act = some a →
      let waits (m : MCmd) : Bool := m.act == a.id && !(s.munit c).running.any (fun r => r.cmd.act == a.id && r.cmd.num == m.num)
      (t.core c).mq = (s.core c).mq.filter (fun m => !waits m) ∧
      (t.slot c i).regs.mfrx = setFld (s.slot c i).regs.mfrx 48 8
        (min (fld (s.slot c i).regs.mfrx 48 8 + ((s.core c).mq.filter waits).length) 255)))

/-- R206: a write of CPYDONE leaves its new value; with EN = 1 it stores NEXT − 1 into the batch word in the slot's TCM, as a
store of the chunk; a WORD that lies beyond the TCM is refused, whatever EN. -/
def Sys2Proof.Claim.CpydoneWrite : Prop :=
  ∀ (s : State) (x y : W64), ZeroOk s 0x031 x →
    let new := written s 0x031 x
    let at_ := new &&& 0xFFF8
    (bit new 0 = false → at_.toNat + 8 ≤ tcmSize s.cur.core →
      ∃ t, Gives (crStore 0x031 x y) s () t ∧ t.regs.cpydone = new ∧ Memory.readN t.mem = Memory.readN s.mem ∧
        ∀ f ∈ slotRegs ++ otherRegs, f.1 ≠ 0x031 → f.2 t.regs = f.2 s.regs) ∧
    (∀ u, bit new 0 = true → at_.toNat + 8 ≤ tcmSize s.cur.core →
      Gives (memStore at_ (natBytes ((s.regs.batch.toNat % 2 ^ 32 + 2 ^ 32 - 1) % 2 ^ 32) 8) 0 3 0) s () u →
      ∃ t, Gives (crStore 0x031 x y) s () t ∧ t.regs.cpydone = new ∧ t.me.chunk = u.me.chunk) ∧
    (tcmSize s.cur.core < at_.toNat + 8 →
      crStore 0x031 x y s = .error (.trap Cause.illegalOperand (encVal s.cur.enc) 0 none none) s)

/-- R71, R94: the control register group raises illegal-operand, and changes nothing, where the number names no register or is one
from 0x800 named by a worker or service slot, and where a write names a register of which no field is writable for the slot, all
before a source queue is popped; and where it would set a field that must be zero. -/
def Sys2Proof.Claim.ControlRegisterRefusals : Prop :=
  ∀ (s : State) (a d : Reg) (r : BitVec 12), TrapReady s →
    let refuses (i : Instr) (u : State) : Prop := Traps i s u Cause.illegalOperand (encVal s.cur.enc)
    (¬ Named s r.toNat → okG d s = .ok () s → refuses (.crrd d r) s) ∧
    (¬ Open s r.toNat → okG a s = .ok () s → refuses (.crwr r a) s ∧ refuses (.crset r a) s ∧ refuses (.crclr r a) s) ∧
    (∀ (t : State) (p : Pops) (x : W64), Open s r.toNat → Reads [okG a] [a] none s p t → G p a t x → t.cur = s.cur →
      (¬ ZeroOk t r.toNat x → refuses (.crwr r a) t) ∧
      (¬ ZeroOk t r.toNat (t.crValue r.toNat ||| x) → refuses (.crset r a) t) ∧
      (¬ ZeroOk t r.toNat (t.crValue r.toNat &&& ~~~ x) → refuses (.crclr r a) t))

/-- R93-R96, R206, R351, R353: the control register group. -/
def Obligations.ControlRegisters : Prop := Claim.ControlRegisterReads ∧ Claim.ControlRegisterWrites ∧ Claim.SharedRegisterWrites ∧ Claim.CpydoneWrite ∧ Claim.ControlRegisterRefusals

/-- R314, R316, R318: entering a handler. Outside a handler, with a handler installed, PC goes to TVEC, or for a label miss to
LXMISS where that is set; TPC, TCAUSE and TVAL take the PC the cause states, the cause with SUB and IMPRECISE, and the value;
TSTAT shows the handler, and in LX whether it is the one LXMISS names; k0 and k1 take TVAL and TCAUSE or the words the cause names; the open chunk ends; every other register
of the slot, all memory and every other slot stand. -/
def Sys2Proof.Claim.TrapEntryRegisters : Prop :=
  ∀ (s : State) (c i : Nat) (pc val : W64) (cause : BitVec 8) (sub : BitVec 4) (impr : Bool) (ks : Option (W64 × W64)),
    let x := s.slot c i
    let lx : Bool := cause == Cause.labelMiss && x.regs.lxmiss != 0
    let t := s.takeTrap c i pc cause sub impr val ks
    let y := t.slot c i
    let tc : W64 := BitVec.ofNat 64 (cause.toNat + 256 * sub.toNat + (if impr then 65536 else 0))
    x.regs.inHandler = false → x.mustWait s = false → (if lx then x.regs.lxmiss else x.regs.tvec) ≠ 0 →
    y.regs.pc = (if lx then x.regs.lxmiss else x.regs.tvec) ∧
    y.regs.tpc = pc &&& 0x01FFFFFFFFFFFFFE ∧ y.regs.tcause = tc ∧ y.regs.tval = val ∧
    y.regs.tstat = (if y.regs.pc = x.regs.lxmiss then 3 else 1) ∧
    y.regs.k[0] = (ks.getD (val, tc)).1 ∧ y.regs.k[1] = (ks.getD (val, tc)).2 ∧
    (∀ n : Fin 8, 2 ≤ n.val → y.regs.k[n] = x.regs.k[n]) ∧
    y.regs.g = x.regs.g ∧ y.regs.v = x.regs.v ∧ y.regs.m = x.regs.m ∧ y.regs.q = x.regs.q ∧
    y.regs.fpst = x.regs.fpst ∧ y.regs.tvec = x.regs.tvec ∧ y.regs.lxmiss = x.regs.lxmiss ∧ y.regs.sigacc = 0xFFFF ∧
    y.regs.fmta = x.regs.fmta ∧ y.regs.fmtb = x.regs.fmtb ∧ y.regs.scla = x.regs.scla ∧ y.regs.sclb = x.regs.sclb ∧
    y.regs.mstat = x.regs.mstat ∧ y.regs.mfr = x.regs.mfr ∧ y.regs.mfrx = x.regs.mfrx ∧ y.regs.mdrop = x.regs.mdrop ∧
    y.regs.gfault = x.regs.gfault ∧ y.regs.shpat = x.regs.shpat ∧ y.regs.cpydone = x.regs.cpydone ∧
    y.regs.batch = x.regs.batch ∧ y.regs.lxstat = x.regs.lxstat ∧ y.regs.sigcfg = x.regs.sigcfg ∧
    y.regs.sfq = x.regs.sfq ∧ y.regs.held = x.regs.held ∧
    y.chunk = none ∧ (∀ ch, x.chunk = some ch → y.ended = some ch) ∧ (x.chunk = none → y.ended = x.ended) ∧
    t.mem = s.mem ∧ (∀ d j, (d, j) ≠ (c, i) → t.slot d j = s.slot d j)

/-- R323: a trap inside a handler, once the chunk its entry ended has committed, or with no handler installed, escalates: the
activation ends and its slot is free. -/
def Sys2Proof.Claim.Escalation : Prop :=
  ∀ (s : State) (c i : Nat) (pc val : W64) (cause : BitVec 8) (sub : BitVec 4) (impr : Bool) (ks : Option (W64 × W64)),
    let x := s.slot c i
    x.act.isSome = true →
    ((x.regs.inHandler = true ∧ x.ended = none) ∨
      (x.regs.inHandler = false ∧ x.mustWait s = false ∧ x.regs.tvec = 0 ∧ (cause ≠ Cause.labelMiss ∨ x.regs.lxmiss = 0))) →
    ((s.takeTrap c i pc cause sub impr val ks).slot c i).act = none

/-- R314, R316, R318, R323: taking a trap. -/
def Obligations.TrapEntry : Prop := Claim.TrapEntryRegisters ∧ Claim.Escalation

/-- R97, R98: TRAP enters the handler with cause program-trap, TVAL the code, and TPC at the head that follows; inside a handler,
or without one, it escalates, at its own PC (the model's reading of R324, log 70). ERET ends the
handler's chunk, and once that has committed PC is TPC, TSTAT shows no handler, and the k registers keep their values; memory stands
but for the bytes the chunk stored; outside a handler ERET raises illegal-operand. -/
def Obligations.TrapAndReturn : Prop :=
  (∀ (s : State) (c : BitVec 7), NotOnHart s → TrapReady s →
    exec (.trap c) s = .next ((if s.regs.escalates then s else s.advance).takeTrap s.cur.core s.cur.slot s.cur.next
      Cause.programTrap 0 false (BitVec.ofNat 64 c.toNat) none)) ∧
  (∀ s : State, s.regs.inHandler = true → Free s →
    ∃ t, exec .eret s = .next t ∧ t.me.phase = .commit .eret ∧ t.regs.k = s.regs.k ∧ t.regs.tpc = s.regs.tpc ∧ t.mem = s.mem) ∧
  (∀ s : State, s.regs.inHandler = false → TrapReady s →
    Traps .eret s s Cause.illegalOperand (encVal s.cur.enc)) ∧
  (∀ s : State, s.me.phase = .commit .eret → s.me.ended = none → (∀ ch, s.me.chunk = some ch → Ripe s ch) → Free s → Firm s →
    ∃ t, exec .chunkCommit s = .next t ∧ t.regs.pc = s.regs.tpc ∧ t.regs.inHandler = false ∧ t.regs.k = s.regs.k ∧
      t.regs.g = s.regs.g ∧ t.regs.v = s.regs.v ∧ t.regs.m = s.regs.m ∧ t.me.chunk = none ∧ t.me.phase = .run ∧
      ∀ a, (∀ ch, s.me.chunk = some ch → ¬ Written ch.stores a) → Memory.read t.mem a = Memory.read s.mem a)

/-- R83, R99, R237, R239, R322, R343: the instructions that end a chunk, wait or check. ENDA and ENDA.T, with every store checked
and no store-fault record, end the chunk and the activation with it; CHKPT ends the chunk; SDRAIN goes on once every store is
checked, and waits behind its own boundary before; WAITI pauses the slot, unless a trap is pending; FENCE goes on once what its kind, scope and options name is done; SIGCHK, where nothing is to be
compared or the signature agrees, clears SKIP and starts the signature again; one whose signature differs is contained (R243): in a
restartable activation that has issued no matrix command (R251) the slot is freed and the trigger returns to its place of arrival, with
one containment more, at most twice; in any other the group of record is killed. A task before its first commit restarts in place at
most twice, keeping its place in R232's order, and one past it has its group killed (R307), but that a task which has migrated and
committed nothing since has its migration message redelivered, at most twice, and stays in flight (R244, log 108); of an activation that
is no task, a containment that `regionAt` finds to be in an atomic region restarts it from the
instruction after its first CHKPT and kills nothing (R234). How the model tells a region from the code ahead is its own choice (log 93). -/
def Sys2Proof.Claim.EndsAndWaits : Prop :=
  (∀ s : State, s.me.unchecked = 0 → s.regs.sfq = [] →
    exec .enda s = .next (s.advance.modMe (fun x => { x with phase := .commit (.enda false) })) ∧
    exec .endaT s = .next (s.advance.modMe (fun x => { x with phase := .commit (.enda true) }))) ∧
  (∀ s : State, Free s → ∃ t, exec .chkpt s = .next t ∧ t.me.phase = .commit .chkpt ∧ t.regs.pc = s.cur.next ∧ Kept s t [] ∧
    t.regs.fpst = s.regs.fpst) ∧
  (∀ s : State, NotOnHart s → s.me.unchecked = 0 → exec .sdrain s = .next s.advance) ∧
  (∀ s : State, NotOnHart s → s.me.unchecked ≠ 0 →
    ∃ t, exec .sdrain s = .next t ∧ t.me.phase = .wait .drain ∧ t.regs.pc = s.cur.next ∧ Kept s t [] ∧ t.regs.fpst = s.regs.fpst) ∧
  (∀ s : State, NotOnHart s → s.me.trapPending = false →
    ∃ t, exec .waiti s = .next t ∧ t.me.phase = .wait .waiti ∧ t.regs.pc = s.cur.next ∧ Kept s t [] ∧ t.regs.fpst = s.regs.fpst) ∧
  (∀ s : State, NotOnHart s → s.me.trapPending = true → exec .waiti s = .next s.advance) ∧
  (∀ (s : State) (c : Scope) (k : FenceKind) (eng xlat : Bool),
    (k = .acq ∨ ((c = .sys → s.me.ext = [] ∧ s.me.extPending = false) ∧
      (eng = true → s.engBusy s.cur.core s.cur.slot = false) ∧
      (xlat = true → s.xlatBusy c s.cur.core s.cur.slot = false))) →
    ∃ t, exec (.fence c k eng xlat) s = .next t ∧ t.regs.pc = s.cur.next ∧ Kept s t [] ∧ t.regs.fpst = s.regs.fpst ∧
      (k = .rel → t.me.acq = s.me.acq ∧ t.me.acqEng = s.me.acqEng) ∧
      ∀ a, k ≠ .rel → s.me.act = some a → t.me.acq = a.nextCmd ∧ (eng = true → t.me.acqEng = true)) ∧
  (∀ (s : State) (i : Half),
    (bit s.regs.sigcfg 0 = false ∨ bit s.regs.sigcfg 1 = true ∨ s.regs.sigacc.setWidth 16 = i) →
    ∃ t, exec (.sigchk i) s = .next t ∧ t.regs.pc = s.cur.next ∧ t.regs.sigacc = 0xFFFF ∧ t.regs.sigcfg = s.regs.sigcfg &&& 1 ∧
      t.regs.g = s.regs.g ∧ t.regs.fpst = s.regs.fpst ∧ t.mem = s.mem) ∧
  (∀ (s : State) (i : Half), bit s.regs.sigcfg 0 = true → bit s.regs.sigcfg 1 = false → s.regs.sigacc.setWidth 16 ≠ i →
    ∃ t, exec (.sigchk i) s = .next t ∧ t = s.contain s.cur.core s.cur.slot ∧
      (∀ a, s.me.act = some a → (a.early = false ∨ 2 ≤ a.contained) →
        (a.task ≠ none ∨ s.regionAt s.cur.core s.cur.slot = some false) →
        ((a.task = none ∨ a.trigger.portable.isSome = true) → a.restartable = true → a.issuedMatrix = false → a.contained < 2 →
          (t.slot s.cur.core s.cur.slot).act = none ∧
          (∃ p ∈ (t.core s.cur.core).inbox, p.msg = a.trigger ∧ p.arrival = a.arrival ∧ p.contained = a.contained + 1) ∧
          ∀ e ∈ s.tasks, e.running = some (s.cur.core, s.cur.slot) → e.parent = none → s.cur.slot < 8 →
            ∃ f ∈ t.tasks, f.key = e.key ∧ f.running = some (s.cur.core, 99)) ∧
        (((a.task ≠ none ∧ a.trigger.portable = none) ∨ a.restartable = false ∨ a.issuedMatrix = true ∨ 2 ≤ a.contained) →
          (t.slot s.cur.core s.cur.slot).act = none ∧ ∃ k ∈ t.kills, k.asid = a.stamp.asid ∧ k.group = a.stamp.group)) ∧
      (∀ (a : Act) (ch : Chunk), s.me.act = some a → s.me.ended = none → s.me.chunk = some ch →
        (∀ e ∈ s.tasks, e.parent ≠ some ch.order) → let x := t.slot s.cur.core s.cur.slot
        (a.early = true → a.contained < 2 → x.regs = ch.saved ∧ x.chunk = none ∧ x.phase = .run ∧ x.attempt.order = ch.order ∧
          x.attempt.squashes = ch.squashes + 1 ∧ ∃ b, x.act = some b ∧ b.id = a.id ∧ b.contained = a.contained + 1) ∧
        (a.task = none → s.regionAt s.cur.core s.cur.slot = some true →
          x.regs = ch.saved ∧ x.chunk = none ∧ x.phase = .run ∧ x.act = some a ∧ t.kills = s.kills))) ∧
  (∀ (s : State) (c i : Nat), (s.slot c i).inRegion = false → s.regionAt c i = some false)

/-- R190, R191, R322, R326, R327: SFQPOP moves the oldest store-fault record, or zero, to V(D); TLBINV, with operands in range,
removes the matching translations from the core's own buffer, and its broadcast leaves with the chunk; GKILL of a valid group
leaves with the chunk, and of the activation's own group ends the activation at once, and its copy, deal and scatter requests
with it. -/
def Sys2Proof.Claim.SystemGroup : Prop :=
  (∀ (s t u : State) (p : Pops) (d : Reg), NotOnHart s → Reads [okV d] [] (some d) s p t →
    Gives (writeV d (s.regs.sfq.headD 0)) (t.modRegs (fun x => { x with sfq := s.regs.sfq.drop 1 })) () u →
    t.regs.sfq = s.regs.sfq → exec (.sfqpop d) s = .next u.advance) ∧
  (∀ (s t : State) (p : Pops) (a b c : Reg) (as lo hi : W64), NotOnHart s →
    Reads [okG a, okG b, okG c] [a, b, c] none s p t → G p a t as → G p b t lo → G p c t hi →
    as.toNat < 65536 → (t.cur.slot = 7 ∨ as.setWidth 16 = t.me.asid) → lo.toNat < 2 ^ 57 → hi.toNat < 2 ^ 57 →
    ∃ u, exec (.tlbinv a b c) s = .next u ∧ u.regs.pc = t.cur.next ∧ u.mem = t.mem ∧
      (∀ e ∈ (u.core (tlbCore t.cur.core)).tlb, e.hits (as.setWidth 16) lo.toNat hi.toNat = false) ∧
      (∀ ch, t.me.chunk = some ch → ∃ ch', u.me.chunk = some ch' ∧
        ch'.acts = ch.acts ++ [.remove { heddle := false, asid := as.setWidth 16, lo := lo, hi := hi }])) ∧
  (∀ (s t : State) (p : Pops) (a : Reg) (v : W64) (x : Act), NotOnHart s → Reads [okG a] [a] none s p t → G p a t v →
    v.toNat < 256 → (t.group t.me.asid (v.setWidth 8)).isSome = true → t.me.act = some x →
    (x.stamp.group ≠ v.setWidth 8 →
      ∃ u, exec (.gkill a) s = .next u ∧ u.regs.pc = t.cur.next ∧ u.mem = t.mem ∧
        (∀ ch, t.me.chunk = some ch → ∃ ch', u.me.chunk = some ch' ∧ ch'.acts = ch.acts ++ [.kill (v.setWidth 8)])) ∧
    (x.stamp.group = v.setWidth 8 →
      ∃ u, exec (.gkill a) s = .next u ∧ (u.slot t.cur.core t.cur.slot).act = none ∧ u.kills.length = t.kills.length + 1 ∧
        ∀ r ∈ u.requests, r.act = x.id → r.stopped = true ∧ r.progress ≠ 0))

/-- R83, R99, R190, R191, R237, R239, R322, R326, R327, R343: ends of chunks and activations, waits, fences and the system group. -/
def Obligations.EndsAndSystem : Prop := Claim.EndsAndWaits ∧ Claim.SystemGroup


/-! Loads and stores. -/

namespace Sys2Proof.Claim

/-- Bytes of the slot are one page of memory that its buffers hold and that it may load from, at a location. -/
def PageLoad (s : State) (va : W64) (k : Nat) : Prop :=
  tcmSize s.cur.core ≤ va.toNat ∧ isConfig k = false ∧
  (isExt k = true → s.fenced s.cur.core s.cur.slot = false ∧ s.hubCut s.cur.core = false) ∧
  ∃ e, s.lookup s.cur.core s.cur.slot s.me.asid va = .page e ∧
    s.access s.cur.core s.me.side (s.cur.slot == 7) .load e va = .ok k

/-- A store can enter the store buffer now: the store-fault queue has room for it and every store not yet checked (R319), and
the buffer has its lines (R228). -/
def StoreRoom (s : State) (st : Store) : Prop :=
  s.regs.sfq.length + 2 * s.me.unchecked + st.need ≤ 8 ∧
  ∃ c, s.me.chunk = some c ∧ s.roomFor (s.me.lineCount + ((partLines st.parts c.lines).length - c.lines.length)) = true

/-- The state after a store entered the buffer of the open chunk (R85). -/
def buffered (s : State) (st : Store) : State := s.modChunk (fun c => { c with stores := c.stores ++ [st] })

/-- One store instruction's entry of the buffer. -/
def oneStore (s : State) (src size wide : Nat) (ps : List Part) : Store :=
  { pc := s.regs.pc, src := src, size := size, wide := wide, parts := ps, adds := none, checked := false }

/-- A state but for LXSTAT, which a label base sets (R84, R112). -/
def lx (s t : State) : State := s.modRegs (fun r => { r with lxstat := t.regs.lxstat })

/-- The destination is no queue: a push on a stream write queue would store (R201). -/
def NotQ (d : Reg) : Prop := isQ d = false

/-- The sign extension of the value of bytes (R85). -/
def signedOf (b : List Byte) (n : Nat) : W64 := BitVec.ofInt 64 ((bytesNat b : Int).bmod (256 ^ n))

end Sys2Proof.Claim

/-- R84, R153: the address of an access. A flat handle gives handle plus offset, modulo 2^64: the fault address where a bit of
[63:57] is set, misaligned where it is no multiple of the size. A label's offset is tested against the node before it is
translated. The elements of a strided access lie a stride apart, each checked in lane order: the first active lane that fails gives
the fault, a flat address beyond 2^57 before its alignment, a label's offset outside the node (TVAL the label) before the alignment. -/
def Sys2Proof.Claim.AddressRule : Prop :=
  (∀ (s : State) (h off : W64) (n src : Nat), bit h 63 = false →
    ((h + off).toNat < 2 ^ 57 → (h + off).toNat % n = 0 → Gives (accessAddr h off n src) s (h + off) s) ∧
    (2 ^ 57 ≤ (h + off).toNat → accessAddr h off n src s = .error (.trap Cause.address (h + off) 0 none none) s) ∧
    ((h + off).toNat < 2 ^ 57 → (h + off).toNat % n ≠ 0 →
      accessAddr h off n src s = .error (.trap Cause.misaligned (h + off) 0 none none) s)) ∧
  (∀ (s t : State) (h off : W64) (n src : Nat) (k : Skein), bit h 63 = true → Gives (wellFormedLabel h) s k t →
    ((off.toInt < 0 ∨ 2 ^ k.log2 < off.toInt + n) →
      accessAddr h off n src s = .error (.trap Cause.labelOffset h 0 none none) t) ∧
    (0 ≤ off.toInt → off.toInt + n ≤ 2 ^ k.log2 → ∀ (b : W64) (u : State), Gives (labelTranslate k h src) t b u →
      ((b + off).toNat % n = 0 → Gives (accessAddr h off n src) s (b + off) u) ∧
      ((b + off).toNat % n ≠ 0 → accessAddr h off n src s = .error (.trap Cause.misaligned (b + off) 0 none none) u))) ∧
  (∀ (s : State) (h st : W64) (n src : Nat) (l : List Nat), bit h 63 = false →
    (∀ i ∈ l, (h + BitVec.ofNat 64 i * st).toNat < 2 ^ 57 ∧ (h + BitVec.ofNat 64 i * st).toNat % n = 0) →
    Gives (elements h st n l src) s (l.map (fun i => (i, h + BitVec.ofNat 64 i * st))) s) ∧
  (∀ (s t u : State) (h st b : W64) (n src : Nat) (l : List Nat) (k : Skein), bit h 63 = true →
    Gives (wellFormedLabel h) s k t → Gives (labelTranslate k h src) t b u →
    (∀ i ∈ l, 0 ≤ (BitVec.ofNat 64 i * st).toInt ∧ (BitVec.ofNat 64 i * st).toInt + n ≤ 2 ^ k.log2 ∧
      (b + BitVec.ofNat 64 i * st).toNat % n = 0) →
    Gives (elements h st n l src) s (l.map (fun i => (i, b + BitVec.ofNat 64 i * st))) u) ∧
  (∀ (s : State) (h st : W64) (n src i : Nat) (l r : List Nat), bit h 63 = false →
    (∀ j ∈ l, (h + BitVec.ofNat 64 j * st).toNat < 2 ^ 57 ∧ (h + BitVec.ofNat 64 j * st).toNat % n = 0) →
    let a := h + BitVec.ofNat 64 i * st
    (2 ^ 57 ≤ a.toNat → elements h st n (l ++ i :: r) src s = .error (.trap Cause.address a 0 none none) s) ∧
    (a.toNat < 2 ^ 57 → a.toNat % n ≠ 0 →
      elements h st n (l ++ i :: r) src s = .error (.trap Cause.misaligned a 0 none none) s)) ∧
  (∀ (s t u : State) (h st b : W64) (n src i : Nat) (l r : List Nat) (k : Skein), bit h 63 = true →
    Gives (wellFormedLabel h) s k t → Gives (labelTranslate k h src) t b u →
    let off (j : Nat) : W64 := BitVec.ofNat 64 j * st
    let inside (j : Nat) : Prop := 0 ≤ (off j).toInt ∧ (off j).toInt + n ≤ 2 ^ k.log2
    (∀ j ∈ l, inside j ∧ (b + off j).toNat % n = 0) →
    (¬ inside i → elements h st n (l ++ i :: r) src s = .error (.trap Cause.labelOffset h 0 none none) u) ∧
    (inside i → (b + off i).toNat % n ≠ 0 →
      elements h st n (l ++ i :: r) src s = .error (.trap Cause.misaligned (b + off i) 0 none none) u))

/-- R85, R86, R170, R175, R181, R185, R188, R228: what a load of n bytes reads and where it stops. In the slot's own TCM, and
through a page its buffers hold, it reads the slot's own buffered bytes over committed memory; a page that refuses it raises
data-access with the code, TVAL the address; a far NEAR page migrates, or raises permission in a service slot or on a copy hart
(R182, R291); an address no buffer holds waits for a walk. With nothing buffered, and no write of its own in flight to host or peer
memory (R236), the bytes are those of memory. -/
def Sys2Proof.Claim.LoadsReach : Prop :=
  (∀ (s : State) (va : W64) (n : Nat), own s va n → 0 < n → s.bad = [] → s.soft = [] →
    ∃ t, Gives (memLoad va n) s (s.ownBytes s.me (tcmKey s.cur.core va.toNat) n) t ∧ Kept s t [] ∧ t.regs = s.regs) ∧
  (∀ (s : State) (va : W64) (n k : Nat), PageLoad s va k → 0 < n → s.bad = [] → s.soft = [] →
    ∃ t, Gives (memLoad va n) s (s.ownBytes s.me k n) t ∧ Kept s t [] ∧ t.regs = s.regs) ∧
  (∀ (s : State) (va : W64) (n code : Nat) (e : TlbEntry), tcmSize s.cur.core ≤ va.toNat →
    s.lookup s.cur.core s.cur.slot s.me.asid va = .page e →
    s.access s.cur.core s.me.side (s.cur.slot == 7) .load e va = .error code →
    ∃ t, memLoad va n s = .error (if code = 7 then (if slotClass s.cur.slot = 1 ∨ Id.kind s.cur.core = 2 then
      .trap Cause.dataAccess va 3 none none else .near va) else .trap Cause.dataAccess va (BitVec.ofNat 4 code) none none) t) ∧
  (∀ (s : State) (va : W64) (n : Nat), tcmSize s.cur.core ≤ va.toNat →
    (∀ code, s.lookup s.cur.core s.cur.slot s.me.asid va = .fail code → code ≠ 7 →
      memLoad va n s = .error (.trap Cause.dataAccess va (BitVec.ofNat 4 code) none none) s) ∧
    (∀ k, s.lookup s.cur.core s.cur.slot s.me.asid va = .poison k → memLoad va n s = .error (.contain (some (k, 8))) s) ∧
    (s.lookup s.cur.core s.cur.slot s.me.asid va = .pending → memLoad va n s = .error (.holdWalk va) s)) ∧
  (∀ (s : State) (k n : Nat), s.me.stores = [] → (s.me.ext = [] ∨ ∀ i, i < n → isExt (k + i) = false) →
    s.ownBytes s.me k n = Memory.readN s.mem k n)

/-- R84-R86, R153, R170, R175, R181, R185, R188, R228: the address of an access and what a load finds there. -/
def Obligations.LoadAddresses : Prop := Claim.AddressRule ∧ Claim.LoadsReach

/-- R84, R85, R152, R153: the loads complete: with the address formed and the bytes read, LD and LDX give them sign-extended,
LDU zero-extended, VLD the 64 bytes, and VLDS each active lane its element, the other lanes as they were. -/
def Obligations.Loads : Prop :=
  (∀ (s t u v w : State) (p : Pops) (d a : Reg) (z : Size) (i : Half) (x va : W64) (b : List Byte),
    Reads [okG d, okG a] [a] (some d) s p t → G p a t x →
    Gives (accessAddr x (BitVec.ofInt 64 i.toInt) (2 ^ sizeCode z) 0) t va u → Gives (memLoad va (2 ^ sizeCode z)) u b v →
    (Gives (writeG d (signedOf b (2 ^ sizeCode z))) v () w → exec (.ld z d a i) s = .next w.advance) ∧
    (Gives (writeG d (BitVec.ofNat 64 (bytesNat b))) v () w → exec (.ldu z d a i) s = .next w.advance)) ∧
  (∀ (s t u v w : State) (p : Pops) (d a c : Reg) (z : Size) (x y va : W64) (b : List Byte),
    Reads [okG d, okG a, okG c] [a, c] (some d) s p t → G p a t x → G p c t y →
    Gives (accessAddr x (BitVec.ofNat 64 (y.toNat * 2 ^ sizeCode z)) (2 ^ sizeCode z) 0) t va u →
    Gives (memLoad va (2 ^ sizeCode z)) u b v →
    Gives (writeG d (signedOf b (2 ^ sizeCode z))) v () w → exec (.ldx z d a c) s = .next w.advance) ∧
  (∀ (s t u v w : State) (p : Pops) (d a : Reg) (i : Half) (x va : W64) (b : List Byte),
    Reads [okV d, okG a] [a] (some d) s p t → G p a t x →
    Gives (accessAddr x (BitVec.ofInt 64 i.toInt) 64 0) t va u → Gives (memLoad va 64) u b v →
    Gives (writeV d (BitVec.ofNat 512 (bytesNat b))) v () w → exec (.vld d a i) s = .next w.advance) ∧
  (∀ (s t u v v' : State) (p : Pops) (d a c : Reg) (z : Width) (mk : Fin 8) (x y : W64) (es : List (Nat × W64))
    (xs : List (Nat × Nat)) (old : V512),
    let w := widthBits z
    Reads [okV d, okG a, okG c] [a, c] (some d) s p t → G p a t x → G p c t y →
    Gives (elements x y (w / 8) (activeLanes (512 / w) (t.regs.readM mk)) 0) t es u →
    Gives (es.mapM (fun e => do pure (e.1, bytesNat (← memLoad e.2 (w / 8))))) u xs v → Gives (oldV d) v old v' →
    ∃ r : V512,
      (∀ i, i < 512 / w → ((t.regs.readM mk).getLsbD i = true → (i, lane w r i) ∈ xs) ∧
        ((t.regs.readM mk).getLsbD i = false → lane w r i = lane w old i)) ∧
      ∀ o, Gives (writeV d r) v' () o → exec (.vlds z d a c mk) s = .next o.advance)

/-- R84, R85, R152, R153, R319, R320: the stores complete: with the address formed, its place found and room in the buffer,
ST and STX put the low bytes of the data in the store buffer, VST the 64 bytes, and VSTS its active elements in ascending lane
order, as one store each, unchecked. -/
def Obligations.Stores : Prop :=
  (∀ (s t u v : State) (p : Pops) (a c : Reg) (z : Size) (i : Half) (x y va : W64) (q : Part),
    Reads [okG a, okG c] [a, c] none s p t → G p a t x → G p c t y →
    Gives (accessAddr x (BitVec.ofInt 64 i.toInt) (2 ^ sizeCode z) 1) t va u →
    Gives (storePart 0 va (natBytes y.toNat (2 ^ sizeCode z))) u q v → StoreRoom v (oneStore v 0 (sizeCode z) 0 [q]) →
    exec (.st z a c i) s = .next (buffered v (oneStore v 0 (sizeCode z) 0 [q])).advance) ∧
  (∀ (s t u v : State) (p : Pops) (a b c : Reg) (z : Size) (x o y va : W64) (q : Part),
    Reads [okG a, okG b, okG c] [a, b, c] none s p t → G p a t x → G p b t o → G p c t y →
    Gives (accessAddr x (BitVec.ofNat 64 (o.toNat * 2 ^ sizeCode z)) (2 ^ sizeCode z) 1) t va u →
    Gives (storePart 0 va (natBytes y.toNat (2 ^ sizeCode z))) u q v → StoreRoom v (oneStore v 0 (sizeCode z) 0 [q]) →
    exec (.stx z a b c) s = .next (buffered v (oneStore v 0 (sizeCode z) 0 [q])).advance) ∧
  (∀ (s t u v : State) (p : Pops) (a c : Reg) (i : Half) (x va : W64) (y : V512) (q : Part),
    Reads [okG a, okV c] [a, c] none s p t → G p a t x → V p c u y →
    Gives (accessAddr x (BitVec.ofInt 64 i.toInt) 64 1) t va u →
    Gives (storePart 0 va (natBytes y.toNat 64)) u q v → StoreRoom v (oneStore v 1 0 2 [q]) →
    exec (.vst a c i) s = .next (buffered v (oneStore v 1 0 2 [q])).advance) ∧
  (∀ (s t u v : State) (p : Pops) (a b c : Reg) (z : Width) (mk : Fin 8) (x o : W64) (y : V512) (es : List (Nat × W64))
    (ps : List Part),
    let w := widthBits z
    Reads [okG a, okG b, okV c] [a, b, c] none s p t → G p a t x → G p b t o → V p c u y →
    Gives (elements x o (w / 8) (activeLanes (512 / w) (t.regs.readM mk)) 1) t es u →
    Gives (es.mapM (fun e => storePart e.1 e.2 (natBytes (lane w y e.1) (w / 8)))) u ps v →
    (es = [] → exec (.vsts z a b c mk) s = .next v.advance) ∧
    (es ≠ [] → StoreRoom v (oneStore v 2 (widthSize z) 0 ps) →
      exec (.vsts z a b c mk) s = .next (buffered v (oneStore v 2 (widthSize z) 0 ps)).advance))

/-- R85, R170, R225, R319: where the bytes of a store go. In own TCM they go to the location of their address. Once buffered,
the slot's own view of memory holds them there and is as before at every other location; committed memory is as before. -/
def Sys2Proof.Claim.StoredBytes : Prop :=
  (∀ (s : State) (l : Nat) (va : W64) (b : List Byte), va.toNat < tcmSize s.cur.core → s.me.side = .none →
    Gives (storePart l va b) s
      { lane := l, va := va, bytes := b, key := some (tcmKey s.cur.core va.toNat), live := tcmKey s.cur.core va.toNat,
        fail := 0 } s) ∧
  (∀ (s : State) (q : Part) (src size wide : Nat) (c : Chunk), s.me.chunk = some c →
    let t := (buffered s (oneStore s src size wide [q])).advance
    (∀ k, t.ownByte t.me k = (q.byteAt k).getD (s.ownByte s.me k)) ∧
    (∀ a, q.key = some a → ∀ k, (k < a ∨ a + q.bytes.length ≤ k) → t.ownByte t.me k = s.ownByte s.me k) ∧
    (∀ a j, q.key = some a → (h : j < q.bytes.length) → t.ownByte t.me (a + j) = q.bytes[j]) ∧
    t.mem = s.mem ∧ t.me.unchecked = s.me.unchecked + 1)

/-- R62, R84-R86, R152-R154: what loads and stores leave. A load writes its destination and the queues it pops; a store writes
no register but those queues; LXSTAT moves for a label base only; FPST and all of committed memory stand, and so does the
slot's own view of every byte, but those a store puts in its buffer (StoredBytes). -/
def Sys2Proof.Claim.MemoryFrame : Prop :=
  (∀ (s t u v o : State) (p : Pops) (d a : Reg) (z : Size) (i : Half) (x va : W64) (b : List Byte),
    Reads [okG d, okG a] [a] (some d) s p t → G p a t x → NotQ d →
    Gives (accessAddr x (BitVec.ofInt 64 i.toInt) (2 ^ sizeCode z) 0) t va u → Gives (memLoad va (2 ^ sizeCode z)) u b v →
    (exec (.ld z d a i) s = .next o ∨ exec (.ldu z d a i) s = .next o) →
    Kept (lx s o) o (d :: [a].filter isQ) ∧ (bit x 63 = false → o.regs.lxstat = s.regs.lxstat) ∧
      o.regs.fpst = s.regs.fpst ∧ o.regs.pc = s.cur.next ∧ ∀ k, o.ownByte o.me k = s.ownByte s.me k) ∧
  (∀ (s t u v o : State) (p : Pops) (d a c : Reg) (z : Size) (x y va : W64) (b : List Byte),
    Reads [okG d, okG a, okG c] [a, c] (some d) s p t → G p a t x → G p c t y → NotQ d →
    Gives (accessAddr x (BitVec.ofNat 64 (y.toNat * 2 ^ sizeCode z)) (2 ^ sizeCode z) 0) t va u →
    Gives (memLoad va (2 ^ sizeCode z)) u b v → exec (.ldx z d a c) s = .next o →
    Kept (lx s o) o (d :: [a, c].filter isQ) ∧ (bit x 63 = false → o.regs.lxstat = s.regs.lxstat) ∧
      o.regs.fpst = s.regs.fpst ∧ o.regs.pc = s.cur.next ∧ ∀ k, o.ownByte o.me k = s.ownByte s.me k) ∧
  (∀ (s t u v o : State) (p : Pops) (d a : Reg) (i : Half) (x va : W64) (b : List Byte),
    Reads [okV d, okG a] [a] (some d) s p t → G p a t x → NotQ d →
    Gives (accessAddr x (BitVec.ofInt 64 i.toInt) 64 0) t va u → Gives (memLoad va 64) u b v → exec (.vld d a i) s = .next o →
    Kept (lx s o) o (d :: [a].filter isQ) ∧ (bit x 63 = false → o.regs.lxstat = s.regs.lxstat) ∧
      o.regs.fpst = s.regs.fpst ∧ o.regs.pc = s.cur.next ∧ ∀ k, o.ownByte o.me k = s.ownByte s.me k) ∧
  (∀ (s t u v o : State) (p : Pops) (a c : Reg) (z : Size) (i : Half) (x y va : W64) (q : Part),
    Reads [okG a, okG c] [a, c] none s p t → G p a t x → G p c t y →
    Gives (accessAddr x (BitVec.ofInt 64 i.toInt) (2 ^ sizeCode z) 1) t va u →
    Gives (storePart 0 va (natBytes y.toNat (2 ^ sizeCode z))) u q v → StoreRoom v (oneStore v 0 (sizeCode z) 0 [q]) →
    exec (.st z a c i) s = .next o →
    Kept (lx s o) o ([a, c].filter isQ) ∧ (bit x 63 = false → o.regs.lxstat = s.regs.lxstat) ∧
      o.regs.fpst = s.regs.fpst ∧ o.regs.pc = s.cur.next ∧
      ∀ k, (∀ b, q.key = some b → (k < b ∨ b + 2 ^ sizeCode z ≤ k)) → o.ownByte o.me k = s.ownByte s.me k) ∧
  (∀ (s t u v o : State) (p : Pops) (a b c : Reg) (z : Size) (x f y va : W64) (q : Part),
    Reads [okG a, okG b, okG c] [a, b, c] none s p t → G p a t x → G p b t f → G p c t y →
    Gives (accessAddr x (BitVec.ofNat 64 (f.toNat * 2 ^ sizeCode z)) (2 ^ sizeCode z) 1) t va u →
    Gives (storePart 0 va (natBytes y.toNat (2 ^ sizeCode z))) u q v → StoreRoom v (oneStore v 0 (sizeCode z) 0 [q]) →
    exec (.stx z a b c) s = .next o →
    Kept (lx s o) o ([a, b, c].filter isQ) ∧ (bit x 63 = false → o.regs.lxstat = s.regs.lxstat) ∧
      o.regs.fpst = s.regs.fpst ∧ o.regs.pc = s.cur.next ∧
      ∀ k, (∀ e, q.key = some e → (k < e ∨ e + 2 ^ sizeCode z ≤ k)) → o.ownByte o.me k = s.ownByte s.me k) ∧
  (∀ (s t u v o : State) (p : Pops) (a c : Reg) (i : Half) (x va : W64) (y : V512) (q : Part),
    Reads [okG a, okV c] [a, c] none s p t → G p a t x → V p c u y →
    Gives (accessAddr x (BitVec.ofInt 64 i.toInt) 64 1) t va u →
    Gives (storePart 0 va (natBytes y.toNat 64)) u q v → StoreRoom v (oneStore v 1 0 2 [q]) → exec (.vst a c i) s = .next o →
    Kept (lx s o) o ([a, c].filter isQ) ∧ (bit x 63 = false → o.regs.lxstat = s.regs.lxstat) ∧
      o.regs.fpst = s.regs.fpst ∧ o.regs.pc = s.cur.next ∧
      ∀ k, (∀ b, q.key = some b → (k < b ∨ b + 64 ≤ k)) → o.ownByte o.me k = s.ownByte s.me k) ∧
  (∀ (s t u v v' o : State) (p : Pops) (d a c : Reg) (z : Width) (mk : Fin 8) (x y : W64) (es : List (Nat × W64))
    (xs : List (Nat × Nat)) (old : V512),
    let w := widthBits z
    Reads [okV d, okG a, okG c] [a, c] (some d) s p t → G p a t x → G p c t y → NotQ d →
    Gives (elements x y (w / 8) (activeLanes (512 / w) (t.regs.readM mk)) 0) t es u →
    Gives (es.mapM (fun e => do pure (e.1, bytesNat (← memLoad e.2 (w / 8))))) u xs v → Gives (oldV d) v old v' →
    exec (.vlds z d a c mk) s = .next o →
    Kept (lx s o) o (d :: [a, c].filter isQ) ∧ (bit x 63 = false → o.regs.lxstat = s.regs.lxstat) ∧
      o.regs.fpst = s.regs.fpst ∧ o.regs.pc = s.cur.next ∧ ∀ k, o.ownByte o.me k = s.ownByte s.me k) ∧
  (∀ (s t u v o : State) (p : Pops) (a b c : Reg) (z : Width) (mk : Fin 8) (x f : W64) (y : V512) (es : List (Nat × W64))
    (ps : List Part),
    let w := widthBits z
    Reads [okG a, okG b, okV c] [a, b, c] none s p t → G p a t x → G p b t f → V p c u y →
    Gives (elements x f (w / 8) (activeLanes (512 / w) (t.regs.readM mk)) 1) t es u →
    Gives (es.mapM (fun e => storePart e.1 e.2 (natBytes (lane w y e.1) (w / 8)))) u ps v →
    (es = [] ∨ StoreRoom v (oneStore v 2 (widthSize z) 0 ps)) → exec (.vsts z a b c mk) s = .next o →
    Kept (lx s o) o ([a, b, c].filter isQ) ∧ (bit x 63 = false → o.regs.lxstat = s.regs.lxstat) ∧
      o.regs.fpst = s.regs.fpst ∧ o.regs.pc = s.cur.next ∧
      ∀ k, (∀ q ∈ ps, ∀ e, q.key = some e → (k < e ∨ e + w / 8 ≤ k)) → o.ownByte o.me k = s.ownByte s.me k)

/-- R62, R84-R86, R152-R154, R170, R225, R319: what loads and stores change and leave. -/
def Obligations.MemoryFrames : Prop := Claim.StoredBytes ∧ Claim.MemoryFrame

/-! Queues. -/

namespace Sys2Proof.Claim

/-- A queue register is unbound and holds nothing: what may be bound (R127, R197, R200, R217, R281). -/
def Unused (s : State) (j : Fin 16) : Prop := s.regs.q[j].bind = .unbound ∧ s.regs.q[j].entries = []

/-- A queue register given a new binding. -/
def rebound (s : State) (j : Fin 16) (b : Binding) (count : Nat) : State :=
  s.modRegs (fun r => { r with q := r.q.set j { bind := b, entries := [], count := count, closed := false, fetched := [] } })

/-- A queue bound since the slot's last acquire FENCE (R239). -/
def sinceFence (j : Fin 16) (s : State) : State := s.modMe (fun x => { x with acqOld := x.acqOld.filter (· != j.val) })

/-- The action joins what leaves with the open chunk. -/
def leaving (s : State) (a : Action) : State := s.modChunk (fun c => { c with acts := c.acts ++ [a] })

/-- Element (i0, i1, i2) of a pattern, i0 fastest (R200). -/
def elementAddr (p : Pattern) (i0 i1 i2 : Nat) : W64 :=
  BitVec.ofInt 64 (p.base.toInt + i0 * p.st0.toInt + i1 * p.st1.toInt + i2 * p.st2.toInt)

end Sys2Proof.Claim

/-- R196, R197: QBIND binds an unbound, empty queue to the partner it names, as the consuming end or the producing end; it
raises illegal-operand where the queue is in use, the partner slot is the issuing one, or the system slot of another, or
IMM16[15:8] is not zero. -/
def Sys2Proof.Claim.QueueBinding : Prop :=
  ∀ (s : State) (j : Fin 16) (pq : BitVec 4) (ps : BitVec 3) (hi : BitVec 8), NotOnHart s →
    (Unused s j → ps.toNat ≠ s.cur.slot → (ps.toNat = 7 → s.cur.slot = 7) → hi = 0 →
      exec (.qbind (.q j) pq ps hi) s = .next (rebound s j (.consumer ps.toNat pq.toFin) 0).advance ∧
      exec (.qbindProd (.q j) pq ps hi) s = .next (rebound s j (.producer ps.toNat pq.toFin) 0).advance) ∧
    (TrapReady s → (¬ Unused s j ∨ ps.toNat = s.cur.slot ∨ (ps.toNat = 7 ∧ s.cur.slot ≠ 7) ∨ hi ≠ 0) →
      Traps (.qbind (.q j) pq ps hi) s s Cause.illegalOperand (encVal s.cur.enc) ∧
      Traps (.qbindProd (.q j) pq ps hi) s s Cause.illegalOperand (encVal s.cur.enc))

/-- R200: QSTREAM binds an unbound, empty queue to the pattern of the 32-byte descriptor at G(S1), read as loads of the chunk,
with COUNT N0·N1·N2; a descriptor with a zero count or a non-zero zero field raises illegal-operand. Element number
i0 + N0·(i1 + N1·i2) lies at BASE + i0·ST0 + i1·ST1 + i2·ST2. -/
def Sys2Proof.Claim.Streams : Prop :=
  (∀ (s t u v : State) (p : Pops) (j : Fin 16) (a : Reg) (w : StreamW) (x va d0 d1 d2 d3 : W64) (b : List Byte),
    NotOnHart s → Unused s j → Reads [okG a] [a] none s p t → G p a t x → Gives (accessAddr x 0 32 4) t va u →
    Gives (memLoad va 32) u b v → b = bvBytes d0 8 ++ bvBytes d1 8 ++ bvBytes d2 8 ++ bvBytes d3 8 →
    let pt : Pattern := { base := d0, n0 := fld d1 0 16, n1 := fld d1 16 16, n2 := fld d1 32 16, st0 := d2.setWidth 32,
                          st1 := (d2 >>> 32).setWidth 32, st2 := d3.setWidth 32,
                          w := match w with | .w4 => 4 | .w16 => 16 | .w64 => 64 }
    let ok := fld d0 57 7 = 0 ∧ fld d1 48 16 = 0 ∧ fld d3 32 32 = 0 ∧ pt.n0 ≠ 0 ∧ pt.n1 ≠ 0 ∧ pt.n2 ≠ 0
    (ok → exec (.qstream w (.q j) a) s = .next (rebound v j (.stream false pt 0) (pt.n0 * pt.n1 * pt.n2)).advance ∧
      exec (.qstreamWr w (.q j) a) s = .next (rebound v j (.stream true pt 0) (pt.n0 * pt.n1 * pt.n2)).advance) ∧
    (¬ ok → v.cur = s.cur → TrapReady s →
      Traps (.qstream w (.q j) a) s v Cause.illegalOperand (encVal s.cur.enc) ∧
      Traps (.qstreamWr w (.q j) a) s v Cause.illegalOperand (encVal s.cur.enc))) ∧
  (∀ (pt : Pattern) (i0 i1 i2 : Nat), i0 < pt.n0 → i1 < pt.n1 →
    pt.addr (i0 + pt.n0 * (i1 + pt.n1 * i2)) = elementAddr pt i0 i1 i2)

/-- R196: QSTAT writes COUNT, OCC, KIND, CLOSED and FAULTED to G(D) and changes nothing else; QFLUSH drops entries, outstanding rows or COUNT and
keeps the binding, and raises illegal-operand on a producing end; QUNBIND unbinds, and the partner of a slot-bound queue
becomes CLOSED when the chunk commits. A stream write queue first waits until what it pushed in committed chunks is written. -/
def Sys2Proof.Claim.QueueControl : Prop :=
  (∀ (s t : State) (d : Reg) (j : Fin 16), NotOnHart s → Reads [okG d] [] (some d) s [] s →
    let x := s.regs.q[j]
    let k := x.kind
    ∃ r : W64, fld r 0 32 = (if k ≤ 2 then 2 ^ 32 - 1 else min x.count (2 ^ 32 - 1)) ∧ fld r 32 8 = s.queueOcc j % 256 ∧
      fld r 40 3 = k ∧ bit r 43 = x.closed ∧ bit r 44 = x.faulted ∧ fld r 45 19 = 0 ∧
      (Gives (writeG d r) s () t → exec (.qstat d (.q j)) s = .next t.advance)) ∧
  (∀ (s : State) (j : Fin 16), NotOnHart s →
    let x := s.regs.q[j]
    ((x.kind = 4 → s.me.ext = []) →
      (x.kind ≠ 2 → ∃ y : Queue, exec (.qflush (.q j)) s = .next (s.modRegs (fun r => { r with q := r.q.set j y })).advance ∧
        (∀ kv l, x.bind = .rows kv l → y.bind = .rows kv []) ∧ ((∀ kv l, x.bind ≠ .rows kv l) → y.bind = x.bind) ∧
        y.kind = x.kind ∧ y.fetched = (if x.kind ≤ 1 then x.fetched else []) ∧ y.closed = x.closed ∧
        (x.kind ≤ 1 → y = { x with entries := [] }) ∧ (3 ≤ x.kind → y.count = 0)) ∧
      (∃ t, exec (.qunbind (.q j)) s = .next t ∧ t.regs.q[j] = Queue.empty ∧ t.regs.pc = s.cur.next ∧ Kept s t [.q j] ∧
        t.regs.fpst = s.regs.fpst ∧
        (∀ sl pq ch, x.bind = .consumer sl pq ∨ x.bind = .producer sl pq → s.me.chunk = some ch →
          ∃ c', t.me.chunk = some c' ∧ c'.acts = ch.acts ++ [.close sl pq j]))) ∧
    (TrapReady s → x.kind = 2 → Traps (.qflush (.q j)) s s Cause.illegalOperand (encVal s.cur.enc)) ∧
    (x.kind = 4 → s.me.ext ≠ [] → exec (.qflush (.q j)) s = .next s ∧ exec (.qunbind (.q j)) s = .next s))

/-- R196-R198, R200, R201: the queue group. -/
def Obligations.QueueGroup : Prop := Claim.QueueBinding ∧ Claim.Streams ∧ Claim.QueueControl

/-- R127: LSCAN binds an unbound, empty queue to the slots of a flat table whose keys lie in the range, and counts them, as
loads of its chunk, up to the first non-empty slot whose key passes the high bound. -/
def Sys2Proof.Claim.LabelScan : Prop :=
  (∀ (s t u v w o : State) (p : Pops) (j : Fin 16) (a b c : Reg) (lo hi tab n0 : W64) (k1 k2 : Skein) (cnt : Nat),
    NotOnHart s → Unused s j → Reads [okG a, okG b, okG c] [a, b, c] none s p t → G p a t lo → G p b t hi → G p c t tab →
    bit tab 63 = false → Gives (wellFormedLabel lo) t k1 u → Gives (wellFormedLabel hi) u k2 v → tab.toNat % 16 = 0 →
    Gives (loadDword tab) v n0 w → Gives (countRange lo hi tab 0 (n0.toNat % 2 ^ 32)) w cnt o →
    exec (.lscan (.q j) a b c) s = .next (rebound o j (.labels lo hi tab (n0.toNat % 2 ^ 32) 0) cnt).advance) ∧
  (∀ (s : State) (lo hi tab : W64) (n : Nat) (key : Nat → W64), s.bad = [] → s.soft = [] → tab.toNat + 16 + 16 * n ≤ tcmSize s.cur.core →
    (∀ i, i < n → s.ownBytes s.me (tcmKey s.cur.core (tab.toNat + 16 + 16 * i)) 8 = bvBytes (key i) 8) →
    ∃ t, Gives (countRange lo hi tab 0 n) s
      (((List.range n).takeWhile (fun i => !(bit (key i) 63 && decide (hi.toNat < (key i).toNat)))).filter
        (fun i => bit (key i) 63 && decide (lo.toNat ≤ (key i).toNat))).length t ∧ Kept s t [])

/-- R281: KVSCAN binds an unbound, empty queue to the K and V rows of the valid tokens of the node its label names, in
ascending token order; the descriptor and the entries of its page list are loads of its chunk, and one that is not usable
raises illegal-operand. -/
def Sys2Proof.Claim.KvScan : Prop :=
  ∀ (s t u v w o : State) (p : Pops) (j : Fin 16) (a : Reg) (h va : W64) (k : Skein) (d : List Byte) (es : List (List Byte)),
    NotOnHart s → Unused s j → Reads [okG a] [a] none s p t → G p a t h → bit h 63 = true →
    Gives (wellFormedLabel h) t k u → 6 ≤ k.log2 → Gives (labelTranslate k h 4) u va v → va.toNat % 64 = 0 →
    va.toNat < 2 ^ 57 → Gives (memLoad va 64) v d w →
    Gives ((List.range (fld (dword d 3) 0 16)).mapM (fun i => do
      let e := (dword d 4 &&& 0x01FFFFFFFFFFFFF0) + BitVec.ofNat 64 (16 * i)
      flatOk e
      memLoad e 16)) w es o →
    let pages := (dword d 1, dword d 2) :: es.map (fun e => (dword e 0, dword e 1))
    let sel := (List.range (64 * pages.length)).filter (fun x =>
      bit (pages.getD (x / 64) (0, 0)).2 (x % 64) && decide (x < fld (dword d 0) 32 32))
    let usable := kvUsable d = true ∧ ∀ e ∈ es, pageOk (dword e 0) = true
    (usable → ∃ l : List Strip, l.length = 2 * sel.length ∧
      (∀ i, (hi : i < sel.length) → l[2 * i]? = some { va := (pages.getD (sel[i] / 64) (0, 0)).1 + BitVec.ofNat 64 (64 * (sel[i] % 64)), len := 64 } ∧
        l[2 * i + 1]? = some { va := (pages.getD (sel[i] / 64) (0, 0)).1 + BitVec.ofNat 64 (4096 + 64 * (sel[i] % 64)), len := 64 }) ∧
      exec (.kvscan (.q j) a) s = .next (rebound o j (.rows true l) (2 * sel.length)).advance) ∧
    (¬ usable → o.cur = s.cur → TrapReady s → Traps (.kvscan (.q j) a) s o Cause.illegalOperand (encVal s.cur.enc))

/-- R127, R281: queues bound to scans. (The order of LSCAN's checks is DEDUCED, the descriptors KVSCAN refuses log 13.) -/
def Obligations.Scans : Prop := Claim.LabelScan ∧ Claim.KvScan

/-! Gathers and scatters. -/

/-- R215, R216: GATH, its active lanes resolved, loads each lane that has a location, leaves the other lanes of V(D), sets the
mask register to the lanes with data and GFAULT to the causes; with .t it does so only when no lane has a cause, waits while a
lane's walk runs, and raises the lowest failing lane's cause, SUB 3 for a far access to a NEAR page. GATHQ binds the rows of the
lanes with data as strips of 64 bytes, in ascending lane order (R217). -/
def Sys2Proof.Claim.Gathers : Prop :=
  (∀ (s t u v v' w : State) (p : Pops) (tt : Bool) (d a b : Reg) (mk : Fin 8) (base : W64) (idx old : V512) (l : List LaneAt)
      (xs : List (Nat × Nat)),
    NotOnHart s → Reads [okV d, okG a, okV b] [a, b] (some d) s p t → G p a t base → V p b t idx → bit base 63 = false →
    base.toNat % 4 = 0 →
    Gives (resolveLanes s tt (((List.range 16).filter (fun i => (t.regs.readM mk).getLsbD i)).map
      (fun i => (i, base + BitVec.ofNat 64 (4 * lane 32 idx i))))) t (some l) u →
    Gives ((gathered l).mapM (fun e => do pure (e.1, bytesNat (← loadAt e.2.2 4)))) u xs v → Gives (oldV d) v old v' →
    ∃ r : V512, (∀ e ∈ xs, lane 32 r e.1 = e.2) ∧ (∀ i, i < 16 → (∀ e ∈ xs, e.1 ≠ i) → lane 32 r i = lane 32 old i) ∧
      (Gives (writeV d r) v' () w →
        exec (.gath tt d a b mk) s = .next ((w.modRegs (fun x => x.writeM mk (laneMask (gathered l)))).modRegs
          (fun x => { x with gfault := gfaultWord l })).advance)) ∧
  (∀ (s t u : State) (p : Pops) (tt : Bool) (j : Fin 16) (a b c : Reg) (mk : Fin 8) (base r : W64) (idx : V512) (l : List LaneAt),
    NotOnHart s → Unused s j → Reads [okG a, okV b, okG c] [a, b, c] none s p t → G p a t base → V p b t idx → G p c t r →
    1 ≤ fld r 0 9 → fld r 0 9 ≤ 256 → fld r 9 7 = 0 → fld r 48 16 = 0 → fld r 16 32 % 4 = 0 → bit base 63 = false →
    base.toNat % 4 = 0 →
    Gives (resolveLanes s tt (((List.range 16).filter (fun i => (t.regs.readM mk).getLsbD i)).map
      (fun i => (i, base + BitVec.ofNat 64 (fld r 16 32 * lane 32 idx i))))) t (some l) u →
    let m := (fld r 0 9 + 63) / 64
    ∃ st : List Strip, st.length = (gathered l).length * m ∧ (st.map (·.len)).sum = (gathered l).length * fld r 0 9 ∧
      (∀ x y, (h : x < (gathered l).length) → y < m → st[x * m + y]? =
        some { va := (gathered l)[x].2.1 + BitVec.ofNat 64 (64 * y), len := min 64 (fld r 0 9 - 64 * y) }) ∧
      exec (.gathq tt (.q j) a b c mk) s = .next (sinceFence j (rebound ((u.modRegs (fun x => x.writeM mk (laneMask (gathered l)))).modRegs
        (fun x => { x with gfault := gfaultWord l })) j (.rows false st) st.length)).advance) ∧
  (∀ (s t u : State) (tt : Bool) (es : List (Nat × W64)) (l : List LaneAt), Gives (resolveLanes s tt es) t (some l) u →
    l.map (fun e => (e.1, e.2.1)) = es ∧ u.regs = t.regs ∧ u.mem = t.mem ∧
    (tt = true → ∀ e ∈ l, ∃ k, e.2.2 = .ok k)) ∧
  (∀ (s t u : State) (p : Pops) (d a b c : Reg) (j : Fin 16) (mk : Fin 8) (base r : W64) (idx : V512) (l : List LaneAt) (i : Instr)
      (es : List (Nat × W64)),
    NotOnHart s → G p a t base → V p b t idx → bit base 63 = false → base.toNat % 4 = 0 →
    ((i = .gath true d a b mk ∧ Reads [okV d, okG a, okV b] [a, b] (some d) s p t ∧
        es = ((List.range 16).filter (fun n => (t.regs.readM mk).getLsbD n)).map
          (fun n => (n, base + BitVec.ofNat 64 (4 * lane 32 idx n)))) ∨
      (i = .gathq true (.q j) a b c mk ∧ Unused s j ∧ Reads [okG a, okV b, okG c] [a, b, c] none s p t ∧ G p c t r ∧
        1 ≤ fld r 0 9 ∧ fld r 0 9 ≤ 256 ∧ fld r 9 7 = 0 ∧ fld r 48 16 = 0 ∧ fld r 16 32 % 4 = 0 ∧
        es = ((List.range 16).filter (fun n => (t.regs.readM mk).getLsbD n)).map
          (fun n => (n, base + BitVec.ofNat 64 (fld r 16 32 * lane 32 idx n))))) →
    (es = [] ∨ t.fenced t.cur.core t.cur.slot = false) → Gives (es.mapM resolveLane) t l u →
    ((∃ e ∈ l, e.2.2 = .error 1) → ∃ o, exec i s = .next o ∧ o.me.phase = .wait .gather ∧ o.regs = s.regs ∧ o.mem = s.mem ∧
      ∀ e ∈ l, e.2.2 = .error 1 → ∃ w ∈ o.myCore.walks, w.slot = s.cur.slot ∧ w.va = e.2.1 ∧ w.result = .pending) ∧
    (∀ (pre post : List LaneAt) (n : Nat) (va : W64) (code : Nat), (∀ e ∈ l, e.2.2 ≠ .error 1) → TrapReady s →
      l = pre ++ (n, va, .error code) :: post → (∀ e ∈ pre, ∃ k, e.2.2 = .ok k) →
      TrapsSub i s u Cause.dataAccess (if code = 7 then 3 else BitVec.ofNat 4 code) va)) ∧
  (∀ (s : State) (i : Nat) (va : W64),
    (va.toNat < tcmSize s.cur.core → Gives (resolveLane (i, va)) s (i, va, .ok (tcmKey s.cur.core va.toNat)) s) ∧
    (tcmSize s.cur.core ≤ va.toNat → 2 ^ 57 ≤ va.toNat → Gives (resolveLane (i, va)) s (i, va, .error 8) s) ∧
    (tcmSize s.cur.core ≤ va.toNat → va.toNat < 2 ^ 57 → s.lookup s.cur.core s.cur.slot s.me.asid va = .pending →
      Gives (resolveLane (i, va)) s (i, va, .error 1) s) ∧
    (∀ code, tcmSize s.cur.core ≤ va.toNat → va.toNat < 2 ^ 57 →
      s.lookup s.cur.core s.cur.slot s.me.asid va = .fail code → Gives (resolveLane (i, va)) s (i, va, .error code) s))

/-- R218, R219: SCAT stores its active lanes in ascending order as one store of the chunk; SCATA's request, each active lane
translated for reading and writing and outside own TCM, joins the open batch and leaves with the chunk. A lane of a flat base in own
TCM raises illegal-operand before every fault of execution (R71). -/
def Sys2Proof.Claim.Scatters : Prop :=
  (∀ (s t u v : State) (p : Pops) (a b c : Reg) (mk : Fin 8) (base : W64) (idx x : V512) (es : List (Nat × W64)) (ps : List Part),
    NotOnHart s → Reads [okG a, okV b, okV c] [a, b, c] none s p t → G p a t base → V p b t idx → V p c u x →
    Gives (elementsAt base (fun i => BitVec.ofNat 64 (4 * lane 32 idx i)) 4 (activeLanes 16 (t.regs.readM mk)) 4) t es u →
    Gives (es.mapM (fun e => storePart e.1 e.2 (natBytes (lane 32 x e.1) 4))) u ps v →
    (es = [] → exec (.scat a b c mk) s = .next v.advance) ∧
    (es ≠ [] → StoreRoom v (oneStore v 3 2 0 ps) → exec (.scat a b c mk) s = .next (buffered v (oneStore v 3 2 0 ps)).advance)) ∧
  (∀ (s t u : State) (p : Pops) (int : Bool) (a b c : Reg) (mk : Fin 8) (base : W64) (idx x : V512)
      (ls : List (Nat × Nat × BitVec 32)),
    NotOnHart s → Reads [okG a, okV b, okV c] [a, b, c] none s p t → G p a t base → V p b t idx → V p c t x →
    Gives (elementsWith base (fun i => BitVec.ofNat 64 (4 * lane 32 idx i)) 4 (activeLanes 16 (t.regs.readM mk)) 4
      (fun i va => do
        let k ← scataKey va
        pure (k, (← get).live va k, BitVec.ofNat 32 (lane 32 x i)))) t ls u →
    exec (.scata int a b c mk) s = .next ((leaving u (.request (.scata int ls) u.regs.pc)).modRegs
      (fun r => { r with batch := r.batch ||| 0x100000000 })).advance) ∧
  (∀ (s t : State) (p : Pops) (int : Bool) (a b c : Reg) (mk : Fin 8) (base : W64) (idx x : V512),
    NotOnHart s → Reads [okG a, okV b, okV c] [a, b, c] none s p t → G p a t base → V p b t idx → V p c t x → t.cur = s.cur →
    TrapReady s → bit base 63 = false →
    (∃ i, i < 16 ∧ (s.regs.readM mk).getLsbD i = true ∧ (base + BitVec.ofNat 64 (4 * lane 32 idx i)).toNat < tcmSize s.cur.core) →
    Traps (.scata int a b c mk) s (if isQ a || isQ b then s else t) Cause.illegalOperand (encVal s.cur.enc)) ∧
  (∀ (s : State) (va : W64), va.toNat < tcmSize s.cur.core → ∃ t,
    scataKey va s = .error (.trap Cause.illegalOperand (encVal s.cur.enc) 0 none none) t)

/-- R215-R219: gathers and scatters. -/
def Obligations.GathersAndScatters : Prop := Claim.Gathers ∧ Claim.Scatters

/-! Copies and watches. -/

/-- R203, R204, R207, R208, R211: CPY, its 64-byte descriptor read and accepted, leaves with the chunk, which ends after it, and
opens the batch, and one refused raises illegal-operand after that read; CPYSEAL gives NEXT, which goes up by one modulo 2^32, and closes the batch; CPYWAIT goes on where at most
G(S1) + IMM16 sealed batches are unfinished by the committed batch word (R233); DEAL leaves with the chunk and opens the batch, and one of length zero sends
nothing and opens none. -/
def Obligations.Copies : Prop :=
  (∀ (s t u v : State) (p : Pops) (a : Reg) (x va : W64) (b : List Byte), NotOnHart s → Reads [okG a] [a] none s p t →
    G p a t x → Gives (accessAddr x 0 64 4) t va u → Gives (memLoad va 64) u b v →
    (v.cur = s.cur → TrapReady s → (copyZero b = false ∨ v.copyOk (copyOf b) = false ∨ bit v.regs.cpydone 0 = false) →
      Traps (.cpy a) s v Cause.illegalOperand (encVal s.cur.enc)) ∧
    (copyZero b = true → v.copyOk (copyOf b) = true → bit v.regs.cpydone 0 = true → Free v →
    ∃ o, exec (.cpy a) s = .next o ∧ o.me.phase = .commit .go ∧ o.regs.pc = v.cur.next ∧ o.mem = s.mem ∧
      o.regs.batch = v.regs.batch ||| 0x100000000 ∧
      (∀ ch, v.me.chunk = some ch → ∃ c', o.me.chunk = some c' ∧ c'.acts = ch.acts ++ [.request (.copy (copyOf b)) v.regs.pc]))) ∧
  (∀ (s u : State) (d : Reg), NotOnHart s → Reads [okG d] [] (some d) s [] s →
    let n : BitVec 32 := s.regs.batch.setWidth 32
    Gives (writeG d (n.setWidth 64)) ((leaving s (.seal n)).modRegs (fun r => { r with batch := (n + 1).setWidth 64 })) () u →
    exec (.cpyseal d) s = .next u.advance) ∧
  (∀ (s t : State) (p : Pops) (a : Reg) (i : Half) (x : W64), NotOnHart s → Reads [okG a] [a] none s p t →
    G p a t x → bit t.regs.cpydone 0 = true → t.bad = [] → t.soft = [] →
    let w : BitVec 32 := bytesBv 32 (Memory.readN t.mem (tcmKey t.cur.core (fld t.regs.cpydone 3 13 * 8)) 4)
    ((t.regs.batch.setWidth 32 - 1 - w).toNat ≤ (x + i.setWidth 64).toNat → exec (.cpywait a i) s = .next t.advance) ∧
    ((x + i.setWidth 64).toNat < (t.regs.batch.setWidth 32 - 1 - w).toNat → exec (.cpywait a i) s = .next s.holdCommit)) ∧
  (∀ (s t : State) (p : Pops) (a b : Reg) (src len : W64), Id.kind s.cur.core = 0 → Reads [okG a, okG b] [a, b] none s p t →
    G p a t src → G p b t len → t.dealOk (dealOf t.regs.shpat) src len = true →
    (len ≠ 0 → exec (.deal a b) s = .next ((leaving t (.request (.deal t.regs.shpat src len) t.regs.pc)).modRegs
      (fun r => { r with batch := r.batch ||| 0x100000000 })).advance) ∧
    (len = 0 → exec (.deal a b) s = .next t.advance))

/-- R212-R214: MON arms an entry for the line its address lies in and gives its index: the slot's own entry of that line, which
keeps its fired state, a free one, or the least recently armed of the core, whose slot has a spurious wake-up pending; MWAIT ends the chunk and waits, and completes with the code its wait ended with;
MDISARM and MDISARM.ALL remove the slot's entries they name; an index above 15 or of another slot raises illegal-operand. -/
def Obligations.Watches : Prop :=
  (∀ (s t u v w : State) (p : Pops) (d a : Reg) (i : Half) (x va : W64) (k : Nat), NotOnHart s →
    Reads [okG d, okG a] [a] (some d) s p t → G p a t x → Gives (accessAddr x (BitVec.ofInt 64 i.toInt) 1 4) t va u →
    Gives (xlate va .load) u (.ok k) v →
    (∃ e : Nat, (∃ w ∈ ((v.arm v.cur.core v.cur.slot (k / 64)).1.core v.cur.core).watches,
        w.index = e ∧ w.slot = v.cur.slot ∧ w.line = k / 64) ∧
      (Gives (writeG d (BitVec.ofNat 64 e)) (v.arm v.cur.core v.cur.slot (k / 64)).1 () w → exec (.mon d a i) s = .next w.advance))) ∧
  (∀ (s : State) (c i line : Nat),
    let ws := (s.core c).watches
    let r := s.arm c i line
    let new (e : Nat) : Watch := { index := e, slot := i, line := line, fired := false }
    (∀ w pre post, ws = pre ++ w :: post → w.slot = i ∧ w.line = line → (∀ v ∈ pre, v.slot ≠ i ∨ v.line ≠ line) →
      r.2 = w.index ∧ (r.1.core c).watches = ws.filter (fun v => v.index != w.index) ++ [w]) ∧
    ((∀ w ∈ ws, w.slot ≠ i ∨ w.line ≠ line) →
      ((∃ e, e < 16 ∧ ∀ w ∈ ws, w.index ≠ e) →
        r.2 < 16 ∧ (∀ w ∈ ws, w.index ≠ r.2) ∧ (r.1.core c).watches = ws ++ [new r.2]) ∧
      (∀ w l, ws = w :: l → (∀ e, e < 16 → ∃ v ∈ ws, v.index = e) →
        r.2 = w.index ∧ (r.1.core c).watches = l ++ [new w.index] ∧
        ∀ a, (s.slot c w.slot).act = some a → ∃ b, (r.1.slot c w.slot).act = some b ∧
          (b.spurious = true ∨ (r.1.slot c w.slot).regs.result = some ((s.slot c w.slot).regs.pc, some 3))))) ∧
  (∀ (s t : State) (p : Pops) (d a : Reg) (i : Half), NotOnHart s → s.regs.answer = none →
    Reads [okG d, okG a] [a] (some d) s p t → Gives (needPlace d) t () t → Free t →
    ∃ o, exec (.mwait d a i) s = .next o ∧ o.me.phase = .commit (.wait .mwait) ∧ o.regs.pc = t.regs.pc ∧ o.mem = t.mem) ∧
  (∀ (s u : State) (d a : Reg) (i : Half) (v : V512), NotOnHart s → s.regs.answer = some (some v) →
    Gives (writeG d (v.setWidth 64)) (s.modRegs (fun r => { r with result := none })) () u →
    exec (.mwait d a i) s = .next u.advance) ∧
  (∀ (s t : State) (p : Pops) (a : Reg) (x : W64), NotOnHart s → Reads [okG a] [a] none s p t → G p a t x →
    (x.toNat ≤ 15 → (∀ w ∈ (t.core t.cur.core).watches, w.index = x.toNat → w.slot = t.cur.slot) →
      ∃ o, exec (.mdisarm a) s = .next o ∧ o.regs.pc = t.cur.next ∧
        ∀ w, w ∈ (o.core t.cur.core).watches ↔ w ∈ (t.core t.cur.core).watches ∧ w.index ≠ x.toNat) ∧
    ((15 < x.toNat ∨ ∃ w ∈ (t.core t.cur.core).watches, w.index = x.toNat ∧ w.slot ≠ t.cur.slot) → t.cur = s.cur →
      TrapReady s → Traps (.mdisarm a) s t Cause.illegalOperand (encVal s.cur.enc))) ∧
  (∀ s : State, NotOnHart s → ∃ o, exec .mdisarmAll s = .next o ∧ o.regs.pc = s.cur.next ∧
    ∀ w, w ∈ (o.core s.cur.core).watches ↔ w ∈ (s.core s.cur.core).watches ∧ w.slot ≠ s.cur.slot)

/-! Atomics. -/

namespace Sys2Proof.Claim

/-- R221: the members of AMO that store without a comparison, with the new value of n bits from the old value o and the operand b. -/
def amos : List ((Size → Reg → Reg → Reg → Instr) × AmoOp × (Nat → Nat → Nat → Nat)) :=
  [(.amoAdd, .add, fun n o b => (o + b) % 2 ^ n),
   (.amoAnd, .and, fun _ o b => o &&& b),
   (.amoOr, .or, fun _ o b => o ||| b),
   (.amoXor, .xor, fun _ o b => o ^^^ b),
   (.amoMin, .min, fun n o b => if (BitVec.ofNat n b).toInt < (BitVec.ofNat n o).toInt then b else o),
   (.amoMax, .max, fun n o b => if (BitVec.ofNat n o).toInt < (BitVec.ofNat n b).toInt then b else o),
   (.amoMinu, .minu, fun _ o b => if b < o then b else o),
   (.amoMaxu, .maxu, fun _ o b => if o < b then b else o),
   (.amoSwap, .swap, fun _ _ b => b)]

/-- The flags an instruction sets are those its active lanes set, and no others (R144, R151). -/
def FlagsOf (w : Nat) (mask : W64) (fl : Flags) (f : Nat → Flags) : Prop :=
  ∀ j, fl.getLsbD j = true ↔ ∃ i, i < 512 / w ∧ mask.getLsbD i = true ∧ (f i).getLsbD j = true

/-- The store an atomic makes in the slot's own TCM. -/
def ownStore (s : State) (va : W64) (b : List Byte) : Store :=
  { pc := s.regs.pc, src := 0, size := 3, wide := 0,
    parts := [{ lane := 0, va := va, bytes := b, key := some (tcmKey s.cur.core va.toNat), live := tcmKey s.cur.core va.toNat,
                fail := 0 }],
    adds := none, checked := false }

/-- Flags ORed into FPST (R143). -/
def flagged (s : State) (f : Flags) : State := s.modRegs (fun r => { r with fpst := r.fpst ||| f.setWidth 64 })

/-- The slot has no answer of a wait to take. -/
def NoAnswer (s : State) : Prop := s.regs.answer = none

end Sys2Proof.Claim

/-- R221, R222: an atomic whose address lies in the slot's own TCM is a load and a store of the chunk: G(D) takes the old bytes
zero-extended, and the new value of the table goes to the store buffer, CAS's only where the old value equals the comparand;
AMO.FADD rounds in RNE and ORs its flags into FPST; AMOV acts on the active lanes of 64 bytes, ORs their flags into FPST, and V(D)
takes all the old bytes. An INT32 lane takes AMO's value of 32 bits with no flag; a float lane MIN and MAX (NaN where either is one, −0
below +0) and SWAP with no flag, and FADD the exact sum rounded in RNE with its flags. -/
def Sys2Proof.Claim.AtomicsInOwnMemory : Prop :=
  (∀ e ∈ amos, ∀ (s t u v w : State) (p : Pops) (z : Size) (d a b : Reg) (x y va : W64) (l : List Byte),
    let n := 2 ^ sizeCode z
    NotOnHart s → NoAnswer s → Reads [okG d, okG a, okG b] [a, b] (some d) s p t → G p a t x →
    Gives (accessAddr x 0 n 4) t va u → G p b u y → va.toNat < tcmSize u.cur.core →
    Gives (loadAt (tcmKey u.cur.core va.toNat) n) u l v →
    let st := ownStore v va (natBytes (e.2.2 (8 * n) (bytesNat l) (y.toNat % 2 ^ (8 * n))) n)
    v.cur = u.cur → StoreRoom v st → Gives (writeG d (BitVec.ofNat 64 (bytesNat l))) (buffered v st) () w →
    exec (e.1 z d a b) s = .next w.advance) ∧
  (∀ (s t u v w : State) (p : Pops) (z : Size) (d a b c : Reg) (x y cmp va : W64) (l : List Byte),
    let n := 2 ^ sizeCode z
    NotOnHart s → NoAnswer s → Reads [okG d, okG a, okG b, okG c] [a, b, c] (some d) s p t → G p a t x →
    Gives (accessAddr x 0 n 4) t va u → G p b u y → G p c u cmp → va.toNat < tcmSize u.cur.core →
    Gives (loadAt (tcmKey u.cur.core va.toNat) n) u l v → v.cur = u.cur →
    (bytesNat l = cmp.toNat % 2 ^ (8 * n) → StoreRoom v (ownStore v va (natBytes y.toNat n)) →
      Gives (writeG d (BitVec.ofNat 64 (bytesNat l))) (buffered v (ownStore v va (natBytes y.toNat n))) () w →
      exec (.amoCas z d a b c) s = .next w.advance) ∧
    (bytesNat l ≠ cmp.toNat % 2 ^ (8 * n) → Gives (writeG d (BitVec.ofNat 64 (bytesNat l))) v () w →
      exec (.amoCas z d a b c) s = .next w.advance)) ∧
  (∀ (s t u v w : State) (p : Pops) (d a b : Reg) (x y va : W64) (l : List Byte),
    NotOnHart s → NoAnswer s → Reads [okG d, okG a, okG b] [a, b] (some d) s p t → G p a t x →
    Gives (accessAddr x 0 4 4) t va u → G p b u y → va.toNat < tcmSize u.cur.core →
    Gives (loadAt (tcmKey u.cur.core va.toNat) 4) u l v →
    let r := Fop.add FFmt.fp32 .rne (bytesNat l) (y.toNat % 2 ^ 32)
    v.cur = u.cur → StoreRoom v (ownStore v va (natBytes r.1 4)) →
    Gives (writeG d (BitVec.ofNat 64 (bytesNat l))) (flagged (buffered v (ownStore v va (natBytes r.1 4))) r.2) () w →
    exec (.amoFadd d a b) s = .next w.advance) ∧
  (∀ (s t u v w : State) (p : Pops) (op : AmoOp) (ty : Arith) (d a b : Reg) (mk : Fin 8) (x va : W64) (y : V512) (l : List Byte),
    NotOnHart s → NoAnswer s → Reads [okV d, okG a, okV b] [a, b] (some d) s p t → G p a t x →
    Gives (accessAddr x 0 64 4) t va u → V p b u y → va.toNat < tcmSize u.cur.core →
    Gives (loadAt (tcmKey u.cur.core va.toNat) 64) u l v → v.cur = u.cur →
    ∃ (r : V512) (f : Flags),
      (∀ i, i < 512 / arithW ty → lane (arithW ty) r i =
        if (u.regs.readM mk).getLsbD i then (amovNew ty op (lane (arithW ty) (bytesBv 512 l) i) (lane (arithW ty) y i)).1 % 2 ^ arithW ty
        else lane (arithW ty) (bytesBv 512 l) i) ∧
      FlagsOf (arithW ty) (u.regs.readM mk) f
        (fun i => (amovNew ty op (lane (arithW ty) (bytesBv 512 l) i) (lane (arithW ty) y i)).2) ∧
      (StoreRoom v (ownStore v va (natBytes r.toNat 64)) →
        Gives (writeV d (bytesBv 512 l)) (flagged (buffered v (ownStore v va (natBytes r.toNat 64))) f) () w →
        exec (.amov op ty d a b mk) s = .next w.advance)) ∧
  (∀ e ∈ amos, ∀ o b, o < 2 ^ 32 → b < 2 ^ 32 → amovNew .i32 e.2.1 o b = (e.2.2 32 o b, 0)) ∧
  (∀ (ty : Arith) (f : FFmt), (ty, f) ∈ [(Arith.f32, FFmt.fp32), (Arith.f16, FFmt.fp16), (Arith.bf16, FFmt.bf16)] → ∀ o b : Nat,
    let x := f.decode o
    let y := f.decode b
    let nan := x.isNan = true ∨ y.isNan = true
    amovNew ty .swap o b = (b, 0) ∧
    amovNew ty .fadd o b = Fop.out f .rne (Val.add .rne x y) ∧
    (nan → amovNew ty .min o b = (f.nanCode, 0) ∧ amovNew ty .max o b = (f.nanCode, 0)) ∧
    (¬ nan → amovNew ty .min o b = (if Val.below y x then b else o, 0) ∧ amovNew ty .max o b = (if Val.below x y then b else o, 0)))

/-- R221-R223: an atomic whose address lies elsewhere ends the chunk, and its request leaves with the commit for the owner; the
slot waits for the reply, and the instruction completes with the old bytes in its destination. In a service slot it raises
illegal-operand, for a flat handle before a source is popped (R71). Where the owner could not work the request (R209, R323) the instruction completes and writes nothing. -/
def Sys2Proof.Claim.AtomicsElsewhere : Prop :=
  (∀ (s t u v : State) (p : Pops) (i : Instr) (op : OwnerOp) (d a b c : Reg) (x y cmp va : W64) (y' : V512) (k n : Nat),
    NotOnHart s → NoAnswer s → G p a t x → Gives (accessAddr x 0 n 4) t va u → tcmSize u.cur.core ≤ va.toNat →
    ((∃ e ∈ amos, ∃ z, n = 2 ^ sizeCode z ∧ i = e.1 z d a b ∧ op = .amo e.2.1 false n y 0 ∧ G p b u y ∧
        Reads [okG d, okG a, okG b] [a, b] (some d) s p t) ∨
      (∃ z, n = 2 ^ sizeCode z ∧ i = .amoCas z d a b c ∧ op = .amo .swap true n y cmp ∧ G p b u y ∧ G p c u cmp ∧
        Reads [okG d, okG a, okG b, okG c] [a, b, c] (some d) s p t) ∨
      (n = 4 ∧ i = .amoFadd d a b ∧ op = .amo .fadd false n y 0 ∧ G p b u y ∧
        Reads [okG d, okG a, okG b] [a, b] (some d) s p t) ∨
      (∃ fn ty mk, n = 64 ∧ i = .amov fn ty d a b mk ∧ op = .amov fn ty (u.regs.readM mk) y' ∧ V p b u y' ∧
        Reads [okV d, okG a, okV b] [a, b] (some d) s p t)) →
    (slotClass u.cur.slot ≠ 1 → Gives (atomicKey va) u k v → Gives (needPlace d) v () v → Free v →
      ∃ o, exec i s = .next o ∧ o.me.phase = .commit (.wait .reply) ∧ o.regs.pc = v.regs.pc ∧ o.mem = s.mem ∧
        ∀ ch, v.me.chunk = some ch → ∃ c', o.me.chunk = some c' ∧ c'.acts = ch.acts ++ [.owner k (v.live va k) op v.regs.pc]) ∧
    (slotClass u.cur.slot = 1 → u.cur = s.cur → TrapReady s →
      Traps i s (if bit x 63 = true then u else s) Cause.illegalOperand (encVal s.cur.enc))) ∧
  (∀ (s u : State) (d a b c : Reg) (z : Size) (op : AmoOp) (ty : Arith) (mk : Fin 8) (r : Option V512), NotOnHart s →
    s.regs.answer = some r →
    let s' := s.modRegs (fun x => { x with result := none })
    (∀ v, r = some v → Gives (writeG d (v.setWidth 64)) s' () u →
      (∀ e ∈ amos, exec (e.1 z d a b) s = .next u.advance) ∧ exec (.amoCas z d a b c) s = .next u.advance ∧
      exec (.amoFadd d a b) s = .next u.advance) ∧
    (∀ v, r = some v → Gives (writeV d v) s' () u → exec (.amov op ty d a b mk) s = .next u.advance) ∧
    (r = none → (∀ e ∈ amos, exec (e.1 z d a b) s = .next s'.advance) ∧ exec (.amoCas z d a b c) s = .next s'.advance ∧
      exec (.amoFadd d a b) s = .next s'.advance ∧ exec (.amov op ty d a b mk) s = .next s'.advance))

/-- R224, R225: ARED, with a handle of a declared window that reaches, holds its lane-wise add in one line of the store buffer;
a load of the line by the chunk sees memory plus the add, lane by lane. On a side of a redundant node a declared window raises
permission, in whatever cluster (R346); a handle that names none raises illegal-operand before a source is popped (R71). That one
whose window does not exist in the issuing cluster does so too, after its sources are popped, is the model's choice and no case of
R225 (log 55, DEDUCED). -/
def Sys2Proof.Claim.ReductionAdds : Prop :=
  (∀ (s t : State) (p : Pops) (ty : Arith) (a b : Reg) (mk : Fin 8) (h : W64) (x : V512) (k : Nat) (c : Chunk),
    Id.kind s.cur.core = 0 → Reads [okG a, okV b] [a, b] none s p t → G p a t h → V p b t x →
    t.windowAt t.cur.core (t.stampOf t.cur.core t.cur.slot) h 64 = some k → t.me.side = .none → t.me.chunk = some c →
    t.roomFor (t.me.lineCount + 1) = true →
    exec (.ared ty a b mk) s = .next (buffered t { oneStore t 0 0 0 [] with
      adds := some { key := k, t := ty, mask := t.regs.readM mk, v := x }, checked := true }).advance) ∧
  (∀ (s t : State) (p : Pops) (ty : Arith) (a b : Reg) (mk : Fin 8) (h : W64) (x : V512),
    Id.kind s.cur.core = 0 → Reads [okG a, okV b] [a, b] none s p t → G p a t h → V p b t x → t.cur = s.cur → TrapReady s →
    let st := t.stampOf t.cur.core t.cur.slot
    ((t.windowOf st h 64).isSome = true → t.me.side ≠ .none → TrapsSub (.ared ty a b mk) s t Cause.dataAccess 3 h) ∧
    (t.windowOf st h 64 = none → Traps (.ared ty a b mk) s s Cause.illegalOperand (encVal s.cur.enc)) ∧
    ((t.windowOf st h 64).isSome = true → t.me.side = .none → t.windowAt t.cur.core st h 64 = none →
      Traps (.ared ty a b mk) s t Cause.illegalOperand (encVal s.cur.enc))) ∧
  (∀ (a : Ared) (old : V512) (i : Nat), i < 512 / arithW a.t →
    lane (arithW a.t) (addLanes a.t a.mask old a.v) i =
      if a.mask.getLsbD i then
        (match arithFmt a.t with
          | none => (lane 32 old i + lane 32 a.v i) % 2 ^ 32
          | some f => (Fop.add f .rne (lane f.width old i) (lane f.width a.v i)).1 % 2 ^ f.width)
      else lane (arithW a.t) old i)

/-- R221-R225, R323: atomics and reduction adds. -/
def Obligations.Atomics : Prop := Claim.AtomicsInOwnMemory ∧ Claim.AtomicsElsewhere ∧ Claim.ReductionAdds

/-! Barriers, sends, migration and tasks. -/

namespace Sys2Proof.Claim

/-- The activation may name a group in GBAR: its entry is valid and holds the core (R240). -/
def InGroup (s : State) (id : BitVec 8) : Prop := ∃ g, s.group s.me.asid id = some g ∧ g.holds s.me.side s.cur.core = true

/-- The instruction ends its chunk: PC at the next head, a phase that follows the commit, and an action left with the chunk. -/
def EndsWith (s t : State) (a : After) (acts : List Action) : Prop :=
  t.me.phase = .commit a ∧ t.regs.pc = s.cur.next ∧ Kept s t [] ∧ t.regs.fpst = s.regs.fpst ∧
  ∀ ch, s.me.chunk = some ch → ∃ c, t.me.chunk = some c ∧ c.acts = ch.acts ++ acts

end Sys2Proof.Claim

/-- R240, R241: GBAR and GBAR.ARRIVE of a valid group that holds the core end the chunk with an arrival that leaves at its
commit; GBAR then waits for the release, GBAR.ARRIVE goes on, and GBAR.WAIT, with an arrival outstanding, waits. A group whose
entry is not valid or does not hold the core, and GBAR.WAIT without an arrival, raise illegal-operand. -/
def Obligations.Barriers : Prop :=
  ∀ (s : State) (id : BitVec 8),
    (Free s → InGroup s id →
      (∃ t, exec (.gbar id) s = .next t ∧ EndsWith s t (.wait (.gbar id)) [.arrive id]) ∧
      (∃ t, exec (.gbarArrive id) s = .next t ∧ EndsWith s t .go [.arrive id]) ∧
      ((∃ b ∈ s.me.bars, b.group = id) → ∃ t, exec (.gbarWait id) s = .next t ∧ EndsWith s t (.wait (.gbar id)) [])) ∧
    (TrapReady s → ¬ InGroup s id →
      Traps (.gbar id) s s Cause.illegalOperand (encVal s.cur.enc) ∧
      Traps (.gbarArrive id) s s Cause.illegalOperand (encVal s.cur.enc) ∧
      Traps (.gbarWait id) s s Cause.illegalOperand (encVal s.cur.enc)) ∧
    (TrapReady s → (∀ b ∈ s.me.bars, b.group ≠ id) → Traps (.gbarWait id) s s Cause.illegalOperand (encVal s.cur.enc))

/-- R88-R92: a send that is not refused captures its message: type, payload registers, destination or group, the stamp of the
activation, and SENDV's 64 bytes. It is appended to the slot's held messages; with .NOW the chunk ends and the message leaves
with its commit. A seventeenth held message raises held-overflow; a reserved type from a worker or service slot raises
illegal-operand before its source is popped (R71), and so does a destination or a group that is not to be had, after it. -/
def Obligations.Sends : Prop :=
  (∀ (s t : State) (p : Pops) (first : Fin 32) (a : Reg) (vr : Fin 32) (ty : BitVec 8) (n : BitVec 3) (nack now : Bool) (x : W64),
    NotOnHart s → Reads [okG a] [a] none s p t → G p a t x → (n.toNat = 0 ∨ first.val + n.toNat ≤ 32) →
    (ty.toNat < 0xE0 ∨ slotClass t.cur.slot = 2) →
    let st := t.stampOf t.cur.core t.cur.slot
    let sent (i : Instr) (m : Message) (g : Option (BitVec 8)) : Prop :=
      m.typ = ty ∧ m.stamp = st ∧ m.nackReq = nack ∧ m.nack = false ∧ m.payload.length = n.toNat ∧
      (∀ j, (h : first.val + j < 32) → j < n.toNat → m.payload[j]? = some (t.regs.readG ⟨first.val + j, h⟩)) ∧
      (now = false → t.regs.held.length < 16 →
        exec i s = .next (t.modRegs (fun r => { r with held := r.held ++ [{ msg := m, group := g }] })).advance) ∧
      (now = false → 16 ≤ t.regs.held.length → t.cur = s.cur → TrapReady s → Traps i s t Cause.heldOverflow 0) ∧
      (now = true → Free t → ∃ u, exec i s = .next u ∧ EndsWith t u .go [.send { msg := m, group := g }])
    (t.sendTo st x = true →
      (∃ m, m.dst = x.setWidth 16 ∧ m.vec = none ∧ sent (.send (.g first) a ty n nack now) m none) ∧
      (∃ m, m.dst = x.setWidth 16 ∧ m.vec = some (t.regs.readV vr) ∧ sent (.sendv (.g first) a (.v vr) ty n nack now) m none)) ∧
    (t.sendGroup st x = true →
      ∃ m, m.vec = none ∧ sent (.sendg (.g first) a ty n nack now) m (some (x.setWidth 8)))) ∧
  (∀ (s : State) (first : Fin 32) (a : Reg) (vr : Fin 32) (ty : BitVec 8) (n : BitVec 3) (nack now : Bool),
    NotOnHart s → TrapReady s →
    let refuses (i : Instr) (u : State) : Prop := Traps i s u Cause.illegalOperand (encVal s.cur.enc)
    (okG a s = .ok () s → (0xE0 ≤ ty.toNat ∧ slotClass s.cur.slot ≠ 2 ∨ 0 < n.toNat ∧ 32 < first.val + n.toNat) →
      refuses (.send (.g first) a ty n nack now) s ∧ refuses (.sendv (.g first) a (.v vr) ty n nack now) s ∧
      refuses (.sendg (.g first) a ty n nack now) s) ∧
    (∀ (t : State) (p : Pops) (x : W64), Reads [okG a] [a] none s p t → G p a t x → t.cur = s.cur →
      (n.toNat = 0 ∨ first.val + n.toNat ≤ 32) → (ty.toNat < 0xE0 ∨ slotClass s.cur.slot = 2) →
      let st := t.stampOf t.cur.core t.cur.slot
      ((65536 ≤ x.toNat ∨ t.provided x.toNat = false ∨ (st.side ≠ .none ∧ t.inSets st (x.setWidth 16) = false)) →
        refuses (.send (.g first) a ty n nack now) t ∧ refuses (.sendv (.g first) a (.v vr) ty n nack now) t) ∧
      ((256 ≤ x.toNat ∨ t.group st.asid (x.setWidth 8) = none) → refuses (.sendg (.g first) a ty n nack now) t)))

/-- R288-R290: MIGRATE to a core of the module, from a portable context with every store checked and no store-fault record, ends
the chunk, and the context leaves with its commit for the core; its resume point is the next head. MIGRATE.NEAR goes to the
bank core beside the frame its handle translates to. A context with v8 to v31 not all zero, a bound or filled queue, matrix
commands outstanding, an open or unfinished batch, in a handler or of service class raises non-portable with those bits. -/
def Sys2Proof.Claim.Migration : Prop :=
  (∀ (s t : State) (p : Pops) (a : Reg) (x : W64), NotOnHart s → Reads [okG a] [a] none s p t → G p a t x → x.toNat < 65536 →
    t.provided x.toNat = true →
    (t.portReasons t.cur.core t.cur.slot = 0 → t.me.unchecked = 0 → t.regs.sfq = [] → Free t →
      ∃ u, exec (.migrate a 0) s = .next u ∧ EndsWith t u (.migrate (x.setWidth 16) t.cur.next) []) ∧
    (t.portReasons t.cur.core t.cur.slot ≠ 0 → t.cur = s.cur → TrapReady s →
      Traps (.migrate a 0) s t Cause.nonPortable (t.portReasons t.cur.core t.cur.slot))) ∧
  (∀ (s t u v : State) (p : Pops) (a : Reg) (h va : W64) (k : Nat), NotOnHart s → Reads [okG a] [a] none s p t → G p a t h →
    Gives (handleAddr h 0 1 4) t va u → Gives (nearFrame va) u k v → k < 2 ^ 39 →
    let beside := 16384 + k / 2 ^ 36 * 2048 + k / 2 ^ 13 % 32
    v.provided beside = true → v.portReasons v.cur.core v.cur.slot = 0 → v.me.unchecked = 0 → v.regs.sfq = [] → Free v →
    ∃ w, exec (.migrateNear a 0) s = .next w ∧ EndsWith v w (.migrate (BitVec.ofNat 16 beside) v.cur.next) []) ∧
  (∀ (s : State) (c i : Nat),
    let x := s.slot c i
    let r := s.portReasons c i
    (bit r 0 = true ↔ ∃ n : Fin 32, 8 ≤ n.val ∧ x.regs.v[n] ≠ 0) ∧
    (bit r 1 = true ↔ ∃ n : Fin 16, x.regs.q[n].bind ≠ .unbound ∨ x.regs.q[n].entries ≠ []) ∧
    (bit r 2 = true ↔ (s.outstanding c i ≠ 0 ∨ bit x.regs.mfrx 63 = true)) ∧
    (bit r 3 = true ↔ (bit x.regs.batch 32 = true ∨ s.unfinished c i ≠ 0)) ∧
    (bit r 4 = true ↔ x.regs.inHandler = true) ∧ (bit r 5 = true ↔ slotClass i = 1) ∧ r.toNat < 64)

/-- R299, R300, R308: SPAWN, of a usable type and with a place free in the target cluster's queue or its die's spill area,
places a tentative entry under the next spawn sequence of its core and gives 0 or 1, or 2 to a spawner that had parked; an open kill of
its group that has passed the cluster takes the entry (R307, R327). A type
above 0xDF, a service slot, or a timestamp not above the task's own raises illegal-operand before a source is popped (R71). TSKTS gives the task's timestamp,
and raises illegal-operand in an activation that is no task. -/
def Sys2Proof.Claim.Tasks : Prop :=
  (∀ (s t u w : State) (p : Pops) (d a b c : Reg) (ts arg ty : W64) (g : Nat) (spill : Bool), NotOnHart s →
    Reads [okG d, okG a, okG b, okG c] [a, b, c] (some d) s p t → G p a t ts → G p b t arg → G p c t ty →
    ty.toNat ≤ 0xDF → slotClass t.cur.slot ≠ 1 → (∀ k, t.me.taskKey = some k → k.ts.toNat < ts.toNat) →
    t.me.isSpeculative = false → t.graphOfStamp (t.stampOf t.cur.core t.cur.slot) = some g →
    let cl := t.targetCluster (some g) (arg.toNat % 128)
    u = t.refill cl 256 → u.freePlace cl = some spill →
    let n := (u.core u.cur.core).spawnSeq.get g 0
    let e : TaskEntry := { cluster := cl, spilled := spill, key := { ts := ts, spawner := BitVec.ofNat 16 u.cur.core, seq := n },
                           typ := ty.setWidth 8, arg := arg, stamp := u.stampOf u.cur.core u.cur.slot,
                           parent := u.me.chunk.map (·.order), running := none, contained := 0 }
    Gives (writeG d (if u.me.parked then 2 else if spill then 1 else 0))
      ({ u with tasks := if u.killPassed cl e.stamp then u.tasks else u.tasks ++ [e] }.modCore u.cur.core (fun k => { k with spawnSeq := k.spawnSeq.put g (n + 1) })) () w →
    exec (.spawn d a b c) s = .next w.advance) ∧
  (∀ (s t : State) (p : Pops) (d a b c : Reg) (ts arg ty : W64), NotOnHart s →
    Reads [okG d, okG a, okG b, okG c] [a, b, c] (some d) s p t → G p a t ts → G p b t arg → G p c t ty → t.cur = s.cur →
    TrapReady s → (0xDF < ty.toNat ∨ slotClass s.cur.slot = 1 ∨ ∃ k, t.me.taskKey = some k ∧ ts.toNat ≤ k.ts.toNat) →
    Traps (.spawn d a b c) s s Cause.illegalOperand (encVal s.cur.enc)) ∧
  (∀ (s t : State) (d : Reg), NotOnHart s → Reads [okG d] [] (some d) s [] s → (∀ n, d ≠ .k n) →
    (∀ k, s.me.taskKey = some k → Gives (writeG d k.ts) s () t → exec (.tskts d) s = .next t.advance) ∧
    (s.me.taskKey = none → TrapReady s → Traps (.tskts d) s s Cause.illegalOperand (encVal s.cur.enc)))

/-- R288-R290, R299, R300, R308: migration and ordered tasks. -/
def Obligations.MigrationAndTasks : Prop := Claim.Migration ∧ Claim.Tasks

/-! Path labels. -/

namespace Sys2Proof.Claim

/-- A label of a skein with given fields, level 0 first, its bits below the levels zero (R105). -/
structure LabelIs (k : Skein) (r l : W64) (fs : List Nat) : Prop where
  label : bit r 63 = true
  skein : fld r 48 15 = fld l 48 15
  fields : Path.fields k.widths r = fs
  low : fld r 0 (48 - k.widths.sum) = 0

/-- The entries a lookup of the slot considers (R108, R116). -/
def hed (s : State) : List HedEntry := s.entries s.me s.cur.core

/-- The best match of a label (R110), FWD entries left out or not. -/
def best (s : State) (k : Skein) (l : W64) (nofwd : Bool) : Option HedEntry := bestMatch k.widths (hed s) l nofwd

/-- A step of a lookup makes the entries that match the most recently matched (R110, R117). -/
def touched (s : State) (k : Skein) (l : W64) (nofwd : Bool) : State :=
  s.modCore s.cur.core (fun c => c.hedTouch ((hed s).filter (fun e => !(nofwd && fld e.e1 62 2 == 3) && (e.rank k.widths l).isSome)))

/-- The depth of a label. -/
def depthOf (k : Skein) (l : W64) : Nat := ((Path.fields k.widths l).takeWhile (· ≠ 0)).length

/-- R111, R112: a lookup of h that has made n rewrites stands at the label l, in the state t; `fwd` says that a FWD was among them,
`nofwd` that a GRAFT was, after which FWD entries are left out. -/
inductive Rewritten (k : Skein) (s : State) (h : W64) : Nat → W64 → Bool → Bool → State → Prop where
  | start : Rewritten k s h 0 h false false s
  | next {n l fwd nofwd t e l'} : Rewritten k s h n l fwd nofwd t → best t k l nofwd = some e →
      (fld e.e1 62 2 = 2 ∨ fld e.e1 62 2 = 3) → rewrite k.widths l e = some l' →
      Rewritten k s h (n + 1) l' (fwd || fld e.e1 62 2 == 3) (nofwd || fld e.e1 62 2 == 2) (touched t k l nofwd)

/-- The word k1 of a label miss (R114). -/
def missed (n : Nat) (fwd nofwd : Bool) (src : Nat) : W64 :=
  BitVec.ofNat 64 (n + (if fwd then 4 else 0) + (if nofwd then 8 else 0) + 16 * src)

end Sys2Proof.Claim

/-- R105-R107, R122: the bit tests, with their label operands well-formed, complete with: LMAKE the child whose next field is
the ordinal, which is refused where it does not fit; LPAR the label with its deepest field cleared, 0 for the root; LDEP the
depth; LANC 1 for an ancestor or self, across skeins 0; LRANGE the label with every field from its depth on all ones; LCMP
the relation of the two. They touch neither the heddle nor LXSTAT. -/
def Sys2Proof.Claim.LabelTests : Prop :=
  (∀ (s t u : State) (p : Pops) (d a : Reg) (l : W64) (k : Skein), NotOnHart s → Reads [okG d, okG a] [a] (some d) s p t →
    G p a t l → Gives (wellFormedLabel l) t k u →
    let n := depthOf k l
    let fs := Path.fields k.widths l
    (∃ r, (if n = 0 then r = 0 else LabelIs k r l (fs.set (n - 1) 0)) ∧
      ∀ v, Gives (writeG d r) u () v → exec (.lpar d a) s = .next v.advance) ∧
    (∀ v, Gives (writeG d (BitVec.ofNat 64 n)) u () v → exec (.ldep d a) s = .next v.advance) ∧
    (∃ r, LabelIs k r l (fs.take n ++ (k.widths.drop n).map (fun w => 2 ^ w - 1)) ∧
      ∀ v, Gives (writeG d r) u () v → exec (.lrange d a) s = .next v.advance)) ∧
  (∀ (s t u : State) (p : Pops) (d a b : Reg) (l o : W64) (k : Skein), NotOnHart s →
    Reads [okG d, okG a, okG b] [a, b] (some d) s p t → G p a t l → G p b t o → Gives (wellFormedLabel l) t k u →
    let n := depthOf k l
    ((h : n < k.widths.length) → 1 ≤ o.toNat → o.toNat ≤ 2 ^ k.widths[n] - 1 →
      ∃ r, LabelIs k r l ((Path.fields k.widths l).set n o.toNat) ∧
        ∀ v, Gives (writeG d r) u () v → exec (.lmake d a b) s = .next v.advance) ∧
    ((n = k.widths.length ∨ o = 0 ∨ ∃ h : n < k.widths.length, 2 ^ k.widths[n] - 1 < o.toNat) → u.cur = s.cur → TrapReady s →
      Traps (.lmake d a b) s u Cause.illegalOperand (encVal s.cur.enc))) ∧
  (∀ (s t u v : State) (p : Pops) (d a b : Reg) (x y : W64) (k k2 : Skein), NotOnHart s →
    Reads [okG d, okG a, okG b] [a, b] (some d) s p t → G p a t x → G p b t y → Gives (wellFormedLabel x) t k u →
    Gives (wellFormedLabel y) u k2 v →
    let anc (a b : W64) : Bool := decide (fld a 48 15 = fld b 48 15 ∧ depthOf k a ≤ depthOf k b ∧
      (Path.fields k.widths a).take (depthOf k a) = (Path.fields k.widths b).take (depthOf k a))
    (∀ w, Gives (writeG d (one (anc x y = true))) v () w → exec (.lanc d a b) s = .next w.advance) ∧
    (∀ w, Gives (writeG d (if x = y then 0 else if fld x 48 15 ≠ fld y 48 15 then 5 else if anc x y then 1
        else if anc y x then 2 else if x.toNat < y.toNat then 3 else 4)) v () w → exec (.lcmp d a b) s = .next w.advance))

/-- R109, R110: the best match of a label is a matching entry of highest rank and, at that rank, first precedence (FWD, GRAFT,
NODE, DENSE), and there is none only where no entry matches; FWD entries left out, none of them is found. -/
def Sys2Proof.Claim.BestMatch : Prop :=
  ∀ (ws : List Nat) (es : List HedEntry) (l : W64) (nofwd : Bool),
    let cand := es.filter (fun e => !(nofwd && fld e.e1 62 2 == 3))
    (bestMatch ws es l nofwd = none ↔ ∀ e ∈ cand, e.rank ws l = none) ∧
    (∀ e, bestMatch ws es l nofwd = some e → e ∈ cand ∧ ∃ r p, e.rank ws l = some (r, p) ∧
      ∀ e' ∈ cand, ∀ r' p', e'.rank ws l = some (r', p') → r' < r ∨ (r' = r ∧ p ≤ p')) ∧
    (∀ e : HedEntry, e.rank ws l =
      let d := Path.depth ws e.e0
      match fld e.e1 62 2 with
      | 3 => if Path.ancestor ws e.e0 l then some (d, 1) else none
      | 2 => if Path.ancestor ws e.e0 l then some (d, 2) else none
      | 0 => if e.e0 = l then some (d, 3) else none
      | _ => if Path.ancestor ws e.e0 l && Path.depth ws l == d + 1 then some (d + 1, 4) else none)

/-- R112, R114: the lookup of a label, after as many rewrites as its entries make, at most two. A NODE gives its base, a DENSE entry
the base plus (ordinal − 1) nodes; no match is a label miss with k0 and k1 as stated; where a FWD took part under a strict skein
the result is stale-label; a third rewrite is label-loop, and one that does not fit the skein label-format; LXSTAT tells whether
a FWD and whether a DENSE took part. -/
def Sys2Proof.Claim.LabelLookup : Prop :=
  ∀ (s t : State) (k : Skein) (h l : W64) (src n : Nat) (fwd nofwd : Bool), Rewritten k s h n l fwd nofwd t → n ≤ 2 →
    let stale := fwd = true ∧ k.strict = true
    let finds (b : W64) (dense : Nat) : Prop :=
      (stale → ∃ u, labelTranslate k h src s = .error (.trap Cause.staleLabel h 0 none none) u) ∧
      (¬ stale → ∃ u, Gives (labelTranslate k h src) s b u ∧ u.regs.lxstat = BitVec.ofNat 64 ((if fwd then 1 else 0) + dense) ∧
        Kept (lx s u) u [])
    (best t k l nofwd = none →
      labelTranslate k h src s = .error (.trap Cause.labelMiss h 0 (some (l, missed n fwd nofwd src)) none) t) ∧
    (∀ e, best t k l nofwd = some e →
      (fld e.e1 62 2 = 0 → finds (BitVec.ofNat 64 (fld e.e1 0 56)) 0) ∧
      (fld e.e1 62 2 = 1 → 1 ≤ depthOf k l →
        finds (BitVec.ofNat 64 (fld e.e1 0 56 + ((Path.fields k.widths l).getD (depthOf k l - 1) 1 - 1) * 2 ^ k.log2)) 2) ∧
      (2 ≤ fld e.e1 62 2 →
        (n = 2 → ∃ u, labelTranslate k h src s = .error (.trap Cause.labelLoop h 0 none none) u) ∧
        (n < 2 → rewrite k.widths l e = none →
          ∃ u, labelTranslate k h src s = .error (.trap Cause.labelFormat h 0 none none) u)))

/-- R108-R114, R117: how a label finds its storage. -/
def Obligations.LabelLookups : Prop := Claim.BestMatch ∧ Claim.LabelLookup

/-- R112, R124-R126: LXLOOK gives the storage address of a lookup of source 2; LCANON the label its FWD rewrites lead to, itself
where the best match is no FWD, a third being label-loop and no match a label miss of source 3; LXINV removes the activation's entries in a range from the core's heddle and the slot's fills at
once, their store-buffer lines staying with the chunk (R228), and its broadcast leaves with the chunk; LXFILL queues a usable entry as a fill of the chunk and raises illegal-operand
for one that is not. -/
def Sys2Proof.Claim.LabelGroup : Prop :=
  (∀ (s t u v : State) (p : Pops) (d a : Reg) (l : W64) (k : Skein), NotOnHart s → Reads [okG d, okG a] [a] (some d) s p t →
    G p a t l → Gives (wellFormedLabel l) t k u →
    (∀ x w, Gives (labelTranslate k l 2) u x v → Gives (writeG d x) v () w → exec (.lxlook d a) s = .next w.advance) ∧
    (∀ (n : Nat) (l2 : W64) (fwd : Bool), Rewritten k u l n l2 fwd false v → n ≤ 2 → v.cur = s.cur →
      (∀ e w, best v k l2 false = some e → fld e.e1 62 2 ≠ 3 → Gives (writeG d l2) (touched v k l2 false) () w →
        exec (.lcanon d a) s = .next w.advance) ∧
      (∀ e, best v k l2 false = some e → fld e.e1 62 2 = 3 → TrapReady s →
        (n = 2 → Traps (.lcanon d a) s (touched v k l2 false) Cause.labelLoop l) ∧
        (n < 2 → rewrite k.widths l2 e = none → Traps (.lcanon d a) s (touched v k l2 false) Cause.labelFormat l)) ∧
      (best v k l2 false = none → TrapReady s →
        exec (.lcanon d a) s = .next ((withReads s v).takeTrap s.cur.core s.cur.slot s.regs.pc Cause.labelMiss 0 false l
          (some (l2, missed n fwd false 3)))))) ∧
  (∀ (s t u v : State) (p : Pops) (a b : Reg) (lo hi : W64) (k k2 : Skein), NotOnHart s → Reads [okG a, okG b] [a, b] none s p t →
    G p a t lo → G p b t hi → Gives (wellFormedLabel lo) t k u → Gives (wellFormedLabel hi) u k2 v →
    ∃ w, exec (.lxinv a b) s = .next w ∧ Kept v w [] ∧ w.regs.pc = v.cur.next ∧
      (∀ e, e ∈ (w.core v.cur.core).heddle ↔ e ∈ (v.core v.cur.core).heddle ∧
        ¬(e.asid = v.me.asid ∧ lo.toNat ≤ e.e0.toNat ∧ e.e0.toNat ≤ hi.toNat)) ∧
      (∀ ch, v.me.chunk = some ch → ∃ c, w.me.chunk = some c ∧
        c.acts = ch.acts ++ [.remove { heddle := true, asid := v.me.asid, lo := lo, hi := hi }] ∧
        c.fillLines = ch.fillLines ∧
        ∀ e, e ∈ c.fills ↔ e ∈ ch.fills ∧ ¬(e.asid = v.me.asid ∧ lo.toNat ≤ e.e0.toNat ∧ e.e0.toNat ≤ hi.toNat))) ∧
  (∀ (s t u : State) (p : Pops) (a b : Reg) (e0 e1 : W64) (k : Skein), NotOnHart s → Reads [okG a, okG b] [a, b] none s p t →
    G p a t e0 → G p b t e1 → Gives (wellFormedLabel e0) t k u →
    let kind := fld e1 62 2
    let path : W64 := BitVec.ofNat 64 (2 ^ 63 + fld e0 48 15 * 2 ^ 48 + fld e1 0 48)
    let refused := (kind ≤ 1 ∧ (fld e1 56 6 ≠ 0 ∨ fld e1 0 3 ≠ 0 ∨ (kind = 1 ∧ depthOf k e0 = k.widths.length))) ∨
      (2 ≤ kind ∧ (fld e1 48 14 ≠ 0 ∨ depthOf k e0 = 0 ∨ Path.wellFormed k.widths path = false ∨ fld e1 0 48 = fld e0 0 48))
    (¬ refused → u.roomFor (u.me.lineCount + 1) = true →
      exec (.lxfill a b) s = .next (u.modChunk (fun c =>
        { c with fills := c.fills ++ [{ asid := u.me.asid, e0 := e0, e1 := e1, widths := k.widths }],
                 fillLines := c.fillLines + 1 })).advance) ∧
    (refused → u.cur = s.cur → TrapReady s → Traps (.lxfill a b) s u Cause.illegalOperand (encVal s.cur.enc)))

/-- R105-R107, R112, R122, R124-R126: the instructions on path labels. -/
def Obligations.LabelInstructions : Prop := Claim.LabelTests ∧ Claim.LabelGroup

/-! The wide accumulator. -/

namespace Sys2Proof.Claim

/-- The value of a finite FP32 code times 2^320 (R147). -/
def fixed (neg : Bool) (m : Nat) (e : Int) : Int := (if neg then -1 else 1) * (m * 2 ^ (e + 320).toNat : Nat)

end Sys2Proof.Claim

/-- R147, R148, R165: what a term does to a window. A NaN, an infinity of either sign sets its sticky bit; a zero changes
nothing; a finite value adds its value times 2^320, modulo 2^640, with WOVF where the exact sum does not fit; a window adds its
integer so and ORs its sticky bits. Every word whose value changes is among those reached. -/
def Sys2Proof.Claim.WideTerms : Prop :=
  (∀ (w : Wide) (c : Nat),
    (FFmt.fp32.decode c = .nan → w.addVal (FFmt.fp32.decode c) = { w with sticky := w.sticky ||| 1 }) ∧
    (∀ neg, FFmt.fp32.decode c = .inf neg →
      w.addVal (FFmt.fp32.decode c) = { w with sticky := w.sticky ||| (if neg then 4 else 2) }) ∧
    (∀ neg, FFmt.fp32.decode c = .zero neg → w.addVal (FFmt.fp32.decode c) = w) ∧
    (∀ neg m e, FFmt.fp32.decode c = .fin neg m e →
      (w.addVal (FFmt.fp32.decode c)).i = (w.i + fixed neg m e).bmod (2 ^ 640) ∨ fixed neg m e = 0) ∧
    (∀ neg m e, FFmt.fp32.decode c = .fin neg m e → fixed neg m e ≠ 0 →
      (w.addVal (FFmt.fp32.decode c)).sticky =
        if -(2 ^ 639 : Int) ≤ w.i + fixed neg m e ∧ w.i + fixed neg m e ≤ 2 ^ 639 - 1 then w.sticky else w.sticky ||| 8)) ∧
  (∀ w x : Wide, (w.addWin x).sticky = (w.addInt x.i).sticky ||| x.sticky ∧ (w.addWin x).i = (w.addInt x.i).i ∧
    (x.i ≠ 0 → (w.addInt x.i).i = (w.i + x.i).bmod (2 ^ 640))) ∧
  (∀ (w : Wide) (t : Int) (j : Nat), j < 10 → (w.addInt t).word j ≠ w.word j → j ∈ (w.addInt t).reached)

/-- R149, R165-R167: the members of the wide accumulator complete: WACC adds its terms in order to the window read at its
target and stores the words reached with words 10 and 11; WRD gives the window's value rounded in its own mode, with the
flags of the rounding, and for the sticky bits NaN, the infinities and WOVF what R149 says; WCLR stores twelve words of zero. -/
def Sys2Proof.Claim.WideAccumulator : Prop :=
  (∀ (s t u v : State) (p : Pops) (a b c : Reg) (mk : Fin 8) (tg : W64) (x y : V512) (w : Wide), NotOnHart s →
    (∀ f ∈ [okG a, okV b, okV c], f s = .ok () s) → Gives (loadWindow tg) t w u →
    let l := (List.range 16).filter (fun i => (t.regs.readM mk).getLsbD i)
    let w1 := l.foldl (fun w i => w.addVal (FFmt.fp32.decode (lane 32 x i))) w
    let w2 := l.foldl (fun w i => w.addVal (Val.mul (FFmt.fp32.decode (lane 32 x i)) (FFmt.fp32.decode (lane 32 y i))).1) w
    (Gives (waccTarget a [b]) s (p, tg) t → V p b t x → Gives (storeWindow tg w1 w1.reached) u () v →
      exec (.wacc a b mk) s = .next v.advance) ∧
    (Gives (waccTarget a [b, c]) s (p, tg) t → V p b t x → V p c t y → Gives (storeWindow tg w2 w2.reached) u () v →
      exec (.waccMul a b c mk) s = .next v.advance)) ∧
  (∀ (s t u v : State) (p : Pops) (a b : Reg) (tg x : W64) (w : Wide), NotOnHart s →
    (∀ f ∈ [okG a, okG b], f s = .ok () s) → Gives (waccTarget a [b]) s (p, tg) t → G p b t x →
    (∀ o src, bit x 63 = false → x.toNat % 32 = 0 → x.toNat < 2 ^ 57 → Gives (loadWindow x) t src o → Gives (loadWindow tg) o w u →
      Gives (storeWindow tg (w.addWin src) (w.addWin src).reached) u () v → exec (.waccWin a b) s = .next v.advance) ∧
    (let w1 := w.addVal (FFmt.fp32.decode (x.toNat % 2 ^ 32))
     Gives (loadWindow tg) t w u → Gives (storeWindow tg w1 w1.reached) u () v → exec (.waccS a b) s = .next v.advance)) ∧
  (∀ (s t u v : State) (p : Pops) (r : Rnd) (d a : Reg) (tg : W64) (w : Wide), NotOnHart s →
    Reads [okG d, okG a] [a] (some d) s p t → G p a t tg → bit tg 63 = false → tg.toNat % 32 = 0 → tg.toNat < 2 ^ 57 →
    Gives (loadWindow tg) t w u →
    Gives (writeG d (BitVec.ofNat 64 (w.round r).1)) (flagged u (w.round r).2) () v → exec (.wrd r d a) s = .next v.advance) ∧
  (∀ (s t v : State) (p : Pops) (a : Reg) (tg : W64), NotOnHart s → Reads [okG a] [a] none s p t → G p a t tg →
    bit tg 63 = false → tg.toNat % 32 = 0 → tg.toNat + 96 ≤ tcmSize t.cur.core →
    Gives (storeWindow tg { i := 0, sticky := 0, reached := [] } (List.range 10)) t () v → exec (.wclr a) s = .next v.advance) ∧
  (∀ (w : Wide) (r : Rnd),
    (w.sticky.testBit 0 = true → w.round r = (FFmt.fp32.nanCode, 0)) ∧
    (w.sticky.testBit 0 = false → w.sticky.testBit 1 = true → w.sticky.testBit 2 = true → w.round r = (FFmt.fp32.nanCode, Fl.nv)) ∧
    (w.sticky.testBit 0 = false → w.sticky.testBit 1 = true → w.sticky.testBit 2 = false → w.round r = (0x7F800000, 0)) ∧
    (w.sticky.testBit 0 = false → w.sticky.testBit 1 = false → w.sticky.testBit 2 = true → w.round r = (0xFF800000, 0)) ∧
    (w.sticky % 8 = 0 → w.sticky.testBit 3 = true → w.round r = (FFmt.fp32.nanCode, Fl.nv ||| Fl.of)) ∧
    (w.sticky % 16 = 0 → w.i = 0 → w.round r = (0, 0)))

/-- R147, R165, R167: where a window's words go: with the target wholly in own TCM and room in the buffer, the slot's own view
of the window holds the words stored, word 10 the sticky bits, word 11 zero, and every other byte as before. -/
def Sys2Proof.Claim.WideStores : Prop :=
  ∀ (s t : State) (tg : W64) (w : Wide) (words : List Nat) (c : Chunk), s.me.chunk = some c → s.me.side = .none →
    tg.toNat % 32 = 0 → tg.toNat + 96 ≤ tcmSize s.cur.core → Gives (storeWindow tg w words) s () t →
    let k := tcmKey s.cur.core tg.toNat
    (∀ j i, j < 10 → i < 8 → t.ownByte t.me (k + 8 * j + i) =
      if j ∈ words then BitVec.ofNat 8 (w.word j / 256 ^ i) else s.ownByte s.me (k + 8 * j + i)) ∧
    (∀ i, i < 8 → t.ownByte t.me (k + 80 + i) = BitVec.ofNat 8 (w.sticky / 256 ^ i) ∧ t.ownByte t.me (k + 88 + i) = 0) ∧
    (∀ b, (b < k ∨ k + 96 ≤ b) → t.ownByte t.me b = s.ownByte s.me b) ∧ t.mem = s.mem

/-- R147-R149, R165-R167: the wide accumulator. (That WACC pops the queue of its target before the other sources is DEDUCED, NOTES.md.) -/
def Obligations.WideAccumulators : Prop := Claim.WideTerms ∧ Claim.WideAccumulator ∧ Claim.WideStores

/-! Vectors. -/

namespace Sys2Proof.Claim

/-- Each lane of r is what f gives where its mask bit is set, and the old lane elsewhere (R151). -/
def Masked (w : Nat) (mask : W64) (old r : V512) (f : Nat → Nat) : Prop :=
  ∀ i, i < 512 / w → lane w r i = if mask.getLsbD i then f i % 2 ^ w else lane w old i

/-- The instruction completes from the state after its sources are read: V(D) takes the masked lanes, FPST their flags. -/
def VecDone (i : Instr) (s t : State) (d : Reg) (mk : Fin 8) (w : Nat) (f : Nat → Nat × Flags) : Prop :=
  ∀ (o u : State) (old : V512), Gives (oldV d) t old o → ∃ (r : V512) (fl : Flags),
    Masked w (t.regs.readM mk) old r (fun j => (f j).1) ∧ FlagsOf w (t.regs.readM mk) fl (fun j => (f j).2) ∧
    (Gives (writeV d r) (flagged o fl) () u → exec i s = .next u.advance)

/-- As VecDone for a member that sets no flag (R162). -/
def VecMoved (i : Instr) (s t : State) (d : Reg) (mk : Fin 8) (w : Nat) (f : Nat → Nat) : Prop :=
  ∀ (o u : State) (old : V512), Gives (oldV d) t old o → ∃ r : V512,
    Masked w (t.regs.readM mk) old r f ∧ (Gives (writeV d r) o () u → exec i s = .next u.advance)

/-- R157: the members of one source, with the rounded result and its flags. -/
def floatOne : List ((FltTy → Reg → Reg → Fin 8 → Instr) × (FFmt → Rnd → Nat → Nat × Flags)) :=
  [(.vabs, fun f _ a => (a % 2 ^ (f.eb + f.mb), 0)),
   (.vneg, fun f _ a => ((a + 2 ^ (f.eb + f.mb)) % 2 ^ f.width, 0)),
   (.vrcp, fun f m a => Fop.out f m (Val.div (.fin false 1 0) (f.decode a))),
   (.vrsq, fun f m a => Fop.out f m (Val.rsqrt (f.decode a))),
   (.vsqrt, fun f m a => Fop.out f m (Val.sqrt (f.decode a))),
   (.vexp2, fun f m a => exp2To f m (f.decode a)),
   (.vlog2, fun f m a => log2To f m (f.decode a))]

/-- R157: the members of two sources. -/
def floatTwo : List ((FltTy → Reg → Reg → Reg → Fin 8 → Instr) × (FFmt → Rnd → Nat → Nat → Nat × Flags)) :=
  [(.vadd, fun f m a b => Fop.out f m (Val.add m (f.decode a) (f.decode b))),
   (.vsub, fun f m a b => Fop.out f m (Val.add m (f.decode a) (f.decode b).neg)),
   (.vmul, fun f m a b => Fop.out f m (Val.mul (f.decode a) (f.decode b))),
   (.vmin, fun f _ a b => (if (f.decode a).isNan || (f.decode b).isNan then f.nanCode
      else if Val.below (f.decode b) (f.decode a) then b else a, 0)),
   (.vmax, fun f _ a b => (if (f.decode a).isNan || (f.decode b).isNan then f.nanCode
      else if Val.below (f.decode a) (f.decode b) then b else a, 0)),
   (.vdiv, fun f m a b => Fop.out f m (Val.div (f.decode a) (f.decode b)))]

/-- R159: the members, on w-bit lanes; the result is taken modulo 2^w. -/
def intTwo : List ((Width → Reg → Reg → Reg → Fin 8 → Instr) × (Nat → Nat → Nat → Nat)) :=
  [(.viadd, fun _ a b => a + b), (.visub, fun w a b => 2 ^ w + a - b), (.vimul, fun _ a b => a * b),
   (.vimin, fun w a b => if (BitVec.ofNat w a).toInt ≤ (BitVec.ofNat w b).toInt then a else b),
   (.vimax, fun w a b => if (BitVec.ofNat w a).toInt ≤ (BitVec.ofNat w b).toInt then b else a),
   (.viminu, fun _ a b => min a b), (.vimaxu, fun _ a b => max a b),
   (.vand, fun _ a b => a &&& b), (.vor, fun _ a b => a ||| b), (.vxor, fun _ a b => a ^^^ b),
   (.vshl, fun w a b => a * 2 ^ (b % w)), (.vshr, fun w a b => a / 2 ^ (b % w)),
   (.vsra, fun w a b => ((BitVec.ofNat w a).toInt / 2 ^ (b % w) % (2 ^ w : Int)).toNat)]

/-- R158: a condition on two exact values. -/
def condVal (c : FCond) (x y : Val) : Bool :=
  match c with
  | .eq => Val.eq x y
  | .ne => !Val.eq x y
  | .lt => Val.lt x y
  | .le => Val.lt x y || Val.eq x y
  | .gt => Val.lt y x
  | .ge => Val.lt y x || Val.eq x y
  | .unord => x.isNan || y.isNan
  | .ord => !x.isNan && !y.isNan

/-- R158: the conditions that set NV for a NaN. -/
def condNv (c : FCond) : Bool := c = .lt || c = .le || c = .gt || c = .ge

/-- R73: the integer conditions. -/
def condInt (w : Nat) (c : ICond) (a b : Nat) : Bool :=
  match c with
  | .eq => decide (a = b)
  | .ne => decide (a ≠ b)
  | .lt => decide ((BitVec.ofNat w a).toInt < (BitVec.ofNat w b).toInt)
  | .le => decide ((BitVec.ofNat w a).toInt ≤ (BitVec.ofNat w b).toInt)
  | .ltu => decide (a < b)
  | .leu => decide (a ≤ b)

/-- The instruction completes: mask M(D) takes the tested lanes, zero elsewhere, FPST the flags of the active lanes (R158). -/
def CmpDone (i : Instr) (s t : State) (d : Reg) (mk : Fin 8) (w : Nat) (f : Nat → Bool) (g : Nat → Flags) : Prop :=
  ∀ u : State, ∃ (r : W64) (fl : Flags),
    (∀ j, j < 64 → r.getLsbD j = (decide (j < 512 / w) && (t.regs.readM mk).getLsbD j && f j)) ∧
    FlagsOf w (t.regs.readM mk) fl g ∧ (Gives (writeM d r) (flagged t fl) () u → exec i s = .next u.advance)

end Sys2Proof.Claim

/-- R144, R151, R156-R158: the vector float group: each active lane takes its member's exact result rounded once in FPST.RM, the
other lanes keep theirs, and FPST takes the flags of the active lanes; VCMP sets the mask lanes whose condition holds; VSEL
takes S1 where the mask is set and S2 elsewhere. The powers and logarithms are rounded once from an enclosure of the exact value
narrow enough to decide the rounding (log 12). -/
def Obligations.VectorFloat : Prop :=
  (∀ e ∈ floatOne, ∀ (s t : State) (p : Pops) (f : FltTy) (d a : Reg) (mk : Fin 8) (x : V512), NotOnHart s →
    Reads [okV d, okV a] [a] (some d) s p t → V p a t x →
    VecDone (e.1 f d a mk) s t d mk (fltFmt f).width (fun i => e.2 (fltFmt f) t.regs.rm (lane (fltFmt f).width x i))) ∧
  (∀ e ∈ floatTwo, ∀ (s t : State) (p : Pops) (f : FltTy) (d a b : Reg) (mk : Fin 8) (x y : V512), NotOnHart s →
    Reads [okV d, okV a, okV b] [a, b] (some d) s p t → V p a t x → V p b t y →
    VecDone (e.1 f d a b mk) s t d mk (fltFmt f).width
      (fun i => e.2 (fltFmt f) t.regs.rm (lane (fltFmt f).width x i) (lane (fltFmt f).width y i))) ∧
  (∀ (s t : State) (p : Pops) (ft : FltTy) (d a b c : Reg) (mk : Fin 8) (x y z : V512), NotOnHart s →
    Reads [okV d, okV a, okV b, okV c] [a, b, c] (some d) s p t → V p a t x → V p b t y → V p c t z →
    let f := fltFmt ft
    let m := t.regs.rm
    VecDone (.vfma ft d a b c mk) s t d mk f.width (fun i => Fop.out f m (Val.fma m (f.decode (lane f.width x i))
      (f.decode (lane f.width y i)) (f.decode (lane f.width z i)))) ∧
    VecDone (.vfms ft d a b c mk) s t d mk f.width (fun i => Fop.out f m (Val.fma m (f.decode (lane f.width x i))
      (f.decode (lane f.width y i)) (f.decode (lane f.width z i)).neg))) ∧
  (∀ (s t : State) (p : Pops) (ft : FltTy) (c : FCond) (d a b : Reg) (mk : Fin 8) (x y : V512), NotOnHart s →
    Reads [okM d, okV a, okV b] [a, b] none s p t → V p a t x → V p b t y →
    let f := fltFmt ft
    let l (v : V512) (i : Nat) : Val := f.decode (lane f.width v i)
    CmpDone (.vcmp ft c d a b mk) s t d mk f.width (fun i => condVal c (l x i) (l y i))
      (fun i => if condNv c && ((l x i).isNan || (l y i).isNan) then Fl.nv else 0)) ∧
  (∀ (s t u : State) (p : Pops) (ft : FltTy) (d a b : Reg) (mk : Fin 8) (x y : V512), NotOnHart s →
    Reads [okV d, okV a, okV b] [a, b] (some d) s p t → V p a t x → V p b t y →
    ∃ r : V512, Masked (fltFmt ft).width (t.regs.readM mk) y r (lane (fltFmt ft).width x) ∧
      (Gives (writeV d r) t () u → exec (.vsel ft d a b mk) s = .next u.advance))

namespace Sys2Proof.Claim

/-- A finite value as a rational number; an infinity and a NaN have none (0 here). -/
def valQ : Val → ℚ
  | .fin neg m e => (if neg then -1 else 1) * ((m : ℚ) * (2 : ℚ) ^ e)
  | _ => 0

/-- A zero of either sign, or a number that is not zero. -/
def Finite : Val → Prop
  | .zero _ => True
  | .fin _ m _ => m ≠ 0
  | _ => False

/-- The magnitude of the code c of a format without its sign, by R133; above the largest code the exponent goes on without bound, so
that c and c + 1 are neighbours in the format's precision (R136). -/
def codeMag (f : FFmt) (c : Nat) : ℚ :=
  let e := c / 2 ^ f.mb
  let m := c % 2 ^ f.mb
  if e = 0 then (m : ℚ) * (2 : ℚ) ^ (1 - (f.bias : Int) - f.mb)
  else ((2 ^ f.mb + m : Nat) : ℚ) * (2 : ℚ) ^ ((e : Int) - f.bias - f.mb)

/-- Which of two neighbours c and c + 1, at lo ≤ x < hi, a mode names for a magnitude x with a sign (R136). -/
def Picks (mode : Rnd) (neg : Bool) (c : Nat) (lo x hi : ℚ) (r : Nat) : Prop :=
  (x = lo → r = c) ∧
  (x ≠ lo → match mode with
    | .rtz => r = c
    | .rdn => r = if neg then c + 1 else c
    | .rup => r = if neg then c else c + 1
    | .rne => (2 * x < lo + hi → r = c) ∧ (lo + hi < 2 * x → r = c + 1) ∧ (2 * x = lo + hi → r = if c % 2 = 0 then c else c + 1))

/-- A magnitude that, rounded in a mode with an exponent without bounds, stays below the smallest normal number n of a format (R136): the
neighbour of n below it lies at n − 2^(−1) times the subnormal grid g. -/
def Tiny (f : FFmt) (mode : Rnd) (neg : Bool) (x : ℚ) : Prop :=
  let g : ℚ := (2 : ℚ) ^ (1 - (f.bias : Int) - f.mb)
  let n : ℚ := (2 : ℚ) ^ (1 - (f.bias : Int))
  match mode with
  | .rtz => x < n
  | .rdn => if neg then x ≤ n - g / 2 else x < n
  | .rup => if neg then x < n else x ≤ n - g / 2
  | .rne => x < n - g / 4

/-- What Round gives for a magnitude x that is not zero, with its sign: the code and the flags (R136, R137). -/
def Rounds (f : FFmt) (mode : Rnd) (sat neg : Bool) (x : ℚ) (out : Nat × Flags) : Prop :=
  ∃ c r, codeMag f c ≤ x ∧ x < codeMag f (c + 1) ∧ Picks mode neg c (codeMag f c) x (codeMag f (c + 1)) r ∧
    (r ≤ f.maxCode → out.1 = (if neg then f.signBit + r else r) ∧
      (x = codeMag f c → out.2 = 0) ∧
      (x ≠ codeMag f c → Tiny f mode neg x → out.2 = Fl.nx ||| Fl.uf) ∧
      (x ≠ codeMag f c → ¬ Tiny f mode neg x → out.2 = Fl.nx)) ∧
    (f.maxCode < r → sat = true → out = (if neg then f.signBit + f.maxCode else f.maxCode, Fl.satf ||| Fl.nx)) ∧
    (f.maxCode < r → sat = false → out.2 = Fl.of ||| Fl.nx ∧
      (if mode = .rne ∨ (mode = .rdn ∧ neg = true) ∨ (mode = .rup ∧ neg = false) then
        out.1 = (if f = FFmt.e4m3 then 0x7F
          else if f = FFmt.e2m1 then (if neg then 0xF else 0x7)
          else (if neg then f.signBit else 0) + (2 ^ f.eb - 1) * 2 ^ f.mb)
      else out.1 = if neg then f.signBit + f.maxCode else f.maxCode))

/-- The floating formats of R133 whose values carry a sign. -/
def floats : List FFmt := [FFmt.fp32, FFmt.fp16, FFmt.bf16, FFmt.e5m2, FFmt.e4m3, FFmt.e2m1]

end Sys2Proof.Claim

/-- R133, R135-R138: Round into every floating format: of a finite value the neighbour the mode names on the format's grid, a tie to
the even code, with NX where it is inexact, UF where it is tiny too after rounding, and R137's outcomes with OF or SATF beyond the
largest finite value; a zero keeps its sign, infinities and NaN follow R138. A code's value is that of its fields; sums and products
are exact before they are rounded, an exact zero sum being −0 only of two −0 or in RDN; and what rounds a result adds Round's flags
to those met before. -/
def Obligations.RoundingRule : Prop :=
  (∀ f ∈ floats, ∀ (mode : Rnd) (sat neg : Bool) (m : Nat) (e : Int), m ≠ 0 →
    Rounds f mode sat neg ((m : ℚ) * (2 : ℚ) ^ e) (roundTo f mode sat (.fin neg m e))) ∧
  (∀ f ∈ floats, ∀ (mode : Rnd) (sat neg : Bool),
    roundTo f mode sat (.zero neg) = (if neg then f.signBit else 0, 0) ∧
    roundTo f mode sat .nan = (if f = FFmt.e2m1 then (0, Fl.nv) else (f.nanCode, 0)) ∧
    roundTo f mode sat (.inf neg) =
      (if f = FFmt.e2m1 then ((if neg then 0xF else 0x7), if sat then Fl.satf else Fl.nv)
      else if f = FFmt.e4m3 then (if sat then ((if neg then 0xFE else 0x7E), Fl.satf) else (0x7F, Fl.nv))
      else ((if neg then f.signBit else 0) + (2 ^ f.eb - 1) * 2 ^ f.mb, 0))) ∧
  (∀ f ∈ floats, ∀ c, c < 2 ^ f.width → c % f.signBit ≤ f.maxCode →
    Finite (f.decode c) ∧ (f.decode c).sign = decide (f.signBit ≤ c) ∧
      valQ (f.decode c) = (if f.signBit ≤ c then -1 else 1) * codeMag f (c % f.signBit)) ∧
  (∀ (mode : Rnd) (x y : Val), Finite x → Finite y →
    let a := Val.add mode x y
    let p := Val.mul x y
    Finite a.1 ∧ a.2 = 0 ∧ valQ a.1 = valQ x + valQ y ∧
    (valQ x + valQ y = 0 → a.1 = .zero (if valQ x = 0 ∧ x.sign = y.sign then x.sign else mode == .rdn)) ∧
    Finite p.1 ∧ p.2 = 0 ∧ valQ p.1 = valQ x * valQ y ∧ p.1.sign = (x.sign != y.sign)) ∧
  (∀ (f : FFmt) (mode : Rnd) (v : Val) (fl : Flags),
    Fop.out f mode (v, fl) = ((roundTo f mode false v).1, fl ||| (roundTo f mode false v).2))

/-- R133, R136: a value a format holds rounds to its own code, in every mode and with no flag: FP32, FP16, BF16 and E5M2. -/
def Obligations.RoundingExact : Prop :=
  ∀ f ∈ [FFmt.fp32, FFmt.fp16, FFmt.bf16, FFmt.e5m2], ∀ (m : Rnd) (sat : Bool) (c : Nat), c < 2 ^ f.width →
    (f.decode c).isNan = false → roundTo f m sat (f.decode c) = (c, 0)

/-- R151, R159: the vector integer group: each active lane takes its member's result modulo 2^w, the other lanes keep theirs,
and no flag is set; VICMP sets the mask lanes whose condition holds. -/
def Sys2Proof.Claim.VectorInteger : Prop :=
  (∀ e ∈ intTwo, ∀ (s t : State) (p : Pops) (z : Width) (d a b : Reg) (mk : Fin 8) (x y : V512), NotOnHart s →
    Reads [okV d, okV a, okV b] [a, b] (some d) s p t → V p a t x → V p b t y →
    VecDone (e.1 z d a b mk) s t d mk (widthBits z)
      (fun i => (e.2 (widthBits z) (lane (widthBits z) x i) (lane (widthBits z) y i), 0))) ∧
  (∀ (s t : State) (p : Pops) (z : Width) (c : ICond) (d a b : Reg) (mk : Fin 8) (x y : V512), NotOnHart s →
    Reads [okM d, okV a, okV b] [a, b] none s p t → V p a t x → V p b t y →
    CmpDone (.vicmp z c d a b mk) s t d mk (widthBits z)
      (fun i => condInt (widthBits z) c (lane (widthBits z) x i) (lane (widthBits z) y i)) (fun _ => 0))

/-- R162: the vector move group, no flag set: the lanes each member moves, indices taken modulo the number of lanes. -/
def Sys2Proof.Claim.VectorMoves : Prop :=
  (∀ (s t : State) (p : Pops) (z : Width) (d a : Reg) (mk : Fin 8), let w := widthBits z
    (∀ x, Reads [okV d, okG a] [a] (some d) s p t → G p a t x → VecMoved (.vbcast z d a mk) s t d mk w (fun _ => x.toNat)) ∧
    (Reads [okV d] [] (some d) s p t → VecMoved (.vidx z d mk) s t d mk w (fun i => i)) ∧
    (∀ x, Reads [okV d, okV a] [a] (some d) s p t → V p a t x → VecMoved (.vmov z d a mk) s t d mk w (lane w x))) ∧
  (∀ (s t : State) (p : Pops) (z : Width) (d a b : Reg) (mk : Fin 8) (x : V512), let w := widthBits z
    (∀ y : V512, Reads [okV d, okV a, okV b] [a, b] (some d) s p t → V p a t x → V p b t y →
      VecMoved (.vperm z d a b mk) s t d mk w (fun i => lane w x (lane w y i % (512 / w)))) ∧
    (∀ y : W64, Reads [okV d, okV a, okG b] [a, b] (some d) s p t → V p a t x → G p b t y →
      VecMoved (.vslide z d a b mk) s t d mk w (fun i =>
        if 0 ≤ (i : Int) + y.toInt ∧ (i : Int) + y.toInt < ((512 / w : Nat) : Int) then lane w x ((i : Int) + y.toInt).toNat
        else 0))) ∧
  (∀ (s t u : State) (p : Pops) (z : Width) (d a : Reg) (mk : Fin 8) (x : V512), let w := widthBits z
    Reads [okV d, okV a] [a] (some d) s p t → V p a t x →
    let sel := (List.range (512 / w)).filter (fun i => (t.regs.readM mk).getLsbD i)
    (∃ r : V512, Lanes w r (fun i => match sel[i]? with | some j => lane w x j | none => 0) ∧
      (Gives (writeV d r) t () u → exec (.vcomp z d a mk) s = .next u.advance)) ∧
    (∃ r : V512, Lanes w r (fun i =>
        if (t.regs.readM mk).getLsbD i then lane w x (sel.filter (fun j => j < i)).length else 0) ∧
      (Gives (writeV d r) t () u → exec (.vexpnd z d a mk) s = .next u.advance))) ∧
  (∀ (s t u : State) (p : Pops) (z : Width) (d a b : Reg) (x : V512) (y : W64), let w := widthBits z
    Reads [okG d, okV a, okG b] [a, b] (some d) s p t → V p a t x → G p b t y →
    Gives (writeG d (BitVec.ofNat 64 (lane w x (y.toNat % (512 / w))))) t () u → exec (.vextr z d a b) s = .next u.advance) ∧
  (∀ (s t u : State) (p : Pops) (z : Width) (d : Fin 32) (a b : Reg) (x y : W64), let w := widthBits z
    Reads [okG a, okG b] [a, b] none s p t → G p a t x → G p b t y →
    ∃ r : V512, Lanes w r (fun i => if i = y.toNat % (512 / w) then x.toNat else lane w (t.regs.readV d) i) ∧
      (Gives (writeV (.v d) r) t () u → exec (.vins z (.v d) a b) s = .next u.advance))

/-- R160, R161: VCVT converts n = 512 / max(ws, wd) elements, packed at their own widths: an active element takes the exact
value of its source rounded into the destination type, in the mode written or FPST.RM; an inactive one keeps its bits; the bits
above n × wd are zero; FPST takes the flags of the active elements. -/
def Sys2Proof.Claim.Conversion : Prop :=
  ∀ (s t o u : State) (p : Pops) (dst src : CvtTy) (m : Option Rnd) (sat : Bool) (d a : Reg) (mk : Fin 8) (x old : V512),
    NotOnHart s → Reads [okV d, okV a] [a] (some d) s p t → V p a t x → Gives (oldV d) t old o →
    let ws := Cvt.width src
    let wd := Cvt.width dst
    let n := 512 / max ws wd
    let el (i : Nat) : Nat × Flags := Cvt.round dst (m.getD t.regs.rm) sat (Cvt.value src (lane ws x i))
    ∃ (r : V512) (fl : Flags),
      (∀ i, i < n → lane wd r i = if (t.regs.readM mk).getLsbD i then (el i).1 % 2 ^ wd else lane wd old i) ∧
      r.toNat < 2 ^ (n * wd) ∧
      (∀ j, fl.getLsbD j = true ↔ ∃ i, i < n ∧ (t.regs.readM mk).getLsbD i = true ∧ (el i).2.getLsbD j = true) ∧
      (Gives (writeV d r) (flagged o fl) () u → exec (.vcvt dst src m sat d a mk) s = .next u.advance)

/-- R151, R159-R162: vector integers, moves and conversions. -/
def Obligations.VectorIntegers : Prop := Claim.VectorInteger ∧ Claim.VectorMoves ∧ Claim.Conversion

namespace Sys2Proof.Claim

/-- R145: node of the pairwise tree over lanes lo to lo + 2^k − 1: the rounded sum of its halves, or the one that is present. -/
def treeAt (f : FFmt) (m : Rnd) (mask : W64) (x : V512) : Nat → Nat → Option Nat × Flags
  | 0, lo => (if mask.getLsbD lo then some (lane f.width x lo) else none, 0)
  | k + 1, lo =>
    let l := treeAt f m mask x k lo
    let r := treeAt f m mask x k (lo + 2 ^ k)
    match l.1, r.1 with
    | some a, some b => (some (Fop.add f m a b).1, (Fop.add f m a b).2 ||| l.2 ||| r.2)
    | some a, none => (some a, l.2 ||| r.2)
    | none, b => (b, l.2 ||| r.2)

/-- R163: the smaller or larger of two codes of an arithmetic type; with a NaN in either the canonical NaN. -/
def extreme (op : RedOp) (t : Arith) (a b : Nat) : Nat :=
  match op, arithFmt t with
  | .min, some f => Fop.min f a b
  | .max, some f => Fop.max f a b
  | .min, none => if (BitVec.ofNat 32 b).toInt < (BitVec.ofNat 32 a).toInt then b else a
  | .max, none => if (BitVec.ofNat 32 a).toInt < (BitVec.ofNat 32 b).toInt then b else a
  | .sum, _ => a

/-- R163: the result of a reduction with no active lane. -/
def noLane (op : RedOp) (t : Arith) : Nat :=
  match op, t with
  | .sum, _ => 0
  | .min, .i32 => 0x7FFFFFFF
  | .max, .i32 => 0x80000000
  | .min, .f32 => 0x7F800000
  | .max, .f32 => 0xFF800000
  | .min, .f16 => 0x7C00
  | .max, .f16 => 0xFC00
  | .min, .bf16 => 0x7F80
  | .max, .bf16 => 0xFF80

/-- What an active lane adds to a running result (R145, R163): the next result and its flags. -/
def step1 (op : RedOp) (t : Arith) (m : Rnd) (a b : Nat) : Nat × Flags :=
  match op, arithFmt t with
  | .sum, some f => Fop.add f m a b
  | .sum, none => ((a + b) % 2 ^ 32, 0)
  | _, _ => (extreme op t a b, 0)

end Sys2Proof.Claim

/-- R145, R163: VRED: a floating sum is the root of the pairwise tree over the active lanes, with the flags of its additions, an
INT32 sum wraps, minimum and maximum run over the active lanes; with none active the result is that of the table; a floating
result goes zero-extended to G(D), an INT32 one sign-extended. VSCAN: an inactive lane keeps its source; the first active lane
of a sum is output as it stands; every other active lane adds its lane to the output of the active lane before it, and the
flags are those of these additions. -/
def Obligations.Reductions : Prop :=
  (∀ (s t u : State) (p : Pops) (op : RedOp) (ty : Arith) (d a : Reg) (mk : Fin 8) (x : V512), NotOnHart s →
    Reads [okG d, okV a] [a] (some d) s p t → V p a t x →
    let mask := t.regs.readM mk
    let acts := (List.range (512 / arithW ty)).filter (fun i => mask.getLsbD i)
    let put (r : Nat) : W64 := if ty = .i32 then (BitVec.ofNat 32 r).signExtend 64 else BitVec.ofNat 64 r
    (∀ f, arithFmt ty = some f → op = .sum →
      let r := treeAt f t.regs.rm mask x (if f.width = 32 then 4 else 5) 0
      Gives (writeG d (put (r.1.getD 0))) (flagged t r.2) () u → exec (.vred op ty d a mk) s = .next u.advance) ∧
    (ty = .i32 ∨ op ≠ .sum →
      Gives (writeG d (put (acts.foldl (fun r i => (step1 op ty t.regs.rm r (lane (arithW ty) x i)).1) (noLane op ty))))
        (flagged t 0) () u → exec (.vred op ty d a mk) s = .next u.advance)) ∧
  (∀ (s t u : State) (p : Pops) (op : RedOp) (ty : Arith) (d a : Reg) (mk : Fin 8) (x : V512), NotOnHart s →
    Reads [okV d, okV a] [a] (some d) s p t → V p a t x →
    let mask := t.regs.readM mk
    let w := arithW ty
    ∃ (r : V512) (fl : Flags),
      (∀ i, i < 512 / w → mask.getLsbD i = false → lane w r i = lane w x i) ∧
      (∀ i, i < 512 / w → mask.getLsbD i = true → (∀ j, j < i → mask.getLsbD j = false) →
        lane w r i = if op = .sum then lane w x i else (step1 op ty t.regs.rm (noLane op ty) (lane w x i)).1 % 2 ^ w) ∧
      (∀ i j, i < j → j < 512 / w → mask.getLsbD i = true → mask.getLsbD j = true →
        (∀ k, i < k → k < j → mask.getLsbD k = false) →
        lane w r j = (step1 op ty t.regs.rm (lane w r i) (lane w x j)).1 % 2 ^ w) ∧
      (op ≠ .sum ∨ ty = .i32 → fl = 0) ∧
      (op = .sum → ∀ k : Nat, fl.getLsbD k = true ↔ ∃ i j, i < j ∧ j < 512 / w ∧ mask.getLsbD i = true ∧ mask.getLsbD j = true ∧
        (∀ m, i < m → m < j → mask.getLsbD m = false) ∧
        (step1 op ty t.regs.rm (lane w r i) (lane w x j)).2.getLsbD k = true) ∧
      (Gives (writeV d r) (flagged t fl) () u → exec (.vscan op ty d a mk) s = .next u.advance))

/-- R164: the mask group, with its words, works on all 64 bits: MAND, MOR, MXOR and MNOT into M(D), MPOP the number of set bits, MFIRST the lowest
set bit or 64, MSET from G(S1), MGET to G(D); a field that names the wrong file raises illegal-operand; m0 reads all ones and a
write to it is discarded. -/
def Obligations.MaskGroup : Prop :=
  (∀ d a b : Reg, encode (.mand d a b) = wordHC 0x66 0 d.enc a.enc b.enc 0 ∧ encode (.mor d a b) = wordHC 0x66 1 d.enc a.enc b.enc 0 ∧
    encode (.mxor d a b) = wordHC 0x66 2 d.enc a.enc b.enc 0 ∧ encode (.mnot d a) = wordHC 0x66 3 d.enc a.enc 0 0 ∧
    encode (.mpop d a) = wordHC 0x66 4 d.enc a.enc 0 0 ∧ encode (.mfirst d a) = wordHC 0x66 5 d.enc a.enc 0 0 ∧
    encode (.mset d a) = wordHC 0x66 6 d.enc a.enc 0 0 ∧ encode (.mget d a) = wordHC 0x66 7 d.enc a.enc 0 0) ∧
  (∀ e : Enc, (headMajor e.head).toNat = 0x66 → (8 ≤ e.t2.toNat / 8 % 64 ∨ e.t1.toNat % 4 ≠ 0 ∨ e.t2.toNat % 8 ≠ 0 ∨
    512 ≤ e.t2.toNat) →
    IllegalHead e) ∧
  (∀ (s u : State) (d a b : Reg) (x y : W64), (∀ f ∈ [okM d, okM a, okM b], f s = .ok () s) → MK a s x → MK b s y →
    (Gives (writeM d (x &&& y)) s () u → exec (.mand d a b) s = .next u.advance) ∧
    (Gives (writeM d (x ||| y)) s () u → exec (.mor d a b) s = .next u.advance) ∧
    (Gives (writeM d (x ^^^ y)) s () u → exec (.mxor d a b) s = .next u.advance) ∧
    (Gives (writeM d (~~~ x)) s () u → exec (.mnot d a) s = .next u.advance)) ∧
  (∀ (s t u : State) (p : Pops) (d a : Reg) (x : W64), Reads [okG d, okM a] [] (some d) s p t → MK a t x →
    (Gives (writeG d (BitVec.ofNat 64 ((List.range 64).filter (fun i => x.getLsbD i)).length)) t () u →
      exec (.mpop d a) s = .next u.advance) ∧
    (Gives (writeG d (BitVec.ofNat 64 (((List.range 64).find? (fun i => x.getLsbD i)).getD 64))) t () u →
      exec (.mfirst d a) s = .next u.advance) ∧
    (Gives (writeG d x) t () u → exec (.mget d a) s = .next u.advance)) ∧
  (∀ (s t u : State) (p : Pops) (d a : Reg) (x : W64), Reads [okM d, okG a] [a] none s p t → G p a t x →
    Gives (writeM d x) t () u → exec (.mset d a) s = .next u.advance) ∧
  (∀ (s : State) (d a b : Reg), TrapReady s →
    let no (r : Reg) : Prop := ∀ n, r ≠ .m n
    let noG (r : Reg) : Prop := (∃ n, r = .v n) ∨ ∃ n, r = .m n
    let t (i : Instr) : Prop := Traps i s s Cause.illegalOperand (encVal s.cur.enc)
    (no d ∨ no a ∨ no b → t (.mand d a b) ∧ t (.mor d a b) ∧ t (.mxor d a b)) ∧ (no d ∨ no a → t (.mnot d a)) ∧
    (noG d ∨ no a → t (.mpop d a) ∧ t (.mfirst d a) ∧ t (.mget d a)) ∧ (no d ∨ noG a → t (.mset d a))) ∧
  (∀ (s : State) (n : Fin 8) (x : W64),
    MK (.m n) s (if n = 0 then BitVec.allOnes 64 else s.regs.m[n]) ∧
    ∃ t, Gives (writeM (.m n) x) s () t ∧ ∀ j : Fin 8, t.regs.m[j] = if j = n ∧ n ≠ 0 then x else s.regs.m[j])

/-- R62, R144, R151: what the vector instructions leave: every register but the destination and the queues they pop, every
special register, every byte of memory, every bit of FPST but the flags, and every flag already set. -/
def Obligations.VectorFrame : Prop :=
  let keeps (s v : State) (d : Reg) (l : List Reg) : Prop :=
    Kept s v (d :: l.filter isQ) ∧ v.regs.pc = s.cur.next ∧ v.regs.fpst >>> 8 = s.regs.fpst >>> 8 ∧
      s.regs.fpst &&& v.regs.fpst = s.regs.fpst
  (∀ e ∈ floatOne, ∀ (s v : State) (f : FltTy) (d a : Reg) (mk : Fin 8), NotQ d →
    (∃ p t, Reads [okV d, okV a] [a] (some d) s p t) → NotOnHart s → exec (e.1 f d a mk) s = .next v → keeps s v d [a]) ∧
  (∀ e ∈ floatTwo, ∀ (s v : State) (f : FltTy) (d a b : Reg) (mk : Fin 8), NotQ d →
    (∃ p t, Reads [okV d, okV a, okV b] [a, b] (some d) s p t) → NotOnHart s → exec (e.1 f d a b mk) s = .next v →
    keeps s v d [a, b]) ∧
  (∀ e ∈ intTwo, ∀ (s v : State) (z : Width) (d a b : Reg) (mk : Fin 8), NotQ d →
    (∃ p t, Reads [okV d, okV a, okV b] [a, b] (some d) s p t) → NotOnHart s → exec (e.1 z d a b mk) s = .next v →
    keeps s v d [a, b] ∧ v.regs.fpst = s.regs.fpst) ∧
  (∀ (s v : State) (z : Width) (d a b : Reg) (mk : Fin 8), NotQ d →
    (∃ p t, Reads [okV d, okV a, okV b] [a, b] (some d) s p t) → exec (.vperm z d a b mk) s = .next v →
    keeps s v d [a, b] ∧ v.regs.fpst = s.regs.fpst) ∧
  (∀ (s v : State) (c1 c2 : CvtTy) (m : Option Rnd) (sat : Bool) (d a : Reg) (mk : Fin 8), NotQ d →
    (∃ p t, Reads [okV d, okV a] [a] (some d) s p t) → NotOnHart s → exec (.vcvt c1 c2 m sat d a mk) s = .next v →
    keeps s v d [a]) ∧
  (∀ (s v : State) (d : Reg),
    let frame (i : Instr) (fields : List (M Unit)) (l : List Reg) (dst : Option Reg) : Prop :=
      (∃ p t, Reads fields l dst s p t) → exec i s = .next v → keeps s v d l
    let still (i : Instr) (fields : List (M Unit)) (l : List Reg) (dst : Option Reg) : Prop :=
      (∃ p t, Reads fields l dst s p t) → exec i s = .next v → keeps s v d l ∧ v.regs.fpst = s.regs.fpst
    NotQ d → ∀ (f : FltTy) (z : Width) (a b c : Reg) (mk : Fin 8),
    (NotOnHart s →
      frame (.vfma f d a b c mk) [okV d, okV a, okV b, okV c] [a, b, c] (some d) ∧
      frame (.vfms f d a b c mk) [okV d, okV a, okV b, okV c] [a, b, c] (some d) ∧
      (∀ x : FCond, frame (.vcmp f x d a b mk) [okM d, okV a, okV b] [a, b] none) ∧
      (∀ x : ICond, still (.vicmp z x d a b mk) [okM d, okV a, okV b] [a, b] none) ∧
      still (.vsel f d a b mk) [okV d, okV a, okV b] [a, b] (some d) ∧
      (∀ (op : RedOp) (t : Arith), frame (.vred op t d a mk) [okG d, okV a] [a] (some d) ∧
        frame (.vscan op t d a mk) [okV d, okV a] [a] (some d))) ∧
    still (.vbcast z d a mk) [okV d, okG a] [a] (some d) ∧ still (.vidx z d mk) [okV d] [] (some d) ∧
    still (.vmov z d a mk) [okV d, okV a] [a] (some d) ∧ still (.vslide z d a b mk) [okV d, okV a, okG b] [a, b] (some d) ∧
    still (.vcomp z d a mk) [okV d, okV a] [a] (some d) ∧ still (.vexpnd z d a mk) [okV d, okV a] [a] (some d) ∧
    still (.vextr z d a b) [okG d, okV a, okG b] [a, b] (some d) ∧
    (∀ n, d = .v n → still (.vins z d a b) [okG a, okG b] [a, b] none) ∧
    still (.mand d a b) [okM d, okM a, okM b] [] none ∧ still (.mor d a b) [okM d, okM a, okM b] [] none ∧
    still (.mxor d a b) [okM d, okM a, okM b] [] none ∧ still (.mnot d a) [okM d, okM a] [] none ∧
    still (.mpop d a) [okG d, okM a] [] (some d) ∧ still (.mfirst d a) [okG d, okM a] [] (some d) ∧
    still (.mget d a) [okG d, okM a] [] (some d) ∧ still (.mset d a) [okM d, okG a] [a] none)

/-! Positions, attention and selection. -/

/-- R283: POSADD adds the signed low word of G(S2) to the low word of G(S1), stopping at 0xFFFF_FFFF and at 0 with POSOV set,
and ignores bits [63:32] of both. -/
def Obligations.PositionAdd : Prop :=
  (∀ d a b : Reg, encode (.posadd d a b) = wordHA 0x6B d.enc a.enc b.enc) ∧
  ∀ (s t u : State) (p : Pops) (d a b : Reg) (x y : W64), NotOnHart s → Reads [okG d, okG a, okG b] [a, b] (some d) s p t →
    G p a t x → G p b t y →
    let r : Int := ((x.toNat % 2 ^ 32 : Nat) : Int) + (y.setWidth 32).toInt
    (0 ≤ r ∧ r ≤ 0xFFFFFFFF → Gives (writeG d (BitVec.ofInt 64 r)) t () u → exec (.posadd d a b) s = .next u.advance) ∧
    (0xFFFFFFFF < r → Gives (writeG d 0xFFFFFFFF) (flagged t 0x40) () u → exec (.posadd d a b) s = .next u.advance) ∧
    (r < 0 → Gives (writeG d 0) (flagged t 0x40) () u → exec (.posadd d a b) s = .next u.advance)

/-- R284, R285: VROPE turns each pair of lanes by the phase of its table word; a phase of zero leaves the pair bit for bit, a
NaN in either lane gives the canonical NaN in both; elsewhere the lanes are x·c − y·s and x·s + y·c rounded once, with cosine
and sine rounded in RNE (log 12). -/
def Sys2Proof.Claim.Rotation : Prop :=
  ∀ (s t v u : State) (p : Pops) (d a b c : Reg) (x : V512) (y tab : W64) (l : List Byte), NotOnHart s →
    Reads [okV d, okV a, okG b, okG c] [a, b, c] (some d) s p t → V p a t x → G p b t y → G p c t tab → bit tab 63 = false →
    tab.toNat + 32 ≤ tcmSize t.cur.core → tab.toNat % 4 = 0 → Gives (memLoad tab 32) t l v →
    let f := FFmt.fp32
    let ph (i : Nat) : Nat := (y.toNat % 2 ^ 32) * bytesNat ((l.drop (4 * i)).take 4) % 2 ^ 32
    let nan (i : Nat) : Prop := (f.decode (lane 32 x (2 * i))).isNan = true ∨ (f.decode (lane 32 x (2 * i + 1))).isNan = true
    let cs (i : Nat) : Val := f.decode (trigTo false (ph i)).1
    let sn (i : Nat) : Val := f.decode (trigTo true (ph i)).1
    ∃ (r : V512) (fl : Flags),
      (∀ i, i < 8 → nan i → lane 32 r (2 * i) = f.nanCode ∧ lane 32 r (2 * i + 1) = f.nanCode) ∧
      (∀ i, i < 8 → ¬ nan i → ph i = 0 → lane 32 r (2 * i) = lane 32 x (2 * i) ∧ lane 32 r (2 * i + 1) = lane 32 x (2 * i + 1)) ∧
      (∀ i, i < 8 → ¬ nan i → ph i ≠ 0 →
        lane 32 r (2 * i) = (fused t.regs.rm (f.decode (lane 32 x (2 * i))) (cs i) (f.decode (lane 32 x (2 * i + 1))) (sn i).neg).1 % 2 ^ 32 ∧
        lane 32 r (2 * i + 1) = (fused t.regs.rm (f.decode (lane 32 x (2 * i))) (sn i) (f.decode (lane 32 x (2 * i + 1))) (cs i)).1 % 2 ^ 32) ∧
      ((∀ i, i < 8 → nan i ∨ ph i = 0) → fl = 0) ∧
      (Gives (writeV d r) (flagged v fl) () u → exec (.vrope d a b c) s = .next u.advance)

namespace Sys2Proof.Claim

/-- R287: x × a + y × b, rounded once into FP32: the flags are those of both products, of the sum and of the rounding. -/
def twoTerms (m : Rnd) (x a y b : Val) : Nat × Flags :=
  let p := Val.mul x a
  let q := Val.mul y b
  let r := Fop.out FFmt.fp32 m (Val.add m p.1 q.1)
  (r.1, p.2 ||| q.2 ||| r.2)

end Sys2Proof.Claim

/-- R286, R287: VSMAX: the new maximum, sum and accumulator lanes of the table, lanes 2 to 15 of the state kept; D equal to S1
raises illegal-operand. The finite row and that of two +∞ are written out, the powers of two by log 12. -/
def Sys2Proof.Claim.SoftmaxStep : Prop :=
  (∀ (s t : State) (p : Pops) (d a : Fin 32) (b c : Reg) (v : V512) (g : W64), NotOnHart s → d ≠ a →
    Reads [okV b, okG c] [b, c] none s p t → V p b t v → G p c t g →
    ∃ (r st : V512) (o : Smax),
      o = softmax t.regs.rm (g.toNat % 2 ^ 32) (lane 32 (t.regs.readV a) 0) (lane 32 (t.regs.readV a) 1)
        (lanes 32 (t.regs.readV d)) (lanes 32 v) ∧
      Lanes 32 r (fun i => o.acc.getD i 0) ∧
      Lanes 32 st (fun i => if i = 0 then o.m else if i = 1 then o.l else lane 32 (t.regs.readV a) i) ∧
      exec (.vsmax (.v d) (.v a) b c) s = .next (((flagged t o.flags).modRegs (fun x => x.writeV d r)).modRegs
        (fun x => x.writeV a st)).advance) ∧
  (∀ (s : State) (d : Fin 32) (b c : Reg), NotOnHart s → okV b s = .ok () s → okG c s = .ok () s → TrapReady s →
    Traps (.vsmax (.v d) (.v d) b c) s s Cause.illegalOperand (encVal s.cur.enc)) ∧
  (∀ (m : Rnd) (sc mx l : Nat) (acc v : List Nat),
    let f := FFmt.fp32
    let o := softmax m sc mx l acc v
    let nan := f.nanCode
    let copy := v.map (fun x => if (f.decode x).isNan then nan else x)
    (f.decode sc = .nan → o.m = nan ∧ o.l = nan ∧ o.acc = v.map (fun _ => nan) ∧ o.flags = Fl.nv) ∧
    (f.decode sc ≠ .nan → f.decode mx = .nan → o.m = nan ∧ o.l = nan ∧ o.acc = v.map (fun _ => nan) ∧ o.flags = 0) ∧
    (f.decode sc = .inf true → f.decode mx ≠ .nan → o.m = mx ∧ o.l = l ∧ o.acc = acc ∧ o.flags = 0) ∧
    ((f.decode sc).isNan = false → (f.decode sc).isInf = false → f.decode mx = .inf true →
      o.m = sc ∧ o.l = 0x3F800000 ∧ o.acc = copy ∧ o.flags = 0) ∧
    ((f.decode sc).isNan = false → (f.decode sc).isInf = false → f.decode mx = .inf false →
      o.m = 0x7F800000 ∧ o.l = l ∧ o.acc = acc ∧ o.flags = 0) ∧
    (f.decode sc = .inf false → f.decode mx ≠ .nan → f.decode mx ≠ .inf false →
      o.m = 0x7F800000 ∧ o.l = 0x3F800000 ∧ o.acc = copy ∧ o.flags = 0) ∧
    (f.decode sc = .inf false → f.decode mx = .inf false → acc.length = v.length →
      let sum (x y : Val) : Nat × Flags := Fop.out f m (Val.add m x y)
      let lane1 := sum (f.decode l) (.fin false 1 0)
      let turn (i : Nat) : Nat × Flags := sum (f.decode (acc.getD i 0)) (f.decode (v.getD i 0))
      o.m = 0x7F800000 ∧ o.l = lane1.1 ∧ o.acc.length = v.length ∧ (∀ i, i < v.length → o.acc.getD i 0 = (turn i).1) ∧
      ∀ j, o.flags.getLsbD j = true ↔ lane1.2.getLsbD j = true ∨ ∃ i, i < v.length ∧ (turn i).2.getLsbD j = true) ∧
    ((f.decode sc).isNan = false → (f.decode sc).isInf = false → (f.decode mx).isNan = false → (f.decode mx).isInf = false →
      acc.length = v.length →
      let new := if Val.below (f.decode mx) (f.decode sc) then sc else mx
      let power (x : Nat) : Nat × Flags := exp2To f .rne (Val.add .rne (f.decode x) (f.decode new).neg).1
      let scale := power mx
      let w := power sc
      let blend (x y : Val) : Nat × Flags := twoTerms m x (f.decode scale.1) (f.decode w.1) y
      let lane1 := blend (f.decode l) (.fin false 1 0)
      let turn (i : Nat) : Nat × Flags := blend (f.decode (acc.getD i 0)) (f.decode (v.getD i 0))
      o.m = new ∧ o.l = lane1.1 ∧ o.acc.length = v.length ∧ (∀ i, i < v.length → o.acc.getD i 0 = (turn i).1) ∧
      ∀ j, o.flags.getLsbD j = true ↔ scale.2.getLsbD j = true ∨ w.2.getLsbD j = true ∨ lane1.2.getLsbD j = true ∨
        ∃ i, i < v.length ∧ (turn i).2.getLsbD j = true))

/-- R284-R287: VROPE and VSMAX. -/
def Obligations.AttentionSteps : Prop := Claim.Rotation ∧ Claim.SoftmaxStep

/-- R293-R295: VTHRC compacts the candidate lanes above the threshold and pushes their indices, base added, one entry for FP32
and two for a 16-bit format; VARGMX gives the lowest lane of the largest value, and the value; TKMERGE writes the merged list
of two, sorted and without repeats, and its length. A NaN that takes part sets NV. -/
def Obligations.Selection : Prop :=
  (∀ (s t o : State) (p : Pops) (ft : FltTy) (d a b : Reg) (j : Fin 16) (mk : Fin 8) (x : V512) (g : W64), NotOnHart s →
    takesPush (s.regs.q[j]).kind = true → Reads [okV d, okV a, okG b] [a, b] (some d) s p t → V p a t x → G p b t g →
    let f := fltFmt ft
    let w := f.width
    let thr := f.decode (g.toNat % 2 ^ w)
    let cand := (List.range (512 / w)).filter (fun i => (t.regs.readM mk).getLsbD i)
    let sel := cand.filter (fun i => Val.lt thr (f.decode (lane w x i)))
    let idx (i : Nat) : Nat := match sel[i]? with | some k => (g.toNat / 2 ^ 32 + k) % 2 ^ 32 | none => 0
    let nv : Flags := if thr.isNan ∨ ∃ i ∈ cand, (f.decode (lane w x i)).isNan = true then Fl.nv else 0
    ∃ r e1 e2 : V512, Lanes w r (fun i => match sel[i]? with | some k => lane w x k | none => f.nanCode) ∧
      Lanes 32 e1 idx ∧ Lanes 32 e2 (fun i => idx (16 + i)) ∧
      (∀ u v, Gives (writeV d r) (flagged t nv) () u → Gives (pushQ j e1) u () v →
        (w = 32 → exec (.vthrc ft d a b (.q j) mk) s = .next v.advance) ∧
        (w = 16 → Gives (pushQ j e2) v () o → exec (.vthrc ft d a b (.q j) mk) s = .next o.advance))) ∧
  (∀ (s t u : State) (p : Pops) (ft : FltTy) (d a : Reg) (x : V512), NotOnHart s → Reads [okG d, okV a] [a] (some d) s p t →
    V p a t x →
    let f := fltFmt ft
    let w := f.width
    let el (i : Nat) : Val := f.decode (lane w x i)
    let nv : Flags := if ∃ i, i < 512 / w ∧ (el i).isNan = true then Fl.nv else 0
    ∃ i c, (if ∀ i, i < 512 / w → (el i).isNan = true then i = 0 ∧ c = f.nanCode
        else i < 512 / w ∧ c = lane w x i ∧ (el i).isNan = false ∧
          ∀ j, j < 512 / w → (el j).isNan = false → Val.below (el i) (el j) = false ∧ (j < i → Val.below (el j) (el i) = true)) ∧
      (Gives (writeG d (BitVec.ofNat 64 (i + c * 2 ^ 32))) (flagged t nv) () u → exec (.vargmx ft d a) s = .next u.advance)) ∧
  (∀ (s u : State) (d : Reg) (n a b : Fin 32), NotOnHart s → Reads [okG d] [] (some d) s [] s → n.val % 2 = 0 → a.val % 2 = 0 →
    b.val % 2 = 0 →
    let pairs (k : Fin 32) : List (Nat × Nat) := ((lanes 32 (s.regs.readV k)).zip (lanes 32 (s.regs.readV (k + 1)))).filter
      (fun e => e.2 ≠ 0xFFFFFFFF)
    let all := pairs a ++ pairs b
    let r := (tkMerge all).take 16
    let nv : Flags := if ∃ e ∈ all, (FFmt.fp32.decode e.1).isNan = true then Fl.nv else 0
    ∃ x y : V512, Lanes 32 x (fun i => (r.getD i (0xFF800000, 0xFFFFFFFF)).1) ∧
      Lanes 32 y (fun i => (r.getD i (0xFF800000, 0xFFFFFFFF)).2) ∧
      (Gives (writeG d (BitVec.ofNat 64 r.length)) (((flagged s nv).modRegs (fun v => v.writeV n x)).modRegs
        (fun v => v.writeV (n + 1) y)) () u → exec (.tkmerge d (.v n) (.v a) (.v b)) s = .next u.advance)) ∧
  (∀ l : List (Nat × Nat),
    (∀ e ∈ tkMerge l, e ∈ l ∧ (FFmt.fp32.decode e.1).isNan = false) ∧
    ((tkMerge l).map (·.2)).Nodup ∧
    (∀ e ∈ l, (FFmt.fp32.decode e.1).isNan = false → ∃ f ∈ tkMerge l, f.2 = e.2 ∧
      Val.below (FFmt.fp32.decode f.1) (FFmt.fp32.decode e.1) = false) ∧
    (tkMerge l).Pairwise (fun e f => Val.below (FFmt.fp32.decode e.1) (FFmt.fp32.decode f.1) = false ∧
      (Val.below (FFmt.fp32.decode f.1) (FFmt.fp32.decode e.1) = false → e.2 < f.2)))

/-! The matrix unit, as its instructions see it. -/

/-- R250, R251, R260, R263, R272: an accepted MMA or MMAS takes the activation's next command number and joins the core's queue
with its fields and sampled registers; with 16 commands in the queue it waits; with a place free and MFRX.VALID set, as the
matrix unit has it from the last commit (R95), it completes at once as cancelled, counted in CANCEL. -/
def Sys2Proof.Claim.MatrixIssue : Prop :=
  ∀ (s : State) (c : MCmd) (a : Act) (ch : Chunk), s.me.act = some a → s.me.chunk = some ch →
    (16 ≤ (s.core s.cur.core).mq.length → issue c s = .error .hold s) ∧
    (bit s.me.oldest.mfrx 63 = false → (s.core s.cur.core).mq.length < 16 →
      ∃ t, Gives (issue c) s () t ∧ t.regs.pc = s.cur.next ∧ Kept s t [] ∧ t.regs.fpst = s.regs.fpst ∧
        (t.core s.cur.core).mq = (s.core s.cur.core).mq ++ [{ c with num := a.nextCmd, act := a.id }] ∧
        t.me.act = some { a with nextCmd := a.nextCmd + 1, issuedMatrix := true, executed := a.executed + 1 } ∧
        ∃ ch', t.me.chunk = some ch' ∧ ch'.issued = ch.issued ++ [a.nextCmd] ∧ ch'.matched = ch.matched + 1) ∧
    (bit s.me.oldest.mfrx 63 = true → (s.core s.cur.core).mq.length < 16 →
      ∃ t, Gives (issue c) s () t ∧ t.regs.pc = s.cur.next ∧ (t.core s.cur.core).mq = (s.core s.cur.core).mq ∧ t.mem = s.mem ∧
        fld t.regs.mfrx 48 8 = min (fld s.regs.mfrx 48 8 + 1) 255)

/-- R251, R257, R259, R260, R265, R266: MMA and MMAS of a chunk that executes again, with a command of an earlier attempt left to
match, pop their q operands, match it and complete at once. Otherwise MMA whose shape has a zero dimension issues a no-op; and, with formats that pair, flat
aligned handles and a target that fits, it issues the command of its fields. MMSYNC goes on once at most IMM16 commands are
outstanding, and moves MSTAT's flags into FPST; MQSTAT gives OUT, FREE, the committed MWGT and FAULT. In a service slot MMA, MMAS and SPDEC
raise illegal-operand before any other check. -/
def Sys2Proof.Claim.MatrixInstructions : Prop :=
  (∀ (s t : State) (p : Pops) (d a b c : Reg) (ch : Chunk), Id.kind s.cur.core = 0 → slotClass s.cur.slot ≠ 1 →
    s.me.chunk = some ch → ch.matched < ch.issued.length → Reads [okG d, okG a, okG b, okG c] [d, a, b, c] none s p t →
    exec (.mma d a b c) s = .next (t.modChunk (fun ch => { ch with matched := ch.matched + 1 })).advance ∧
    exec (.mmas d a b c) s = .next (t.modChunk (fun ch => { ch with matched := ch.matched + 1 })).advance) ∧
  (∀ (s t u : State) (p : Pops) (d a b c : Reg) (x tg ha hb : W64) (m n k : Nat), Id.kind s.cur.core = 0 →
    slotClass s.cur.slot ≠ 1 → (∀ ch, s.me.chunk = some ch → ch.issued.length ≤ ch.matched) → Reads [okG d, okG a, okG b, okG c] [d, a, b, c] none s p t → G p d t x → G p a t tg → G p b t ha →
    G p c t hb → shapeOf x = some (m, n, k) →
    ((m = 0 ∨ n = 0 ∨ k = 0) → Gives (issue (MCmd.blank t)) t () u → exec (.mma d a b c) s = .next u) ∧
    (m ≠ 0 → n ≠ 0 → k ≠ 0 →
      let fa := fmtCode t.regs.fmta
      let fb := fmtCode t.regs.fmtb
      fmtKnown fa = true → fmtKnown fb = true → fmtPair fa fb = true → kOk fa fb k = true → pitchOk t.regs.fmta k = true →
      pitchOk t.regs.fmtb k = true → t.targetFits tg = true → ha.toNat < 2 ^ 57 → hb.toNat < 2 ^ 57 → ha.toNat % 32 = 0 →
      hb.toNat % 32 = 0 → (fa = 19 → t.regs.scla.toNat % 4 = 0) → (fb = 19 → t.regs.sclb.toNat % 4 = 0) →
      Gives (issue { MCmd.blank t with
        m := m, n := n, k := k, fa := t.regs.fmta, fb := t.regs.fmtb, sa := t.regs.scla, sb := t.regs.sclb, target := tg,
        a := ha, b := hb }) t () u → exec (.mma d a b c) s = .next u)) ∧
  (∀ (s : State) (i : Half), Id.kind s.cur.core = 0 →
    (s.outstanding s.cur.core s.cur.slot ≤ i.toNat →
      exec (.mmsync i) s = .next (s.modRegs (fun r =>
        { r with fpst := r.fpst ||| (r.mstat &&& 0x3F), mstat := r.mstat &&& ~~~ 0x3F })).advance) ∧
    (i.toNat < s.outstanding s.cur.core s.cur.slot → exec (.mmsync i) s = .next s)) ∧
  (∀ (s u : State) (d : Reg), Id.kind s.cur.core = 0 → Reads [okG d] [] (some d) s [] s →
    let w := fld (s.core s.cur.core).mwgt 0 4
    Gives (writeG d (BitVec.ofNat 64 (s.outstanding s.cur.core s.cur.slot + 256 * (16 - (s.core s.cur.core).mq.length) +
      2 ^ 16 * w + (if bit s.regs.mfrx 63 then 2 ^ 32 else 0)))) s () u → exec (.mqstat d) s = .next u.advance) ∧
  (∀ (s : State) (d a b c : Reg) (pt : SpPat), Id.kind s.cur.core = 0 → slotClass s.cur.slot = 1 → TrapReady s →
    Traps (.mma d a b c) s s Cause.illegalOperand (encVal s.cur.enc) ∧
    Traps (.mmas d a b c) s s Cause.illegalOperand (encVal s.cur.enc) ∧
    Traps (.spdec pt d a b c) s s Cause.illegalOperand (encVal s.cur.enc))

/-- R267-R271: MMAS, its record's header read and accepted, issues a command with the header's T, PATTERN and NRES; SPDEC stores
the record it forms from the panel's elements, gives header dword 0 in G(D), and where the residual is dropped records DSUM in
MDROP and sets MSTAT.DROP. -/
def Sys2Proof.Claim.StructuredMatrix : Prop :=
  (∀ (s t u v : State) (p : Pops) (d a b c : Reg) (x tg ha hb : W64) (m n k : Nat) (hd : List Byte), Id.kind s.cur.core = 0 →
    slotClass s.cur.slot ≠ 1 → (∀ ch, s.me.chunk = some ch → ch.issued.length ≤ ch.matched) → Reads [okG d, okG a, okG b, okG c] [d, a, b, c] none s p t → G p d t x → G p a t tg → G p b t ha →
    G p c t hb → shapeOf x = some (m, n, k) →
    ((m = 0 ∨ n = 0 ∨ k = 0) → Gives (issue (MCmd.blank t)) t () u → exec (.mmas d a b c) s = .next u) ∧
    (m ≠ 0 → n ≠ 0 → k ≠ 0 →
      let fa := fmtCode t.regs.fmta
      let fb := fmtCode t.regs.fmtb
      let h := dwordAt hd 0
      1 ≤ fa → fa ≤ 4 → fmtKnown fb = true → fmtPair fa fb = true → kOk fa fb k = true → pitchOk t.regs.fmtb k = true →
      t.targetFits tg = true → ha.toNat < 2 ^ 57 → hb.toNat < 2 ^ 57 → ha.toNat % 64 = 0 → hb.toNat % 32 = 0 →
      (fb = 19 → t.regs.sclb.toNat % 4 = 0) → Gives (memLoad ha 16) t hd v → headerOk h = true → fld h 16 11 = k →
      fld h 8 4 * Rec.size (fld h 0 2) k (elemBits fa / 8) + 8 * fld h 32 16 ≤ 4032 →
      Gives (issue { MCmd.blank t with
        structured := true, m := m, n := n, k := k, fa := t.regs.fmta, fb := t.regs.fmtb, sa := t.regs.scla, sb := t.regs.sclb,
        target := tg, a := ha, b := hb, terms := fld h 8 4, pat := fld h 0 2, nres := fld h 32 16 }) v () u →
      exec (.mmas d a b c) s = .next u)) ∧
  (∀ (s t u v w z : State) (p : Pops) (pt : SpPat) (d a b c : Reg) (ha hr x : W64) (f : FFmt) (rows : List (List Byte))
      (parts : List Part), Id.kind s.cur.core = 0 → slotClass s.cur.slot ≠ 1 →
    Reads [okG d, okG a, okG b, okG c] [a, b, c] (some d) s p t → G p a t ha → G p b t hr → G p c t x →
    let code := fmtCode t.regs.fmta
    let k := fld x 4 11
    let eb := elemBits code / 8
    let pitch := fmtPitch t.regs.fmta
    fld x 15 17 = 0 → 1 ≤ k → k ≤ 1024 → k % (Rec.nm (patCode pt)).2 = 0 → 1 ≤ code → code ≤ 4 → k * eb ≤ pitch →
    bit ha 63 = false → bit hr 63 = false → ha.toNat % eb = 0 → hr.toNat % 64 = 0 → mxElem code = some f →
    Gives ((List.range 16).mapM (fun i => memSpan (ha + BitVec.ofNat 64 (i * pitch)) (k * eb) (k * eb))) t rows u →
    let o := Spdec.run f (patCode pt) (fld x 0 4) k (fld x 32 32) (fun i j => bytesNat (((rows.getD i []).drop (j * eb)).take eb))
    o.bytes.length ≤ 4096 →
    Gives (recordParts hr o.bytes (List.range ((o.bytes.length + 63) / 64))) u parts v →
    StoreRoom v { oneStore v 5 0 2 parts with pc := t.regs.pc } →
    Gives (writeG d o.header) (buffered v { oneStore v 5 0 2 parts with pc := t.regs.pc }) () w →
    z = (if o.drop then w.modRegs (fun r => { r with mdrop := BitVec.ofNat 64 o.dsum, mstat := r.mstat ||| 0x100 }) else w) →
    exec (.spdec pt d a b c) s = .next z.advance)

/-- R250, R251, R257, R259, R260, R263, R265-R272: the matrix instructions. -/
def Obligations.MatrixGroup : Prop := Claim.MatrixIssue ∧ Claim.MatrixInstructions ∧ Claim.StructuredMatrix

/-! Commits, boundaries and the ends of waits. -/

namespace Sys2Proof.Claim

/-- What a commit of buffered items does to memory (R230): program order, the last byte written stands, and no other byte
changes. Of the parts of a store, none crosses a line; those to host and peer memory left when they were checked (R236). -/
def MemoryOf (l : List Store) (s t : State) : Prop :=
  (∀ a, ¬ Written l a → Memory.read t.mem a = Memory.read s.mem a) ∧
  ((∀ st ∈ l, st.adds = none ∧ ∀ p ∈ st.parts, p.fail = 0 ∧ ∀ k, p.key = some k → k % 64 + p.bytes.length ≤ 64) →
    ∀ a, Memory.read t.mem a = (storesByte l a none).getD (Memory.read s.mem a))

/-- No slot but the one that commits holds a chunk that read a line of these (R231). -/
def NobodyRead (s : State) (lines : List Nat) : Prop :=
  ∀ c i, (c, i) ≠ (s.cur.core, s.cur.slot) → (s.slot c i).hitBy lines = (false, false)

/-- CHUNK_COMMIT at a slot whose chunk is at its end: all its stores reach memory at once, and nothing else does; with nothing
but stores in it, and nobody who read their lines, the slot goes on with its registers; a chunk that is not ripe waits. A priority
request withholds the commits of younger chunks that write what its last attempt read (R232; which tasks ask for one, log 72),
and that of a chunk which trap entry ended stands until it commits, beside that of the handler's chunk. After CHKPT's commit the next chunk is set apart (R234).
ENDA's commit sends the held messages and the pending faults, reports the tile of ENDA.T, and frees the slot with its queues and
watch entries (R83, R325). -/
def Commits : Prop :=
  (∀ (s : State) (ch : Chunk) (a : After), Memory.wf s.mem = true → s.me.ended = none → s.me.phase = .commit a → Free s →
    s.me.chunk = some ch →
    (Ripe s ch → ∃ t, exec .chunkCommit s = .next t ∧ MemoryOf ch.stores s t) ∧
    (¬ Ripe s ch → exec .chunkCommit s = .next s)) ∧
  (∀ (s : State) (ch : Chunk), s.me.ended = none → s.me.phase = .commit .go → Free s → s.me.chunk = some ch → Ripe s ch →
    ch.acts = [] → NobodyRead s ch.written →
    ∃ t, exec .chunkCommit s = .next t ∧ t.me.phase = .run ∧ t.me.chunk = none ∧ t.regs = s.regs ∧
      t.me.act = s.me.act.map (fun y => { y with restartable := false }) ∧ t.net = s.net) ∧
  (∀ (s : State) (ch : Chunk), s.me.ended = none → s.me.phase = .commit .chkpt → Free s → s.me.chunk = some ch → Ripe s ch →
    ch.acts = [] → NobodyRead s ch.written →
    ∃ t, exec .chunkCommit s = .next t ∧ t.me.phase = .run ∧ t.me.chunk = none ∧ t.regs = s.regs ∧ t.me.attempt.region = true) ∧
  (∀ (x : Slot) (e : Chunk), x.ended = some e → 4 ≤ e.squashes → x.priority = some (e.order, e.last)) ∧
  (∀ (x : Slot) (ch : Chunk), x.chunk = some ch → 4 ≤ ch.squashes → (ch.order, ch.last) ∈ x.asks) ∧
  (∀ (s : State) (ch : Chunk), (∀ c i, (c, i) ≠ (s.cur.core, s.cur.slot) → (s.slot c i).priority = none) →
    s.mayGrant s.cur.core s.cur.slot ch = true) ∧
  (∀ (s : State) (ch : Chunk) (c i : Nat) (r : Nat × List Nat), (c, i) ≠ (s.cur.core, s.cur.slot) →
    r ∈ (s.slot c i).asks → (s.slot c i).mustWait s = false → (ch.squashes < 4 ∨ r.1 < ch.order) →
    (∃ w ∈ ch.written, readsHit r.2 w = true) → s.mayGrant s.cur.core s.cur.slot ch = false) ∧
  (∀ (s : State) (ch : Chunk), Memory.wf s.mem = true → s.me.ended = some ch →
    (Ripe s ch → ∃ t, exec .chunkCommit s = .next t ∧ MemoryOf ch.stores s t) ∧
    (¬ Ripe s ch → exec .chunkCommit s = .next s)) ∧
  (∀ (s : State) (ch : Chunk) (b : Bool) (a : Act), s.headSlot s.cur.core s.cur.slot = true → s.me.ended = none →
    s.me.act = some a → s.me.phase = .commit (.enda b) → s.me.chunk = some ch → Ripe s ch → ch.acts = [] →
    NobodyRead s ch.written →
    ∃ t, exec .taskCommit s = .next t ∧ exec .chunkCommit s = .next t ∧ t.me.act = none ∧
      ∀ u ∈ t.tasks, u.running ≠ some (s.cur.core, s.cur.slot)) ∧
  (∀ (s : State) (b : Bool) (a : Act), s.me.ended = none → s.me.act = some a → s.me.phase = .commit (.enda b) → Free s →
    (∀ ch, s.me.chunk = some ch → Ripe s ch ∧ ch.acts = [] ∧ NobodyRead s ch.written) →
    ∃ t, exec .chunkCommit s = .next t ∧ t.me.act = none ∧ t.me.chunk = none ∧ t.regs.held = [] ∧
      t.net = s.net ++ s.regs.held.flatMap s.copies ++ s.me.orphans s.cur.core ∧
      t.tileDone = s.tileDone ++ (match s.graphOfStamp a.stamp with
        | some g =>
          if b = true ∧ a.stamp.lseq ≠ 0 then
            [{ graph := g, seq := a.stamp.lseq, node := a.stamp.node.toNat, x := a.stamp.tx.toNat, y := a.stamp.ty.toNat,
               z := a.stamp.tz.toNat, side := a.stamp.side }]
          else []
        | none => []) ∧
      (∀ w ∈ (t.core s.cur.core).watches, w.slot ≠ s.cur.slot) ∧ ∀ j : Fin 16, (t.regs.q[j]).bind = .unbound)

/-- The list of stores with its first unchecked one in place. -/
def FirstUnchecked (l pre : List Store) (st : Store) (post : List Store) : Prop :=
  l = pre ++ st :: post ∧ (∀ x ∈ pre, x.checked = true) ∧ st.checked = false

/-- STORE_CHECK checks the oldest unchecked store: the bytes of its failing parts leave the buffer, whose lines stay taken (R228), its host and peer writes leave the slot,
and its record, where it fails, joins the store-fault queue with the fields of R320: the lowest failing part describes it, its
data follows where it is wider than 8 bytes, and of the sources that make several parts FAIL names every failing one. -/
def Checks : Prop :=
  (∀ (s : State) (ch : Chunk) (pre post : List Store) (st : Store), s.me.ended = none → s.me.chunk = some ch →
    FirstUnchecked ch.stores pre st post →
    ∃ t, exec .storeCheck s = .next t ∧ t.me.chunk = some { ch with stores := pre ++ st.kept :: post } ∧
      t.regs.sfq = s.regs.sfq ++ st.records s.me.asid ∧ t.me.ext = s.me.ext ++ st.leaving ∧ t.regs.g = s.regs.g ∧
      t.regs.pc = s.regs.pc ∧ t.mem = s.mem) ∧
  (∀ (st : Store) (asid : Asid), (∀ p ∈ st.parts, p.fail = 0) → st.records asid = []) ∧
  (∀ (st : Store) (asid : Asid) (p : Part) (pre post : List Part), st.parts = pre ++ p :: post → (∀ q ∈ pre, q.fail = 0) →
    p.fail ≠ 0 → ∃ r : V512, (st.records asid).head? = some r ∧
      (st.records asid).length = (if st.wide = 0 then 1 else 2) ∧
      lane 64 r 0 = p.va.toNat % 2 ^ 57 ∧ lane 64 r 1 = (if st.wide = 0 then bytesNat p.bytes % 2 ^ 64 else 0) ∧
      lane 64 r 2 = st.pc.toNat % 2 ^ 57 ∧ lane 64 r 3 % 2 ^ 16 = asid.toNat ∧ lane 64 r 3 / 2 ^ 16 % 16 = p.fail % 16 ∧
      lane 64 r 3 / 2 ^ 20 % 4 = (if st.wide = 0 then st.size % 4 else 0) ∧
      lane 64 r 3 / 2 ^ 22 % 4 = st.wide % 4 ∧ lane 64 r 3 / 2 ^ 24 % 16 = st.src % 16 ∧
      (let many : Prop := st.src = 2 ∨ st.src = 3 ∨ st.src = 5
      (many → lane 64 r 3 / 2 ^ 28 = p.lane % 64 ∧
        ∀ j, (lane 64 r 4).testBit j = true ↔ ∃ q ∈ st.parts, q.fail ≠ 0 ∧ q.lane % 64 = j) ∧
      (¬ many → lane 64 r 3 / 2 ^ 28 = 0 ∧ lane 64 r 4 = 0)) ∧
      lane 64 r 5 = 0 ∧ lane 64 r 6 = 0 ∧ lane 64 r 7 = 0 ∧
      (st.wide ≠ 0 → (st.records asid)[1]? = some (bytesBv 512 p.bytes))) ∧
  (∀ st : Store, ∀ w ∈ st.leaving, isExt w.key = true ∧ ∃ p ∈ st.parts, p.fail = 0 ∧ p.key = some w.key ∧ p.bytes = w.bytes) ∧
  (∀ (s : State) (c i n : Nat) (w : ExtWrite), Memory.wf s.mem = true → (s.slot c i).ext[n]? = some w →
    (∀ v ∈ (s.slot c i).ext.take n, v.key / 64 ≠ w.key / 64) → s.hubCut c = false →
    (∀ p, s.peerGone w.key = true → ofPeer p w.key = true →
      ∃ t, exec (.hostPeerAck c i n) s = .next t ∧ (t.slot c i).ext = (s.slot c i).ext.take n ++ (s.slot c i).ext.drop (n + 1) ∧
        t.mem = s.mem ∧ let q := Config.portOf p % 12
        (t.ports.get q Port.init).dropped = (s.ports.get q Port.init).dropped + 1) ∧
    (s.peerGone w.key = false → ∃ t, exec (.hostPeerAck c i n) s = .next t ∧ (t.slot c i).ext = (s.slot c i).ext.take n ++ (s.slot c i).ext.drop (n + 1) ∧
      (∀ j, (h : j < w.bytes.length) → Memory.read t.mem (w.key + j) = w.bytes[j]) ∧
      ∀ a, (a < w.key ∨ w.key + w.bytes.length ≤ a) → Memory.read t.mem a = Memory.read s.mem a))

/-- At a boundary: a chunk of 512 instructions ends (R227); the 2,049th instruction of a service activation, which would be executed
next, kills its group, itself first, and drops its requests (R52, R327; before its line is fetched, log 94); the first pending imprecise trap is taken, store-fault before matrix-fault before engine-fault, with the
values of its source (R317, R318), and without a handler the activation ends (R323). The latest matrix fault is delivered with
the MFRX word as it stands while VALID is set, CANCEL counted (R263). -/
def Boundaries : Prop :=
  (∀ (s : State) (ch : Chunk), s.me.chunk = some ch → 512 ≤ ch.count → s.me.phase = .run → Free s →
    ∃ t, exec .chunkInstructionLimit s = .next t ∧ t.me.phase = .commit .go ∧ t.regs = s.regs ∧ t.me.chunk = s.me.chunk ∧
      t.mem = s.mem) ∧
  (∀ (s : State) (a : Act), s.me.act = some a → s.me.phase = .run →
    (∃ ch, s.me.chunk = some ch ∧ 512 ≤ ch.count) ∨ (s.me.impreciseDue = true ∧ s.me.regs.resumed = false) →
    exec .serviceOverrun s = .next s) ∧
  (∀ (s : State) (a : Act), s.me.act = some a → a.cls = 1 → 2048 ≤ a.executed → s.me.phase = .run →
    (∀ ch, s.me.chunk = some ch → ch.count < 512) → (s.me.impreciseDue = false ∨ s.me.regs.resumed = true) → a.owner = none →
    (s.me.ext = [] ∨ ∀ r ∈ s.arrivals, r.act ≠ a.id) →
    ∃ t, exec .serviceOverrun s = .next t ∧ t.me.act = none ∧ (∀ r ∈ t.requests, r.act = a.id → r.stopped = true) ∧
      ∃ k : Kill, t.kills = s.kills ++ [k] ∧ k.asid = a.stamp.asid ∧ k.group = a.stamp.group ∧ k.reached = []) ∧
  (∀ (s : State), s.me.act.isSome = true → s.me.phase = .run → s.me.impreciseDue = true → Free s →
    (s.regs.tvec ≠ 0 →
      (∀ r l, s.regs.sfq = r :: l → exec .trapEntry s = .next (s.takeTrap s.cur.core s.cur.slot s.regs.pc Cause.storeFault 0 true
        (BitVec.ofNat 64 (lane 64 r 0)) (some (BitVec.ofNat 64 (lane 64 r 2), s.me.sfqstat)))) ∧
      (∀ f l, s.regs.sfq = [] → s.me.matrixPending = f :: l → exec .trapEntry s = .next
        ((s.setMe { s.me with matrix := l, entered := f.order }).takeTrap s.cur.core s.cur.slot s.regs.pc Cause.matrixFault 0 true f.tval
          (some (f.k0, f.k1)))) ∧
      (∀ f l, s.regs.sfq = [] → s.me.matrix = [] → s.me.engine = f :: l → exec .trapEntry s = .next
        ((s.setMe { s.me with engine := l, entered := f.order }).takeTrap s.cur.core s.cur.slot s.regs.pc Cause.engineFault 0 true f.tval
          (some (f.k0, f.k1))))) ∧
    (s.regs.tvec = 0 → ∃ t, exec .trapEntry s = .next t ∧ t.me.act = none)) ∧
  (∀ (x : Slot) (l : List MatrixFault) (f : MatrixFault), x.matrix = l ++ [f] →
    x.matrixPending = l ++ [if bit x.regs.mfrx 63 then { f with k1 := x.regs.mfrx } else f])

/-- The ends of waits: WAITI after its pause, SDRAIN once no store is unchecked (R322), MWAIT at its timeout with code 2, a gather once its walks are done, an atomic at
its reply with the old bytes and the flags, a barrier at the release of its generation, a walk with its result, which is what the
tables hold in the step of its completion (log 23), its fills unless a removal named the page it found, a removal at each place. -/
def WaitEnds : Prop :=
  (∀ s : State, s.me.phase = .wait .waiti → exec .waitiWake s = .next (s.modMe (fun x => { x with phase := .run }))) ∧
  (∀ (s : State) (c i : Nat), (s.slot c i).phase = .wait .drain → (s.slot c i).unchecked = 0 →
    s.slotTurn c i = (s.modSlot c i (fun x => { x with phase := .run })).slotTurn c i) ∧
  (∀ (s : State) (c i : Nat) (a : Act), (s.slot c i).act = some a → (s.slot c i).phase = .wait .drain →
    (s.slot c i).unchecked ≠ 0 → s.halting a.stamp.asid = false → s.slotTurn c i = .stay s) ∧
  (∀ s : State, s.me.phase = .wait .mwait → exec .mwaitTimeout s = .next (s.modMe (fun x =>
    { x with phase := .run, regs := { x.regs with result := some (x.regs.pc, some 2) } }))) ∧
  (∀ s : State, s.me.phase = .wait .gather → (∀ w ∈ s.myCore.walks, w.slot = s.cur.slot → w.result ≠ .pending) →
    exec .gatherLanesDone s = .next (s.modMe (fun x => { x with phase := .run }))) ∧
  (∀ (s : State) (i : Nat) (r : Reply) (a : Act), s.replies[i]? = some r → (s.slot r.core r.slot).act = some a → a.id = r.act →
    (s.slot r.core r.slot).phase = .wait .reply →
    ∃ t, exec (.amoReply i) s = .next t ∧ t.replies = s.replies.take i ++ s.replies.drop (i + 1) ∧
      let x := s.slot r.core r.slot
      let y := t.slot r.core r.slot
      y.phase = .run ∧ y.regs.result = some (x.regs.pc, r.old.map (bytesBv 512)) ∧ y.regs.fpst = x.regs.fpst ||| r.flags ∧
      y.regs.g = x.regs.g ∧ t.mem = s.mem) ∧
  (∀ (s : State) (i j : Nat) (r : Release) (a : Act) (b : Barrier), s.releases[i]? = some r →
    (s.slot r.core j).act = some a → a.stamp.asid = r.asid → (a.stamp.side = .mirror ↔ r.side = .mirror) →
    (s.slot r.core j).phase = .wait (.gbar r.group) → b ∈ (s.slot r.core j).bars → b.group = r.group → b.gen = some r.gen →
    ∃ t, exec (.gbarRelease i) s = .next t ∧ (t.slot r.core j).phase = .run ∧ (t.slot r.core j).regs = (s.slot r.core j).regs ∧
      (∀ x ∈ (t.slot r.core j).bars, x.group ≠ r.group) ∧ t.mem = s.mem) ∧
  (∀ (s : State) (c i : Nat) (w : Walk), (s.core c).walks[i]? = some w → w.result = .pending →
    ∃ t, exec (.walkComplete c i) s = .next t ∧ (t.core c).walks[i]? = some { w with result := s.walk w.asid w.va } ∧
      t.mem = s.mem ∧
      ∀ e, s.walk w.asid w.va = .page e →
        let named : Prop := ∃ g ∈ w.removed, e.hits w.asid g.1.toNat g.2.toNat = true
        (¬ named → e ∈ t.l2.get (Id.die c) [] ∧ e ∈ (t.core (tlbCore c)).tlb) ∧
        (named → t.l2 = s.l2 ∧ ∀ d, (t.core d).tlb = (s.core d).tlb)) ∧
  (∀ (s : State) (i p : Nat) (b : Broadcast), s.broadcasts[i]? = some b → p ∈ s.removalPlaces b.removal → p ∉ b.reached →
    p < 100000 →
    ∃ t, exec (.invalidationComplete i (some p)) s = .next t ∧
      t.broadcasts = s.broadcasts.set i { b with reached := p :: b.reached } ∧
      (b.removal.heddle = true → ∀ e, e ∈ (t.core p).heddle ↔ e ∈ (s.core p).heddle ∧
        e.within b.removal.asid b.removal.lo b.removal.hi = false) ∧
      (b.removal.heddle = false → ∀ e, e ∈ (t.core p).tlb ↔ e ∈ (s.core p).tlb ∧
        e.hits b.removal.asid b.removal.lo.toNat b.removal.hi.toNat = false)) ∧
  (∀ (s : State) (i : Nat) (b : Broadcast), s.broadcasts[i]? = some b → (∀ p ∈ s.removalPlaces b.removal, p ∈ b.reached) →
    exec (.invalidationComplete i none) s =
      .next { s with broadcasts := s.broadcasts.take i ++ s.broadcasts.drop (i + 1) })

end Sys2Proof.Claim

/-- R83, R227-R232, R236, R300, R302, R304, R319, R320, R325: commits and checks. A chunk commits as a whole: its stores reach memory in
program order and no other byte changes; a check removes the failing parts, appends the record of R320 and lets host and peer
writes leave; ENDA's commit sends the held messages and the pending faults, reports the tile of ENDA.T, and frees the slot with
its queues and watch entries; a host or peer write lands when it is acknowledged, the writes of one flit in order. (That a commit
squashes nothing of its own slot is the model's choice, log 14.) -/
def Obligations.CommitsAndChecks : Prop := Commits ∧ Checks

/-- R52, R99, R188, R191, R213, R216, R221, R227, R241, R317, R318, R323: what takes place at a boundary, and the ends of waits.
That a walk's result is what the tables hold in the step of WALK_COMPLETE is the model's choice (log 23), as is an overrun before
the fetch of the instruction that overruns (log 94). -/
def Obligations.BoundariesAndWaits : Prop := Boundaries ∧ WaitEnds

/-! Messages. -/

namespace Sys2Proof.Claim

/-- No earlier message goes before this one to its core: of the same sender slot (R92), or of its type and address space and
pending since its data were written (R32); it is for this device; and no kill that has reached the core takes it (R327). -/
def MayArrive (s : State) (n : Nat) (m : Message) : Prop :=
  s.net[n]? = some m ∧ (m.owner = none ∨ m.dst ≠ 0xFFFF) ∧
  (∀ x ∈ s.net.take n, x.dst = m.dst →
    ¬(x.fromSlot < 8 ∧ x.stamp.src = m.stamp.src ∧ x.fromSlot = m.fromSlot) ∧
    ¬(x.fromSlot = writtenMark ∧ x.typ = m.typ ∧ x.stamp.asid = m.stamp.asid)) ∧
  ∀ k ∈ s.kills, k.hits m.stamp = true → m.dst.toNat ∉ k.reached

/-- The messages on their way without one. -/
def netWithout (s : State) (n : Nat) : List Message := s.net.take n ++ s.net.drop (n + 1)

/-- The message has taken its place in a core's inbox: behind every other, but for those whose place of arrival is a later one. -/
def Accepted (s t : State) (c : Nat) (m : Message) : Prop :=
  ∃ (p : Pending) (l r : List Pending), (s.core c).inbox = l ++ r ∧ (t.core c).inbox = l ++ p :: r ∧ p.msg = m ∧
    p.undeliv = m.nack ∧ p.arrival = s.stamp ∧ p.contained = 0 ∧ ∀ q ∈ r.head?, s.stamp < q.arrival

/-- R15, R27, R28, R50, R51, R220: what becomes of a message at its core: accepted into the inbox in arrival order, or left in
the network where it finds no place; parked where its address space is pre-empted or masked types hold 48 places, and dropped with a
count where the area is full; dropped with a count, and its task with it, where its address space has exited; with a NACK back where
the sender asked for one. Nothing parks a request to an owner. The vector table entry is read at the arrival, a full inbox included, and
a flipped bit of it is corrected then, which is the model's choice (readEntry, log 110, DESIGN CHOICE). One of a masked type is accepted
though an earlier one of its type is parked, which still goes first (behindParked, log 106). The stamp and SRC of a NACK (nackOf) are log
81, the graph that counts in PARKDROP (lowGraph) log 62. -/
def Arrivals : Prop :=
  ∀ (s : State) (n : Nat) (m : Message), MayArrive s n m →
    let c := m.dst.toNat
    let gone := m.stamp.asid ≠ 0 ∧ s.graphsOf m.stamp.asid = []
    let parks := s.preemptedAt m.stamp.asid c = true ∨
      ((∀ p ∈ s.parked.get (Id.die c) [], p.msg.dst.toNat ≠ c) ∧ s.masked c m = true ∧ 48 ≤ s.maskedHeld c)
    (¬ gone → m.owner.isSome = true →
      ((s.core c).inbox.length < 64 →
        ∃ t, exec (.messageArrival n) s = .next t ∧ t.net = netWithout s n ∧ t.mem = s.mem ∧ Accepted s t c m) ∧
      (64 ≤ (s.core c).inbox.length → exec (.messageArrival n) s = .next s)) ∧
    (¬ gone → s.preemptedAt m.stamp.asid c = false → (∀ p ∈ s.parked.get (Id.die c) [], p.msg.dst.toNat ≠ c) →
      (s.masked c m = false ∨ s.maskedHeld c < 48) → (s.core c).inbox.length < 64 →
      ∃ t, exec (.messageArrival n) s = .next t ∧ t.net = netWithout s n ∧ t.mem = s.mem ∧ Accepted s t c m) ∧
    (¬ gone → s.preemptedAt m.stamp.asid c = false → (∀ p ∈ s.parked.get (Id.die c) [], p.msg.dst.toNat ≠ c) →
      (s.masked c m = false ∨ s.maskedHeld c < 48) → m.owner = none → 64 ≤ (s.core c).inbox.length →
      exec (.messageArrival n) s = .next (s.readEntry c m.stamp.asid m.typ.toNat)) ∧
    (¬ gone → m.owner = none → s.preemptedAt m.stamp.asid c = false → s.masked c m = true → s.maskedHeld c < 48 →
      (∀ p ∈ s.parked.get (Id.die c) [], p.msg.dst = m.dst → p.byMask = true ∧ s.masked c p.msg = true) →
      ((s.core c).inbox.length < 64 →
        ∃ t, exec (.messageArrival n) s = .next t ∧ t.net = netWithout s n ∧ t.mem = (s.readEntry c m.stamp.asid m.typ.toNat).mem ∧
          t.parked.get (Id.die c) [] = s.parked.get (Id.die c) [] ∧ Accepted s t c m) ∧
      (64 ≤ (s.core c).inbox.length → ∃ t, exec (.messageArrival n) s = .next t ∧ t.net = s.net ∧
        (t.core c).inbox = (s.core c).inbox ∧ t.parked.get (Id.die c) [] = s.parked.get (Id.die c) [])) ∧
    (¬ gone → m.owner = none → parks → (s.parked.get (Id.die c) []).length < s.parkPlaces.get (Id.die c) 0 →
      ∃ t, exec (.messageArrival n) s = .next t ∧ t.net = netWithout s n ∧ (t.core c).inbox = (s.core c).inbox ∧
        ∃ p : Pending, t.parked.get (Id.die c) [] = s.parked.get (Id.die c) [] ++ [p] ∧ p.msg = m) ∧
    (¬ gone → m.owner = none → parks → s.parkPlaces.get (Id.die c) 0 ≤ (s.parked.get (Id.die c) []).length →
      ∃ t, exec (.messageArrival n) s = .next t ∧ (t.core c).inbox = (s.core c).inbox ∧
        t.net = netWithout s n ++ (if m.nackReq = true ∧ m.nack = false then [nackOf m 3] else []) ∧ t.parked = s.parked ∧
        ∀ g, s.lowGraph m.stamp.asid = some g → (t.graph g).parkDrop = min ((s.graph g).parkDrop + 1) (2 ^ 32 - 1)) ∧
    (gone → m.owner = none → ∃ t, exec (.messageArrival n) s = .next t ∧ (t.core c).inbox = (s.core c).inbox ∧
      t.net = netWithout s n ++ (if m.nackReq = true ∧ m.nack = false then [nackOf m 2] else []) ∧
      (m.nack = true → t.graphs = s.graphs ∧ t.hub = s.hub) ∧
      (m.nack = false → ∀ k, m.taskKey = some k → ∀ u ∈ t.tasks, ¬(u.key = k ∧ u.stamp.asid = m.stamp.asid)) ∧
      (m.nack = false → s.lastExited m.stamp.asid = none → t.hub.xdrop = min (s.hub.xdrop + 1) (2 ^ 32 - 1)) ∧
      (∀ g, m.nack = false → s.lastExited m.stamp.asid = some g →
        (t.graph g).exitDrop = min ((s.graph g).exitDrop + 1) (2 ^ 32 - 1)))

/-- A core as a selection finds it: its parked messages returned, messages of unusable types sent to type 0xFF (R29, R301), and a
worker slot freed where the head of an address space waits for one that later tasks hold (R305; how is the model's, log 73). -/
def settled (s : State) (c : Nat) : State := (((s.returnParked c).redirect c).redirectTasks c).admitHead c

/-- R30, R31: the winner is a candidate of highest K, and among those the first after the last chosen in the cyclic order. -/
def WinnerRule : Prop :=
  ∀ (s : State) (c : Nat),
    (s.winner c = none ↔ s.candidates c = []) ∧
    (∀ p, s.winner c = some p → p ∈ s.candidates c ∧
      ∀ q ∈ s.candidates c, s.keyOf c q.msg < s.keyOf c p.msg ∨
        (s.keyOf c q.msg = s.keyOf c p.msg ∧ (s.core c).distance p.msg ≤ (s.core c).distance q.msg)) ∧
    (∀ m, s.keyOf c m = min (8 * m.stamp.lpri.toNat + (s.classOf c m).2 + ((s.core c).passedOf m).2) 63)

/-- R14, R15, R16, R23, R28: an arrival and a selection complete in every state. No message goes before an earlier one of its core,
type and address space that is parked. A selection starts the winner in the lowest free slot of its class: the payload in g1 to g7, the start
word in g8, the 64 bytes in v0, PC at the handler (of a runtime type through handlerPc, log 59), every other register at its start value; the message leaves the inbox. A core
with no candidate, a failing compute core, or one the module does not provide starts nothing (R335, R336). -/
def Starts : Prop :=
  (∀ (s : State) (n : Nat), ∃ t, exec (.messageArrival n) s = .next t) ∧
  (∀ (s : State) (c : Nat), ∃ t, exec (.selection c) s = .next t) ∧
  (∀ (s : State) (c : Nat) (p : Pending), p ∈ s.candidates c → p.msg.owner = none →
    ∀ q ∈ s.parked.get (Id.die c) [], q.msg.dst.toNat = c → q.msg.typ = p.msg.typ → q.msg.stamp.asid = p.msg.stamp.asid →
      p.arrival ≤ q.arrival) ∧
  (∀ (s : State) (c i : Nat) (r : List Nat) (p : Pending),
    let u := settled s c
    let m := p.msg
    u.provided c = true → ((u.core c).failing = false ∨ Id.kind c ≠ 0) → u.winner c = some p → u.freeSlots c (u.classOf c m).1 = i :: r → m.portable = none →
    m.task = none →
    ∃ t, exec (.selection c) s = .next t ∧
      (∃ a, (t.slot c i).act = some a ∧ a.typ = m.typ ∧ a.stamp = m.stamp ∧ a.cls = slotClass i ∧ a.executed = 0 ∧
        a.restartable = true ∧ a.owner = m.owner) ∧
      (t.core c).inbox = (u.core c).inbox.filter (fun q => q.arrival != p.arrival) ∧
      let x := (t.slot c i).regs
      x.readG 0 = 0 ∧ (∀ n : Fin 32, 1 ≤ n.val → n.val ≤ 7 → n.val ≤ m.payload.length → some x.g[n] = m.payload[n.val - 1]?) ∧
      (∀ n : Fin 32, 1 ≤ n.val → n.val ≤ 7 → m.payload.length < n.val → x.g[n] = 0) ∧
      (∀ n : Fin 32, 9 ≤ n.val → x.g[n] = 0) ∧ x.g[8] = startWord m m.typ m.stamp.src ∧
      x.v[0] = m.vec.getD 0 ∧ (∀ n : Fin 32, n.val ≠ 0 → x.v[n] = 0) ∧ (∀ n : Fin 8, x.m[n] = 0 ∧ x.k[n] = 0) ∧
      (∀ n : Fin 16, x.q[n] = Queue.empty) ∧
      x.pc = u.handlerPc c m.stamp.asid m.typ.toNat (u.ventry c m.stamp.asid m.typ.toNat) ∧ x.tvec = 0 ∧ x.fpst = 0 ∧ x.batch = 1 ∧
      x.sigcfg = 1 ∧ x.sfq = [] ∧ x.held = []) ∧
  (∀ (s : State) (c : Nat), let u := settled s c
    (u.provided c = false ∨ ((u.core c).failing = true ∧ Id.kind c = 0) ∨ u.candidates c = []) → exec (.selection c) s = .next u) ∧
  (∀ (m : Message) (ty : BitVec 8) (src : CoreId),
    let w := startWord m ty src
    fld w 0 16 = src.toNat ∧ fld w 16 8 = ty.toNat ∧ fld w 24 3 = m.stamp.lpri.toNat ∧ fld w 32 8 = m.stamp.group.toNat ∧
    fld w 40 8 = (if ty = 0xFF then m.otype.toNat else 0) ∧ fld w 48 4 = (if ty = 0xFF then m.cause.toNat else 0))

end Sys2Proof.Claim

/-- R14-R16, R23, R27-R32, R50, R51, R92: messages arrive, wait and start activations. The model's choices in it: the stamp and SRC
of a NACK (log 81), the graph that counts a full parking area (log 62), the PC of a runtime handler (log 59), the entry read at an
arrival (log 110), messages of a masked type and parked ones of it (log 106), and which task makes room for a head (log 73). -/
def Obligations.MessagesStartActivations : Prop := Arrivals ∧ WinnerRule ∧ Starts

/-! Launches. -/

namespace Sys2Proof.Claim

/-- The launches that wait behind another (R43): all that are queued while one runs, and else all but the one that is to begin. -/
def behind (y : Graph) : Nat := if y.running = none then y.queued.length - 1 else y.queued.length

/-- R41, R43, R44: a write of TRIGGER: a launch queued with its patch address, or the code of what refuses it. -/
def Triggers : Prop :=
  ∀ (s : State) (w : W64), let g := fld w 0 16
    (64 ≤ g → ∃ t, exec (.trigger w) s = .next t ∧ t.hub.trigErr = true ∧ t.graphs = s.graphs) ∧
    (g < 64 → ∃ t, exec (.trigger w) s = .next t ∧ t.hub = s.hub ∧ (∀ h, h ≠ g → t.graph h = s.graph h) ∧
      ((s.graph g).resident = false → t.graph g = { s.graph g with err := 1 }) ∧
      ((s.graph g).resident = true → 4 ≤ behind (s.graph g) → t.graph g = { s.graph g with err := 2 }) ∧
      ((s.graph g).resident = true → behind (s.graph g) < 4 →
        t.graph g = { s.graph g with queued := (s.graph g).queued ++ [BitVec.ofNat 64 (fld w 16 48)] }))

/-- The records of a launch as it starts: patched, each with the core list its dwords name, in node order. -/
def launchNodes (y : Graph) (ps : List (W64 × W64)) : List NodeDecl :=
  ((ps.foldl applyPatch y.nodes).map (withCores y.nodes)).foldl (fun a n => insertNode n a) []

/-- R42-R45: the launch at the head of the queue starts when its graph runs none, is not pre-empted, and the runtime is not at
work: it leaves the queue; refused with the lowest code of R44, or running with its sequence number and its nodes in ascending
order, NEXT one further. A launch of no nodes is over at once. (What the reads of the patch list correct stands in patchReads, R332.) -/
def LaunchesStart : Prop :=
  (∀ (s : State) (g : Nat) (w : W64) (r : List W64) (ps : List (W64 × W64)), let y := s.graph g
    y.queued = w :: r → y.resident = true → y.running = none → y.pre = .none → s.hub.busy = none →
    (if w = 0 then .ok [] else s.patchList y.asid w) = (.ok ps : Except Nat (List (W64 × W64))) →
    (∀ e ∈ ps, patchOk y.nodes e = true) →
    let ns := launchNodes y ps
    ∃ t, exec (.launchStart g) s = .next t ∧ (t.graph g).queued = r ∧
      (s.launchError y ns ≠ 0 → (t.graph g).err = s.launchError y ns ∧ (t.graph g).running = none ∧ (t.graph g).next = y.next) ∧
      (s.launchError y ns = 0 → (t.graph g).err = y.err ∧
        (t.graph g).next = (if y.next = BitVec.allOnes 48 then 1 else y.next + 1) ∧
        (ns ≠ [] → ∃ l, (t.graph g).running = some l ∧ l.seq = y.next ∧ l.nodes = ns ∧ l.tiles = []) ∧
        (ns = [] → (t.graph g).running = none ∧ (t.graph g).done = y.next))) ∧
  (∀ (s : State) (g c : Nat) (w : W64) (r : List W64), let y := s.graph g
    y.queued = w :: r → y.resident = true → y.running = none → y.pre = .none → s.hub.busy = none → w ≠ 0 →
    s.patchList y.asid w = .error c →
    c = 3 ∧ exec (.launchStart g) s = .next ((s.patchReads y.asid w).setGraph g { y with queued := r, err := c })) ∧
  (∀ (s : State) (g : Nat) (w : W64) (r : List W64) (ps : List (W64 × W64)), let y := s.graph g
    y.queued = w :: r → y.resident = true → y.running = none → y.pre = .none → s.hub.busy = none → w ≠ 0 →
    s.patchList y.asid w = .ok ps → (∃ e ∈ ps, patchOk y.nodes e = false) →
    exec (.launchStart g) s = .next ((s.patchReads y.asid w).setGraph g { y with queued := r, err := 4 })) ∧
  (∀ (s : State) (y : Graph) (ns : List NodeDecl),
    let five := ∃ n ∈ ns, recordBad n = true
    let six := ∃ n ∈ ns, regionBad n = true
    let seven := y.marked = true ∨ ∃ n ∈ ns, s.coresBad n = true
    (five → s.launchError y ns = 5) ∧ (¬ five → six → s.launchError y ns = 6) ∧
    (¬ five → ¬ six → seven → s.launchError y ns = 7) ∧ (¬ five → ¬ six → ¬ seven → s.launchError y ns = 0)) ∧
  (∀ (y : Graph) (ps : List (W64 × W64)), (launchNodes y ps).Pairwise (fun a b => Node.index a ≤ Node.index b))

/-- The treadles enter what they can of every running launch (R46). -/
def entered (s : State) : State := ((s.graphs.filter (fun p => p.2.running.isSome)).map (·.1)).foldl State.enterTiles s

/-- R15, R39, R46, R47, R345: a treadle sends the first tile in its matcher, of whatever graph, that nothing holds back, a retired hub link of a side's die (R354) among it: one message, or two of a
redundant node, to the core the block mapping gives, of the node's entry type, with coordinates, parameter and sequence number. -/
def TilesSent : Prop :=
  (∀ (s : State) (die g : Nat) (l : Launch) (n : NodeDecl) (tl : Tile), s.hubCut (Id.compute die 0 0) = false →
    let u := entered s
    u.nextTile die g = some (l, n, tl) → (s.graph g).running.isSome = true →
    (∀ h x, h ≠ g → (s.graph h).running.isSome = true → u.nextTile die h = some x → tl.order < x.2.2.order) →
    ∃ t, exec (.tileSend die) s = .next t ∧ t.mem = u.mem ∧
      (∃ l', (t.graph g).running = some l' ∧ { tl with sent := true } ∈ l'.tiles ∧ l'.seq = l.seq) ∧
      let m (side : Side) : Message := tileMessage (u.graph g) l n tl side
      ((∀ d ∈ l.duals, d.node ≠ tl.node) → t.net = u.net ++ [m .none]) ∧
      ((∃ d ∈ l.duals, d.node = tl.node) → t.net = u.net ++ [m .primary, m .mirror])) ∧
  (∀ (s : State) (die g : Nat) (l : Launch) (n : NodeDecl) (tl : Tile), s.nextTile die g = some (l, n, tl) →
    ∀ d ∈ l.sides tl, s.hubCut (l.sideCore tl d).toNat = false) ∧
  (∀ (s : State) (die : Nat), s.hubCut (Id.compute die 0 0) = false →
    (∀ g, (entered s).nextTile die g = none) → exec (.tileSend die) s = .next (entered s)) ∧
  (∀ (y : Graph) (l : Launch) (n : NodeDecl) (tl : Tile) (side : Side), l.node tl.node = some n →
    let m := tileMessage y l n tl side
    let c := Node.core n tl.x tl.y tl.z
    m.dst = (if side = .mirror then BitVec.ofNat 16 (c.toNat + 4096) else c) ∧ m.typ.toNat = Node.etype n ∧ m.vec = none ∧
    m.payload = [BitVec.ofNat 64 tl.x, BitVec.ofNat 64 tl.y, BitVec.ofNat 64 tl.z, Node.param n, l.seq.setWidth 64, 0, 0] ∧
    m.stamp.asid = y.asid ∧ m.stamp.lpri = y.prio ∧ m.stamp.group.toNat = Node.group n ∧ m.stamp.lseq = l.seq ∧
    m.stamp.side = side) ∧
  (∀ (n : NodeDecl) (x y z : Nat),
    Node.core n x y z = n.cores.getD ((x / Node.bx n + (Node.ex n + Node.bx n - 1) / Node.bx n *
      (y / Node.bY n + (Node.ey n + Node.bY n - 1) / Node.bY n * (z / Node.bz n))) % Node.ncore n) 0) ∧
  (∀ (l : Launch) (tl v : Tile) (n m : NodeDecl), l.node tl.node = some n → m ∈ l.nodes → Node.index m < Node.index n →
    v ∈ l.tiles → v.node = Node.index m → l.dieOf v = l.dieOf tl →
    (∃ a ∈ Node.ranges m v true, ∃ b ∈ Node.ranges n tl false ++ Node.ranges n tl true, a.1 < b.2 ∧ b.1 < a.2) ∨
      (∃ a ∈ Node.ranges m v false, ∃ b ∈ Node.ranges n tl true, a.1 < b.2 ∧ b.1 < a.2) →
    l.clear tl = false)

/-- R20, R46: a completion reaches its treadle: the first of an outstanding tile of the running launch completes it; one that
names no such tile counts in LATEEND; one of a die whose hub link is retired does not get there (R354). -/
def TilesReported : Prop :=
  (∀ (s : State) (i : Nat) (r : TileDone) (l : Launch) (tl : Tile), s.tileDone[i]? = some r → (s.graph r.graph).running = some l →
    l.tiles.find? (fun t => t.is r) = some tl → s.hubCut (l.sideCore tl r.side).toNat = true → exec (.tileReport i) s = .next s) ∧
  (∀ (s : State) (i : Nat) (r : TileDone), s.tileDone[i]? = some r → (s.graph r.graph).resident = true →
    ((s.graph r.graph).running = none ∨ ∃ l, (s.graph r.graph).running = some l ∧ (l.seq ≠ r.seq ∨ ∀ t ∈ l.tiles, t.is r = false) ∧
      ∀ t ∈ l.tiles, s.hubCut (l.sideCore t r.side).toNat = false) →
    ∃ t, exec (.tileReport i) s = .next t ∧ t.tileDone = s.tileDone.take i ++ s.tileDone.drop (i + 1) ∧
      t.graph r.graph = { s.graph r.graph with lateEnd := min ((s.graph r.graph).lateEnd + 1) (2 ^ 32 - 1) }) ∧
  (∀ (s : State) (i : Nat) (r : TileDone) (l : Launch) (tl : Tile), s.tileDone[i]? = some r →
    (s.graph r.graph).resident = true → (s.graph r.graph).running = some l → l.seq = r.seq → r.side ≠ .none →
    l.tiles.find? (fun t => t.is r) = some tl → tl.doneOn r.side = false → s.hubCut (l.sideCore tl r.side).toNat = false →
    ∃ t, exec (.tileReport i) s = .next t ∧ (∃ l', (t.graph r.graph).running = some l' ∧ tl.finish r.side ∈ l'.tiles) ∧
      (t.graph r.graph).lateEnd = (s.graph r.graph).lateEnd) ∧
  (∀ (s : State) (i : Nat) (r : TileDone) (l : Launch) (tl : Tile), s.tileDone[i]? = some r →
    (s.graph r.graph).resident = true → (s.graph r.graph).running = some l → l.seq = r.seq → r.side = .none →
    l.tiles = [tl] → tl.is r = true → s.hubCut (l.sideCore tl r.side).toNat = false →
    (∀ d, d < 4 → l.nodes.length ≤ (l.cursor d).node) →
    ∃ t, exec (.tileReport i) s = .next t ∧ (t.graph r.graph).running = none ∧ (t.graph r.graph).done = l.seq ∧
      (t.graph r.graph).lateEnd = (s.graph r.graph).lateEnd)

/-- What stood in one line of memory stands in another. -/
def LineCopied (s t : State) (src dst : Nat) : Prop :=
  ∀ k, k < 64 → Memory.read t.mem (64 * dst + k) = Memory.read s.mem (64 * src + k)

/-- The lines of an entry of a written set: its live line, and those at S and 2S above it; `far` is 1 on the primary side and 2 on
the mirror side, whose shadow the entry names (R345, R347). -/
def trio (far : Nat) (e : Nat × Nat) : List Nat :=
  let d := (e.2 - e.1) / far
  [e.1, e.1 + d, e.1 + 2 * d]

/-- No line of an entry is a line of another entry of the two sets, and its own three are distinct. -/
def Apart (d : DualRun) : Prop :=
  let all := d.primary.map (trio 1) ++ d.mirror.map (trio 2)
  (∀ x ∈ all, x.Nodup) ∧ ∀ x ∈ all, ∀ y ∈ all, x ≠ y → ∀ a ∈ x, a ∉ y

/-- R347-R349: a redundant node whose tiles have ended on both sides is compared. Equal signatures give outcome 2: what the
primary wrote goes to FRAME and to the mirror's shadow, and the node's tiles are done (none entered before it is left). Different ones the first time take FRAME's
lines of both sets to both shadows and run the node again; the second time they give outcome 3 and tell the host, with FRAME as it
was and the node open, never to be compared again. -/
def DualsCompared : Prop :=
  (∀ (s : State) (g : Nat) (l : Launch) (d : DualRun) (n : NodeDecl), (s.graph g).running = some l → l.duals = [d] →
    l.node d.node = some n → l.dualDone n = true → d.mismatch = false → d.node < 65536 →
    let p := (s.dualSig d.primary).1
    let m := ((s.dualSig d.primary).2.dualSig d.mirror).1
    ∃ t, exec (.dualCompare g) s = .next t ∧ (t.graph g).dsigp = p ∧ (t.graph g).dsigm = m ∧
      fld (t.graph g).dstat 16 16 = d.node ∧
      (p = m → fld (t.graph g).dstat 0 2 = 2 ∧ bit (t.graph g).dstat 2 = d.again ∧
        fld (t.graph g).dstat 32 32 = d.primary.length % 2 ^ 32 ∧
        ((t.graph g).running = none → (t.graph g).done = l.seq) ∧
        (∀ l', (t.graph g).running = some l' → l'.duals = [] ∧ (∀ x ∈ l.tiles, x.node ≠ d.node → x ∈ l'.tiles) ∧
          ∀ x ∈ l'.tiles, x.node = d.node → s.stamp ≤ x.order) ∧
        (Apart d → ∀ e ∈ d.primary, LineCopied s t e.2 e.1 ∧ LineCopied s t e.2 (e.1 + 2 * (e.2 - e.1)))) ∧
      (p ≠ m → d.again = false → fld (t.graph g).dstat 0 2 = 1 ∧ bit (t.graph g).dstat 2 = true ∧
        fld (t.graph g).dstat 32 32 = 0 ∧
        (∃ l', (t.graph g).running = some l' ∧ l'.seq = l.seq ∧ (∀ x ∈ l'.tiles, x.node = d.node → x.sent = false) ∧
          ∃ d' ∈ l'.duals, d'.node = d.node ∧ d'.again = true ∧ d'.primary = [] ∧ d'.mirror = []) ∧
        (Apart d →
          (∀ e ∈ d.primary, LineCopied s t e.1 e.2 ∧ LineCopied s t e.1 (e.1 + 2 * (e.2 - e.1))) ∧
          ∀ e ∈ d.mirror, LineCopied s t e.1 (e.1 + (e.2 - e.1) / 2) ∧ LineCopied s t e.1 (e.1 + 2 * ((e.2 - e.1) / 2)))) ∧
      (p ≠ m → d.again = true → fld (t.graph g).dstat 0 2 = 3 ∧ bit (t.graph g).dstat 2 = true ∧
        fld (t.graph g).dstat 32 32 = d.primary.length % 2 ^ 32 ∧ t.mem = (s.interrupt 1).mem ∧
        ∃ l', (t.graph g).running = some l' ∧ l'.tiles = l.tiles ∧ ∀ d' ∈ l'.duals, d'.mismatch = true)) ∧
  (∀ (s : State) (g : Nat), (∀ l, (s.graph g).running = some l → ∀ d ∈ l.duals, d.mismatch = true) →
    exec (.dualCompare g) s = .next s)

end Sys2Proof.Claim

/-- R15, R20, R39, R41-R47, R345-R349: launches: triggers, the start and the refusal of a launch, its tiles sent and reported,
redundant nodes compared. -/
def Obligations.LaunchesRun : Prop := Triggers ∧ LaunchesStart ∧ TilesSent ∧ TilesReported ∧ DualsCompared

/-! The host link, graphs, boot. -/

namespace Sys2Proof.Claim

/-- A read of a hub register gives a value and leaves a state. -/
def HubReads (i : Instr) (s : State) (w : W64) (t : State) : Prop :=
  exec i s = .next { t with hostRead := bvBytes w 8 }

/-- R41, R45, R50, R324, R356: the registers with fields that clear when read: GSTAT, GDROP, GUNDL, GESC, GKILLS, TRIGERR, HERR
and XDROP give their value, and their clearing fields are zero afterwards. QUEUED counts the launches behind another (R43). -/
def ClearingReads : Prop :=
  (∀ (s : State) (g : Nat), g < 64 → let y := s.graph g
    (∃ w, HubReads (.gstatRead g) s w (s.setGraph g { y with err := 0 }) ∧ fld w 0 2 = y.state ∧ bit w 2 = y.exited ∧
      fld w 4 8 = y.err % 256 ∧ fld w 12 3 = behind y % 8 ∧ fld w 16 48 = y.done.toNat ∧ bit w 3 = false ∧
      bit w 15 = false) ∧
    HubReads (.gdropRead g) s (BitVec.ofNat 64 (y.exitDrop + y.parkDrop * 2 ^ 32))
      (s.setGraph g { y with exitDrop := 0, parkDrop := 0 }) ∧
    HubReads (.gundlRead g) s (BitVec.ofNat 64 (y.undl + y.lateEnd * 2 ^ 32)) (s.setGraph g { y with undl := 0, lateEnd := 0 }) ∧
    (∃ c, HubReads (.gescRead g) s y.gesc (s.setGraph g { y with gesc := c }) ∧ fld c 48 16 = 0 ∧ fld c 0 48 = fld y.gesc 0 48) ∧
    HubReads (.gkillsRead g) s (BitVec.ofNat 64 (y.ended + y.dropped * 2 ^ 32)) (s.setGraph g { y with ended := 0, dropped := 0 })) ∧
  (∀ s : State,
    HubReads .trigerrRead s (if s.hub.trigErr then 1 else 0) { s with hub := { s.hub with trigErr := false } } ∧
    HubReads .herrRead s (BitVec.ofNat 64 s.hub.herr) { s with hub := { s.hub with herr := 0 } } ∧
    HubReads .xdropRead s (BitVec.ofNat 64 s.hub.xdrop) { s with hub := { s.hub with xdrop := 0 } })

/-- R45, R324, R356, R360: register writes: an offset that names none counts in HERR and changes nothing else; a write of
TRIGGER is a trigger; PRIO, GSAVE and HINT take their writable fields; a read-only register stands. -/
def HubWrites : Prop :=
  (∀ (s : State) (o : Nat) (w : W64), isHubReg o = false →
    exec (.registerWrite o w) s = .next { s with hub := { s.hub with herr := min (s.hub.herr + 1) (2 ^ 32 - 1) } }) ∧
  (∀ (s : State) (w : W64), ∃ t, exec (.registerWrite 0 w) s = .next t ∧ exec (.trigger w) s = .next t) ∧
  (∀ (s : State) (g : Nat) (w : W64), g < 64 →
    (bit w 8 = false → bit w 9 = false → exec (.registerWrite (0x10000 + 64 * g) w) s =
      .next (s.setGraph g { s.graph g with prio := BitVec.ofNat 3 (fld w 0 3) })) ∧
    exec (.registerWrite (0x10020 + 64 * g) w) s = .next (s.setGraph g { s.graph g with gsave := w &&& 0xFF0000001 }) ∧
    exec (.registerWrite (0x10008 + 64 * g) w) s = .next s) ∧
  (∀ (s : State) (n : Fin 4) (w : W64), ∃ t, exec (.registerWrite (0x30100 + 8 * n.val) w) s = .next t ∧
    t.hub.hint[n] = w &&& 0x0000FFFFFFFFFFFD ∧ (∀ j : Fin 4, j ≠ n → t.hub.hint[j] = s.hub.hint[j]) ∧ t.mem = s.mem)

/-- R356: HWIN n takes a size of 12 to 40 and an aligned base in HBM, shared SRAM or scratchpads; any other write changes
nothing. -/
def HostWindows : Prop :=
  ∀ (s : State) (n : Fin 16) (w : W64),
    let base := fld w 12 36 * 4096
    let ok := 12 ≤ fld w 2 6 ∧ fld w 2 6 ≤ 40 ∧ base % 2 ^ fld w 2 6 = 0 ∧
      (base < 2 ^ 39 ∨ (0x10000000000 ≤ base ∧ base < 0x10020000000) ∨ (0x20000000000 ≤ base ∧ base < 0x20020000000))
    (ok → ∃ t, exec (.hwinWrite n.val w) s = .next t ∧ t.hub.hwin[n] = w &&& 0x0000FFFFFFFFF0FF ∧
      (∀ j : Fin 16, j ≠ n → t.hub.hwin[j] = s.hub.hwin[j]) ∧ t.mem = s.mem) ∧
    (¬ ok → exec (.hwinWrite n.val w) s = .next s)

/-- R356-R358: host accesses: through an open window, device memory by physical address, a write where WR is set; a closed
window, or a range beyond it or beyond the capacity, reads as ones, drops writes, and counts in HERR (the memory of a die whose hub
link is retired is as beyond the capacity, log 107); the host's own memory takes the host's own writes. -/
def HostAccesses : Prop :=
  ∀ (s : State) (n : Fin 16) (o : Nat), o < 2 ^ 40 →
    let w := s.hub.hwin[n]
    let a := n.val * 2 ^ 40 + o
    let pa := fld w 12 36 * 4096 + o
    let inside (k : Nat) : Prop := bit w 0 = true ∧ o + k ≤ 2 ^ fld w 2 6 ∧ ∀ i, i < k → s.populated (pa + i) = true ∧
      s.hubCutAt (pa + i) = false
    (∀ k, inside k → s.bad = [] →
      exec (.hostRead (.link a) k) s = .next { s.correctRange pa k with hostRead := Memory.readN s.mem pa k }) ∧
    (∀ k, ¬ inside k → exec (.hostRead (.link a) k) s = .next { s with
      hub := { s.hub with herr := min (s.hub.herr + 1) (2 ^ 32 - 1) }, hostRead := List.replicate k (BitVec.allOnes 8) }) ∧
    (∀ l : List Byte, inside l.length → bit w 1 = true → Memory.wf s.mem = true →
      ∃ t, exec (.hostWrite (.link a) l) s = .next t ∧
        (∀ j, (h : j < l.length) → Memory.read t.mem (pa + j) = l[j]) ∧
        ∀ b, (b < pa ∨ pa + l.length ≤ b) → Memory.read t.mem b = Memory.read s.mem b) ∧
    (∀ l : List Byte, (¬ inside l.length ∨ bit w 1 = false) →
      exec (.hostWrite (.link a) l) s = .next { s with hub := { s.hub with herr := min (s.hub.herr + 1) (2 ^ 32 - 1) } }) ∧
    (∀ (h : Nat) (l : List Byte), h + l.length ≤ 2 ^ 47 → Memory.wf s.mem = true →
      ∃ t, exec (.hostWrite (.own h) l) s = .next t ∧
        (∀ j, (g : j < l.length) → Memory.read t.mem (2 ^ 47 + h + j) = l[j]) ∧
        ∀ b, (b < 2 ^ 47 + h ∨ 2 ^ 47 + h + l.length ≤ b) → Memory.read t.mem b = Memory.read s.mem b)

/-- R338, R339, R355: what the host reads of the hub's configuration space: HEALTH, whose events the read takes; the repair log, signed
(its layout is log 74); the replay, CRC, flit and dropped-write counts of a peer port. -/
def ConfigReads : Prop :=
  (∀ (s : State) (n : Nat), ∃ t, exec (.hostRead .health n) s = .next t ∧ t.hostRead = bvBytes s.healthWord 8 ∧ fld t.healthWord 16 16 = 0 ∧
    fld t.healthWord 0 16 = fld s.healthWord 0 16 ∧ fld t.healthWord 32 32 = fld s.healthWord 32 32 ∧ t.mem = s.mem ∧
    t.cores = s.cores) ∧
  (∀ (s : State) (n : Nat), ∃ t, exec (.hostRead .repairLog n) s = .next t ∧ t.hub = s.hub ∧ t.mem = s.mem ∧
    let b := repairBytes s.hub.repairLog
    t.hostRead = recordJoin b (P256.sign identityKey (sha256 b) s.fresh)) ∧
  (∀ (s : State) (p : Fin 12) (n : Nat), let x := s.ports.get p.val Port.init
    exec (.hostRead (.port p) n) s = .next { s with
      hostRead := bvBytes x.replay 8 ++ bvBytes x.crcerr 8 ++ bvBytes x.flits 8 ++ bvBytes x.dropped 8 })

end Sys2Proof.Claim

/-- R41, R45, R50, R324, R338, R339, R355-R358, R360: the host link: registers read and written, windows, host reads and writes. (That a
window is held by its base alone, log 43, and that host writes to the host's own memory are plain writes, are the model's readings.) -/
def Obligations.HostLink : Prop := ClearingReads ∧ HubWrites ∧ HostWindows ∧ HostAccesses ∧ ConfigReads

namespace Sys2Proof.Claim

/-- What a hub command that ends at once leaves: BUSY clear and its result (R363). -/
def ended (s : State) (r : Nat) : State := { s with hub := { s.hub with busy := none, result := r } }

/-- A hub command ends with one of some results: which one stands where several apply is free (log 42). -/
def EndsOneOf (i : Instr) (s : State) (l : List Nat) : Prop :=
  ∃ r ∈ l, ∃ f, exec i s = .next (ended { s with fresh := f } r)

/-- R363: GCMD: ignored while a command is in progress, refused with 7 where it is malformed or its OP is unknown, and with 5 before
the module is ready (where several of 5, 6 and 7 apply, which one stands is free, log 42); an upload is taken up; an exit of a resident
graph is taken up and its launches end, of any other refused with 6. A write of its register is the command its OP names. -/
def GraphCommands : Prop :=
  ∀ (s : State) (w : W64), let g := fld w 16 48
    (fld w 0 4 = 1 →
      (s.hub.busy.isSome = true → exec (.graphUpload w) s = .next s) ∧
      (s.hub.busy = none → gcmdBad w = true → s.hub.bootState = 5 → exec (.graphUpload w) s = .next (ended s 7)) ∧
      (s.hub.busy = none → gcmdBad w = true → s.hub.bootState ≠ 5 → EndsOneOf (.graphUpload w) s [5, 7]) ∧
      (s.hub.busy = none → gcmdBad w = false → s.hub.bootState ≠ 5 → exec (.graphUpload w) s = .next (ended s 5)) ∧
      (s.hub.busy = none → gcmdBad w = false → s.hub.bootState = 5 →
        exec (.graphUpload w) s = .next { s with hub := { s.hub with busy := some w } }) ∧
      ∃ t, exec (.registerWrite 0x20 w) s = .next t ∧ exec (.graphUpload w) s = .next t) ∧
    (fld w 0 4 = 2 →
      (s.hub.busy.isSome = true → exec (.graphExit w) s = .next s) ∧
      (s.hub.busy = none → gcmdBad w = true → s.hub.bootState = 5 → exec (.graphExit w) s = .next (ended s 7)) ∧
      (s.hub.busy = none → gcmdBad w = true → s.hub.bootState ≠ 5 → EndsOneOf (.graphExit w) s [5, 7]) ∧
      (s.hub.busy = none → gcmdBad w = false → s.hub.bootState ≠ 5 → let u : State := { s with hub := { s.hub with graph := g } }
        ((s.graph g).resident = true → exec (.graphExit w) s = .next (ended u 5)) ∧
        ((s.graph g).resident = false →
          ∃ r f, (r = 5 ∨ r = 6) ∧ exec (.graphExit w) s = .next (ended { u with fresh := f } r))) ∧
      ∃ t, exec (.registerWrite 0x20 w) s = .next t ∧ exec (.graphExit w) s = .next t) ∧
    (fld w 0 4 ≠ 1 → fld w 0 4 ≠ 2 →
      (s.hub.busy.isSome = true → exec (.registerWrite 0x20 w) s = .next s) ∧
      (s.hub.busy = none → s.hub.bootState = 5 → exec (.registerWrite 0x20 w) s = .next (ended s 7)) ∧
      (s.hub.busy = none → s.hub.bootState ≠ 5 → EndsOneOf (.registerWrite 0x20 w) s [5, 7])) ∧
    (fld w 0 4 = 2 → s.hub.busy = none → gcmdBad w = false → s.hub.bootState = 5 →
      ((s.graph g).resident = true → exec (.graphExit w) s = .next (State.setGraph
        { s with hub := { s.hub with busy := some w, graph := g } } g { s.graph g with queued := [], running := none })) ∧
      ((s.graph g).resident = false → exec (.graphExit w) s = .next (ended { s with hub := { s.hub with graph := g } } 6))) ∧
    (gcmdBad w = false ↔ fld w 4 12 = 0 ∧ ((fld w 0 4 = 1 ∧ g < 2 ^ 47 ∧ g % 4096 = 0) ∨ (fld w 0 4 = 2 ∧ g < 64)))

/-- R21, R34, R37, R43, R45, R363: an upload that nothing refuses makes its graph resident under the id and the address space of
R363, with its name, priority and nodes, no launch, DONE 0 and the next sequence number 1; a refused one changes only GCMDST,
which takes one of the results that apply (log 42). An event whose placements do not add the image's mappings, or change some that
stand, is none that R363 describes, and does nothing (log 48).
A finished exit leaves the graph absent and EXITED, and with the last graph of an address space its translations, labels, groups
and pending barrier messages. -/
def Residence : Prop :=
  (∀ (s : State) (m : GraphImage) (w : W64), s.hub.busy = some w → fld w 0 4 = 1 →
    (s.uploadRefusals m ≠ [] → EndsOneOf (.uploadDone m) s (s.uploadRefusals m)) ∧
    (∀ g, s.uploadRefusals m = [] → s.freeId m = some g →
      s.placedWell (s.install g (s.freeAsid m) m) (s.freeAsid m) m = false → exec (.uploadDone m) s = .next s) ∧
    (∀ g, s.uploadRefusals m = [] → s.freeId m = some g →
      s.placedWell (s.install g (s.freeAsid m) m) (s.freeAsid m) m = true → ∃ t, exec (.uploadDone m) s = .next t ∧
      t.hub.busy = none ∧ t.hub.result = 0 ∧ t.hub.graph = g ∧ t.hub.asid = s.freeAsid m ∧ t.hub.name = m.name ∧
      let y := t.graph g
      y.resident = true ∧ y.exited = false ∧ y.asid = s.freeAsid m ∧ y.name = m.name ∧ y.prio = m.prio ∧ y.queued = [] ∧
      y.running = none ∧ y.done = 0 ∧ y.next = 1 ∧ y.nodes = m.nodes ∧
      (s.graphsOf (s.freeAsid m) = [] → (t.space (s.freeAsid m)).root = m.root ∧
        (t.space (s.freeAsid m)).groups = Image.groupTable m))) ∧
  (∀ (s : State) (m : GraphImage),
    (m.readable = false → s.uploadRefusals m = [2]) ∧
    (m.readable = true → (1 ∈ s.uploadRefusals m ↔ s.freeId m = none) ∧
      (2 ∈ s.uploadRefusals m ↔ Image.malformed m = true ∨ s.placementBad (s.freeAsid m) m = true) ∧
      (3 ∈ s.uploadRefusals m ↔ Image.groupsBad m = true) ∧
      (4 ∈ s.uploadRefusals m ↔
        s.freeAsid m = 0 ∨ (s.graphsOf (s.freeAsid m) ≠ [] ∧ s.joins (s.freeAsid m) m = false))) ∧
    ∀ r ∈ s.uploadRefusals m, 1 ≤ r ∧ r ≤ 4) ∧
  (∀ (s : State) (w : W64), s.hub.busy = some w → fld w 0 4 = 2 → let g := fld w 16 48
    ∃ t, exec .exitDone s = .next t ∧ t.hub.busy = none ∧ t.hub.result = 0 ∧ (t.graph g).resident = false ∧
      (t.graph g).exited = true ∧ (t.graph g).running = none ∧ (t.graph g).nodes = [] ∧
      ((∀ h ∈ s.graphsOf (s.graph g).asid, h = g) → let a := (s.graph g).asid
        t.spaces.find a.toNat = none ∧ (∀ c, (∀ e ∈ (t.core c).heddle, e.asid ≠ a) ∧ (∀ e ∈ (t.core c).tlb, e.asid ≠ a)) ∧
        (∀ r ∈ t.arrivals, r.asid ≠ a) ∧ ∀ r ∈ t.releases, r.asid ≠ a))

/-- R328-R330: PREEMPT without a save area is refused with code 8; with one, every graph of the address space stops, and its
pending messages leave the inboxes, but for requests to owners (R221); its completion saves the halted contexts, frees their slots, and the graph is in state 3;
RESUME in state 3 lets it run again, each context back in the slot it left with its registers. -/
def Preemptions : Prop :=
  (∀ (s : State) (g : Nat), let y := s.graph g
    y.resident = true → (y.pre = .none ∨ y.pre = .resuming) →
    (bit y.gsave 0 = false → exec (.preempt g) s = .next (s.setGraph g { y with err := 8 })) ∧
    (bit y.gsave 0 = true → g ∈ s.graphsOf y.asid → ∃ t, exec (.preempt g) s = .next t ∧ (t.graph g).pre = .stopping ∧
      (∀ h ∈ s.graphsOf y.asid, (t.graph h).pre = .stopping) ∧
      ∀ c, ∀ p ∈ (t.core c).inbox, p.msg.owner = none → p.msg.stamp.asid ≠ y.asid)) ∧
  (∀ (s : State) (g c i : Nat) (a : Act) (w : Option Wait), let y := s.graph g
    y.resident = true → y.pre = .stopping → bit y.gsave 0 = true → s.allHalted y.asid = true → g ∈ s.graphsOf y.asid →
    s.workersOf y.asid = [(c, i)] → (s.slot c i).act = some a → (s.slot c i).phase = .halted w →
    ∃ t, exec (.preemptionComplete g) s = .next t ∧ (t.graph g).pre = .stopped ∧ (t.graph g).state = 3 ∧
      (∀ h ∈ s.graphsOf y.asid, (t.graph h).pre = .stopped) ∧
      (t.slot c i).act = none ∧ ∃ v ∈ (t.graph g).saved, v.core = c ∧ v.slot = i ∧ v.regs = (s.slot c i).regs ∧ v.act = a ∧
        v.wait = w) ∧
  (∀ (s : State) (g : Nat), let y := s.graph g
    (y.state ≠ 3 → exec (.resume g) s = .next s) ∧
    (y.state = 3 → g ∈ s.graphsOf y.asid → ∃ t, exec (.resume g) s = .next t ∧
      (t.graph g).pre = (if ∀ h ∈ s.graphsOf y.asid, (s.graph h).saved = [] then .none else .resuming))) ∧
  (∀ (s : State) (g : Nat) (v : Saved), let c := s.cur.core
    let i := s.cur.slot
    s.me.act = none → (s.core c).failing = false → s.provided c = true → s.graphs = [(g, s.graph g)] →
    (s.graph g).pre = .resuming → v ∈ (s.graph g).saved → v.core = c → v.slot = i →
    (∀ u ∈ (s.graph g).saved, u.core = c → u.slot = i → u = v) → v.wait = none →
    ∃ t, exec .contextRestore s = .next t ∧ t.me.act = some { v.act with spurious := true } ∧ t.me.phase = .run ∧
      t.regs.g = v.regs.g ∧ t.regs.v = v.regs.v ∧ t.regs.m = v.regs.m ∧ t.regs.k = v.regs.k ∧ t.regs.pc = v.regs.pc ∧
      special t.regs = special v.regs ∧ t.regs.fpst = v.regs.fpst ∧ t.regs.held = v.regs.held ∧ t.regs.sfq = v.regs.sfq ∧
      (∀ n : Fin 16, t.regs.q[n].bind = v.regs.q[n].bind ∧ t.regs.q[n].entries = v.regs.q[n].entries) ∧
      v ∉ (t.graph g).saved)

end Sys2Proof.Claim

/-- R21, R34, R37, R43, R45, R328-R330, R363: graphs come, go, stop and go on. (An exit that takes place in the one step
EXIT_DONE, and what a pre-emption does to idle graphs, are the model's readings, NOTES.md.) -/
def Obligations.GraphLife : Prop := GraphCommands ∧ Residence ∧ Preemptions

namespace Sys2Proof.Claim

/-- R361, R362: BOOTCTL bit 0, in a state that waits for an image: a malformed header gives STATE 3, an image that does not
verify STATE 2, any other STATE 4 with its hash, taken over the whole image (log 44), and version; elsewhere the write does nothing
(log 44). BOOT_READY rewrites the map, and
RECREJ says that the image's repair records are not signed by the identity key. The records are the log as it was signed: what the host
read of it gives back its bytes, its signature and its entries (R364; how they lie in the bytes is log 74, DESIGN CHOICE). -/
def BootStates : Prop :=
  (∀ s : State, (s.hub.bootState ∉ [0, 2, 3] → exec .bootDownload s = .next s) ∧
    (s.hub.bootState ∈ [0, 2, 3] → ∃ t, exec .bootDownload s = .next t ∧ t.cores = s.cores ∧ t.graphs = s.graphs ∧
      t.hub.bootState = (if s.headerOk = false then 3 else if s.imageVerifies = false then 2 else 4) ∧
      (s.headerOk = true → s.imageVerifies = true → t.hub.imageHash = sha256 (s.staged 0 (s.stagedNat 8 8)) ∧
        t.hub.imageVersion = BitVec.ofNat 32 (s.stagedNat 4 4)))) ∧
  (∀ (s : State) (r : SelfTest), (s.hub.bootState ≠ 4 → exec (.bootReady r) s = .next s) ∧
    (s.hub.bootState = 4 → ∃ t, exec (.bootReady r) s = .next t ∧ t.hub.bootState = (if r.pass then 5 else 6) ∧
      t.hub.recRej = s.fieldRecords.isNone ∧ t.capacity.gen = s.capacity.gen + 1)) ∧
  (∀ s : State, (s.stagedNat 0xC8 8 = 0 → s.fieldRecords ≠ none) ∧
    (s.stagedNat 0xC8 8 ≠ 0 → let p := recordSplit (s.staged (s.stagedNat 0xC0 8) (s.stagedNat 0xC8 8))
      (s.fieldRecords = none ↔ P256.verify s.hub.attPub (sha256 p.1) p.2 = false) ∧
      (∀ l, s.fieldRecords = some l → l = recordEvents p.1 p.1.length))) ∧
  (∀ (b : List Byte) (sig : BitVec 512), recordSplit (recordJoin b sig) = (b, sig)) ∧
  (∀ l : List RepairEvent, (∀ e ∈ l, ∀ n ∈ entryCode e, n < 2 ^ 64) → recordEvents (repairBytes l) (repairBytes l).length = l)

/-- R361, R365, R366: power-up leaves nothing of the module but the memory outside it, with the public key of the one identity key
in ATTPUB; a report answers the nonce as it was when asked (log 44), with a zero hash outside STATE 5 (log 67), signed by that key over
what stands before its signature; a power limit takes the clock down one step, and leaves one at or below 100 MHz (log 68). -/
def PowerAndReports : Prop :=
  (∀ s : State, Memory.wf s.mem = true → ∃ t, exec .powerUp s = .next t ∧
    (∀ a, Memory.read t.mem a = if isExt a then Memory.read s.mem a else 0) ∧ t.cores = [] ∧ t.graphs = [] ∧ t.spaces = [] ∧
    t.net = [] ∧ t.tasks = [] ∧ t.hub.bootState = 0 ∧ t.hub.staging = [] ∧ t.hub.nonce = 0 ∧ t.hub.hwin = State.reset.hub.hwin ∧
    t.hub.hint = State.reset.hub.hint ∧ t.hub.attPub = P256.publicOf identityKey) ∧
  (∀ s : State, exec .attestRequest s = .next { s with hub := { s.hub with attest := some s.hub.nonce } }) ∧
  (∀ (s : State) (n : BitVec 256), s.hub.attest = some n → ∃ t, exec .attestReport s = .next t ∧ t.hub.attest = none ∧
    t.hub.report.length = 0xC0 ∧ t.hub.report.take 32 = bvBytes n 32 ∧
    (t.hub.report.drop 32).take 32 = (bvBytes (if s.hub.bootState = 5 then s.hub.imageHash else 0) 32).reverse ∧
    (t.hub.report.drop 64).take 4 = bvBytes s.hub.imageVersion 4 ∧
    (t.hub.report.drop 80).take 8 = bvBytes s.capacity.gen 8 ∧ (t.hub.report.drop 88).take 40 = List.replicate 40 0 ∧
    t.hub.report.drop 128 = pairBytes (P256.sign identityKey (sha256 (t.hub.report.take 128)) s.fresh) ∧
    t.cores = s.cores ∧ t.mem = s.mem) ∧
  (∀ s : State, s.hub.attest = none → exec .attestReport s = .next s) ∧
  (∀ s : State, exec .powerLimit s = .next { s with clock := if 100 < s.clock then s.clock - 100 else s.clock })

end Sys2Proof.Claim

/-- R361, R362, R364-R366: boot, self-test, attestation and power. Clauses that rest on the model's choices: POWER_LIMIT leaves a clock
at or below 100 MHz as it is (log 68, PRESUMED: R366 gives no floor); the image hash is over the whole image, a download outside STATE 0,
2 and 3 is ignored, and the nonce is the one captured at the request (log 44, DEDUCED); the hash is zero outside STATE 5 (log 67); how the
repair records lie in their bytes (log 74) and how the header divides (log 121); ATTPUB before POWER_UP (log 123); the byte order of keys and signatures, and the identity key itself (log 8). -/
def Obligations.BootAndPower : Prop := BootStates ∧ PowerAndReports

/-! Engines, barriers, the matrix unit, tasks and kills. -/

namespace Sys2Proof.Claim

/-- No error stands in storage. -/
def Clean (s : State) : Prop := s.bad = [] ∧ s.soft = []

/-- An activation holds a slot. -/
def Holds (s : State) (c i act : Nat) : Prop := ∃ a, (s.slot c i).act = some a ∧ a.id = act

/-- No priority request stands against a commit of these lines by an engine or an owner (R232). -/
def Unheld (s : State) (lines : List Nat) : Prop := s.grants none none lines = true

/-- An engine's data have been written, and its message counts as pending from now on (R32): as one that arrives next, of what stood
in the inboxes and the parking areas before. -/
def Delivers (s t : State) (m : Message) : Prop :=
  ∃ u : State, u.net = s.net ++ [{ m with fromSlot := writtenMark }] ∧ u.parked = s.parked ∧
    (∀ c, (u.core c).inbox = (s.core c).inbox) ∧ exec (.messageArrival s.net.length) u = .next t

/-- An engine fault joins those that wait for its issuer (R209). -/
def Faulted (s t : State) (c i : Nat) (tval k0 k1 : W64) : Prop :=
  ∃ o, (t.slot c i).engine = (s.slot c i).engine ++ [{ order := o, tval := tval, k0 := k0, k1 := k1 }]

/-- R203, R205, R209: a hart moves a copy: the bytes of its source reach its destination, and when the copy is whole its arrival
leaves; at an address that fails it stops with an engine fault for the issuer that names the cause (engineCause, log 30), the address,
the copy's PC and its batch. Stated for a copy of one run that lies in one line on either side. -/
def CopiesMove : Prop :=
  (∀ (s u : State) (cl i k : Nat) (r : Request) (d : CopyDesc), s.kickAt cl i = some (r, d) → Clean s → Memory.wf s.mem = true →
    r.progress = 0 → r.ahead = [] → r.stamp.side = .none → d.dkind = true → d.n1 = 1 → d.n2 = 1 → 1 ≤ d.run → d.src.toNat % 64 + d.run ≤ 64 →
    d.dst.toNat % 64 + d.run ≤ 64 →
    s.engineXlate (hartOf cl) r.stamp.asid .none .load d.src = (u, .ok k) → isExt k = false →
    isExt (tcmKey d.dcore.toNat d.dst.toNat) = false →
    let q := tcmKey d.dcore.toNat d.dst.toNat
    Unheld s [q / 64] →
    ∃ t, exec (.copyKick cl i) s = .next t ∧
      (∀ j, j < d.run → Memory.read t.mem (q + j) = Memory.read s.mem (k + j)) ∧
      (∀ a, (a < q ∨ q + d.run ≤ a) → Memory.read t.mem a = Memory.read s.mem a) ∧
      (∀ x ∈ t.requests, x.tag = r.tag → ∃ y ∈ s.requests, y.tag = r.tag ∧ x.progress = y.progress + d.run) ∧
      (d.arrv = true → ∃ m, Delivers s t m ∧ m.dst = d.dcore ∧ m.typ = d.typ ∧
        m.payload = [d.dst, BitVec.ofNat 64 d.run, r.batch.setWidth 64]) ∧
      (d.arrv = false → t.net = s.net)) ∧
  (∀ (s u : State) (cl i code : Nat) (r : Request) (d : CopyDesc), s.kickAt cl i = some (r, d) → r.progress = 0 →
    r.ahead = [] → 1 ≤ r.total → s.engineXlate (hartOf cl) r.stamp.asid r.stamp.side .load d.src = (u, .error code) → Holds s r.core r.slot r.act →
    ∃ t, exec (.copyKick cl i) s = .next t ∧ (∀ x ∈ t.requests, x.tag = r.tag → x.stopped = true) ∧ t.mem = s.mem ∧
      Faulted s t r.core r.slot d.src r.pc (BitVec.ofNat 64 (engineCause code + r.batch.toNat * 256))) ∧
  (∀ (d : CopyDesc) (j a b : Nat), j < d.run → a < d.n1 → b < d.n2 →
    d.byteAt (j + d.run * (a + d.n1 * b)) =
      (BitVec.ofInt 64 (d.src.toInt + a * d.sst1.toInt + b * d.sst2.toInt + j),
       BitVec.ofInt 64 (d.dst.toInt + a * d.dst1.toInt + b * d.dst2.toInt + j), d.run - j))

/-- R211: the shuttle delivers a block of a deal to the core and the offset of its number, with its arrival; the next block leaves and
arrives in one step, or leaves first and arrives later, those for one core in the order they left; what a commit has changed of the
source since is read again (R235); an address that fails stops it with an engine fault. A cluster's deals are worked in any order
(R368). A deal of a killed activation still delivers what has left (R327). -/
def DealsDeliver : Prop :=
  (∀ (s : State) (cl i : Nat) (r : Request) (d : Deal) (src len : W64), s.dealAt cl i = some (r, d, src, len) ↔
    ∃ sh, d = dealOf sh ∧ r.work = .deal sh src len ∧ (s.requests.filter (fun r => r.at cl && !r.done && (match r.work with
      | .deal .. => true
      | _ => false)))[i]? = some r) ∧
  (∀ (s : State) (act : Nat) (r : Request), r ∈ s.requests → r.act = act → r.progress ≠ 0 →
    { r with stopped := true } ∈ (s.dropRequests act).requests) ∧
  ∀ (s u : State) (cl i : Nat) (r : Request) (sh src len : W64),
    s.dealAt cl i = some (r, dealOf sh, src, len) → r.work = .deal sh src len → r.stamp.side = .none → Memory.wf s.mem = true →
    let d := dealOf sh
    let b := r.progress
    let n := d.size len.toNat b
    let dst (b : Nat) : Nat := Id.compute (Id.die r.core) (Id.cluster r.core) (d.core b)
    let key (b : Nat) : Nat := tcmKey (dst b) (d.tcm b)
    let arrives (t : State) (b : Nat) (x : List Byte) : Prop :=
      (∀ j, (h : j < x.length) → Memory.read t.mem (key b + j) = x[j]) ∧
      (∀ a, (a < key b ∨ key b + x.length ≤ a) → Memory.read t.mem a = Memory.read s.mem a) ∧
      ∃ m, Delivers s t m ∧ m.dst.toNat = dst b % 65536 ∧ m.typ = BitVec.ofNat 8 d.typ ∧
        m.payload = [BitVec.ofNat 64 (d.tcm b), BitVec.ofNat 64 x.length, BitVec.ofNat 64 b]
    (∀ x, r.flight = [] → s.engineRead (hartOf cl) r.stamp (src + BitVec.ofNat 64 (b * d.block)) n n = (u, .ok x) →
      Unheld u (linesOf (key b) (pieceBytes x).length) →
      ∃ t, exec (.shuttleBlock (.deliver cl i)) s = .next t ∧ arrives t b (pieceBytes x)) ∧
    (∀ x, r.stopped = false → b < r.total →
      s.engineRead (hartOf cl) r.stamp (src + BitVec.ofNat 64 (b * d.block)) n n = (u, .ok x) →
      ∃ t, exec (.shuttleBlock (.leave cl i)) s = .next t ∧ t.mem = s.mem ∧ t.net = s.net ∧
        ∀ y ∈ t.requests, y.tag = r.tag → y.flight = r.flight ++ [(b, x)] ∧
          ∃ w ∈ s.requests, w.tag = r.tag ∧ y.progress = w.progress + 1) ∧
    (∀ (k e : Nat) (x : List (Nat × List Byte)), r.flight[k]? = some (e, x) →
      ((∀ f ∈ r.flight.take k, d.core f.1 ≠ d.core e) →
        (s.unchanged x = true → Unheld s (linesOf (key e) (pieceBytes x).length) →
          ∃ t, exec (.shuttleBlock (.land cl i k)) s = .next t ∧ arrives t e (pieceBytes x) ∧
            ∀ y ∈ t.requests, y.tag = r.tag → y.flight = r.flight.take k ++ r.flight.drop (k + 1)) ∧
        (∀ z, s.unchanged x = false →
          s.engineRead (hartOf cl) r.stamp (src + BitVec.ofNat 64 (e * d.block)) (d.size len.toNat e) (d.size len.toNat e) = (u, .ok z) →
          Unheld u (linesOf (key e) (pieceBytes z).length) →
          ∃ t, exec (.shuttleBlock (.land cl i k)) s = .next t ∧ arrives t e (pieceBytes z) ∧
            ∀ y ∈ t.requests, y.tag = r.tag → y.flight = r.flight.take k ++ r.flight.drop (k + 1))) ∧
      ((∃ f ∈ r.flight.take k, d.core f.1 = d.core e) → exec (.shuttleBlock (.land cl i k)) s = .next s)) ∧
    (∀ code va, r.flight = [] →
      s.engineRead (hartOf cl) r.stamp (src + BitVec.ofNat 64 (b * d.block)) n n = (u, .error (some (code, va))) →
      Holds s r.core r.slot r.act →
      ∃ t, exec (.shuttleBlock (.deliver cl i)) s = .next t ∧ t.mem = s.mem ∧
        Faulted s t r.core r.slot va r.pc (BitVec.ofNat 64 (engineCause code + 16 + r.batch.toNat * 256)))

/-- R206, R207: a sealed batch finishes when its requests are done and no earlier batch of its activation stands: its word goes
up by one (one that fails correction keeps its error, log 109), and with NOTE a message of type 0xFB tells the issuer its number. -/
def BatchesFinish : Prop :=
  ∀ (s : State) (cl i : Nat) (b : Batch), Memory.wf s.mem = true →
    (s.batches.filter (fun b => Id.clusterNo b.core == cl))[i]? = some b →
    (∀ x ∈ (s.batches.filter (fun b => Id.clusterNo b.core == cl)).take i, ¬(x.core = b.core ∧ x.slot = b.slot ∧ x.act = b.act)) →
    let mine (r : Request) : Prop := r.act = b.act ∧ r.core = b.core ∧ r.batch = b.n
    (∀ r ∈ s.requests, mine r → r.done = true) → (b.word ≠ 0 → Unheld s [b.word / 64]) →
    ∃ t, exec (.batchFinish cl i) s = .next t ∧ b ∉ t.batches ∧ (∀ r ∈ t.requests, ¬ mine r) ∧
      (b.word ≠ 0 → s.badRange b.word 8 = true → t.mem = s.mem) ∧
      (b.word ≠ 0 → s.badRange b.word 8 = false → bytesNat (Memory.readN t.mem b.word 8) = (bytesNat (Memory.readN s.mem b.word 8) + 1) % 2 ^ 64 ∧
        ∀ a, (a < b.word ∨ b.word + 8 ≤ a) → Memory.read t.mem a = Memory.read s.mem a) ∧
      (b.word = 0 → t.mem = s.mem) ∧
      ((∃ r ∈ s.requests, mine r ∧ ∃ d, r.work = .copy d ∧ d.note = true) →
        ∃ m, t.net = s.net ++ [m] ∧ m.dst = BitVec.ofNat 16 b.core ∧ m.typ = 0xFB ∧ m.payload = [b.n.setWidth 64]) ∧
      ((∀ r ∈ s.requests, mine r → ∀ d, r.work = .copy d → d.note = false) → t.net = s.net)

/-- The i-th service activation of type 0xFD has taken the line of its handler (R57, R220): the slot that holds it, the request it
works, and the state left. -/
def OwnerReady (s : State) (i c j : Nat) (q : OwnerReq) (u : State) : Prop :=
  s.ownerSlots[i]? = some (c, j) ∧ (s.slot c j).act.bind (·.owner) = some q ∧ ∃ e, s.fetchHead c j = .go u e

/-- R219-R222: the service activation of an owner reads the old bytes, stores what the table gives over them, sends the old bytes
back and ends; of a SCATA it adds its lanes, INT32 modulo 2^32 or FP32 in RNE, with no flag. Where the bytes hold an uncorrectable
error, the requester of an atomic is answered without a result, and an engine fault of cause 10 and request 3 with the physical
address waits for it, which is the model's reading (log 29, DEDUCED). -/
def OwnersServe : Prop :=
  (∀ (s u : State) (i c j : Nat) (q : OwnerReq), OwnerReady s i c j q u → (∀ int l, q.op ≠ .scata int l) → Clean u →
    Memory.wf u.mem = true → Unheld u [q.key / 64] →
    let old := Memory.readN u.mem q.key q.op.size
    let r := q.op.run old
    ∃ t, exec (.ownerRequest i) s = .next t ∧ (t.slot c j).act = none ∧
      (∃ p : Reply, t.replies = u.replies ++ [p] ∧ p.core = q.core ∧ p.slot = q.slot ∧ p.act = q.act ∧ p.old = some old ∧
        p.flags = r.2.setWidth 64) ∧
      (∀ b, r.1 = some b → (∀ k, (h : k < b.length) → Memory.read t.mem (q.key + k) = b[k]) ∧
        ∀ a, (a < q.key ∨ q.key + b.length ≤ a) → Memory.read t.mem a = Memory.read u.mem a) ∧
      (r.1 = none → t.mem = u.mem)) ∧
  (∀ (s u : State) (i c j : Nat) (q : OwnerReq) (r : Request) (int : Bool) (l : List (Nat × Nat × BitVec 32)),
    OwnerReady s i c j q u → q.op = .scata int l → u.requests.find? (fun r => r.tag == q.tag) = some r → r.stopped = false →
    Clean u → Memory.wf u.mem = true → l.Pairwise (fun a b => a.1 + 4 ≤ b.1 ∨ b.1 + 4 ≤ a.1) → Unheld u (laneLines l) →
    ∃ t, exec (.ownerRequest i) s = .next t ∧ (t.slot c j).act = none ∧
      (∀ e ∈ l, bytesNat (Memory.readN t.mem e.1 4) =
        (if int then (bytesNat (Memory.readN u.mem e.1 4) + e.2.2.toNat) % 2 ^ 32
         else (Fop.add FFmt.fp32 .rne (bytesNat (Memory.readN u.mem e.1 4)) e.2.2.toNat).1) % 2 ^ 32) ∧
      (∀ a, (∀ e ∈ l, a < e.1 ∨ e.1 + 4 ≤ a) → Memory.read t.mem a = Memory.read u.mem a) ∧ t.replies = u.replies) ∧
  (∀ (s u : State) (i c j : Nat) (q : OwnerReq), OwnerReady s i c j q u → (∀ int l, q.op ≠ .scata int l) →
    u.badRange q.key q.op.size = true → Holds u q.core q.slot q.act → (q.core, q.slot) ≠ (c, j) →
    ∃ t, exec (.ownerRequest i) s = .next t ∧ (t.slot c j).act = none ∧ t.mem = u.mem ∧
      Faulted u t q.core q.slot (BitVec.ofNat 64 q.key) q.pc (BitVec.ofNat 64 (10 + 3 * 16)) ∧
      ∃ p : Reply, t.replies = u.replies ++ [p] ∧ p.core = q.core ∧ p.slot = q.slot ∧ p.act = q.act ∧ p.old = none)

/-- R201, R217, R281: a fetch of a read stream, a KV row or a gathered strip appends what it finds at the next address to the
queue: in own TCM, the location; the element not aligned, the code of R201; a strip gathered after an
acquire FENCE waits for what comes before it. -/
def QueuesFetch : Prop :=
  ∀ (s : State) (c i : Nat) (q : Fin 16) (va : W64) (n : Nat),
    let x := (s.slot c i).regs.q[q]
    x.nextFetch = some (va, n) →
    ∃ f : Fetched,
      (va.toNat < tcmSize c → n ≤ 4096 - va.toNat % 4096 → (x.kind = 3 → va.toNat % n = 0) → f = .ok (tcmKey c va.toNat)) ∧
      (x.kind = 3 → va.toNat % n ≠ 0 → f = .fail codeMisaligned) ∧
      ((x.kind = 3 ∨ x.kind = 6) → ∃ t, exec (.streamFetch c i q) s = .next t ∧ t.mem = s.mem ∧
        (t.slot c i).regs.q[q] = { x with fetched := x.fetched ++ [f] }) ∧
      (x.kind = 7 → s.stripFenced c i q = false → ∃ t, exec (.gathqStrip c i q) s = .next t ∧ t.mem = s.mem ∧
        (t.slot c i).regs.q[q] = { x with fetched := x.fetched ++ [f] }) ∧
      (x.kind = 7 → s.stripFenced c i q = true → exec (.gathqStrip c i q) s = .next s)

/-- R241: an arrival, its slot's host and peer writes acknowledged, counts at the group's home; the last of a generation
releases it to every member, and the home goes on with the next. The slot's latest arrival names the generation it waits for. -/
def BarriersCount : Prop :=
  ∀ (s : State) (i : Nat) (r : Arrival) (g : Group), s.arrivals[i]? = some r → (s.slot r.core r.slot).ext = [] →
    s.group r.asid r.group = some g →
    let h := g.homeOf r.side
    r.core ∉ h.arrived → h.next = [] →
    ∃ t g', exec (.gbarArrival i) s = .next t ∧ t.arrivals = s.arrivals.take i ++ s.arrivals.drop (i + 1) ∧ t.mem = s.mem ∧
      t.group r.asid r.group = some g' ∧
      (Holds s r.core r.slot r.act →
        (∀ x ∈ s.arrivals.drop (i + 1), ¬(x.core = r.core ∧ x.slot = r.slot ∧ x.act = r.act ∧ x.group = r.group)) →
        ∀ b ∈ (t.slot r.core r.slot).bars, b.group = r.group → b.gen = some h.gen ∧ b.released = false) ∧
      (h.arrived.length + 1 < g.members.length →
        (g'.homeOf r.side) = { h with arrived := r.core :: h.arrived } ∧ t.releases = s.releases) ∧
      (h.arrived.length + 1 = g.members.length →
        (g'.homeOf r.side) = { gen := h.gen + 1, arrived := [], next := [] } ∧
        (t.releases.map (·.core)) = s.releases.map (·.core) ++
          g.members.map (fun m => if r.side = .mirror then m.toNat + 4096 else m.toNat) ∧
        ∀ x ∈ t.releases.drop s.releases.length, x.gen = h.gen ∧ x.group = r.group ∧ x.asid = r.asid)

end Sys2Proof.Claim

/-- R201, R203, R205-R207, R209, R211, R217, R219-R222, R241, R281: what the engines, the owners and the barrier homes do. The
model's readings in it: that an owner which meets an uncorrectable error reports cause 10, request 3 and the physical address (log 29,
DEDUCED; R209 does not say so), that a copy hart works the copies of one slot oldest first (log 25, DEDUCED), the cause of an unreachable
peer (log 30), a batch word in error (log 109), a hart chunk as one step (log 21), and the moment a gathered strip is read. -/
def Obligations.EnginesWork : Prop :=
  CopiesMove ∧ DealsDeliver ∧ BatchesFinish ∧ OwnersServe ∧ QueuesFetch ∧ BarriersCount

namespace Sys2Proof.Claim

/-- What the arbiter of an octet visits next. -/
def visited (s : State) (o : Nat) : MUnit := s.nextVisit (octetBase o) (s.munit (octetBase o)) 20

/-- R250, R252, R258, R261-R263: the unit starts the oldest waiting command of the core its arbiter visits, with the operands it
reads; a fault found is recorded, where VALID is not set as of the slot's last commit (R95), in MFR and MFRX of the issuing activation, whose commands that have not started go and count in
CANCEL; where the activation has ended, the fault goes to type 0xFE on the issuing core. -/
def CommandsStart : Prop :=
  (∀ (s : State) (o : Nat) (c : MCmd) (r : List MCmd), let u := visited s o
    u.visit < 8 → (s.waiting u (octetBase o + u.visit)).filter (fun m => u.taken.contains m.issue) = c :: r →
    let d := s.startReads c
    ∃ t, exec (.matrixCommandStart o) s = .next t ∧ t.mem = s.mem ∧
      (t.munits.get (octetBase o) MUnit.idle).running = u.running ++ [{ cmd := c, flits := d.2.1, fault := d.2.2 }] ∧
      (∀ f a, d.2.2 = some f → (s.slot c.core c.slot).act = some a → a.id = c.act →
        bit (s.slot c.core c.slot).oldest.mfrx 63 = false →
        let x := (t.slot c.core c.slot).regs
        x.mfrx = setFld (mfrxWord c.num f.opnd f.cause) 48 8
          (min ((s.core c.core).mq.length - (t.core c.core).mq.length) 255) ∧
        x.mfr = c.pc &&& 0x01FFFFFFFFFFFFFE ∧
        (∃ k, (t.slot c.core c.slot).matrix =
          (s.slot c.core c.slot).matrix ++ [{ order := k, tval := f.va, k0 := c.pc, k1 := x.mfrx }]) ∧
        ∀ m ∈ (t.core c.core).mq, m.act = c.act → ∃ e ∈ (t.munit c.core).running, e.cmd.act = c.act ∧ e.cmd.num = m.num) ∧
      (∀ f, d.2.2 = some f → ¬ Holds s c.core c.slot c.act →
        ∃ m n, t.net = s.net ++ [m] ∧ m.dst = BitVec.ofNat 16 c.core ∧ m.typ = 0xFE ∧
          m.payload.take 3 = [c.pc, f.va, setFld (mfrxWord c.num f.opnd f.cause) 48 8 n])) ∧
  (∀ (s : State) (o : Nat), (∀ i, i < 8 → s.waiting (s.munit (octetBase o)) (octetBase o + i) = []) →
    ∃ t, exec (.matrixCommandStart o) s = .next t ∧ t.mem = s.mem ∧ t.cores = s.cores) ∧
  (∀ (s : State) (u : MUnit) (c : Nat) (m o : MCmd), m ∈ s.waiting u c → o ∈ (s.core m.core).mq → o.act = m.act → m.after ≤ o.num) ∧
  (∀ num opnd cause n : Nat, opnd < 8 → cause < 16 → let w := setFld (mfrxWord num opnd cause) 48 8 n
    bit w 63 = true ∧ fld w 0 32 = num % 2 ^ 32 ∧ fld w 32 3 = opnd ∧ fld w 40 4 = cause ∧ fld w 48 8 = n % 256)

/-- R250, R258, R261, R264: a command completes: it leaves the unit and its core's queue; into a TCM accumulator it writes its
results, one FP32 or INT32 word a row and column, and no other byte, which no priority request withholds (R235); for a window it
computes from +0 and adds each result to the window's word as ARED does, an INT32 sum modulo 2^32, an FP32 sum rounded in RNE (R225,
R257); its flags join MSTAT, those of the window's adders not (R261). A command that met a fault, or with a
zero dimension, writes nothing. That it reads the accumulator and writes all its results in this one step is the model's choice (log
22, DESIGN CHOICE): R258 leaves open when it reads and writes before it completes. -/
def CommandsComplete : Prop :=
  ∀ (s : State) (o : Nat) (r : Running), (s.munit (octetBase o)).running = [r] → Memory.wf s.mem = true →
    let c := r.cmd
    let none_ := r.fault.isSome = true ∨ c.m = 0 ∨ c.n = 0 ∨ c.k = 0
    ∃ t, exec (.matrixCommandComplete o) s = .next t ∧ (t.munits.get (octetOf (octetBase o)) MUnit.idle).running = [] ∧
      (∀ m ∈ (t.core c.core).mq, ¬(m.act = c.act ∧ m.num = c.num)) ∧
      (none_ → t.mem = s.mem) ∧
      (¬ none_ → bit c.target 63 = false → c.m ≤ 16 → c.n ≤ 16 →
        let k := tcmKey c.core c.target.toNat
        let old (i j : Nat) : Nat := bytesNat (Memory.readN s.mem (k + 64 * i + 4 * j) 4)
        let res := c.results (settleFlits s c r.flits (s.fresh + 1)) old
        (∀ i j row v, i < c.m → res.1[i]? = some row → j < row.length → row.length ≤ 16 → row[j]? = some v →
          bytesNat (Memory.readN t.mem (k + 64 * i + 4 * j) 4) = v % 2 ^ 32) ∧
        (Holds s c.core c.slot c.act →
          let x := s.slot c.core c.slot
          let fl : W64 := res.2.setWidth 64
          let y := (t.slot c.core c.slot).regs.mstat
          y &&& fl = fl ∧ (x.chunk = none → x.ended = none → y = x.regs.mstat ||| fl)) ∧
        (∀ a, (∀ i, i < res.1.length → a < k + 64 * i ∨ k + 64 * i + 64 ≤ a) → Memory.read t.mem a = Memory.read s.mem a)) ∧
      (∀ k, ¬ none_ → bit c.target 63 = true → s.windowAt c.core c.stamp c.target 1024 = some k → c.m ≤ 16 → c.n ≤ 16 →
        let res := c.results (settleFlits s c r.flits (s.fresh + 1)) (fun _ _ => 0)
        let word (u : State) (i j : Nat) : Nat := bytesNat (Memory.readN u.mem (k + 64 * i + 4 * j) 4)
        (∀ i j, i < c.m → j < c.n → let v := (res.1.getD i []).getD j 0
          word t i j % 2 ^ 32 = (if fld c.fa 0 8 = 7 then word s i j + v
            else (Fop.add FFmt.fp32 .rne (word s i j) v).1) % 2 ^ 32) ∧
        (Holds s c.core c.slot c.act →
          let x := s.slot c.core c.slot
          let fl : W64 := res.2.setWidth 64
          let y := (t.slot c.core c.slot).regs.mstat
          y &&& fl = fl ∧ (x.chunk = none → x.ended = none → y = x.regs.mstat ||| fl)) ∧
        (∀ a, (∀ i, i < c.m → a < k + 64 * i ∨ k + 64 * i + 4 * c.n ≤ a) → Memory.read t.mem a = Memory.read s.mem a))

/-- R298, R300, R301: the order reports of a cycle hold the smallest unfinished key of each address space on every die (that all
four stand from the same cycle is the model's choice, log 84); a cluster's queue
dispatches its lowest firm entry to a core that can take it, as a message of type 0xFA. -/
def TasksDispatch : Prop :=
  (∀ (s : State) (d : Nat), d < 4 → ∃ t, exec (.orderReport d) s = .next t ∧ t.mem = s.mem ∧ t.tasks = s.tasks ∧
    ∀ (x : Nat) (a : Asid), x < 4 →
      ((t.reports.get x []).find a.toNat = none → ∀ e ∈ s.tasks, e.stamp.asid = a → e.die ≠ x) ∧
      ∀ k : TaskKey, (t.reports.get x []).find a.toNat = some k →
        (∃ e ∈ s.tasks, e.key = k ∧ e.stamp.asid = a ∧ e.die = x) ∧
        ∀ e ∈ s.tasks, e.stamp.asid = a → e.die = x → k.toNat ≤ e.key.toNat) ∧
  (∀ (s : State) (cl : Nat) (e : TaskEntry), let u := s.refill cl queuePlaces
    lowest (u.tasks.filter (fun t => t.cluster == cl && !t.spilled && t.parent.isNone && t.running.isNone &&
      !u.preempted t.stamp.asid)) = some e → u.takers cl e.stamp.asid ≠ [] →
    ∃ t, exec (.taskDispatch cl) s = .next t ∧ ∃ c ∈ u.takers cl e.stamp.asid, ∃ m, t.net = u.net ++ [m] ∧
      m.dst = BitVec.ofNat 16 c ∧ m.typ = 0xFA ∧ m.task = some e.key ∧ m.stamp = e.stamp ∧
      m.payload = [e.arg, e.key.ts, BitVec.ofNat 64 (e.key.spawner.toNat + e.key.seq.toNat * 2 ^ 16)] ∧
      ∀ x ∈ t.tasks, x.key = e.key → x.stamp.asid = e.stamp.asid → x.running = some (c, 98)) ∧
  (∀ (l : List TaskEntry) (e : TaskEntry), lowest l = some e → e ∈ l ∧ ∀ x ∈ l, e.key.toNat ≤ x.key.toNat)

/-- R327, R331: a kill that reaches a core ends the group's activations in its worker and service slots, drops its messages, saved
contexts and owner requests there, and stops the copies, deals and SCATA its activations asked for; when it has reached every core, the group's home counts no arrivals and its generation
stands. -/
def KillsReach : Prop :=
  (∀ (s : State) (i c : Nat) (k : Kill), s.kills[i]? = some k → c ∉ k.reached → s.provided c = true →
    ∃ t, exec (.killDelivery i c) s = .next t ∧ t.kills = s.kills.set i { k with reached := c :: k.reached } ∧
      (∀ j a, j < 7 → (t.slot c j).act = some a → k.hits a.stamp = false) ∧
      (∀ p ∈ (t.core c).inbox, k.hits p.msg.stamp = false) ∧
      (∀ g, ∀ v ∈ (t.graph g).saved, v.core = c → k.hits v.act.stamp = false) ∧
      (∀ j a, j < 7 → (s.slot c j).act = some a → k.hits a.stamp = true → ∀ r ∈ t.requests, r.act = a.id → r.stopped = true) ∧
      t.mem = s.mem) ∧
  (∀ (s : State) (i : Nat) (k : Kill) (g : Group), s.kills[i]? = some k → (∀ p, s.provided p = true → p ∈ k.reached) →
    s.group k.asid k.group = some g → k.slot ≠ 8 → k.side ≠ .mirror →
    ∃ t g', exec (.killComplete i) s = .next t ∧ t.kills = s.kills.take i ++ s.kills.drop (i + 1) ∧
      t.group k.asid k.group = some g' ∧ g'.own = { gen := g.own.gen, arrived := [], next := [] } ∧ g'.mirror = g.mirror ∧
      g'.members = g.members)

end Sys2Proof.Claim

/-- R250, R252, R258, R261-R264, R298, R300, R301, R327, R331: the matrix unit, the task queues, kills. (When an operand is read,
log 4, and which core's command completes first are free; that the accumulator is read and all results written in the completing step
is the model's choice, log 22.) -/
def Obligations.UnitsWork : Prop := CommandsStart ∧ CommandsComplete ∧ TasksDispatch ∧ KillsReach

namespace Sys2Proof.Claim

/-- The value of an element code in a float format of R253. -/
def elemVal (code c : Nat) : Val :=
  if code = 1 then FFmt.fp16.decode c
  else if code = 2 then FFmt.bf16.decode c
  else if code = 3 ∨ code = 16 ∨ code = 19 then FFmt.e4m3.decode c
  else if code = 4 ∨ code = 17 then FFmt.e5m2.decode c
  else FFmt.e2m1.decode c

/-- The K-group of two formats (R253). -/
def kGroup (fa fb : Nat) : Nat :=
  let g (code : Nat) : Nat := if code = 1 ∨ code = 2 then 8 else if code = 18 then 64 else 16
  min (g fa) (g fb)

/-- Element k of row r of a panel, as the bytes read hold it (R254, R255): o is 0 for A and 1 for B. -/
def panelCode (fl : List Flit) (o : Nat) (f h scl : W64) (r k : Nat) : Nat :=
  let code := fld f 0 8
  let row := h.toNat + r * fld f 16 16
  if code = 19 then
    let start := h.toNat + bytesNat (flitBytes fl (2 + o) (scl.toNat + 4 * (r * fld f 16 16 / 64 + k / 64)) 4)
    match Cx.block (flitBytes fl (6 + o) start 97) with
    | .ok l => l.getD (k % 64) 0
    | _ => 0
  else if code = 18 then (flitByte fl o (row + k / 2)).toNat / (if k % 2 = 0 then 1 else 16) % 16
  else if code = 1 ∨ code = 2 then (flitByte fl o (row + 2 * k)).toNat + 256 * (flitByte fl o (row + 2 * k + 1)).toNat
  else (flitByte fl o (row + k)).toNat

/-- The scale code of the block of element k of row r (R254); 127, a factor of 1, where the format has none. -/
def panelScale (fl : List Flit) (o : Nat) (f scl : W64) (r k : Nat) : Nat :=
  let code := fld f 0 8
  if code = 16 ∨ code = 17 then (flitByte fl (2 + o) (scl.toNat + r * (fld f 16 16 / 32) + k / 32)).toNat
  else if code = 18 then (flitByte fl (2 + o) (scl.toNat + r * (fld f 16 16 / 16) + k / 32)).toNat
  else 127

/-- The values that are not ±0 which a record supplies at row i, column k (R267, R271). -/
def supplied (c : MCmd) (fl : List Flit) (i k : Nat) : List Val :=
  let n := (Rec.nm c.pat).1
  let m := (Rec.nm c.pat).2
  let code := fld c.fa 0 8
  let eb := if code = 1 ∨ code = 2 then 2 else 1
  let at_ (t : Nat) : Nat := c.a.toNat + 64 + t * Rec.size c.pat c.k eb
  let pos (t v : Nat) : Nat :=
    let idx := bytesNat (flitBytes fl 5 (at_ t + Rec.vb c.pat c.k eb + i * Rec.rm c.pat c.k) (Rec.rm c.pat c.k))
    m * (v / n) + idx / 2 ^ (Rec.log2M c.pat * v) % m
  let val (t v : Nat) : Val := elemVal code (bytesNat (flitBytes fl 5 (at_ t + i * Rec.rv c.pat c.k eb + v * eb) eb))
  let entry (j : Nat) : W64 := bytesBv 64 (flitBytes fl 5 (at_ c.terms + 8 * j) 8)
  ((List.range c.terms).flatMap (fun t => ((List.range (n * (c.k / m))).filter (fun v => pos t v == k)).map (val t)) ++
    ((List.range c.nres).filter (fun j => fld (entry j) 0 5 == i && fld (entry j) 16 11 == k)).map
      (fun j => FFmt.fp32.decode (fld (entry j) 32 32))).filter (fun v => !v.isZero)

/-- Element (j, k) of B. -/
def elemB (c : MCmd) (fl : List Flit) (j k : Nat) : Val := elemVal (fld c.fb 0 8) (panelCode fl 1 c.fb c.b c.sb j k)

/-- The products of position k for output (i, j), each with the scale codes of its blocks (R146, R271). -/
def products (c : MCmd) (fl : List Flit) (i j k : Nat) : List (Val × Val × Nat × Nat) :=
  let sb := panelScale fl 1 c.fb c.sb j k
  if c.structured then (supplied c fl i k).map (fun a => (a, elemB c fl j k, 127, sb))
  else [(elemVal (fld c.fa 0 8) (panelCode fl 0 c.fa c.a c.sa i k), elemB c fl j k, panelScale fl 0 c.fa c.sa i k, sb)]

/-- One K-group: from c, its products exactly summed and rounded once in FP32, RNE; the special values in R146's order. -/
def GroupRounds (c : Nat) (ts : List (Val × Val × Nat × Nat)) (out : Nat × Flags) : Prop :=
  let v := FFmt.fp32.decode c
  let nan := v.isNan = true ∨ ∃ t ∈ ts, t.1.isNan = true ∨ t.2.1.isNan = true ∨ t.2.2.1 = 255 ∨ t.2.2.2 = 255
  let bad := ∃ t ∈ ts, (t.1.isZero = true ∧ t.2.1.isInf = true) ∨ (t.1.isInf = true ∧ t.2.1.isZero = true)
  let inf (neg : Bool) := v = .inf neg ∨ ∃ t ∈ ts, (t.1.isInf = true ∨ t.2.1.isInf = true) ∧ (t.1.sign != t.2.1.sign) = neg
  let x : ℚ := valQ v + (ts.map (fun t => valQ t.1 * valQ t.2.1 * (2 : ℚ) ^ ((t.2.2.1 : Int) + t.2.2.2 - 254))).sum
  (nan → out = (0x7FC00000, 0)) ∧
  (¬ nan → bad → out = (0x7FC00000, Fl.nv)) ∧
  (¬ nan → ¬ bad → inf true → inf false → out = (0x7FC00000, Fl.nv)) ∧
  (¬ nan → ¬ bad → inf true → ¬ inf false → out = (0xFF800000, 0)) ∧
  (¬ nan → ¬ bad → ¬ inf true → inf false → out = (0x7F800000, 0)) ∧
  (¬ nan → ¬ bad → ¬ inf true → ¬ inf false →
    (x ≠ 0 → Rounds FFmt.fp32 .rne false (decide (x < 0)) |x| out) ∧
    (x = 0 → out = (if v = .zero true ∧ ∀ t ∈ ts, (t.1.isZero || t.2.1.isZero) = true ∧ (t.1.sign != t.2.1.sign) = true
      then 0x80000000 else 0, 0)))

end Sys2Proof.Claim

/-- R146, R254, R255, R261, R271: what a command computes over the operand bytes it read. For each output (i, j), i < M and j < N, INT8
products join the old INT32 value modulo 2^32 with no flag; else the K-groups of G positions are taken in ascending order, and each
rounds its exact sum once over the value before it. MMA's position gives one product, an MX block's scales included; MMAS gives one for
each value a record supplies there, none where it supplies none, and SKNF where B holds an infinity or a NaN beside such a position. The
flags are those of all groups together. -/
def Obligations.MatrixResults : Prop :=
  ∀ (c : MCmd) (fl : List Flit) (old : Nat → Nat → Nat), let fa := fld c.fa 0 8
    let fb := fld c.fb 0 8
    let res := c.results fl old
    let out (i j : Nat) : Nat := (res.1.getD i []).getD j 0
    let g := kGroup fa fb
    fmtKnown fa = true → fmtKnown fb = true → fmtPair fa fb = true → kOk fa fb c.k = true →
    (c.structured = true → 1 ≤ fa ∧ fa ≤ 4) →
    res.1.length = c.m ∧ (∀ i, i < c.m → (res.1.getD i []).length = c.n) ∧
    (fa = 7 → res.2 = 0 ∧ ∀ i j, i < c.m → j < c.n → (out i j : Int) =
      ((old i j : Int) + ((List.range c.k).map (fun k => toSigned 8 (panelCode fl 0 c.fa c.a c.sa i k) *
        toSigned 8 (panelCode fl 1 c.fb c.b c.sb j k))).sum) % 2 ^ 32) ∧
    (fa ≠ 7 → ∃ (acc : Nat → Nat → Nat → Nat) (flags : Nat → Nat → Nat → Flags),
      (∀ i j, i < c.m → j < c.n → acc i j 0 = old i j ∧ out i j = acc i j (c.k / g) ∧
        ∀ n, n < c.k / g → GroupRounds (acc i j n) ((List.range g).flatMap (fun k => products c fl i j (g * n + k)))
          (acc i j (n + 1), flags i j n)) ∧
      ∀ b, b < 8 → (res.2.getLsbD b = true ↔ ∃ i j, i < c.m ∧ j < c.n ∧
        ((∃ n, n < c.k / g ∧ (flags i j n).getLsbD b = true) ∨
          (b = 5 ∧ c.structured = true ∧ ∃ k, k < c.k ∧ supplied c fl i k = [] ∧
            ((elemB c fl j k).isInf = true ∨ (elemB c fl j k).isNan = true)))))

/-! Links, peers, repair. -/

namespace Sys2Proof.Claim

/-- R351, R352, R355: a flit is counted; the one whose turn it is moves the receiver's number on, a duplicate or one ahead of its turn
does not; one with a CRC error is replayed; a peer port does the same; a retraining link holds its traffic. -/
def FlitsCount : Prop :=
  (∀ (s : State) (l : Nat) (atB ok : Bool) (seq : Nat) (lanes : List (Nat × Nat)), l < 18 →
    let x := Lnk.get s l
    x.down = false → x.training = false →
    ∃ t, exec (.flitReceive l atB seq ok lanes) s = .next t ∧ t.mem = s.mem ∧ t.cores = s.cores ∧
      let y := Lnk.get t l
      y.flits = x.flits + 1 ∧ y.winFlits = x.winFlits + 1 ∧ y.rate = x.rate ∧
      (ok = true → y.crcerr = x.crcerr ∧ y.replay = x.replay ∧ y.lanes = x.lanes ∧
        y.seqB = (if atB = true ∧ seq = x.seqB then seq + 1 else x.seqB) ∧
        y.seqA = (if atB = false ∧ seq = x.seqA then seq + 1 else x.seqA)) ∧
      (ok = false → y.crcerr = x.crcerr + 1 ∧ y.replay = x.replay + 1 ∧ y.winReplay = x.winReplay + 1 ∧ y.seqA = x.seqA ∧
        y.seqB = x.seqB)) ∧
  (∀ (s : State) (l : Nat) (atB ok : Bool) (seq : Nat) (lanes : List (Nat × Nat)), 18 ≤ l → l < 30 →
    let x := s.ports.get (l - 18) Port.init
    ∃ t, exec (.flitReceive l atB seq ok lanes) s = .next t ∧ t.ports.get (l - 18) Port.init =
      (if ok then { x with
         flits := x.flits + 1
         seqB := if atB = true ∧ seq = x.seqB then seq + 1 else x.seqB
         seqA := if atB = false ∧ seq = x.seqA then seq + 1 else x.seqA }
       else { x with flits := x.flits + 1, crcerr := x.crcerr + 1, replay := x.replay + 1 })) ∧
  (∀ (s : State) (l : Nat) (atB ok : Bool) (seq : Nat) (lanes : List (Nat × Nat)), l < 18 →
    ((Lnk.get s l).down = true ∨ (Lnk.get s l).training = true) →
    exec (.flitReceive l atB seq ok lanes) s = .next s)

/-- An event of HEALTH: REPLACE and SVC set, its kind in LAST, EVENTS one more, and its entry in the repair log (R338, R339). -/
def HealthEvent (s t : State) (kind : Nat) (what : Repaired) : Prop :=
  bit t.hub.health 0 = true ∧ bit t.hub.health 1 = true ∧ fld t.hub.health 8 8 = kind ∧
    fld t.hub.health 16 16 = min (fld s.hub.health 16 16 + 1) 65535 ∧ t.hub.repairLog = s.hub.repairLog ++ [RepairEvent.mk kind what]

/-- What a step of a link tells: with LNK_TRAP.EN and a CORE that the module provides, one message of TYPE to it from the treadle, in
address space 0, group 0, at LPRI 7, with no tile and no NACKREQ, its g1 the link, g2 the entry, g3 LNK_RATE; else none. The link
interrupt is a write of 2 at HINT2's address (R354, R358). -/
def Tells (s t : State) (l : Nat) (e : W64) : Prop :=
  let x := Lnk.get s l
  let c := fld x.trap 0 16
  let heard := bit x.trap 24 = true ∧ Id.isCompute c = true ∧ s.provided c = true
  (heard → ∃ m, t.net = s.net ++ [m] ∧ m.dst = BitVec.ofNat 16 c ∧ m.typ = BitVec.ofNat 8 (fld x.trap 16 8) ∧ m.stamp.src = 0x3FFF ∧
    m.stamp.asid = 0 ∧ m.stamp.group = 0 ∧ m.stamp.lpri = 7 ∧ m.stamp.node = 0 ∧ m.stamp.tx = 0 ∧ m.stamp.ty = 0 ∧ m.stamp.tz = 0 ∧
    m.nackReq = false ∧ m.nack = false ∧ m.payload = [BitVec.ofNat 64 l, e, Lnk.rateWord (Lnk.get t l)]) ∧
  (¬ heard → t.net = s.net) ∧
  (Memory.wf s.mem = true → bit s.hub.hint[0] 0 = false → bit s.hub.hint[2] 0 = true → fld s.hub.hint[2] 47 1 = 0 →
    bytesNat (Memory.readN t.mem (hostKey (fld s.hub.hint[2] 2 45 * 4)) 4) = 2)

/-- R339, R351, R353, R354: at a window's end within budget the window starts again and nothing else happens; over it, the link takes
one step: a lane to a spare (HEALTH event 6), a rate code less (event 7 below 48 GT/s, none at or above), or a link that cannot meet
its budget (event 8), each with its entry in the log, its degrade message and the link interrupt. A retrain
begins at once unless a pre-emption on either die defers it; it comes up at the target; one that ends without success retires the link
(event 9), which is the model's reading of a link that cannot train (log 45, DEDUCED). -/
def LinksDegrade : Prop :=
  (∀ (s : State) (l : Nat), l < 18 → let x := Lnk.get s l
    x.down = false → 2 ^ fld x.budget 16 5 ≤ x.winFlits →
    (x.winReplay ≤ fld x.budget 0 16 →
      exec (.linkWindowEnd l) s = .next (Lnk.put s l { x with window := [], winReplay := 0, winFlits := 0 })) ∧
    (fld x.budget 0 16 < x.winReplay → ∃ t e, exec (.linkWindowEnd l) s = .next t ∧
      let y := Lnk.get t l
      y.log = (if x.log.length < 16 then x.log else x.log.drop 1) ++ [e] ∧ y.winFlits = 0 ∧ y.winReplay = 0 ∧
      (bit y.rate 9 = true → x.training = false → y.training = !s.stoppingOn l) ∧ fld e 20 3 = fld y.rate 0 3 ∧ Tells s t l e ∧
      (∀ v, bit x.budget 24 = false → x.worst = some v → fld e 0 8 = 1 ∧ fld e 8 4 = v.mod % 16 ∧ fld e 12 7 = v.lane % 128 ∧
        bit e 19 = v.dir ∧ bit y.rate 9 = true ∧ y.retired.map (·.1) = v :: x.retired.map (·.1) ∧
        HealthEvent s t 6 (.lane l v.mod v.dir v.lane)) ∧
      ((bit x.budget 24 = true ∨ x.worst = none) → 0 < fld x.rate 0 3 → fld e 0 8 = 2 ∧
        fld y.rate 0 3 = fld x.rate 0 3 - 1 ∧ fld y.rate 4 3 = fld x.rate 0 3 - 1 ∧ bit y.rate 9 = true ∧
        (fld y.rate 0 3 < 2 → HealthEvent s t 7 (.link l)) ∧
        (2 ≤ fld y.rate 0 3 → t.hub.health = s.hub.health ∧ t.hub.repairLog = s.hub.repairLog)) ∧
      ((bit x.budget 24 = true ∨ x.worst = none) → fld x.rate 0 3 = 0 → fld e 0 8 = 3 ∧ y.rate = x.rate ∧
        HealthEvent s t 8 (.link l)))) ∧
  (∀ (s : State) (l : Nat), l < 18 → (2 ^ fld (Lnk.get s l).budget 16 5 > (Lnk.get s l).winFlits ∨ (Lnk.get s l).down = true) →
    exec (.linkWindowEnd l) s = .next s) ∧
  (∀ (s : State) (l : Nat) (ok : Bool), l < 18 → let x := Lnk.get s l
    x.down = false → x.training = true →
    ∃ t, exec (.retrainDone l ok) s = .next t ∧ let y := Lnk.get t l
      bit y.rate 9 = false ∧ y.training = false ∧ (ok = true → fld y.rate 0 3 = fld x.rate 4 3 ∧ y.down = false ∧ y.log = x.log) ∧
      (ok = false → y.down = true ∧ ∃ e, y.log = (if x.log.length < 16 then x.log else x.log.drop 1) ++ [e] ∧ fld e 0 8 = 4 ∧ fld e 20 3 = 0 ∧
        Tells s t l e ∧ HealthEvent s t 9 (.link l)))

/-- R15, R32, R33, R236, R355: a peer that is lost loses the writes to it, each counted once in DROPPED of one port; a peer's write reaches device
memory that the module has, or a TCM with a data arrival of its type, 0xF9 where it names none (log 46), which carries the TCM address
and the length (and no sequence, log 105). Into a die whose hub link is retired none gets (R354). -/
def PeersWrite : Prop :=
  (∀ (s : State) (p : Nat), p < 4096 → p ∉ s.unreachable → ∃ t, exec (.peerUnreachable p) s = .next t ∧
    t.unreachable = s.unreachable ++ [p] ∧
    (let lost := (s.cores.flatMap (fun k => k.2.slots.flatMap (fun x => x.2.ext.filter (fun v => ofPeer p v.key)))).length
     ∃ n, n < 12 ∧ (t.ports.get n Port.init).dropped = (s.ports.get n Port.init).dropped + BitVec.ofNat 64 lost ∧
      ∀ k, k ≠ n → t.ports.get k Port.init = s.ports.get k Port.init) ∧
    ∀ c i, (t.slot c i).ext = (s.slot c i).ext.filter (fun v => !ofPeer p v.key)) ∧
  (∀ (s : State) (pa : Nat) (l : List Byte), Memory.wf s.mem = true →
    (∀ i, i < l.length → (isHbm (pa + i) || isSram (pa + i) || isScratch (pa + i)) = true ∧ s.populated (pa + i) = true ∧
      s.hubCutAt (pa + i) = false) →
    ∃ t, exec (.peerWrite (.mem pa) l) s = .next t ∧ (∀ j, (h : j < l.length) → Memory.read t.mem (pa + j) = l[j]) ∧
      ∀ a, (a < pa ∨ pa + l.length ≤ a) → Memory.read t.mem a = Memory.read s.mem a) ∧
  (∀ (s : State) (c : CoreId) (off : Nat) (typ : Option (BitVec 8)) (asid : Asid) (lpri : BitVec 3) (group : BitVec 8)
      (lseq : BitVec 48) (node tx ty tz : BitVec 16) (l : List Byte), Memory.wf s.mem = true → s.provided c.toNat = true →
    off + l.length ≤ tcmSize c.toNat →
    (s.hubCut c.toNat = true → exec (.peerWrite (.tcm c off typ asid lpri group lseq node tx ty tz) l) s = .next s) ∧
    (s.hubCut c.toNat = false → ∃ t, exec (.peerWrite (.tcm c off typ asid lpri group lseq node tx ty tz) l) s = .next t ∧
      (∀ j, (h : j < l.length) → Memory.read t.mem (tcmKey c.toNat off + j) = l[j]) ∧
      ∃ m, Delivers s t m ∧ m.dst = c ∧ m.typ = typ.getD 0xF9 ∧ m.stamp.asid = asid ∧
        m.payload = [BitVec.ofNat 64 off, BitVec.ofNat 64 l.length]))

/-- R194, R333-R337: at a quiet die a scheduled row of it is copied to a spare of its bank, of which there are 8, and is no longer
scheduled; one that finds none stays in service, and a core whose TCM it lies in fails; a part of a die that is not quiet, or of
another die, waits. A core that fails goes to a spare of its cluster; with no spare left, and for a bank core, it is no longer provided,
its saved contexts are gone and their groups killed. A failing pseudo-channel, its pages copied with their data and the tables edited to
map them there alone, is retired: nothing lies on it any more and no buffer holds a translation; moves or edits that do not do this are no
event of R337 and do nothing (log 48). The runtime's check of a graph's edited tables sets or clears its mark. -/
def QuiesceRepairs : Prop :=
  (∀ (s : State) (d : Nat) (item : RepairItem), (∀ g, item ≠ .recheck g) → (4 ≤ d ∨ s.quiet d = false) →
    exec (.quiesceRepair d item) s = .next s) ∧
  (∀ (s : State) (d : Nat) (row : Row), d ≠ dieOfBank row.bank → exec (.quiesceRepair d (.row row)) s = .next s) ∧
  (∀ (s : State) (d g : Nat), (s.graph g).resident = true → exec (.quiesceRepair d (.recheck g)) s =
    .next (s.setGraph g { s.graph g with marked := s.tableBeyond (s.graph g).asid })) ∧
  (∀ (s : State) (row : Row), let d := dieOfBank row.bank
    d < 4 → s.quiet d = true → row ∈ s.capacity.scheduled → row ∉ s.capacity.noSpare →
    (s.capacity.spareRows row.bank < 8 → ∃ t, exec (.quiesceRepair d (.row row)) s = .next t ∧ row ∉ t.capacity.scheduled ∧
      t.capacity.spareRows row.bank = s.capacity.spareRows row.bank + 1 ∧
      fld t.hub.health 8 8 = 1 ∧ bit t.hub.health 0 = true ∧ bit t.hub.health 1 = true ∧
      fld t.hub.health 16 16 = min (fld s.hub.health 16 16 + 1) 65535) ∧
    (8 ≤ s.capacity.spareRows row.bank → ∃ t, exec (.quiesceRepair d (.row row)) s = .next t ∧ row ∈ t.capacity.noSpare ∧
      row ∈ t.capacity.scheduled ∧ fld t.hub.health 8 8 = 2 ∧ ∀ c b, row.bank = .tcm c b → (t.core c).failing = true)) ∧
  (∀ (s : State) (d : Nat) (c : CoreId), Memory.wf s.mem = true → d < 4 → s.quiet d = true → Id.die c.toNat = d → Id.isCompute c.toNat = true →
    (s.core c.toNat).failing = true → s.provided c.toNat = true → s.capacity.spares.get (Id.clusterNo c.toNat) 0 < 2 →
    ∃ t, exec (.quiesceRepair d (.core c)) s = .next t ∧ t.provided c.toNat = true ∧ (t.core c.toNat).failing = false ∧
      t.capacity.spares.get (Id.clusterNo c.toNat) 0 = s.capacity.spares.get (Id.clusterNo c.toNat) 0 + 1 ∧
      t.capacity.gen = s.capacity.gen + 1 ∧ HealthEvent s t 3 (.core c.toNat) ∧
      ∀ a, isExt a = false → Memory.read t.mem a = Memory.read s.mem a) ∧
  (∀ (s : State) (c : CoreId), let d := Id.die c.toNat
    d < 4 → s.quiet d = true → s.provided c.toNat = true →
    ((s.core c.toNat).failing = true ∨ (Id.isBank c.toNat = true ∧ (Lnk.get s (6 + Id.stack c.toNat)).down = true)) →
    (Id.isCompute c.toNat = true → 2 ≤ s.capacity.spares.get (Id.clusterNo c.toNat) 0) →
    ∃ t, exec (.quiesceRepair d (.core c)) s = .next t ∧ t.provided c.toNat = false ∧ t.capacity.gen = s.capacity.gen + 1 ∧
      HealthEvent s t 4 (.core c.toNat) ∧ (∀ g, ∀ v ∈ (t.graph g).saved, v.core ≠ c.toNat) ∧
      ∀ g, ∀ v ∈ (s.graph g).saved, v.core = c.toNat →
        ∃ k ∈ t.kills, k.asid = v.act.stamp.asid ∧ k.group = v.act.stamp.group ∧ k.side = .none) ∧
  (∀ (s : State) (st ch : Nat) (moved : List (Nat × Nat)) (edits : List Placement), let d := st / 2
    st < 8 → ch < 64 → s.quiet d = true → (st, ch) ∉ s.capacity.lostChannels →
    (3 ≤ (s.capacity.channelRows.filter (fun e => e.1 == st * 64 + ch)).length ∨ (Lnk.get s (6 + st)).down = true) →
    let u := edits.foldl State.placeBytes (moved.foldl (fun s m => s.copyBytes m.1 m.2 4096) s)
    let good := s.movesOk st ch moved = true ∧ u.editsOk st ch (s.mappedOn st ch) moved = true
    (¬ good → exec (.quiesceRepair d (.channel st ch moved edits)) s = .next s) ∧
    (good → Memory.wf s.mem = true → ∃ t, exec (.quiesceRepair d (.channel st ch moved edits)) s = .next t ∧
      t.capacity.lostChannels = (st, ch) :: s.capacity.lostChannels ∧ t.capacity.gen = s.capacity.gen + 1 ∧
      HealthEvent s t 5 (.channel st ch) ∧ (∀ k, onChannel st ch k = true → t.populated k = false) ∧
      (∀ c, (t.core c).tlb = []) ∧ t.l2 = [] ∧
      let edited (a : Nat) : Prop := ∃ p ∈ edits, p.addr ≤ a ∧ a < p.addr + p.bytes.length
      (∀ m ∈ moved, ∀ i, i < 4096 → ¬ edited (m.2 + i) → Memory.read t.mem (m.2 + i) = Memory.read s.mem (m.1 + i)) ∧
      ∀ a, isExt a = false → ¬ edited a → (∀ m ∈ moved, a < m.2 ∨ m.2 + 4096 ≤ a) → Memory.read t.mem a = Memory.read s.mem a))

end Sys2Proof.Claim

/-- R32, R33, R194, R236, R333-R339, R351-R355: flits, degradation, peers, repair at a quiesce. The model's
readings in it: that a RETRAIN_DONE without success retires the link (log 45, DEDUCED; R354 retires one that cannot train), which port
counts what an unreachable peer loses (free, log 4), and the type of a peer's arrival that names none (log 46). -/
def Obligations.LinksAndRepair : Prop := FlitsCount ∧ LinksDegrade ∧ PeersWrite ∧ QuiesceRepairs
end

