-- ==== Sys2Proof/Laws/Run.lean ====
section
/-! SUPPORT. How the parts of a meaning compose: a computation of `M` run in a state. -/

namespace Sys2Proof.Machine

variable {α β : Type}

@[simp] theorem run_pure (a : α) (s : State) : (pure a : M α) s = .ok a s := rfl

@[simp] theorem run_get (s : State) : (get : M State) s = .ok s s := rfl

@[simp] theorem run_set (t s : State) : (set t : M Unit) s = .ok () t := rfl

@[simp] theorem run_modify (f : State → State) (s : State) : (modify f : M Unit) s = .ok () (f s) := rfl

@[simp] theorem run_throw (e : Stop) (s : State) : (throw e : M α) s = .error e s := rfl

theorem run_bind (x : M α) (f : α → M β) (s : State) :
    (x >>= f) s = match x s with
      | .ok a t => f a t
      | .error e t => .error e t := by
  show EStateM.bind x f s = _
  unfold EStateM.bind
  cases x s <;> rfl

/-- A sequence whose first part answers goes on with its second. -/
theorem run_bind_of_ok {x : M α} {f : α → M β} {s t : State} {a : α} (h : x s = .ok a t) : (x >>= f) s = f a t := by
  rw [run_bind, h]

/-- A sequence whose first part stops stops there. -/
theorem run_bind_of_error {x : M α} {f : α → M β} {s t : State} {e : Stop} (h : x s = .error e t) :
    (x >>= f) s = .error e t := by
  rw [run_bind, h]

/-- A sequence answers exactly when both its parts do. -/
theorem run_bind_ok_iff {x : M α} {f : α → M β} {s u : State} {b : β} :
    (x >>= f) s = .ok b u ↔ ∃ a t, x s = .ok a t ∧ f a t = .ok b u := by
  rw [run_bind]
  cases x s with
  | ok a t => simp
  | error e t => simp

/-- A sequence stops exactly when one of its parts does. -/
theorem run_bind_error_iff {x : M α} {f : α → M β} {s u : State} {e : Stop} :
    (x >>= f) s = .error e u ↔ x s = .error e u ∨ ∃ a t, x s = .ok a t ∧ f a t = .error e u := by
  rw [run_bind]
  cases x s with
  | ok a t => simp
  | error e t => simp

theorem run_map (f : α → β) (x : M α) (s : State) :
    (f <$> x) s = match x s with
      | .ok a t => .ok (f a) t
      | .error e t => .error e t := by
  show EStateM.map f x s = _
  unfold EStateM.map
  cases x s <;> rfl

@[simp] theorem run_done (s : State) : done s = .ok () s.advance := rfl

@[simp] theorem run_illegalOperand (s : State) :
    (illegalOperand : M α) s = .error (.trap Cause.illegalOperand (encVal s.cur.enc) 0 none none) s := rfl

@[simp] theorem run_illegalInstruction (s : State) :
    (illegalInstruction : M α) s = .error (.trap Cause.illegalInstruction (encVal s.cur.enc) 0 none none) s := rfl

@[simp] theorem run_stopTrap (c : BitVec 8) (v : W64) (s : State) :
    (stopTrap c v : M α) s = .error (.trap c v 0 none none) s := rfl

theorem run_refuseIf (b : Bool) (s : State) :
    refuseIf b s = if b then .error (.trap Cause.illegalOperand (encVal s.cur.enc) 0 none none) s else .ok () s := by
  cases b <;> rfl

@[simp] theorem run_refuseIf_false (s : State) : refuseIf false s = .ok () s := rfl

end Sys2Proof.Machine
end

