-- ==== Sys2Proof/Laws/Commands.lean ====
section
/-! SUPPORT. What asking a destination for its place, matching a command of an earlier attempt, and cancelling a slot's commands can do. -/

namespace Sys2Proof.Machine

/-- A destination that has its place leaves the state as it was (R67). -/
theorem needPlace_state {d : Reg} {s t : State} (h : needPlace d s = .ok () t) : t = s := by
  unfold needPlace at h
  split at h
  · rw [run_bind, run_get] at h
    simp only [run_bind] at h
    split at h
    · exact (EStateM.Result.ok.inj h).2.symm
    · cases h
  · exact (EStateM.Result.ok.inj h).2.symm

/-- With no command of an earlier attempt left to match, an MMA or MMAS goes on to its checks (R251). -/
theorem reissue_first {srcs : List Reg} {m : M Unit} {s : State}
    (h : ∀ ch, s.me.chunk = some ch → ch.issued.length ≤ ch.matched) : reissue srcs m s = m s := by
  unfold reissue
  rw [run_bind, run_get]
  cases q : s.me.chunk with
  | none => simp only [q]
  | some ch => simp only [q, if_neg (Nat.not_lt.2 (h ch q))]

/-- Cancelling a slot's commands touches no memory (R263). -/
@[simp] theorem State.cancelSlot_mem (s : State) (c i : Nat) : (s.cancelSlot c i).mem = s.mem := by
  unfold State.cancelSlot
  split <;> rfl

end Sys2Proof.Machine
end

