-- ==== Sys2Proof/Laws/Memory.lean ====
section
/-! SUPPORT. Laws of memory: the canonical form, reads after writes, and that bytes elsewhere stand. -/

namespace Sys2Proof.Machine.Memory

/-- Every key of a list is greater than a bound. -/
def above (k : Nat) : List Host.Cell → Prop
  | [] => True
  | (j, _) :: _ => k < j

theorem wf_cons {k : Nat} {b : Byte} {r : List Host.Cell} :
    wf ((k, b) :: r) = true ↔ b ≠ blank ∧ above k r ∧ wf r = true := by
  cases r with
  | nil => simp [wf, above]
  | cons p r => obtain ⟨j, c⟩ := p; simp [wf, above, and_assoc]

theorem above_trans {k j : Nat} {r : List Host.Cell} (h : j < k) (a : above k r) : above j r := by
  cases r with
  | nil => trivial
  | cons p r => exact Nat.lt_trans h a

theorem above_write {k i : Nat} {x : Byte} {r : List Host.Cell} (w : wf r = true) (a : above k r) (h : k < i) :
    above k (write r i x) := by
  cases r with
  | nil => unfold write; split <;> simp [above, h]
  | cons p r =>
    obtain ⟨j, b⟩ := p
    unfold write
    split
    · split
      · exact above_trans a (wf_cons.1 w).2.1
      · exact h
    · split
      · split
        · exact a
        · exact h
      · exact a

/-- A write keeps the canonical form. -/
theorem wf_write {m : List Host.Cell} (h : wf m = true) (i : Nat) (x : Byte) : wf (write m i x) = true := by
  induction m with
  | nil => unfold write; split <;> simp [wf, *]
  | cons p r ih =>
    obtain ⟨k, b⟩ := p
    obtain ⟨hb, ha, hr⟩ := wf_cons.1 h
    unfold write
    split
    · next e =>
      subst e
      split
      · exact hr
      · next hx => exact wf_cons.2 ⟨hx, ha, hr⟩
    · split
      · next hi =>
        split
        · exact h
        · next hx => exact wf_cons.2 ⟨hx, hi, h⟩
      · next h1 h2 => exact wf_cons.2 ⟨hb, above_write hr ha (by omega), ih hr⟩

theorem wf_writeAll {m : List Host.Cell} (h : wf m = true) (k : Nat) (l : List Byte) : wf (writeAll m k l) = true := by
  induction l generalizing m k with
  | nil => exact h
  | cons b r ih => exact ih (wf_write h k b) (k + 1)

theorem read_above {k i : Nat} {r : List Host.Cell} (a : above k r) (h : i ≤ k) : read r i = blank := by
  cases r with
  | nil => rfl
  | cons p r =>
    obtain ⟨j, b⟩ := p
    have hk : k < j := a
    have h1 : j ≠ i := by omega
    have h2 : i < j := by omega
    simp [read, h1, h2]

/-- A read of the byte written gives it. -/
theorem read_write_same {m : List Host.Cell} (h : wf m = true) (i : Nat) (x : Byte) : read (write m i x) i = x := by
  induction m with
  | nil => unfold write; split <;> simp [read, *]
  | cons p r ih =>
    obtain ⟨k, b⟩ := p
    obtain ⟨hb, ha, hr⟩ := wf_cons.1 h
    unfold write
    split
    · next e =>
      subst e
      split
      · next hx => rw [read_above ha (Nat.le_refl _), hx]
      · simp [read]
    · next hn =>
      split
      · next hi =>
        split
        · next hx => simp [read, hn, hi, hx]
        · simp [read]
      · next hi => simp [read, hn, hi, ih hr]

/-- A write leaves every other byte. -/
theorem read_write_other {m : List Host.Cell} (h : wf m = true) {i j : Nat} (x : Byte) (n : j ≠ i) :
    read (write m i x) j = read m j := by
  induction m with
  | nil =>
    unfold write
    split
    · rfl
    · simp [read, Ne.symm n]
  | cons p r ih =>
    obtain ⟨k, b⟩ := p
    obtain ⟨hb, ha, hr⟩ := wf_cons.1 h
    unfold write
    split
    · next e =>
      subst e
      split
      · by_cases c : j < k
        · have : k ≠ j := by omega
          simp [read, this, c, read_above ha (Nat.le_of_lt c)]
        · simp [read, Ne.symm n, c]
      · simp [read, Ne.symm n]
    · next hn =>
      split
      · next hi =>
        split
        · rfl
        · by_cases c : j < i
          · have h1 : k ≠ j := by omega
            have h2 : j < k := by omega
            simp [read, Ne.symm n, c, h1, h2]
          · by_cases d : k = j <;> simp [read, Ne.symm n, c, d]
      · by_cases d : k = j <;> simp [read, d, ih hr]

/-- Writing bytes leaves every byte outside them. -/
theorem read_writeAll_outside {m : List Host.Cell} (h : wf m = true) {k j : Nat} (l : List Byte)
    (o : j < k ∨ k + l.length ≤ j) : read (writeAll m k l) j = read m j := by
  induction l generalizing m k with
  | nil => rfl
  | cons b r ih =>
    simp only [List.length_cons] at o
    show read (writeAll (write m k b) (k + 1) r) j = _
    rw [ih (wf_write h k b) (by omega), read_write_other h b (by omega)]

/-- Reading bytes written gives them. -/
theorem read_writeAll_inside {m : List Host.Cell} (h : wf m = true) {k i : Nat} (l : List Byte) (o : i < l.length) :
    read (writeAll m k l) (k + i) = l[i] := by
  induction l generalizing m k i with
  | nil => simp at o
  | cons b r ih =>
    show read (writeAll (write m k b) (k + 1) r) (k + i) = _
    cases i with
    | zero => simp [read_writeAll_outside (wf_write h k b) r (Or.inl (Nat.lt_succ_self k)), read_write_same h]
    | succ n =>
      have := ih (wf_write h k b) (k := k + 1) (i := n) (by simpa using o)
      rw [show k + (n + 1) = k + 1 + n by omega]
      simpa using this

theorem wf_zero {m : List Host.Cell} (h : wf m = true) (k n : Nat) : wf (zero m k n) = true := wf_writeAll h _ _

theorem above_filter {k : Nat} {m : List Host.Cell} (h : wf m = true) (p : Host.Cell → Bool) (a : above k m) :
    above k (m.filter p) := by
  induction m with
  | nil => trivial
  | cons c r ih =>
    obtain ⟨j, b⟩ := c
    obtain ⟨hb, ha, hr⟩ := wf_cons.1 h
    rw [List.filter_cons]
    split
    · exact a
    · exact ih hr (above_trans a ha)

/-- Leaving out entries keeps the canonical form. -/
theorem wf_filter {m : List Host.Cell} (h : wf m = true) (p : Host.Cell → Bool) : wf (m.filter p) = true := by
  induction m with
  | nil => rfl
  | cons c r ih =>
    obtain ⟨j, b⟩ := c
    obtain ⟨hb, ha, hr⟩ := wf_cons.1 h
    rw [List.filter_cons]
    split
    · exact wf_cons.2 ⟨hb, above_filter hr p ha, ih hr⟩
    · exact ih hr

end Sys2Proof.Machine.Memory
end

