-- ==== Sys2Proof/Laws/Operands.lean ====
section
/-! SUPPORT. What the field checks, the reads of sources and the writes of destinations answer, register file by register
file. -/

namespace Sys2Proof.Machine

/-! Fields. -/

@[simp] theorem okG_g (n : Fin 32) (s : State) : okG (.g n) s = .ok () s := rfl
@[simp] theorem okG_q (n : Fin 16) (s : State) : okG (.q n) s = .ok () s := rfl
theorem okG_k (n : Fin 8) (s : State) : okG (.k n) s = refuseIf (!s.regs.inHandler) s := rfl
@[simp] theorem okG_v (n : Fin 32) (s : State) : okG (.v n) s = illegalOperand s := rfl
@[simp] theorem okG_m (n : Fin 8) (s : State) : okG (.m n) s = illegalOperand s := rfl
@[simp] theorem okGOnly_g (n : Fin 32) (s : State) : okGOnly (.g n) s = .ok () s := rfl
theorem okGOnly_k (n : Fin 8) (s : State) : okGOnly (.k n) s = refuseIf (!s.regs.inHandler) s := rfl
@[simp] theorem okV_v (n : Fin 32) (s : State) : okV (.v n) s = .ok () s := rfl
@[simp] theorem okV_q (n : Fin 16) (s : State) : okV (.q n) s = .ok () s := rfl
@[simp] theorem okM_m (n : Fin 8) (s : State) : okM (.m n) s = .ok () s := rfl

/-- A check of a field changes nothing. -/
theorem okG_state {r : Reg} {s t : State} (h : okG r s = .ok () t) : t = s := by
  cases r with
  | g n => simpa using h.symm
  | q n => simpa using h.symm
  | k n => rw [okG_k, run_refuseIf] at h; split at h <;> simp_all
  | v n => simp at h
  | m n => simp at h

/-! Sources. -/

@[simp] theorem readG_g (p : Pops) (n : Fin 32) (s : State) : readG p (.g n) s = .ok (s.regs.readG n) s := by
  unfold readG; rw [run_bind, run_get]; simp
@[simp] theorem readG_k (p : Pops) (n : Fin 8) (s : State) : readG p (.k n) s = .ok s.regs.k[n] s := by
  unfold readG; rw [run_bind, run_get]; simp
@[simp] theorem readG_q (p : Pops) (i : Fin 16) (s : State) : readG p (.q i) s = .ok ((popped p i).setWidth 64) s := by
  unfold readG; rw [run_bind, run_get]; simp
@[simp] theorem readG_v (p : Pops) (n : Fin 32) (s : State) : readG p (.v n) s = illegalOperand s := by
  unfold readG; rw [run_bind, run_get]
@[simp] theorem readG_m (p : Pops) (n : Fin 8) (s : State) : readG p (.m n) s = illegalOperand s := by
  unfold readG; rw [run_bind, run_get]
@[simp] theorem readV_v (p : Pops) (n : Fin 32) (s : State) : readV p (.v n) s = .ok (s.regs.readV n) s := by
  unfold readV; rw [run_bind, run_get]; simp
@[simp] theorem readV_q (p : Pops) (i : Fin 16) (s : State) : readV p (.q i) s = .ok (popped p i) s := by
  unfold readV; rw [run_bind, run_get]; simp
@[simp] theorem readV_g (p : Pops) (n : Fin 32) (s : State) : readV p (.g n) s = illegalOperand s := by
  unfold readV; rw [run_bind, run_get]
@[simp] theorem readV_m (p : Pops) (n : Fin 8) (s : State) : readV p (.m n) s = illegalOperand s := by
  unfold readV; rw [run_bind, run_get]
@[simp] theorem readV_k (p : Pops) (n : Fin 8) (s : State) : readV p (.k n) s = illegalOperand s := by
  unfold readV; rw [run_bind, run_get]
@[simp] theorem readM_m (n : Fin 8) (s : State) : readM (.m n) s = .ok (s.regs.readM n) s := by
  unfold readM; rw [run_bind, run_get]; simp

/-- Reading a scalar source changes nothing. -/
theorem readG_state {p : Pops} {r : Reg} {x : W64} {s t : State} (h : readG p r s = .ok x t) : t = s := by
  cases r <;> simp at h <;> exact h.2.symm

/-- Reading a vector source changes nothing. -/
theorem readV_state {p : Pops} {r : Reg} {x : V512} {s t : State} (h : readV p r s = .ok x t) : t = s := by
  cases r <;> simp at h <;> exact h.2.symm

/-- With no queue among its operands an instruction pops nothing. -/
theorem operands_none {srcs : List Reg} {dst : Option Reg} (h : (srcs.any isQ || dst.any isQ) = false) (s : State) :
    operands srcs dst s = .ok [] s := by
  unfold operands; rw [h]; rfl

/-! Destinations. -/

@[simp] theorem writeG_g (n : Fin 32) (x : W64) (s : State) :
    writeG (.g n) x s = .ok () (s.modRegs (fun y => y.writeG n x)) := rfl
@[simp] theorem writeG_k (n : Fin 8) (x : W64) (s : State) :
    writeG (.k n) x s = .ok () (s.modRegs (fun y => y.writeK n x)) := rfl
@[simp] theorem writeG_q (i : Fin 16) (x : W64) (s : State) : writeG (.q i) x s = pushQ i (x.setWidth 512) s := rfl
@[simp] theorem writeV_v (n : Fin 32) (x : V512) (s : State) :
    writeV (.v n) x s = .ok () (s.modRegs (fun y => y.writeV n x)) := rfl
@[simp] theorem writeV_q (i : Fin 16) (x : V512) (s : State) : writeV (.q i) x s = pushQ i x s := rfl
@[simp] theorem writeM_m (n : Fin 8) (x : W64) (s : State) :
    writeM (.m n) x s = .ok () (s.modRegs (fun y => y.writeM n x)) := rfl
@[simp] theorem oldV_v (n : Fin 32) (s : State) : oldV (.v n) s = .ok (s.regs.readV n) s := by
  simp [oldV, run_bind]

/-- A push on a private queue that has room appends its entry. -/
theorem pushQ_unbound {i : Fin 16} {e : V512} {s : State} (b : s.regs.q[i].bind = .unbound) (r : s.regs.q[i].entries.length < 8) :
    pushQ i e s = .ok () (s.modRegs (fun y => y.writeQ i { s.regs.q[i] with entries := s.regs.q[i].entries ++ [e] })) := by
  have r' : ¬ 8 ≤ s.regs.q[i].entries.length := by omega
  simp only [Fin.getElem_fin] at b r'
  simp [pushQ, run_bind, b, r', setQueue]

/-- A push on a private queue that is full raises queue-full. -/
theorem pushQ_full {i : Fin 16} {e : V512} {s : State} (b : s.regs.q[i].bind = .unbound) (r : 8 ≤ s.regs.q[i].entries.length) :
    pushQ i e s = .error (.trap Cause.queueFull (qIndex i) 0 none none) s := by
  simp only [Fin.getElem_fin] at b r
  simp [pushQ, run_bind, b, r]

/-- A pop of a private queue takes its oldest entry. -/
theorem popQ_unbound {i : Fin 16} {e : V512} {l : List V512} {s : State} (b : s.regs.q[i].bind = .unbound)
    (h : s.regs.q[i].entries = e :: l) :
    popQ i s = .ok e (s.modRegs (fun y => y.writeQ i { s.regs.q[i] with entries := l })) := by
  simp only [Fin.getElem_fin] at b h
  simp [popQ, run_bind, run_map, b, h, setQueue]

/-- A pop of an empty private queue raises queue-empty. -/
theorem popQ_empty {i : Fin 16} {s : State} (b : s.regs.q[i].bind = .unbound) (h : s.regs.q[i].entries = []) :
    popQ i s = .error (.trap Cause.queueEmpty (qIndex i) 0 none none) s := by
  simp only [Fin.getElem_fin] at b h
  simp [popQ, run_bind, b, h]

/-! The wrapper of every instruction. -/

/-- An instruction whose meaning answers goes on in the state it leaves. -/
theorem insn_of_ok {m : M Unit} {s t : State} (h : m s = .ok () t) : insn m s = .next t := by
  unfold insn; rw [h]

/-- An instruction whose meaning stops becomes what its stop turns into, in the state before it (R5) but for the lines that its
chunk has then read (R102, R228). -/
theorem insn_of_error {m : M Unit} {s t : State} {e : Stop} (h : m s = .error e t) :
    insn m s = (s.keepReads e t.myReads).stop e := by
  unfold insn; rw [h]

/-- An instruction that stops before it has read a line leaves the state before it. -/
theorem keepReads_same {s t : State} {e : Stop} (h : t.myReads = s.myReads) : s.keepReads e t.myReads = s := by
  unfold State.keepReads
  split <;> simp [h]

/-- An instruction that stops before it has read a line becomes what its stop turns into in the state before it. -/
theorem insn_of_stop {m : M Unit} {s t : State} {e : Stop} (h : m s = .error e t) (hr : t.myReads = s.myReads) :
    insn m s = s.stop e := by
  rw [insn_of_error h, keepReads_same hr]

/-- A trap that waits changes nothing (R303, R323). -/
theorem takeTrap_held {s : State} {c i : Nat} {pc v : W64} {e : BitVec 8} {u : BitVec 4} {b : Bool} {k : Option (W64 × W64)}
    (h : (s.slot c i).trapHeld s = true) : s.takeTrap c i pc e u b v k = s := by
  unfold Slot.trapHeld at h
  unfold State.takeTrap
  dsimp only
  split at h <;> simp_all

/-- A precise fault is taken with TPC at the instruction, or waits. -/
theorem stop_trap {s : State} {c : BitVec 8} {v : W64} {u : BitVec 4} {k : Option (W64 × W64)} :
    s.stop (.trap c v u k none) = .next (s.takeTrap s.cur.core s.cur.slot s.regs.pc c u false v k) := by
  unfold State.stop
  dsimp only
  split
  · rename_i h
    rw [takeTrap_held h]
  · rfl

end Sys2Proof.Machine
end

