-- ==== Sys2Proof/Laws/Regs.lean ====
section
/-! SUPPORT. Each register under each named write: one lemma for every pair, and what a read of the register written gives. -/

namespace Sys2Proof.Machine

/-! writeG -/

@[simp] theorem Regs.writeG_v (r : Regs) (n : Fin 32) (x : W64) : (r.writeG n x).v = r.v := by
  unfold Regs.writeG; split <;> rfl
@[simp] theorem Regs.writeG_m (r : Regs) (n : Fin 32) (x : W64) : (r.writeG n x).m = r.m := by
  unfold Regs.writeG; split <;> rfl
@[simp] theorem Regs.writeG_k (r : Regs) (n : Fin 32) (x : W64) : (r.writeG n x).k = r.k := by
  unfold Regs.writeG; split <;> rfl
@[simp] theorem Regs.writeG_q (r : Regs) (n : Fin 32) (x : W64) : (r.writeG n x).q = r.q := by
  unfold Regs.writeG; split <;> rfl
@[simp] theorem Regs.writeG_pc (r : Regs) (n : Fin 32) (x : W64) : (r.writeG n x).pc = r.pc := by
  unfold Regs.writeG; split <;> rfl
@[simp] theorem Regs.writeG_fpst (r : Regs) (n : Fin 32) (x : W64) : (r.writeG n x).fpst = r.fpst := by
  unfold Regs.writeG; split <;> rfl
@[simp] theorem Regs.writeG_fmta (r : Regs) (n : Fin 32) (x : W64) : (r.writeG n x).fmta = r.fmta := by
  unfold Regs.writeG; split <;> rfl
@[simp] theorem Regs.writeG_fmtb (r : Regs) (n : Fin 32) (x : W64) : (r.writeG n x).fmtb = r.fmtb := by
  unfold Regs.writeG; split <;> rfl
@[simp] theorem Regs.writeG_scla (r : Regs) (n : Fin 32) (x : W64) : (r.writeG n x).scla = r.scla := by
  unfold Regs.writeG; split <;> rfl
@[simp] theorem Regs.writeG_sclb (r : Regs) (n : Fin 32) (x : W64) : (r.writeG n x).sclb = r.sclb := by
  unfold Regs.writeG; split <;> rfl
@[simp] theorem Regs.writeG_mstat (r : Regs) (n : Fin 32) (x : W64) : (r.writeG n x).mstat = r.mstat := by
  unfold Regs.writeG; split <;> rfl
@[simp] theorem Regs.writeG_mfr (r : Regs) (n : Fin 32) (x : W64) : (r.writeG n x).mfr = r.mfr := by
  unfold Regs.writeG; split <;> rfl
@[simp] theorem Regs.writeG_mfrx (r : Regs) (n : Fin 32) (x : W64) : (r.writeG n x).mfrx = r.mfrx := by
  unfold Regs.writeG; split <;> rfl
@[simp] theorem Regs.writeG_mdrop (r : Regs) (n : Fin 32) (x : W64) : (r.writeG n x).mdrop = r.mdrop := by
  unfold Regs.writeG; split <;> rfl
@[simp] theorem Regs.writeG_gfault (r : Regs) (n : Fin 32) (x : W64) : (r.writeG n x).gfault = r.gfault := by
  unfold Regs.writeG; split <;> rfl
@[simp] theorem Regs.writeG_shpat (r : Regs) (n : Fin 32) (x : W64) : (r.writeG n x).shpat = r.shpat := by
  unfold Regs.writeG; split <;> rfl
@[simp] theorem Regs.writeG_cpydone (r : Regs) (n : Fin 32) (x : W64) : (r.writeG n x).cpydone = r.cpydone := by
  unfold Regs.writeG; split <;> rfl
@[simp] theorem Regs.writeG_batch (r : Regs) (n : Fin 32) (x : W64) : (r.writeG n x).batch = r.batch := by
  unfold Regs.writeG; split <;> rfl
@[simp] theorem Regs.writeG_tvec (r : Regs) (n : Fin 32) (x : W64) : (r.writeG n x).tvec = r.tvec := by
  unfold Regs.writeG; split <;> rfl
@[simp] theorem Regs.writeG_tpc (r : Regs) (n : Fin 32) (x : W64) : (r.writeG n x).tpc = r.tpc := by
  unfold Regs.writeG; split <;> rfl
@[simp] theorem Regs.writeG_tcause (r : Regs) (n : Fin 32) (x : W64) : (r.writeG n x).tcause = r.tcause := by
  unfold Regs.writeG; split <;> rfl
@[simp] theorem Regs.writeG_tval (r : Regs) (n : Fin 32) (x : W64) : (r.writeG n x).tval = r.tval := by
  unfold Regs.writeG; split <;> rfl
@[simp] theorem Regs.writeG_tstat (r : Regs) (n : Fin 32) (x : W64) : (r.writeG n x).tstat = r.tstat := by
  unfold Regs.writeG; split <;> rfl
@[simp] theorem Regs.writeG_lxmiss (r : Regs) (n : Fin 32) (x : W64) : (r.writeG n x).lxmiss = r.lxmiss := by
  unfold Regs.writeG; split <;> rfl
@[simp] theorem Regs.writeG_lxstat (r : Regs) (n : Fin 32) (x : W64) : (r.writeG n x).lxstat = r.lxstat := by
  unfold Regs.writeG; split <;> rfl
@[simp] theorem Regs.writeG_sigcfg (r : Regs) (n : Fin 32) (x : W64) : (r.writeG n x).sigcfg = r.sigcfg := by
  unfold Regs.writeG; split <;> rfl
@[simp] theorem Regs.writeG_sigacc (r : Regs) (n : Fin 32) (x : W64) : (r.writeG n x).sigacc = r.sigacc := by
  unfold Regs.writeG; split <;> rfl
@[simp] theorem Regs.writeG_sfq (r : Regs) (n : Fin 32) (x : W64) : (r.writeG n x).sfq = r.sfq := by
  unfold Regs.writeG; split <;> rfl
@[simp] theorem Regs.writeG_held (r : Regs) (n : Fin 32) (x : W64) : (r.writeG n x).held = r.held := by
  unfold Regs.writeG; split <;> rfl
@[simp] theorem Regs.writeG_result (r : Regs) (n : Fin 32) (x : W64) : (r.writeG n x).result = r.result := by
  unfold Regs.writeG; split <;> rfl

/-! writeV -/

@[simp] theorem Regs.writeV_g (r : Regs) (n : Fin 32) (x : V512) : (r.writeV n x).g = r.g := rfl
@[simp] theorem Regs.writeV_m (r : Regs) (n : Fin 32) (x : V512) : (r.writeV n x).m = r.m := rfl
@[simp] theorem Regs.writeV_k (r : Regs) (n : Fin 32) (x : V512) : (r.writeV n x).k = r.k := rfl
@[simp] theorem Regs.writeV_q (r : Regs) (n : Fin 32) (x : V512) : (r.writeV n x).q = r.q := rfl
@[simp] theorem Regs.writeV_pc (r : Regs) (n : Fin 32) (x : V512) : (r.writeV n x).pc = r.pc := rfl
@[simp] theorem Regs.writeV_fpst (r : Regs) (n : Fin 32) (x : V512) : (r.writeV n x).fpst = r.fpst := rfl
@[simp] theorem Regs.writeV_fmta (r : Regs) (n : Fin 32) (x : V512) : (r.writeV n x).fmta = r.fmta := rfl
@[simp] theorem Regs.writeV_fmtb (r : Regs) (n : Fin 32) (x : V512) : (r.writeV n x).fmtb = r.fmtb := rfl
@[simp] theorem Regs.writeV_scla (r : Regs) (n : Fin 32) (x : V512) : (r.writeV n x).scla = r.scla := rfl
@[simp] theorem Regs.writeV_sclb (r : Regs) (n : Fin 32) (x : V512) : (r.writeV n x).sclb = r.sclb := rfl
@[simp] theorem Regs.writeV_mstat (r : Regs) (n : Fin 32) (x : V512) : (r.writeV n x).mstat = r.mstat := rfl
@[simp] theorem Regs.writeV_mfr (r : Regs) (n : Fin 32) (x : V512) : (r.writeV n x).mfr = r.mfr := rfl
@[simp] theorem Regs.writeV_mfrx (r : Regs) (n : Fin 32) (x : V512) : (r.writeV n x).mfrx = r.mfrx := rfl
@[simp] theorem Regs.writeV_mdrop (r : Regs) (n : Fin 32) (x : V512) : (r.writeV n x).mdrop = r.mdrop := rfl
@[simp] theorem Regs.writeV_gfault (r : Regs) (n : Fin 32) (x : V512) : (r.writeV n x).gfault = r.gfault := rfl
@[simp] theorem Regs.writeV_shpat (r : Regs) (n : Fin 32) (x : V512) : (r.writeV n x).shpat = r.shpat := rfl
@[simp] theorem Regs.writeV_cpydone (r : Regs) (n : Fin 32) (x : V512) : (r.writeV n x).cpydone = r.cpydone := rfl
@[simp] theorem Regs.writeV_batch (r : Regs) (n : Fin 32) (x : V512) : (r.writeV n x).batch = r.batch := rfl
@[simp] theorem Regs.writeV_tvec (r : Regs) (n : Fin 32) (x : V512) : (r.writeV n x).tvec = r.tvec := rfl
@[simp] theorem Regs.writeV_tpc (r : Regs) (n : Fin 32) (x : V512) : (r.writeV n x).tpc = r.tpc := rfl
@[simp] theorem Regs.writeV_tcause (r : Regs) (n : Fin 32) (x : V512) : (r.writeV n x).tcause = r.tcause := rfl
@[simp] theorem Regs.writeV_tval (r : Regs) (n : Fin 32) (x : V512) : (r.writeV n x).tval = r.tval := rfl
@[simp] theorem Regs.writeV_tstat (r : Regs) (n : Fin 32) (x : V512) : (r.writeV n x).tstat = r.tstat := rfl
@[simp] theorem Regs.writeV_lxmiss (r : Regs) (n : Fin 32) (x : V512) : (r.writeV n x).lxmiss = r.lxmiss := rfl
@[simp] theorem Regs.writeV_lxstat (r : Regs) (n : Fin 32) (x : V512) : (r.writeV n x).lxstat = r.lxstat := rfl
@[simp] theorem Regs.writeV_sigcfg (r : Regs) (n : Fin 32) (x : V512) : (r.writeV n x).sigcfg = r.sigcfg := rfl
@[simp] theorem Regs.writeV_sigacc (r : Regs) (n : Fin 32) (x : V512) : (r.writeV n x).sigacc = r.sigacc := rfl
@[simp] theorem Regs.writeV_sfq (r : Regs) (n : Fin 32) (x : V512) : (r.writeV n x).sfq = r.sfq := rfl
@[simp] theorem Regs.writeV_held (r : Regs) (n : Fin 32) (x : V512) : (r.writeV n x).held = r.held := rfl
@[simp] theorem Regs.writeV_result (r : Regs) (n : Fin 32) (x : V512) : (r.writeV n x).result = r.result := rfl

/-! writeM -/

@[simp] theorem Regs.writeM_g (r : Regs) (n : Fin 8) (x : W64) : (r.writeM n x).g = r.g := by
  unfold Regs.writeM; split <;> rfl
@[simp] theorem Regs.writeM_v (r : Regs) (n : Fin 8) (x : W64) : (r.writeM n x).v = r.v := by
  unfold Regs.writeM; split <;> rfl
@[simp] theorem Regs.writeM_k (r : Regs) (n : Fin 8) (x : W64) : (r.writeM n x).k = r.k := by
  unfold Regs.writeM; split <;> rfl
@[simp] theorem Regs.writeM_q (r : Regs) (n : Fin 8) (x : W64) : (r.writeM n x).q = r.q := by
  unfold Regs.writeM; split <;> rfl
@[simp] theorem Regs.writeM_pc (r : Regs) (n : Fin 8) (x : W64) : (r.writeM n x).pc = r.pc := by
  unfold Regs.writeM; split <;> rfl
@[simp] theorem Regs.writeM_fpst (r : Regs) (n : Fin 8) (x : W64) : (r.writeM n x).fpst = r.fpst := by
  unfold Regs.writeM; split <;> rfl
@[simp] theorem Regs.writeM_fmta (r : Regs) (n : Fin 8) (x : W64) : (r.writeM n x).fmta = r.fmta := by
  unfold Regs.writeM; split <;> rfl
@[simp] theorem Regs.writeM_fmtb (r : Regs) (n : Fin 8) (x : W64) : (r.writeM n x).fmtb = r.fmtb := by
  unfold Regs.writeM; split <;> rfl
@[simp] theorem Regs.writeM_scla (r : Regs) (n : Fin 8) (x : W64) : (r.writeM n x).scla = r.scla := by
  unfold Regs.writeM; split <;> rfl
@[simp] theorem Regs.writeM_sclb (r : Regs) (n : Fin 8) (x : W64) : (r.writeM n x).sclb = r.sclb := by
  unfold Regs.writeM; split <;> rfl
@[simp] theorem Regs.writeM_mstat (r : Regs) (n : Fin 8) (x : W64) : (r.writeM n x).mstat = r.mstat := by
  unfold Regs.writeM; split <;> rfl
@[simp] theorem Regs.writeM_mfr (r : Regs) (n : Fin 8) (x : W64) : (r.writeM n x).mfr = r.mfr := by
  unfold Regs.writeM; split <;> rfl
@[simp] theorem Regs.writeM_mfrx (r : Regs) (n : Fin 8) (x : W64) : (r.writeM n x).mfrx = r.mfrx := by
  unfold Regs.writeM; split <;> rfl
@[simp] theorem Regs.writeM_mdrop (r : Regs) (n : Fin 8) (x : W64) : (r.writeM n x).mdrop = r.mdrop := by
  unfold Regs.writeM; split <;> rfl
@[simp] theorem Regs.writeM_gfault (r : Regs) (n : Fin 8) (x : W64) : (r.writeM n x).gfault = r.gfault := by
  unfold Regs.writeM; split <;> rfl
@[simp] theorem Regs.writeM_shpat (r : Regs) (n : Fin 8) (x : W64) : (r.writeM n x).shpat = r.shpat := by
  unfold Regs.writeM; split <;> rfl
@[simp] theorem Regs.writeM_cpydone (r : Regs) (n : Fin 8) (x : W64) : (r.writeM n x).cpydone = r.cpydone := by
  unfold Regs.writeM; split <;> rfl
@[simp] theorem Regs.writeM_batch (r : Regs) (n : Fin 8) (x : W64) : (r.writeM n x).batch = r.batch := by
  unfold Regs.writeM; split <;> rfl
@[simp] theorem Regs.writeM_tvec (r : Regs) (n : Fin 8) (x : W64) : (r.writeM n x).tvec = r.tvec := by
  unfold Regs.writeM; split <;> rfl
@[simp] theorem Regs.writeM_tpc (r : Regs) (n : Fin 8) (x : W64) : (r.writeM n x).tpc = r.tpc := by
  unfold Regs.writeM; split <;> rfl
@[simp] theorem Regs.writeM_tcause (r : Regs) (n : Fin 8) (x : W64) : (r.writeM n x).tcause = r.tcause := by
  unfold Regs.writeM; split <;> rfl
@[simp] theorem Regs.writeM_tval (r : Regs) (n : Fin 8) (x : W64) : (r.writeM n x).tval = r.tval := by
  unfold Regs.writeM; split <;> rfl
@[simp] theorem Regs.writeM_tstat (r : Regs) (n : Fin 8) (x : W64) : (r.writeM n x).tstat = r.tstat := by
  unfold Regs.writeM; split <;> rfl
@[simp] theorem Regs.writeM_lxmiss (r : Regs) (n : Fin 8) (x : W64) : (r.writeM n x).lxmiss = r.lxmiss := by
  unfold Regs.writeM; split <;> rfl
@[simp] theorem Regs.writeM_lxstat (r : Regs) (n : Fin 8) (x : W64) : (r.writeM n x).lxstat = r.lxstat := by
  unfold Regs.writeM; split <;> rfl
@[simp] theorem Regs.writeM_sigcfg (r : Regs) (n : Fin 8) (x : W64) : (r.writeM n x).sigcfg = r.sigcfg := by
  unfold Regs.writeM; split <;> rfl
@[simp] theorem Regs.writeM_sigacc (r : Regs) (n : Fin 8) (x : W64) : (r.writeM n x).sigacc = r.sigacc := by
  unfold Regs.writeM; split <;> rfl
@[simp] theorem Regs.writeM_sfq (r : Regs) (n : Fin 8) (x : W64) : (r.writeM n x).sfq = r.sfq := by
  unfold Regs.writeM; split <;> rfl
@[simp] theorem Regs.writeM_held (r : Regs) (n : Fin 8) (x : W64) : (r.writeM n x).held = r.held := by
  unfold Regs.writeM; split <;> rfl
@[simp] theorem Regs.writeM_result (r : Regs) (n : Fin 8) (x : W64) : (r.writeM n x).result = r.result := by
  unfold Regs.writeM; split <;> rfl

/-! writeK -/

@[simp] theorem Regs.writeK_g (r : Regs) (n : Fin 8) (x : W64) : (r.writeK n x).g = r.g := rfl
@[simp] theorem Regs.writeK_v (r : Regs) (n : Fin 8) (x : W64) : (r.writeK n x).v = r.v := rfl
@[simp] theorem Regs.writeK_m (r : Regs) (n : Fin 8) (x : W64) : (r.writeK n x).m = r.m := rfl
@[simp] theorem Regs.writeK_q (r : Regs) (n : Fin 8) (x : W64) : (r.writeK n x).q = r.q := rfl
@[simp] theorem Regs.writeK_pc (r : Regs) (n : Fin 8) (x : W64) : (r.writeK n x).pc = r.pc := rfl
@[simp] theorem Regs.writeK_fpst (r : Regs) (n : Fin 8) (x : W64) : (r.writeK n x).fpst = r.fpst := rfl
@[simp] theorem Regs.writeK_fmta (r : Regs) (n : Fin 8) (x : W64) : (r.writeK n x).fmta = r.fmta := rfl
@[simp] theorem Regs.writeK_fmtb (r : Regs) (n : Fin 8) (x : W64) : (r.writeK n x).fmtb = r.fmtb := rfl
@[simp] theorem Regs.writeK_scla (r : Regs) (n : Fin 8) (x : W64) : (r.writeK n x).scla = r.scla := rfl
@[simp] theorem Regs.writeK_sclb (r : Regs) (n : Fin 8) (x : W64) : (r.writeK n x).sclb = r.sclb := rfl
@[simp] theorem Regs.writeK_mstat (r : Regs) (n : Fin 8) (x : W64) : (r.writeK n x).mstat = r.mstat := rfl
@[simp] theorem Regs.writeK_mfr (r : Regs) (n : Fin 8) (x : W64) : (r.writeK n x).mfr = r.mfr := rfl
@[simp] theorem Regs.writeK_mfrx (r : Regs) (n : Fin 8) (x : W64) : (r.writeK n x).mfrx = r.mfrx := rfl
@[simp] theorem Regs.writeK_mdrop (r : Regs) (n : Fin 8) (x : W64) : (r.writeK n x).mdrop = r.mdrop := rfl
@[simp] theorem Regs.writeK_gfault (r : Regs) (n : Fin 8) (x : W64) : (r.writeK n x).gfault = r.gfault := rfl
@[simp] theorem Regs.writeK_shpat (r : Regs) (n : Fin 8) (x : W64) : (r.writeK n x).shpat = r.shpat := rfl
@[simp] theorem Regs.writeK_cpydone (r : Regs) (n : Fin 8) (x : W64) : (r.writeK n x).cpydone = r.cpydone := rfl
@[simp] theorem Regs.writeK_batch (r : Regs) (n : Fin 8) (x : W64) : (r.writeK n x).batch = r.batch := rfl
@[simp] theorem Regs.writeK_tvec (r : Regs) (n : Fin 8) (x : W64) : (r.writeK n x).tvec = r.tvec := rfl
@[simp] theorem Regs.writeK_tpc (r : Regs) (n : Fin 8) (x : W64) : (r.writeK n x).tpc = r.tpc := rfl
@[simp] theorem Regs.writeK_tcause (r : Regs) (n : Fin 8) (x : W64) : (r.writeK n x).tcause = r.tcause := rfl
@[simp] theorem Regs.writeK_tval (r : Regs) (n : Fin 8) (x : W64) : (r.writeK n x).tval = r.tval := rfl
@[simp] theorem Regs.writeK_tstat (r : Regs) (n : Fin 8) (x : W64) : (r.writeK n x).tstat = r.tstat := rfl
@[simp] theorem Regs.writeK_lxmiss (r : Regs) (n : Fin 8) (x : W64) : (r.writeK n x).lxmiss = r.lxmiss := rfl
@[simp] theorem Regs.writeK_lxstat (r : Regs) (n : Fin 8) (x : W64) : (r.writeK n x).lxstat = r.lxstat := rfl
@[simp] theorem Regs.writeK_sigcfg (r : Regs) (n : Fin 8) (x : W64) : (r.writeK n x).sigcfg = r.sigcfg := rfl
@[simp] theorem Regs.writeK_sigacc (r : Regs) (n : Fin 8) (x : W64) : (r.writeK n x).sigacc = r.sigacc := rfl
@[simp] theorem Regs.writeK_sfq (r : Regs) (n : Fin 8) (x : W64) : (r.writeK n x).sfq = r.sfq := rfl
@[simp] theorem Regs.writeK_held (r : Regs) (n : Fin 8) (x : W64) : (r.writeK n x).held = r.held := rfl
@[simp] theorem Regs.writeK_result (r : Regs) (n : Fin 8) (x : W64) : (r.writeK n x).result = r.result := rfl

/-! writeQ -/

@[simp] theorem Regs.writeQ_g (r : Regs) (n : Fin 16) (x : Queue) : (r.writeQ n x).g = r.g := rfl
@[simp] theorem Regs.writeQ_v (r : Regs) (n : Fin 16) (x : Queue) : (r.writeQ n x).v = r.v := rfl
@[simp] theorem Regs.writeQ_m (r : Regs) (n : Fin 16) (x : Queue) : (r.writeQ n x).m = r.m := rfl
@[simp] theorem Regs.writeQ_k (r : Regs) (n : Fin 16) (x : Queue) : (r.writeQ n x).k = r.k := rfl
@[simp] theorem Regs.writeQ_pc (r : Regs) (n : Fin 16) (x : Queue) : (r.writeQ n x).pc = r.pc := rfl
@[simp] theorem Regs.writeQ_fpst (r : Regs) (n : Fin 16) (x : Queue) : (r.writeQ n x).fpst = r.fpst := rfl
@[simp] theorem Regs.writeQ_fmta (r : Regs) (n : Fin 16) (x : Queue) : (r.writeQ n x).fmta = r.fmta := rfl
@[simp] theorem Regs.writeQ_fmtb (r : Regs) (n : Fin 16) (x : Queue) : (r.writeQ n x).fmtb = r.fmtb := rfl
@[simp] theorem Regs.writeQ_scla (r : Regs) (n : Fin 16) (x : Queue) : (r.writeQ n x).scla = r.scla := rfl
@[simp] theorem Regs.writeQ_sclb (r : Regs) (n : Fin 16) (x : Queue) : (r.writeQ n x).sclb = r.sclb := rfl
@[simp] theorem Regs.writeQ_mstat (r : Regs) (n : Fin 16) (x : Queue) : (r.writeQ n x).mstat = r.mstat := rfl
@[simp] theorem Regs.writeQ_mfr (r : Regs) (n : Fin 16) (x : Queue) : (r.writeQ n x).mfr = r.mfr := rfl
@[simp] theorem Regs.writeQ_mfrx (r : Regs) (n : Fin 16) (x : Queue) : (r.writeQ n x).mfrx = r.mfrx := rfl
@[simp] theorem Regs.writeQ_mdrop (r : Regs) (n : Fin 16) (x : Queue) : (r.writeQ n x).mdrop = r.mdrop := rfl
@[simp] theorem Regs.writeQ_gfault (r : Regs) (n : Fin 16) (x : Queue) : (r.writeQ n x).gfault = r.gfault := rfl
@[simp] theorem Regs.writeQ_shpat (r : Regs) (n : Fin 16) (x : Queue) : (r.writeQ n x).shpat = r.shpat := rfl
@[simp] theorem Regs.writeQ_cpydone (r : Regs) (n : Fin 16) (x : Queue) : (r.writeQ n x).cpydone = r.cpydone := rfl
@[simp] theorem Regs.writeQ_batch (r : Regs) (n : Fin 16) (x : Queue) : (r.writeQ n x).batch = r.batch := rfl
@[simp] theorem Regs.writeQ_tvec (r : Regs) (n : Fin 16) (x : Queue) : (r.writeQ n x).tvec = r.tvec := rfl
@[simp] theorem Regs.writeQ_tpc (r : Regs) (n : Fin 16) (x : Queue) : (r.writeQ n x).tpc = r.tpc := rfl
@[simp] theorem Regs.writeQ_tcause (r : Regs) (n : Fin 16) (x : Queue) : (r.writeQ n x).tcause = r.tcause := rfl
@[simp] theorem Regs.writeQ_tval (r : Regs) (n : Fin 16) (x : Queue) : (r.writeQ n x).tval = r.tval := rfl
@[simp] theorem Regs.writeQ_tstat (r : Regs) (n : Fin 16) (x : Queue) : (r.writeQ n x).tstat = r.tstat := rfl
@[simp] theorem Regs.writeQ_lxmiss (r : Regs) (n : Fin 16) (x : Queue) : (r.writeQ n x).lxmiss = r.lxmiss := rfl
@[simp] theorem Regs.writeQ_lxstat (r : Regs) (n : Fin 16) (x : Queue) : (r.writeQ n x).lxstat = r.lxstat := rfl
@[simp] theorem Regs.writeQ_sigcfg (r : Regs) (n : Fin 16) (x : Queue) : (r.writeQ n x).sigcfg = r.sigcfg := rfl
@[simp] theorem Regs.writeQ_sigacc (r : Regs) (n : Fin 16) (x : Queue) : (r.writeQ n x).sigacc = r.sigacc := rfl
@[simp] theorem Regs.writeQ_sfq (r : Regs) (n : Fin 16) (x : Queue) : (r.writeQ n x).sfq = r.sfq := rfl
@[simp] theorem Regs.writeQ_held (r : Regs) (n : Fin 16) (x : Queue) : (r.writeQ n x).held = r.held := rfl
@[simp] theorem Regs.writeQ_result (r : Regs) (n : Fin 16) (x : Queue) : (r.writeQ n x).result = r.result := rfl

/-! Reads. -/

@[simp] theorem Regs.readG_zero (r : Regs) : r.readG 0 = 0 := rfl

@[simp] theorem Regs.readM_zero (r : Regs) : r.readM 0 = BitVec.allOnes 64 := rfl

@[simp] theorem Regs.writeG_zero (r : Regs) (x : W64) : r.writeG 0 x = r := rfl

@[simp] theorem Regs.writeM_zero (r : Regs) (x : W64) : r.writeM 0 x = r := rfl

theorem Regs.readG_writeG_same (r : Regs) {n : Fin 32} (x : W64) (h : n ≠ 0) : (r.writeG n x).readG n = x := by
  simp [Regs.readG, Regs.writeG, h]

theorem Regs.readG_writeG_other (r : Regs) {n k : Fin 32} (x : W64) (h : k ≠ n) : (r.writeG n x).readG k = r.readG k := by
  have : n.val ≠ k.val := fun e => h (Fin.ext e.symm)
  unfold Regs.readG Regs.writeG
  split
  · rfl
  · split
    · rfl
    · simp [Vector.getElem_set_ne, this]

theorem Regs.readM_writeM_same (r : Regs) {n : Fin 8} (x : W64) (h : n ≠ 0) : (r.writeM n x).readM n = x := by
  simp [Regs.readM, Regs.writeM, h]

theorem Regs.readM_writeM_other (r : Regs) {n k : Fin 8} (x : W64) (h : k ≠ n) : (r.writeM n x).readM k = r.readM k := by
  have : n.val ≠ k.val := fun e => h (Fin.ext e.symm)
  unfold Regs.readM Regs.writeM
  split
  · rfl
  · split
    · rfl
    · simp [Vector.getElem_set_ne, this]

theorem Regs.readV_writeV_same (r : Regs) (n : Fin 32) (x : V512) : (r.writeV n x).readV n = x := by
  simp [Regs.readV, Regs.writeV]

theorem Regs.readV_writeV_other (r : Regs) {n k : Fin 32} (x : V512) (h : k ≠ n) : (r.writeV n x).readV k = r.readV k := by
  have : n.val ≠ k.val := fun e => h (Fin.ext e.symm)
  simp [Regs.readV, Regs.writeV, Vector.getElem_set_ne, this]

theorem Regs.writeQ_same (r : Regs) (n : Fin 16) (x : Queue) : (r.writeQ n x).q[n] = x := by
  simp [Regs.writeQ]

theorem Regs.writeQ_other (r : Regs) {n k : Fin 16} (x : Queue) (h : k ≠ n) : (r.writeQ n x).q[k] = r.q[k] := by
  have : n.val ≠ k.val := fun e => h (Fin.ext e.symm)
  simp [Regs.writeQ, Vector.getElem_set_ne, this]

theorem Regs.writeK_other (r : Regs) {n k : Fin 8} (x : W64) (h : k ≠ n) : (r.writeK n x).k[k] = r.k[k] := by
  have : n.val ≠ k.val := fun e => h (Fin.ext e.symm)
  simp [Regs.writeK, Vector.getElem_set_ne, this]

theorem Regs.writeK_same (r : Regs) (n : Fin 8) (x : W64) : (r.writeK n x).k[n] = x := by
  simp [Regs.writeK]

end Sys2Proof.Machine
end

