-- ==== Sys2Proof/Laws/State.lean ====
section
/-! SUPPORT. Each field of the state under each named update: one lemma for every pair. -/

namespace Sys2Proof.Machine

/-! setCore -/

@[simp] theorem State.setCore_mem (s : State) (c : Nat) (k : Core) : (s.setCore c k).mem = s.mem := rfl
@[simp] theorem State.setCore_bad (s : State) (c : Nat) (k : Core) : (s.setCore c k).bad = s.bad := rfl
@[simp] theorem State.setCore_soft (s : State) (c : Nat) (k : Core) : (s.setCore c k).soft = s.soft := rfl
@[simp] theorem State.setCore_graphs (s : State) (c : Nat) (k : Core) : (s.setCore c k).graphs = s.graphs := rfl
@[simp] theorem State.setCore_lastExit (s : State) (c : Nat) (k : Core) : (s.setCore c k).lastExit = s.lastExit := rfl
@[simp] theorem State.setCore_spaces (s : State) (c : Nat) (k : Core) : (s.setCore c k).spaces = s.spaces := rfl
@[simp] theorem State.setCore_net (s : State) (c : Nat) (k : Core) : (s.setCore c k).net = s.net := rfl
@[simp] theorem State.setCore_history (s : State) (c : Nat) (k : Core) : (s.setCore c k).history = s.history := rfl
@[simp] theorem State.setCore_parked (s : State) (c : Nat) (k : Core) : (s.setCore c k).parked = s.parked := rfl
@[simp] theorem State.setCore_parkPlaces (s : State) (c : Nat) (k : Core) : (s.setCore c k).parkPlaces = s.parkPlaces := rfl
@[simp] theorem State.setCore_l2 (s : State) (c : Nat) (k : Core) : (s.setCore c k).l2 = s.l2 := rfl
@[simp] theorem State.setCore_requests (s : State) (c : Nat) (k : Core) : (s.setCore c k).requests = s.requests := rfl
@[simp] theorem State.setCore_batches (s : State) (c : Nat) (k : Core) : (s.setCore c k).batches = s.batches := rfl
@[simp] theorem State.setCore_harts (s : State) (c : Nat) (k : Core) : (s.setCore c k).harts = s.harts := rfl
@[simp] theorem State.setCore_replies (s : State) (c : Nat) (k : Core) : (s.setCore c k).replies = s.replies := rfl
@[simp] theorem State.setCore_arrivals (s : State) (c : Nat) (k : Core) : (s.setCore c k).arrivals = s.arrivals := rfl
@[simp] theorem State.setCore_releases (s : State) (c : Nat) (k : Core) : (s.setCore c k).releases = s.releases := rfl
@[simp] theorem State.setCore_broadcasts (s : State) (c : Nat) (k : Core) : (s.setCore c k).broadcasts = s.broadcasts := rfl
@[simp] theorem State.setCore_kills (s : State) (c : Nat) (k : Core) : (s.setCore c k).kills = s.kills := rfl
@[simp] theorem State.setCore_tasks (s : State) (c : Nat) (k : Core) : (s.setCore c k).tasks = s.tasks := rfl
@[simp] theorem State.setCore_reports (s : State) (c : Nat) (k : Core) : (s.setCore c k).reports = s.reports := rfl
@[simp] theorem State.setCore_munits (s : State) (c : Nat) (k : Core) : (s.setCore c k).munits = s.munits := rfl
@[simp] theorem State.setCore_tileDone (s : State) (c : Nat) (k : Core) : (s.setCore c k).tileDone = s.tileDone := rfl
@[simp] theorem State.setCore_links (s : State) (c : Nat) (k : Core) : (s.setCore c k).links = s.links := rfl
@[simp] theorem State.setCore_ports (s : State) (c : Nat) (k : Core) : (s.setCore c k).ports = s.ports := rfl
@[simp] theorem State.setCore_unreachable (s : State) (c : Nat) (k : Core) : (s.setCore c k).unreachable = s.unreachable := rfl
@[simp] theorem State.setCore_capacity (s : State) (c : Nat) (k : Core) : (s.setCore c k).capacity = s.capacity := rfl
@[simp] theorem State.setCore_hub (s : State) (c : Nat) (k : Core) : (s.setCore c k).hub = s.hub := rfl
@[simp] theorem State.setCore_clock (s : State) (c : Nat) (k : Core) : (s.setCore c k).clock = s.clock := rfl
@[simp] theorem State.setCore_agenda (s : State) (c : Nat) (k : Core) : (s.setCore c k).agenda = s.agenda := rfl
@[simp] theorem State.setCore_cur (s : State) (c : Nat) (k : Core) : (s.setCore c k).cur = s.cur := rfl
@[simp] theorem State.setCore_fresh (s : State) (c : Nat) (k : Core) : (s.setCore c k).fresh = s.fresh := rfl
@[simp] theorem State.setCore_hostRead (s : State) (c : Nat) (k : Core) : (s.setCore c k).hostRead = s.hostRead := rfl
@[simp] theorem State.setCore_stamp (s : State) (c : Nat) (k : Core) : (s.setCore c k).stamp = s.stamp := rfl

/-! modCore -/

@[simp] theorem State.modCore_mem (s : State) (c : Nat) (f : Core → Core) : (s.modCore c f).mem = s.mem := rfl
@[simp] theorem State.modCore_bad (s : State) (c : Nat) (f : Core → Core) : (s.modCore c f).bad = s.bad := rfl
@[simp] theorem State.modCore_soft (s : State) (c : Nat) (f : Core → Core) : (s.modCore c f).soft = s.soft := rfl
@[simp] theorem State.modCore_graphs (s : State) (c : Nat) (f : Core → Core) : (s.modCore c f).graphs = s.graphs := rfl
@[simp] theorem State.modCore_lastExit (s : State) (c : Nat) (f : Core → Core) : (s.modCore c f).lastExit = s.lastExit := rfl
@[simp] theorem State.modCore_spaces (s : State) (c : Nat) (f : Core → Core) : (s.modCore c f).spaces = s.spaces := rfl
@[simp] theorem State.modCore_net (s : State) (c : Nat) (f : Core → Core) : (s.modCore c f).net = s.net := rfl
@[simp] theorem State.modCore_history (s : State) (c : Nat) (f : Core → Core) : (s.modCore c f).history = s.history := rfl
@[simp] theorem State.modCore_parked (s : State) (c : Nat) (f : Core → Core) : (s.modCore c f).parked = s.parked := rfl
@[simp] theorem State.modCore_parkPlaces (s : State) (c : Nat) (f : Core → Core) : (s.modCore c f).parkPlaces = s.parkPlaces := rfl
@[simp] theorem State.modCore_l2 (s : State) (c : Nat) (f : Core → Core) : (s.modCore c f).l2 = s.l2 := rfl
@[simp] theorem State.modCore_requests (s : State) (c : Nat) (f : Core → Core) : (s.modCore c f).requests = s.requests := rfl
@[simp] theorem State.modCore_batches (s : State) (c : Nat) (f : Core → Core) : (s.modCore c f).batches = s.batches := rfl
@[simp] theorem State.modCore_harts (s : State) (c : Nat) (f : Core → Core) : (s.modCore c f).harts = s.harts := rfl
@[simp] theorem State.modCore_replies (s : State) (c : Nat) (f : Core → Core) : (s.modCore c f).replies = s.replies := rfl
@[simp] theorem State.modCore_arrivals (s : State) (c : Nat) (f : Core → Core) : (s.modCore c f).arrivals = s.arrivals := rfl
@[simp] theorem State.modCore_releases (s : State) (c : Nat) (f : Core → Core) : (s.modCore c f).releases = s.releases := rfl
@[simp] theorem State.modCore_broadcasts (s : State) (c : Nat) (f : Core → Core) : (s.modCore c f).broadcasts = s.broadcasts := rfl
@[simp] theorem State.modCore_kills (s : State) (c : Nat) (f : Core → Core) : (s.modCore c f).kills = s.kills := rfl
@[simp] theorem State.modCore_tasks (s : State) (c : Nat) (f : Core → Core) : (s.modCore c f).tasks = s.tasks := rfl
@[simp] theorem State.modCore_reports (s : State) (c : Nat) (f : Core → Core) : (s.modCore c f).reports = s.reports := rfl
@[simp] theorem State.modCore_munits (s : State) (c : Nat) (f : Core → Core) : (s.modCore c f).munits = s.munits := rfl
@[simp] theorem State.modCore_tileDone (s : State) (c : Nat) (f : Core → Core) : (s.modCore c f).tileDone = s.tileDone := rfl
@[simp] theorem State.modCore_links (s : State) (c : Nat) (f : Core → Core) : (s.modCore c f).links = s.links := rfl
@[simp] theorem State.modCore_ports (s : State) (c : Nat) (f : Core → Core) : (s.modCore c f).ports = s.ports := rfl
@[simp] theorem State.modCore_unreachable (s : State) (c : Nat) (f : Core → Core) : (s.modCore c f).unreachable = s.unreachable := rfl
@[simp] theorem State.modCore_capacity (s : State) (c : Nat) (f : Core → Core) : (s.modCore c f).capacity = s.capacity := rfl
@[simp] theorem State.modCore_hub (s : State) (c : Nat) (f : Core → Core) : (s.modCore c f).hub = s.hub := rfl
@[simp] theorem State.modCore_clock (s : State) (c : Nat) (f : Core → Core) : (s.modCore c f).clock = s.clock := rfl
@[simp] theorem State.modCore_agenda (s : State) (c : Nat) (f : Core → Core) : (s.modCore c f).agenda = s.agenda := rfl
@[simp] theorem State.modCore_cur (s : State) (c : Nat) (f : Core → Core) : (s.modCore c f).cur = s.cur := rfl
@[simp] theorem State.modCore_fresh (s : State) (c : Nat) (f : Core → Core) : (s.modCore c f).fresh = s.fresh := rfl
@[simp] theorem State.modCore_hostRead (s : State) (c : Nat) (f : Core → Core) : (s.modCore c f).hostRead = s.hostRead := rfl
@[simp] theorem State.modCore_stamp (s : State) (c : Nat) (f : Core → Core) : (s.modCore c f).stamp = s.stamp := rfl

/-! setSlot -/

@[simp] theorem State.setSlot_mem (s : State) (c i : Nat) (x : Slot) : (s.setSlot c i x).mem = s.mem := rfl
@[simp] theorem State.setSlot_bad (s : State) (c i : Nat) (x : Slot) : (s.setSlot c i x).bad = s.bad := rfl
@[simp] theorem State.setSlot_soft (s : State) (c i : Nat) (x : Slot) : (s.setSlot c i x).soft = s.soft := rfl
@[simp] theorem State.setSlot_graphs (s : State) (c i : Nat) (x : Slot) : (s.setSlot c i x).graphs = s.graphs := rfl
@[simp] theorem State.setSlot_lastExit (s : State) (c i : Nat) (x : Slot) : (s.setSlot c i x).lastExit = s.lastExit := rfl
@[simp] theorem State.setSlot_spaces (s : State) (c i : Nat) (x : Slot) : (s.setSlot c i x).spaces = s.spaces := rfl
@[simp] theorem State.setSlot_net (s : State) (c i : Nat) (x : Slot) : (s.setSlot c i x).net = s.net := rfl
@[simp] theorem State.setSlot_history (s : State) (c i : Nat) (x : Slot) : (s.setSlot c i x).history = s.history := rfl
@[simp] theorem State.setSlot_parked (s : State) (c i : Nat) (x : Slot) : (s.setSlot c i x).parked = s.parked := rfl
@[simp] theorem State.setSlot_parkPlaces (s : State) (c i : Nat) (x : Slot) : (s.setSlot c i x).parkPlaces = s.parkPlaces := rfl
@[simp] theorem State.setSlot_l2 (s : State) (c i : Nat) (x : Slot) : (s.setSlot c i x).l2 = s.l2 := rfl
@[simp] theorem State.setSlot_requests (s : State) (c i : Nat) (x : Slot) : (s.setSlot c i x).requests = s.requests := rfl
@[simp] theorem State.setSlot_batches (s : State) (c i : Nat) (x : Slot) : (s.setSlot c i x).batches = s.batches := rfl
@[simp] theorem State.setSlot_harts (s : State) (c i : Nat) (x : Slot) : (s.setSlot c i x).harts = s.harts := rfl
@[simp] theorem State.setSlot_replies (s : State) (c i : Nat) (x : Slot) : (s.setSlot c i x).replies = s.replies := rfl
@[simp] theorem State.setSlot_arrivals (s : State) (c i : Nat) (x : Slot) : (s.setSlot c i x).arrivals = s.arrivals := rfl
@[simp] theorem State.setSlot_releases (s : State) (c i : Nat) (x : Slot) : (s.setSlot c i x).releases = s.releases := rfl
@[simp] theorem State.setSlot_broadcasts (s : State) (c i : Nat) (x : Slot) : (s.setSlot c i x).broadcasts = s.broadcasts := rfl
@[simp] theorem State.setSlot_kills (s : State) (c i : Nat) (x : Slot) : (s.setSlot c i x).kills = s.kills := rfl
@[simp] theorem State.setSlot_tasks (s : State) (c i : Nat) (x : Slot) : (s.setSlot c i x).tasks = s.tasks := rfl
@[simp] theorem State.setSlot_reports (s : State) (c i : Nat) (x : Slot) : (s.setSlot c i x).reports = s.reports := rfl
@[simp] theorem State.setSlot_munits (s : State) (c i : Nat) (x : Slot) : (s.setSlot c i x).munits = s.munits := rfl
@[simp] theorem State.setSlot_tileDone (s : State) (c i : Nat) (x : Slot) : (s.setSlot c i x).tileDone = s.tileDone := rfl
@[simp] theorem State.setSlot_links (s : State) (c i : Nat) (x : Slot) : (s.setSlot c i x).links = s.links := rfl
@[simp] theorem State.setSlot_ports (s : State) (c i : Nat) (x : Slot) : (s.setSlot c i x).ports = s.ports := rfl
@[simp] theorem State.setSlot_unreachable (s : State) (c i : Nat) (x : Slot) : (s.setSlot c i x).unreachable = s.unreachable := rfl
@[simp] theorem State.setSlot_capacity (s : State) (c i : Nat) (x : Slot) : (s.setSlot c i x).capacity = s.capacity := rfl
@[simp] theorem State.setSlot_hub (s : State) (c i : Nat) (x : Slot) : (s.setSlot c i x).hub = s.hub := rfl
@[simp] theorem State.setSlot_clock (s : State) (c i : Nat) (x : Slot) : (s.setSlot c i x).clock = s.clock := rfl
@[simp] theorem State.setSlot_agenda (s : State) (c i : Nat) (x : Slot) : (s.setSlot c i x).agenda = s.agenda := rfl
@[simp] theorem State.setSlot_cur (s : State) (c i : Nat) (x : Slot) : (s.setSlot c i x).cur = s.cur := rfl
@[simp] theorem State.setSlot_fresh (s : State) (c i : Nat) (x : Slot) : (s.setSlot c i x).fresh = s.fresh := rfl
@[simp] theorem State.setSlot_hostRead (s : State) (c i : Nat) (x : Slot) : (s.setSlot c i x).hostRead = s.hostRead := rfl
@[simp] theorem State.setSlot_stamp (s : State) (c i : Nat) (x : Slot) : (s.setSlot c i x).stamp = s.stamp := rfl

/-! modSlot -/

@[simp] theorem State.modSlot_mem (s : State) (c i : Nat) (f : Slot → Slot) : (s.modSlot c i f).mem = s.mem := rfl
@[simp] theorem State.modSlot_bad (s : State) (c i : Nat) (f : Slot → Slot) : (s.modSlot c i f).bad = s.bad := rfl
@[simp] theorem State.modSlot_soft (s : State) (c i : Nat) (f : Slot → Slot) : (s.modSlot c i f).soft = s.soft := rfl
@[simp] theorem State.modSlot_graphs (s : State) (c i : Nat) (f : Slot → Slot) : (s.modSlot c i f).graphs = s.graphs := rfl
@[simp] theorem State.modSlot_lastExit (s : State) (c i : Nat) (f : Slot → Slot) : (s.modSlot c i f).lastExit = s.lastExit := rfl
@[simp] theorem State.modSlot_spaces (s : State) (c i : Nat) (f : Slot → Slot) : (s.modSlot c i f).spaces = s.spaces := rfl
@[simp] theorem State.modSlot_net (s : State) (c i : Nat) (f : Slot → Slot) : (s.modSlot c i f).net = s.net := rfl
@[simp] theorem State.modSlot_history (s : State) (c i : Nat) (f : Slot → Slot) : (s.modSlot c i f).history = s.history := rfl
@[simp] theorem State.modSlot_parked (s : State) (c i : Nat) (f : Slot → Slot) : (s.modSlot c i f).parked = s.parked := rfl
@[simp] theorem State.modSlot_parkPlaces (s : State) (c i : Nat) (f : Slot → Slot) : (s.modSlot c i f).parkPlaces = s.parkPlaces := rfl
@[simp] theorem State.modSlot_l2 (s : State) (c i : Nat) (f : Slot → Slot) : (s.modSlot c i f).l2 = s.l2 := rfl
@[simp] theorem State.modSlot_requests (s : State) (c i : Nat) (f : Slot → Slot) : (s.modSlot c i f).requests = s.requests := rfl
@[simp] theorem State.modSlot_batches (s : State) (c i : Nat) (f : Slot → Slot) : (s.modSlot c i f).batches = s.batches := rfl
@[simp] theorem State.modSlot_harts (s : State) (c i : Nat) (f : Slot → Slot) : (s.modSlot c i f).harts = s.harts := rfl
@[simp] theorem State.modSlot_replies (s : State) (c i : Nat) (f : Slot → Slot) : (s.modSlot c i f).replies = s.replies := rfl
@[simp] theorem State.modSlot_arrivals (s : State) (c i : Nat) (f : Slot → Slot) : (s.modSlot c i f).arrivals = s.arrivals := rfl
@[simp] theorem State.modSlot_releases (s : State) (c i : Nat) (f : Slot → Slot) : (s.modSlot c i f).releases = s.releases := rfl
@[simp] theorem State.modSlot_broadcasts (s : State) (c i : Nat) (f : Slot → Slot) : (s.modSlot c i f).broadcasts = s.broadcasts := rfl
@[simp] theorem State.modSlot_kills (s : State) (c i : Nat) (f : Slot → Slot) : (s.modSlot c i f).kills = s.kills := rfl
@[simp] theorem State.modSlot_tasks (s : State) (c i : Nat) (f : Slot → Slot) : (s.modSlot c i f).tasks = s.tasks := rfl
@[simp] theorem State.modSlot_reports (s : State) (c i : Nat) (f : Slot → Slot) : (s.modSlot c i f).reports = s.reports := rfl
@[simp] theorem State.modSlot_munits (s : State) (c i : Nat) (f : Slot → Slot) : (s.modSlot c i f).munits = s.munits := rfl
@[simp] theorem State.modSlot_tileDone (s : State) (c i : Nat) (f : Slot → Slot) : (s.modSlot c i f).tileDone = s.tileDone := rfl
@[simp] theorem State.modSlot_links (s : State) (c i : Nat) (f : Slot → Slot) : (s.modSlot c i f).links = s.links := rfl
@[simp] theorem State.modSlot_ports (s : State) (c i : Nat) (f : Slot → Slot) : (s.modSlot c i f).ports = s.ports := rfl
@[simp] theorem State.modSlot_unreachable (s : State) (c i : Nat) (f : Slot → Slot) : (s.modSlot c i f).unreachable = s.unreachable := rfl
@[simp] theorem State.modSlot_capacity (s : State) (c i : Nat) (f : Slot → Slot) : (s.modSlot c i f).capacity = s.capacity := rfl
@[simp] theorem State.modSlot_hub (s : State) (c i : Nat) (f : Slot → Slot) : (s.modSlot c i f).hub = s.hub := rfl
@[simp] theorem State.modSlot_clock (s : State) (c i : Nat) (f : Slot → Slot) : (s.modSlot c i f).clock = s.clock := rfl
@[simp] theorem State.modSlot_agenda (s : State) (c i : Nat) (f : Slot → Slot) : (s.modSlot c i f).agenda = s.agenda := rfl
@[simp] theorem State.modSlot_cur (s : State) (c i : Nat) (f : Slot → Slot) : (s.modSlot c i f).cur = s.cur := rfl
@[simp] theorem State.modSlot_fresh (s : State) (c i : Nat) (f : Slot → Slot) : (s.modSlot c i f).fresh = s.fresh := rfl
@[simp] theorem State.modSlot_hostRead (s : State) (c i : Nat) (f : Slot → Slot) : (s.modSlot c i f).hostRead = s.hostRead := rfl
@[simp] theorem State.modSlot_stamp (s : State) (c i : Nat) (f : Slot → Slot) : (s.modSlot c i f).stamp = s.stamp := rfl

/-! setMe -/

@[simp] theorem State.setMe_mem (s : State) (x : Slot) : (s.setMe x).mem = s.mem := rfl
@[simp] theorem State.setMe_bad (s : State) (x : Slot) : (s.setMe x).bad = s.bad := rfl
@[simp] theorem State.setMe_soft (s : State) (x : Slot) : (s.setMe x).soft = s.soft := rfl
@[simp] theorem State.setMe_graphs (s : State) (x : Slot) : (s.setMe x).graphs = s.graphs := rfl
@[simp] theorem State.setMe_lastExit (s : State) (x : Slot) : (s.setMe x).lastExit = s.lastExit := rfl
@[simp] theorem State.setMe_spaces (s : State) (x : Slot) : (s.setMe x).spaces = s.spaces := rfl
@[simp] theorem State.setMe_net (s : State) (x : Slot) : (s.setMe x).net = s.net := rfl
@[simp] theorem State.setMe_history (s : State) (x : Slot) : (s.setMe x).history = s.history := rfl
@[simp] theorem State.setMe_parked (s : State) (x : Slot) : (s.setMe x).parked = s.parked := rfl
@[simp] theorem State.setMe_parkPlaces (s : State) (x : Slot) : (s.setMe x).parkPlaces = s.parkPlaces := rfl
@[simp] theorem State.setMe_l2 (s : State) (x : Slot) : (s.setMe x).l2 = s.l2 := rfl
@[simp] theorem State.setMe_requests (s : State) (x : Slot) : (s.setMe x).requests = s.requests := rfl
@[simp] theorem State.setMe_batches (s : State) (x : Slot) : (s.setMe x).batches = s.batches := rfl
@[simp] theorem State.setMe_harts (s : State) (x : Slot) : (s.setMe x).harts = s.harts := rfl
@[simp] theorem State.setMe_replies (s : State) (x : Slot) : (s.setMe x).replies = s.replies := rfl
@[simp] theorem State.setMe_arrivals (s : State) (x : Slot) : (s.setMe x).arrivals = s.arrivals := rfl
@[simp] theorem State.setMe_releases (s : State) (x : Slot) : (s.setMe x).releases = s.releases := rfl
@[simp] theorem State.setMe_broadcasts (s : State) (x : Slot) : (s.setMe x).broadcasts = s.broadcasts := rfl
@[simp] theorem State.setMe_kills (s : State) (x : Slot) : (s.setMe x).kills = s.kills := rfl
@[simp] theorem State.setMe_tasks (s : State) (x : Slot) : (s.setMe x).tasks = s.tasks := rfl
@[simp] theorem State.setMe_reports (s : State) (x : Slot) : (s.setMe x).reports = s.reports := rfl
@[simp] theorem State.setMe_munits (s : State) (x : Slot) : (s.setMe x).munits = s.munits := rfl
@[simp] theorem State.setMe_tileDone (s : State) (x : Slot) : (s.setMe x).tileDone = s.tileDone := rfl
@[simp] theorem State.setMe_links (s : State) (x : Slot) : (s.setMe x).links = s.links := rfl
@[simp] theorem State.setMe_ports (s : State) (x : Slot) : (s.setMe x).ports = s.ports := rfl
@[simp] theorem State.setMe_unreachable (s : State) (x : Slot) : (s.setMe x).unreachable = s.unreachable := rfl
@[simp] theorem State.setMe_capacity (s : State) (x : Slot) : (s.setMe x).capacity = s.capacity := rfl
@[simp] theorem State.setMe_hub (s : State) (x : Slot) : (s.setMe x).hub = s.hub := rfl
@[simp] theorem State.setMe_clock (s : State) (x : Slot) : (s.setMe x).clock = s.clock := rfl
@[simp] theorem State.setMe_agenda (s : State) (x : Slot) : (s.setMe x).agenda = s.agenda := rfl
@[simp] theorem State.setMe_cur (s : State) (x : Slot) : (s.setMe x).cur = s.cur := rfl
@[simp] theorem State.setMe_fresh (s : State) (x : Slot) : (s.setMe x).fresh = s.fresh := rfl
@[simp] theorem State.setMe_hostRead (s : State) (x : Slot) : (s.setMe x).hostRead = s.hostRead := rfl
@[simp] theorem State.setMe_stamp (s : State) (x : Slot) : (s.setMe x).stamp = s.stamp := rfl

/-! modMe -/

@[simp] theorem State.modMe_mem (s : State) (f : Slot → Slot) : (s.modMe f).mem = s.mem := rfl
@[simp] theorem State.modMe_bad (s : State) (f : Slot → Slot) : (s.modMe f).bad = s.bad := rfl
@[simp] theorem State.modMe_soft (s : State) (f : Slot → Slot) : (s.modMe f).soft = s.soft := rfl
@[simp] theorem State.modMe_graphs (s : State) (f : Slot → Slot) : (s.modMe f).graphs = s.graphs := rfl
@[simp] theorem State.modMe_lastExit (s : State) (f : Slot → Slot) : (s.modMe f).lastExit = s.lastExit := rfl
@[simp] theorem State.modMe_spaces (s : State) (f : Slot → Slot) : (s.modMe f).spaces = s.spaces := rfl
@[simp] theorem State.modMe_net (s : State) (f : Slot → Slot) : (s.modMe f).net = s.net := rfl
@[simp] theorem State.modMe_history (s : State) (f : Slot → Slot) : (s.modMe f).history = s.history := rfl
@[simp] theorem State.modMe_parked (s : State) (f : Slot → Slot) : (s.modMe f).parked = s.parked := rfl
@[simp] theorem State.modMe_parkPlaces (s : State) (f : Slot → Slot) : (s.modMe f).parkPlaces = s.parkPlaces := rfl
@[simp] theorem State.modMe_l2 (s : State) (f : Slot → Slot) : (s.modMe f).l2 = s.l2 := rfl
@[simp] theorem State.modMe_requests (s : State) (f : Slot → Slot) : (s.modMe f).requests = s.requests := rfl
@[simp] theorem State.modMe_batches (s : State) (f : Slot → Slot) : (s.modMe f).batches = s.batches := rfl
@[simp] theorem State.modMe_harts (s : State) (f : Slot → Slot) : (s.modMe f).harts = s.harts := rfl
@[simp] theorem State.modMe_replies (s : State) (f : Slot → Slot) : (s.modMe f).replies = s.replies := rfl
@[simp] theorem State.modMe_arrivals (s : State) (f : Slot → Slot) : (s.modMe f).arrivals = s.arrivals := rfl
@[simp] theorem State.modMe_releases (s : State) (f : Slot → Slot) : (s.modMe f).releases = s.releases := rfl
@[simp] theorem State.modMe_broadcasts (s : State) (f : Slot → Slot) : (s.modMe f).broadcasts = s.broadcasts := rfl
@[simp] theorem State.modMe_kills (s : State) (f : Slot → Slot) : (s.modMe f).kills = s.kills := rfl
@[simp] theorem State.modMe_tasks (s : State) (f : Slot → Slot) : (s.modMe f).tasks = s.tasks := rfl
@[simp] theorem State.modMe_reports (s : State) (f : Slot → Slot) : (s.modMe f).reports = s.reports := rfl
@[simp] theorem State.modMe_munits (s : State) (f : Slot → Slot) : (s.modMe f).munits = s.munits := rfl
@[simp] theorem State.modMe_tileDone (s : State) (f : Slot → Slot) : (s.modMe f).tileDone = s.tileDone := rfl
@[simp] theorem State.modMe_links (s : State) (f : Slot → Slot) : (s.modMe f).links = s.links := rfl
@[simp] theorem State.modMe_ports (s : State) (f : Slot → Slot) : (s.modMe f).ports = s.ports := rfl
@[simp] theorem State.modMe_unreachable (s : State) (f : Slot → Slot) : (s.modMe f).unreachable = s.unreachable := rfl
@[simp] theorem State.modMe_capacity (s : State) (f : Slot → Slot) : (s.modMe f).capacity = s.capacity := rfl
@[simp] theorem State.modMe_hub (s : State) (f : Slot → Slot) : (s.modMe f).hub = s.hub := rfl
@[simp] theorem State.modMe_clock (s : State) (f : Slot → Slot) : (s.modMe f).clock = s.clock := rfl
@[simp] theorem State.modMe_agenda (s : State) (f : Slot → Slot) : (s.modMe f).agenda = s.agenda := rfl
@[simp] theorem State.modMe_cur (s : State) (f : Slot → Slot) : (s.modMe f).cur = s.cur := rfl
@[simp] theorem State.modMe_fresh (s : State) (f : Slot → Slot) : (s.modMe f).fresh = s.fresh := rfl
@[simp] theorem State.modMe_hostRead (s : State) (f : Slot → Slot) : (s.modMe f).hostRead = s.hostRead := rfl
@[simp] theorem State.modMe_stamp (s : State) (f : Slot → Slot) : (s.modMe f).stamp = s.stamp := rfl

/-! setRegs -/

@[simp] theorem State.setRegs_mem (s : State) (r : Regs) : (s.setRegs r).mem = s.mem := rfl
@[simp] theorem State.setRegs_bad (s : State) (r : Regs) : (s.setRegs r).bad = s.bad := rfl
@[simp] theorem State.setRegs_soft (s : State) (r : Regs) : (s.setRegs r).soft = s.soft := rfl
@[simp] theorem State.setRegs_graphs (s : State) (r : Regs) : (s.setRegs r).graphs = s.graphs := rfl
@[simp] theorem State.setRegs_lastExit (s : State) (r : Regs) : (s.setRegs r).lastExit = s.lastExit := rfl
@[simp] theorem State.setRegs_spaces (s : State) (r : Regs) : (s.setRegs r).spaces = s.spaces := rfl
@[simp] theorem State.setRegs_net (s : State) (r : Regs) : (s.setRegs r).net = s.net := rfl
@[simp] theorem State.setRegs_history (s : State) (r : Regs) : (s.setRegs r).history = s.history := rfl
@[simp] theorem State.setRegs_parked (s : State) (r : Regs) : (s.setRegs r).parked = s.parked := rfl
@[simp] theorem State.setRegs_parkPlaces (s : State) (r : Regs) : (s.setRegs r).parkPlaces = s.parkPlaces := rfl
@[simp] theorem State.setRegs_l2 (s : State) (r : Regs) : (s.setRegs r).l2 = s.l2 := rfl
@[simp] theorem State.setRegs_requests (s : State) (r : Regs) : (s.setRegs r).requests = s.requests := rfl
@[simp] theorem State.setRegs_batches (s : State) (r : Regs) : (s.setRegs r).batches = s.batches := rfl
@[simp] theorem State.setRegs_harts (s : State) (r : Regs) : (s.setRegs r).harts = s.harts := rfl
@[simp] theorem State.setRegs_replies (s : State) (r : Regs) : (s.setRegs r).replies = s.replies := rfl
@[simp] theorem State.setRegs_arrivals (s : State) (r : Regs) : (s.setRegs r).arrivals = s.arrivals := rfl
@[simp] theorem State.setRegs_releases (s : State) (r : Regs) : (s.setRegs r).releases = s.releases := rfl
@[simp] theorem State.setRegs_broadcasts (s : State) (r : Regs) : (s.setRegs r).broadcasts = s.broadcasts := rfl
@[simp] theorem State.setRegs_kills (s : State) (r : Regs) : (s.setRegs r).kills = s.kills := rfl
@[simp] theorem State.setRegs_tasks (s : State) (r : Regs) : (s.setRegs r).tasks = s.tasks := rfl
@[simp] theorem State.setRegs_reports (s : State) (r : Regs) : (s.setRegs r).reports = s.reports := rfl
@[simp] theorem State.setRegs_munits (s : State) (r : Regs) : (s.setRegs r).munits = s.munits := rfl
@[simp] theorem State.setRegs_tileDone (s : State) (r : Regs) : (s.setRegs r).tileDone = s.tileDone := rfl
@[simp] theorem State.setRegs_links (s : State) (r : Regs) : (s.setRegs r).links = s.links := rfl
@[simp] theorem State.setRegs_ports (s : State) (r : Regs) : (s.setRegs r).ports = s.ports := rfl
@[simp] theorem State.setRegs_unreachable (s : State) (r : Regs) : (s.setRegs r).unreachable = s.unreachable := rfl
@[simp] theorem State.setRegs_capacity (s : State) (r : Regs) : (s.setRegs r).capacity = s.capacity := rfl
@[simp] theorem State.setRegs_hub (s : State) (r : Regs) : (s.setRegs r).hub = s.hub := rfl
@[simp] theorem State.setRegs_clock (s : State) (r : Regs) : (s.setRegs r).clock = s.clock := rfl
@[simp] theorem State.setRegs_agenda (s : State) (r : Regs) : (s.setRegs r).agenda = s.agenda := rfl
@[simp] theorem State.setRegs_cur (s : State) (r : Regs) : (s.setRegs r).cur = s.cur := rfl
@[simp] theorem State.setRegs_fresh (s : State) (r : Regs) : (s.setRegs r).fresh = s.fresh := rfl
@[simp] theorem State.setRegs_hostRead (s : State) (r : Regs) : (s.setRegs r).hostRead = s.hostRead := rfl
@[simp] theorem State.setRegs_stamp (s : State) (r : Regs) : (s.setRegs r).stamp = s.stamp := rfl

/-! modRegs -/

@[simp] theorem State.modRegs_mem (s : State) (f : Regs → Regs) : (s.modRegs f).mem = s.mem := rfl
@[simp] theorem State.modRegs_bad (s : State) (f : Regs → Regs) : (s.modRegs f).bad = s.bad := rfl
@[simp] theorem State.modRegs_soft (s : State) (f : Regs → Regs) : (s.modRegs f).soft = s.soft := rfl
@[simp] theorem State.modRegs_graphs (s : State) (f : Regs → Regs) : (s.modRegs f).graphs = s.graphs := rfl
@[simp] theorem State.modRegs_lastExit (s : State) (f : Regs → Regs) : (s.modRegs f).lastExit = s.lastExit := rfl
@[simp] theorem State.modRegs_spaces (s : State) (f : Regs → Regs) : (s.modRegs f).spaces = s.spaces := rfl
@[simp] theorem State.modRegs_net (s : State) (f : Regs → Regs) : (s.modRegs f).net = s.net := rfl
@[simp] theorem State.modRegs_history (s : State) (f : Regs → Regs) : (s.modRegs f).history = s.history := rfl
@[simp] theorem State.modRegs_parked (s : State) (f : Regs → Regs) : (s.modRegs f).parked = s.parked := rfl
@[simp] theorem State.modRegs_parkPlaces (s : State) (f : Regs → Regs) : (s.modRegs f).parkPlaces = s.parkPlaces := rfl
@[simp] theorem State.modRegs_l2 (s : State) (f : Regs → Regs) : (s.modRegs f).l2 = s.l2 := rfl
@[simp] theorem State.modRegs_requests (s : State) (f : Regs → Regs) : (s.modRegs f).requests = s.requests := rfl
@[simp] theorem State.modRegs_batches (s : State) (f : Regs → Regs) : (s.modRegs f).batches = s.batches := rfl
@[simp] theorem State.modRegs_harts (s : State) (f : Regs → Regs) : (s.modRegs f).harts = s.harts := rfl
@[simp] theorem State.modRegs_replies (s : State) (f : Regs → Regs) : (s.modRegs f).replies = s.replies := rfl
@[simp] theorem State.modRegs_arrivals (s : State) (f : Regs → Regs) : (s.modRegs f).arrivals = s.arrivals := rfl
@[simp] theorem State.modRegs_releases (s : State) (f : Regs → Regs) : (s.modRegs f).releases = s.releases := rfl
@[simp] theorem State.modRegs_broadcasts (s : State) (f : Regs → Regs) : (s.modRegs f).broadcasts = s.broadcasts := rfl
@[simp] theorem State.modRegs_kills (s : State) (f : Regs → Regs) : (s.modRegs f).kills = s.kills := rfl
@[simp] theorem State.modRegs_tasks (s : State) (f : Regs → Regs) : (s.modRegs f).tasks = s.tasks := rfl
@[simp] theorem State.modRegs_reports (s : State) (f : Regs → Regs) : (s.modRegs f).reports = s.reports := rfl
@[simp] theorem State.modRegs_munits (s : State) (f : Regs → Regs) : (s.modRegs f).munits = s.munits := rfl
@[simp] theorem State.modRegs_tileDone (s : State) (f : Regs → Regs) : (s.modRegs f).tileDone = s.tileDone := rfl
@[simp] theorem State.modRegs_links (s : State) (f : Regs → Regs) : (s.modRegs f).links = s.links := rfl
@[simp] theorem State.modRegs_ports (s : State) (f : Regs → Regs) : (s.modRegs f).ports = s.ports := rfl
@[simp] theorem State.modRegs_unreachable (s : State) (f : Regs → Regs) : (s.modRegs f).unreachable = s.unreachable := rfl
@[simp] theorem State.modRegs_capacity (s : State) (f : Regs → Regs) : (s.modRegs f).capacity = s.capacity := rfl
@[simp] theorem State.modRegs_hub (s : State) (f : Regs → Regs) : (s.modRegs f).hub = s.hub := rfl
@[simp] theorem State.modRegs_clock (s : State) (f : Regs → Regs) : (s.modRegs f).clock = s.clock := rfl
@[simp] theorem State.modRegs_agenda (s : State) (f : Regs → Regs) : (s.modRegs f).agenda = s.agenda := rfl
@[simp] theorem State.modRegs_cur (s : State) (f : Regs → Regs) : (s.modRegs f).cur = s.cur := rfl
@[simp] theorem State.modRegs_fresh (s : State) (f : Regs → Regs) : (s.modRegs f).fresh = s.fresh := rfl
@[simp] theorem State.modRegs_hostRead (s : State) (f : Regs → Regs) : (s.modRegs f).hostRead = s.hostRead := rfl
@[simp] theorem State.modRegs_stamp (s : State) (f : Regs → Regs) : (s.modRegs f).stamp = s.stamp := rfl

/-! modChunk -/

@[simp] theorem State.modChunk_mem (s : State) (f : Chunk → Chunk) : (s.modChunk f).mem = s.mem := rfl
@[simp] theorem State.modChunk_bad (s : State) (f : Chunk → Chunk) : (s.modChunk f).bad = s.bad := rfl
@[simp] theorem State.modChunk_soft (s : State) (f : Chunk → Chunk) : (s.modChunk f).soft = s.soft := rfl
@[simp] theorem State.modChunk_graphs (s : State) (f : Chunk → Chunk) : (s.modChunk f).graphs = s.graphs := rfl
@[simp] theorem State.modChunk_lastExit (s : State) (f : Chunk → Chunk) : (s.modChunk f).lastExit = s.lastExit := rfl
@[simp] theorem State.modChunk_spaces (s : State) (f : Chunk → Chunk) : (s.modChunk f).spaces = s.spaces := rfl
@[simp] theorem State.modChunk_net (s : State) (f : Chunk → Chunk) : (s.modChunk f).net = s.net := rfl
@[simp] theorem State.modChunk_history (s : State) (f : Chunk → Chunk) : (s.modChunk f).history = s.history := rfl
@[simp] theorem State.modChunk_parked (s : State) (f : Chunk → Chunk) : (s.modChunk f).parked = s.parked := rfl
@[simp] theorem State.modChunk_parkPlaces (s : State) (f : Chunk → Chunk) : (s.modChunk f).parkPlaces = s.parkPlaces := rfl
@[simp] theorem State.modChunk_l2 (s : State) (f : Chunk → Chunk) : (s.modChunk f).l2 = s.l2 := rfl
@[simp] theorem State.modChunk_requests (s : State) (f : Chunk → Chunk) : (s.modChunk f).requests = s.requests := rfl
@[simp] theorem State.modChunk_batches (s : State) (f : Chunk → Chunk) : (s.modChunk f).batches = s.batches := rfl
@[simp] theorem State.modChunk_harts (s : State) (f : Chunk → Chunk) : (s.modChunk f).harts = s.harts := rfl
@[simp] theorem State.modChunk_replies (s : State) (f : Chunk → Chunk) : (s.modChunk f).replies = s.replies := rfl
@[simp] theorem State.modChunk_arrivals (s : State) (f : Chunk → Chunk) : (s.modChunk f).arrivals = s.arrivals := rfl
@[simp] theorem State.modChunk_releases (s : State) (f : Chunk → Chunk) : (s.modChunk f).releases = s.releases := rfl
@[simp] theorem State.modChunk_broadcasts (s : State) (f : Chunk → Chunk) : (s.modChunk f).broadcasts = s.broadcasts := rfl
@[simp] theorem State.modChunk_kills (s : State) (f : Chunk → Chunk) : (s.modChunk f).kills = s.kills := rfl
@[simp] theorem State.modChunk_tasks (s : State) (f : Chunk → Chunk) : (s.modChunk f).tasks = s.tasks := rfl
@[simp] theorem State.modChunk_reports (s : State) (f : Chunk → Chunk) : (s.modChunk f).reports = s.reports := rfl
@[simp] theorem State.modChunk_munits (s : State) (f : Chunk → Chunk) : (s.modChunk f).munits = s.munits := rfl
@[simp] theorem State.modChunk_tileDone (s : State) (f : Chunk → Chunk) : (s.modChunk f).tileDone = s.tileDone := rfl
@[simp] theorem State.modChunk_links (s : State) (f : Chunk → Chunk) : (s.modChunk f).links = s.links := rfl
@[simp] theorem State.modChunk_ports (s : State) (f : Chunk → Chunk) : (s.modChunk f).ports = s.ports := rfl
@[simp] theorem State.modChunk_unreachable (s : State) (f : Chunk → Chunk) : (s.modChunk f).unreachable = s.unreachable := rfl
@[simp] theorem State.modChunk_capacity (s : State) (f : Chunk → Chunk) : (s.modChunk f).capacity = s.capacity := rfl
@[simp] theorem State.modChunk_hub (s : State) (f : Chunk → Chunk) : (s.modChunk f).hub = s.hub := rfl
@[simp] theorem State.modChunk_clock (s : State) (f : Chunk → Chunk) : (s.modChunk f).clock = s.clock := rfl
@[simp] theorem State.modChunk_agenda (s : State) (f : Chunk → Chunk) : (s.modChunk f).agenda = s.agenda := rfl
@[simp] theorem State.modChunk_cur (s : State) (f : Chunk → Chunk) : (s.modChunk f).cur = s.cur := rfl
@[simp] theorem State.modChunk_fresh (s : State) (f : Chunk → Chunk) : (s.modChunk f).fresh = s.fresh := rfl
@[simp] theorem State.modChunk_hostRead (s : State) (f : Chunk → Chunk) : (s.modChunk f).hostRead = s.hostRead := rfl
@[simp] theorem State.modChunk_stamp (s : State) (f : Chunk → Chunk) : (s.modChunk f).stamp = s.stamp := rfl

/-! setGraph -/

@[simp] theorem State.setGraph_mem (s : State) (g : Nat) (x : Graph) : (s.setGraph g x).mem = s.mem := rfl
@[simp] theorem State.setGraph_bad (s : State) (g : Nat) (x : Graph) : (s.setGraph g x).bad = s.bad := rfl
@[simp] theorem State.setGraph_soft (s : State) (g : Nat) (x : Graph) : (s.setGraph g x).soft = s.soft := rfl
@[simp] theorem State.setGraph_cores (s : State) (g : Nat) (x : Graph) : (s.setGraph g x).cores = s.cores := rfl
@[simp] theorem State.setGraph_lastExit (s : State) (g : Nat) (x : Graph) : (s.setGraph g x).lastExit = s.lastExit := rfl
@[simp] theorem State.setGraph_spaces (s : State) (g : Nat) (x : Graph) : (s.setGraph g x).spaces = s.spaces := rfl
@[simp] theorem State.setGraph_net (s : State) (g : Nat) (x : Graph) : (s.setGraph g x).net = s.net := rfl
@[simp] theorem State.setGraph_history (s : State) (g : Nat) (x : Graph) : (s.setGraph g x).history = s.history := rfl
@[simp] theorem State.setGraph_parked (s : State) (g : Nat) (x : Graph) : (s.setGraph g x).parked = s.parked := rfl
@[simp] theorem State.setGraph_parkPlaces (s : State) (g : Nat) (x : Graph) : (s.setGraph g x).parkPlaces = s.parkPlaces := rfl
@[simp] theorem State.setGraph_l2 (s : State) (g : Nat) (x : Graph) : (s.setGraph g x).l2 = s.l2 := rfl
@[simp] theorem State.setGraph_requests (s : State) (g : Nat) (x : Graph) : (s.setGraph g x).requests = s.requests := rfl
@[simp] theorem State.setGraph_batches (s : State) (g : Nat) (x : Graph) : (s.setGraph g x).batches = s.batches := rfl
@[simp] theorem State.setGraph_harts (s : State) (g : Nat) (x : Graph) : (s.setGraph g x).harts = s.harts := rfl
@[simp] theorem State.setGraph_replies (s : State) (g : Nat) (x : Graph) : (s.setGraph g x).replies = s.replies := rfl
@[simp] theorem State.setGraph_arrivals (s : State) (g : Nat) (x : Graph) : (s.setGraph g x).arrivals = s.arrivals := rfl
@[simp] theorem State.setGraph_releases (s : State) (g : Nat) (x : Graph) : (s.setGraph g x).releases = s.releases := rfl
@[simp] theorem State.setGraph_broadcasts (s : State) (g : Nat) (x : Graph) : (s.setGraph g x).broadcasts = s.broadcasts := rfl
@[simp] theorem State.setGraph_kills (s : State) (g : Nat) (x : Graph) : (s.setGraph g x).kills = s.kills := rfl
@[simp] theorem State.setGraph_tasks (s : State) (g : Nat) (x : Graph) : (s.setGraph g x).tasks = s.tasks := rfl
@[simp] theorem State.setGraph_reports (s : State) (g : Nat) (x : Graph) : (s.setGraph g x).reports = s.reports := rfl
@[simp] theorem State.setGraph_munits (s : State) (g : Nat) (x : Graph) : (s.setGraph g x).munits = s.munits := rfl
@[simp] theorem State.setGraph_tileDone (s : State) (g : Nat) (x : Graph) : (s.setGraph g x).tileDone = s.tileDone := rfl
@[simp] theorem State.setGraph_links (s : State) (g : Nat) (x : Graph) : (s.setGraph g x).links = s.links := rfl
@[simp] theorem State.setGraph_ports (s : State) (g : Nat) (x : Graph) : (s.setGraph g x).ports = s.ports := rfl
@[simp] theorem State.setGraph_unreachable (s : State) (g : Nat) (x : Graph) : (s.setGraph g x).unreachable = s.unreachable := rfl
@[simp] theorem State.setGraph_capacity (s : State) (g : Nat) (x : Graph) : (s.setGraph g x).capacity = s.capacity := rfl
@[simp] theorem State.setGraph_hub (s : State) (g : Nat) (x : Graph) : (s.setGraph g x).hub = s.hub := rfl
@[simp] theorem State.setGraph_clock (s : State) (g : Nat) (x : Graph) : (s.setGraph g x).clock = s.clock := rfl
@[simp] theorem State.setGraph_agenda (s : State) (g : Nat) (x : Graph) : (s.setGraph g x).agenda = s.agenda := rfl
@[simp] theorem State.setGraph_cur (s : State) (g : Nat) (x : Graph) : (s.setGraph g x).cur = s.cur := rfl
@[simp] theorem State.setGraph_fresh (s : State) (g : Nat) (x : Graph) : (s.setGraph g x).fresh = s.fresh := rfl
@[simp] theorem State.setGraph_hostRead (s : State) (g : Nat) (x : Graph) : (s.setGraph g x).hostRead = s.hostRead := rfl
@[simp] theorem State.setGraph_stamp (s : State) (g : Nat) (x : Graph) : (s.setGraph g x).stamp = s.stamp := rfl

/-! modGraph -/

@[simp] theorem State.modGraph_mem (s : State) (g : Nat) (f : Graph → Graph) : (s.modGraph g f).mem = s.mem := rfl
@[simp] theorem State.modGraph_bad (s : State) (g : Nat) (f : Graph → Graph) : (s.modGraph g f).bad = s.bad := rfl
@[simp] theorem State.modGraph_soft (s : State) (g : Nat) (f : Graph → Graph) : (s.modGraph g f).soft = s.soft := rfl
@[simp] theorem State.modGraph_cores (s : State) (g : Nat) (f : Graph → Graph) : (s.modGraph g f).cores = s.cores := rfl
@[simp] theorem State.modGraph_lastExit (s : State) (g : Nat) (f : Graph → Graph) : (s.modGraph g f).lastExit = s.lastExit := rfl
@[simp] theorem State.modGraph_spaces (s : State) (g : Nat) (f : Graph → Graph) : (s.modGraph g f).spaces = s.spaces := rfl
@[simp] theorem State.modGraph_net (s : State) (g : Nat) (f : Graph → Graph) : (s.modGraph g f).net = s.net := rfl
@[simp] theorem State.modGraph_history (s : State) (g : Nat) (f : Graph → Graph) : (s.modGraph g f).history = s.history := rfl
@[simp] theorem State.modGraph_parked (s : State) (g : Nat) (f : Graph → Graph) : (s.modGraph g f).parked = s.parked := rfl
@[simp] theorem State.modGraph_parkPlaces (s : State) (g : Nat) (f : Graph → Graph) : (s.modGraph g f).parkPlaces = s.parkPlaces := rfl
@[simp] theorem State.modGraph_l2 (s : State) (g : Nat) (f : Graph → Graph) : (s.modGraph g f).l2 = s.l2 := rfl
@[simp] theorem State.modGraph_requests (s : State) (g : Nat) (f : Graph → Graph) : (s.modGraph g f).requests = s.requests := rfl
@[simp] theorem State.modGraph_batches (s : State) (g : Nat) (f : Graph → Graph) : (s.modGraph g f).batches = s.batches := rfl
@[simp] theorem State.modGraph_harts (s : State) (g : Nat) (f : Graph → Graph) : (s.modGraph g f).harts = s.harts := rfl
@[simp] theorem State.modGraph_replies (s : State) (g : Nat) (f : Graph → Graph) : (s.modGraph g f).replies = s.replies := rfl
@[simp] theorem State.modGraph_arrivals (s : State) (g : Nat) (f : Graph → Graph) : (s.modGraph g f).arrivals = s.arrivals := rfl
@[simp] theorem State.modGraph_releases (s : State) (g : Nat) (f : Graph → Graph) : (s.modGraph g f).releases = s.releases := rfl
@[simp] theorem State.modGraph_broadcasts (s : State) (g : Nat) (f : Graph → Graph) : (s.modGraph g f).broadcasts = s.broadcasts := rfl
@[simp] theorem State.modGraph_kills (s : State) (g : Nat) (f : Graph → Graph) : (s.modGraph g f).kills = s.kills := rfl
@[simp] theorem State.modGraph_tasks (s : State) (g : Nat) (f : Graph → Graph) : (s.modGraph g f).tasks = s.tasks := rfl
@[simp] theorem State.modGraph_reports (s : State) (g : Nat) (f : Graph → Graph) : (s.modGraph g f).reports = s.reports := rfl
@[simp] theorem State.modGraph_munits (s : State) (g : Nat) (f : Graph → Graph) : (s.modGraph g f).munits = s.munits := rfl
@[simp] theorem State.modGraph_tileDone (s : State) (g : Nat) (f : Graph → Graph) : (s.modGraph g f).tileDone = s.tileDone := rfl
@[simp] theorem State.modGraph_links (s : State) (g : Nat) (f : Graph → Graph) : (s.modGraph g f).links = s.links := rfl
@[simp] theorem State.modGraph_ports (s : State) (g : Nat) (f : Graph → Graph) : (s.modGraph g f).ports = s.ports := rfl
@[simp] theorem State.modGraph_unreachable (s : State) (g : Nat) (f : Graph → Graph) : (s.modGraph g f).unreachable = s.unreachable := rfl
@[simp] theorem State.modGraph_capacity (s : State) (g : Nat) (f : Graph → Graph) : (s.modGraph g f).capacity = s.capacity := rfl
@[simp] theorem State.modGraph_hub (s : State) (g : Nat) (f : Graph → Graph) : (s.modGraph g f).hub = s.hub := rfl
@[simp] theorem State.modGraph_clock (s : State) (g : Nat) (f : Graph → Graph) : (s.modGraph g f).clock = s.clock := rfl
@[simp] theorem State.modGraph_agenda (s : State) (g : Nat) (f : Graph → Graph) : (s.modGraph g f).agenda = s.agenda := rfl
@[simp] theorem State.modGraph_cur (s : State) (g : Nat) (f : Graph → Graph) : (s.modGraph g f).cur = s.cur := rfl
@[simp] theorem State.modGraph_fresh (s : State) (g : Nat) (f : Graph → Graph) : (s.modGraph g f).fresh = s.fresh := rfl
@[simp] theorem State.modGraph_hostRead (s : State) (g : Nat) (f : Graph → Graph) : (s.modGraph g f).hostRead = s.hostRead := rfl
@[simp] theorem State.modGraph_stamp (s : State) (g : Nat) (f : Graph → Graph) : (s.modGraph g f).stamp = s.stamp := rfl

end Sys2Proof.Machine
end

