-- ==== Sys2Proof/Laws/Tab.lean ====
section
/-! SUPPORT. Laws of tables: what a put changes and what it leaves. -/

namespace Sys2Proof.Machine.Tab

variable {α : Type}

@[simp] theorem find_put_same (t : Tab α) (i : Nat) (x : α) : find (put t i x) i = some x := by
  induction t with
  | nil => simp [put, find]
  | cons p r ih =>
    obtain ⟨k, v⟩ := p
    unfold put
    split
    · simp [find]
    · split
      · simp [find]
      · simp [find, *]

theorem find_put_other (t : Tab α) {i j : Nat} (x : α) (h : j ≠ i) : find (put t i x) j = find t j := by
  induction t with
  | nil => simp [put, find, Ne.symm h]
  | cons p r ih =>
    obtain ⟨k, v⟩ := p
    unfold put
    split
    · next e => subst e; simp [find, Ne.symm h]
    · split
      · simp [find, Ne.symm h]
      · by_cases e : k = j <;> simp [find, ih, e]

@[simp] theorem get_put_same (t : Tab α) (i : Nat) (x d : α) : (put t i x).get i d = x := by
  simp [Tab.get]

theorem get_put_other (t : Tab α) {i j : Nat} (x d : α) (h : j ≠ i) : (put t i x).get j d = t.get j d := by
  simp [Tab.get, find_put_other t x h]

end Sys2Proof.Machine.Tab
end

