-- ==== Sys2Proof/Laws/Slots.lean ====
section
/-! SUPPORT. Cores and slots after an update: the one written and every other. -/

namespace Sys2Proof.Machine

@[simp] theorem State.core_setCore_same (s : State) (c : Nat) (k : Core) : (s.setCore c k).core c = k := by
  simp [State.core, State.setCore]

theorem State.core_setCore_other (s : State) {c d : Nat} (k : Core) (h : d ≠ c) : (s.setCore c k).core d = s.core d := by
  simp [State.core, State.setCore, Tab.get_put_other _ _ _ h]

@[simp] theorem Core.slot_setSlot_same (k : Core) (i : Nat) (x : Slot) : (k.setSlot i x).slot i = x := by
  simp [Core.slot, Core.setSlot]

theorem Core.slot_setSlot_other (k : Core) {i j : Nat} (x : Slot) (h : j ≠ i) : (k.setSlot i x).slot j = k.slot j := by
  simp [Core.slot, Core.setSlot, Tab.get_put_other _ _ _ h]

@[simp] theorem State.slot_setSlot_same (s : State) (c i : Nat) (x : Slot) : (s.setSlot c i x).slot c i = x := by
  simp [State.slot, State.setSlot]

theorem State.slot_setSlot_other (s : State) {c i d j : Nat} (x : Slot) (h : (d, j) ≠ (c, i)) :
    (s.setSlot c i x).slot d j = s.slot d j := by
  unfold State.slot State.setSlot
  by_cases e : d = c
  · subst e
    have : j ≠ i := fun e => h (by rw [e])
    simp [Core.slot_setSlot_other _ _ this]
  · rw [State.core_setCore_other _ _ e]

@[simp] theorem State.slot_modSlot_same (s : State) (c i : Nat) (f : Slot → Slot) :
    (s.modSlot c i f).slot c i = f (s.slot c i) := by
  simp [State.modSlot]

theorem State.slot_modSlot_other (s : State) {c i d j : Nat} (f : Slot → Slot) (h : (d, j) ≠ (c, i)) :
    (s.modSlot c i f).slot d j = s.slot d j := s.slot_setSlot_other _ h

/-- A change of a core that leaves its slots leaves every slot. -/
theorem State.slot_modCore (s : State) (c d i : Nat) (f : Core → Core) (h : ∀ k, (f k).slots = k.slots) :
    (s.modCore c f).slot d i = s.slot d i := by
  unfold State.slot State.modCore
  by_cases e : d = c
  · subst e; simp [Core.slot, h]
  · rw [State.core_setCore_other _ _ e]

@[simp] theorem State.me_setMe (s : State) (x : Slot) : (s.setMe x).me = x := by
  simp [State.me, State.setMe]

@[simp] theorem State.me_modMe (s : State) (f : Slot → Slot) : (s.modMe f).me = f s.me := by
  simp [State.modMe]

@[simp] theorem State.regs_setRegs (s : State) (r : Regs) : (s.setRegs r).regs = r := by
  simp [State.regs, State.setRegs]

@[simp] theorem State.regs_modRegs (s : State) (f : Regs → Regs) : (s.modRegs f).regs = f s.regs := by
  simp [State.modRegs]

@[simp] theorem State.regs_modChunk (s : State) (f : Chunk → Chunk) : (s.modChunk f).regs = s.regs := by
  simp [State.modChunk, State.regs]

theorem State.slot_setMe_other (s : State) {d j : Nat} (x : Slot) (h : (d, j) ≠ (s.cur.core, s.cur.slot)) :
    (s.setMe x).slot d j = s.slot d j := s.slot_setSlot_other x h

theorem State.me_of_slot {s t : State} (hc : t.cur = s.cur) (h : ∀ c i, t.slot c i = s.slot c i) : t.me = s.me := by
  unfold State.me
  rw [hc, h]

/-- A touch of a translation leaves every slot. -/
@[simp] theorem State.slot_dropWalks (s : State) (c d i j : Nat) : (s.modCore c (fun k => k.dropWalks j)).slot d i = s.slot d i :=
  s.slot_modCore _ _ _ _ (fun _ => rfl)

@[simp] theorem State.advance_cur (s : State) : s.advance.cur = s.cur := by
  unfold State.advance State.retire; dsimp only; split <;> rfl

@[simp] theorem State.advance_mem (s : State) : s.advance.mem = s.mem := by
  unfold State.advance State.retire; dsimp only; split <;> rfl

/-- What completing an instruction changes of its slot. -/
theorem State.me_retire (s : State) (pc : W64) (jump : Bool) (taken : Option Bool) :
    (s.retire pc jump taken).me =
      { s.me.count with regs := { s.me.regs with pc := pc, sigacc := sigAfter s.me.regs.sigacc s.cur.enc jump taken } } := by
  unfold State.retire
  dsimp only
  split
  · simp
  · unfold State.me
    rw [State.modCore_cur, State.slot_dropWalks, State.modMe_cur]
    exact s.me_modMe _

theorem State.slot_retire_other (s : State) {d j : Nat} (pc : W64) (jump : Bool) (taken : Option Bool)
    (h : (d, j) ≠ (s.cur.core, s.cur.slot)) : (s.retire pc jump taken).slot d j = s.slot d j := by
  unfold State.retire
  dsimp only
  split
  · exact s.slot_setMe_other _ h
  · rw [State.slot_dropWalks]; exact s.slot_setMe_other _ h

@[simp] theorem State.retire_mem (s : State) (pc : W64) (jump : Bool) (taken : Option Bool) :
    (s.retire pc jump taken).mem = s.mem := by
  unfold State.retire; dsimp only; split <;> rfl

@[simp] theorem State.retire_cur (s : State) (pc : W64) (jump : Bool) (taken : Option Bool) :
    (s.retire pc jump taken).cur = s.cur := by
  unfold State.retire; dsimp only; split <;> rfl

/-- Falling through: the program counter goes to the next head. -/
@[simp] theorem State.advance_pc (s : State) : s.advance.regs.pc = s.cur.next := by
  unfold State.regs State.advance; rw [State.me_retire]

end Sys2Proof.Machine
end

