-- ==== Sys2Proof/Tests/Slice0.lean ====
section
/-! SUPPORT. Tests: words written out from the encodings of 03_instruction_lines decode to their instructions and refused ones to
none; terms that are not well-formed; one step of instructions on values worked out from the spec; and for each statement a
state and operands that meet its hypotheses. -/

set_option Elab.async false
open Sys2Proof Sys2Proof.Machine Sys2Proof.Claim

/-- A chunk opened at these registers. -/
def chunkAt (r : Regs) : Chunk :=
  { saved := r, stores := [], reads := [], fills := [], fillLines := 0, acts := [], count := 0, squashes := 0, order := 1, issued := [], later := [],
    matched := 0, last := [], region := false }

/-- Slot 0 of core 0.0.0 at an instruction, with these registers and an open chunk. -/
def demoWith (r : Regs) : State :=
  State.reset.setSlot 0 0 { Slot.free with act := some placedAct, regs := r, chunk := some (chunkAt r) }

def demoRegs : Regs :=
  { Regs.start with
    g := (((Vector.replicate 32 0).set 2 7).set 3 9).set 4 64
    v := ((Vector.replicate 32 0).set 2 0x0000000300000002).set 3 0x0000000700000005
    m := (Vector.replicate 8 0).set 1 5
    q := (Vector.replicate 16 Queue.empty).set 1 { Queue.empty with entries := [11, 12] }
    pc := 2
    tvec := 0x1000 }

def demo : State := demoWith demoRegs

/-! What the witnesses are built from. -/

/-- A computation answers. -/
def answersM {α : Type} (m : M α) (s : State) : Bool :=
  match m s with
  | .ok _ _ => true
  | .error _ _ => false

/-- What a computation answers. -/
def answerOf {α : Type} [Inhabited α] (m : M α) (s : State) : α :=
  match m s with
  | .ok a _ => a
  | .error _ _ => default

/-- The state a computation leaves. -/
def after {α : Type} (m : M α) (s : State) : State :=
  match m s with
  | .ok _ t => t
  | .error _ t => t

theorem gives {α : Type} [Inhabited α] {m : M α} {s : State} (h : answersM m s = true) : m s = .ok (answerOf m s) (after m s) := by
  unfold answersM at h
  unfold answerOf after
  cases e : m s with
  | ok a t => rfl
  | error a t => rw [e] at h; cases h

/-- An outcome is a next state of which a test holds. -/
def nextIs (o : Host.Outcome State Fault Refusal) (p : State → Bool) : Bool :=
  match o with
  | .next t => p t
  | _ => false

theorem g_is {p : Pops} {n : Fin 32} {s : State} {x : W64} (h : s.regs.readG n = x) : G p (.g n) s x := by
  unfold G; rw [readG_g, h]

theorem v_is {p : Pops} {n : Fin 32} {s : State} {x : V512} (h : s.regs.readV n = x) : V p (.v n) s x := by
  unfold V; rw [readV_v, h]

theorem plain {fs : List (M Unit)} {srcs : List Reg} {d : Option Reg} {s : State} (h : ∀ f ∈ fs, f s = .ok () s)
    (q : (srcs.any isQ || d.any isQ) = false) : Reads fs srcs d s [] s := ⟨h, operands_none q s⟩

/-- Slot 0 of core 0.0.0 about to execute at a PC of the line at address 0, whose halfwords these are. -/
def fetching (l : List Half) (pc : W64) : State :=
  { (State.reset.setSlot 0 0 { Slot.free with
      act := some placedAct
      regs := { Regs.start with pc := pc, tvec := 0x1000 }
      fetch := { line := some 0, slots := l, seen := [] } }) with agenda := [.slot 0 0] }

def addWords : Enc := { head := 0x8101, t1 := 0x0208, t2 := 0, t3 := 0 }

/-- A head that does not decode. -/
def refusedWord (e : Enc) : Bool :=
  match decode e with
  | .error _ => true
  | .ok _ => false

theorem free_is {s : State} (h : s.me.mustWait s = false) : Free s := h

/-- Four decidable conjuncts shown at once, before the others. -/
theorem four {a b c d e : Prop} (h : a ∧ b ∧ c ∧ d) (k : e) : a ∧ b ∧ c ∧ d ∧ e := ⟨h.1, h.2.1, h.2.2.1, h.2.2.2, k⟩

theorem ready_is {s : State} (h : s.me.mustWait s = false) : TrapReady s := Or.inr h

theorem offHart {s : State} (h : Id.kind s.cur.core ≠ 2) : NotOnHart s := h

/-- The label of top field 1 and the one below it whose next field is 2, of skein 0 of `labelled`: four levels of four bits. -/
def lab1 : W64 := 0x8000100000000000
def lab12 : W64 := 0x8000120000000000

/-- `demo` with a skein table in its TCM and these entries in its heddle, g5 holding `lab1` and g6 `lab12`. -/
def labelledWith (strict : Bool) (l : List HedEntry) : State :=
  let w1 : W64 := if strict then 0x8000000000000613 else 0x8000000000000603
  let r := { demoRegs with g := (demoRegs.g.set 5 lab1).set 6 lab12 }
  let s := (demoWith r).modCore 0 (fun k => { k with spaces := [(0, { SpaceRegs.zero with sktab := 0x401 })], heddle := l })
  { s with mem := Memory.writeAll [] (tcmKey 0 0x400) (bvBytes (0x3333 : W64) 8 ++ bvBytes w1 8) }

/-- An entry of skein 0. -/
def hentry (e0 e1 : W64) : HedEntry := { asid := 0, e0 := e0, e1 := e1, widths := [4, 4, 4, 4] }

/-- A NODE entry at `lab1`. -/
def labelled : State := labelledWith false [hentry lab1 0x1000]

def skein0 : Skein := { widths := [4, 4, 4, 4], strict := false, log2 := 9 }

/-- The answer of a computation, if it answers. -/
def answer? {α : Type} (m : M α) (s : State) : Option α :=
  match m s with
  | .ok a _ => some a
  | .error _ _ => none

theorem gives_is {α : Type} {m : M α} {s : State} {a : α} (e : answer? m s = some a) : m s = .ok a (after m s) := by
  unfold answer? at e
  unfold after
  cases h : m s with
  | ok b t => rw [h] at e; cases e; rfl
  | error b t => rw [h] at e; cases e

/-- `demo` with a page of HBM its core's buffer holds: virtual 0x10000 at frame 0x200000, readable and writable. -/
def paged (leaf : W64) : State :=
  let r := { demoRegs with g := (demoRegs.g.set 5 0x10000).set 6 0x20000 }
  (demoWith r).modCore 0 (fun k => { k with tlb := [{ corrupt := false, asid := 0, page := 0x10000, log2 := 12, leaf := leaf }] })

/-- A store with one part in own TCM. -/
def onePart (l : Nat) (va : W64) (b : List Byte) : Part :=
  { lane := l, va := va, bytes := b, key := some (tcmKey 0 va.toNat), live := tcmKey 0 va.toNat, fail := 0 }

theorem room_is {s : State} {st : Store} {c : Chunk} (h : s.me.chunk = some c)
    (q : s.regs.sfq.length + 2 * s.me.unchecked + st.need ≤ 8)
    (r : s.roomFor (s.me.lineCount + ((partLines st.parts c.lines).length - c.lines.length)) = true) : StoreRoom s st :=
  ⟨q, c, h, r⟩

theorem gives_to {α : Type} {m : M α} {s t : State} {a : α} (e : answer? m s = some a) (h : after m s = t) : m s = .ok a t :=
  (gives_is e).trans (congrArg _ h)

/-- Each word, head and three tail halfwords, decodes to its instruction. -/
def readsAll (l : List (Half × Half × Half × Half × Instr)) : Bool :=
  l.all (fun (h, a, b, c, i) => match decode { head := h, t1 := a, t2 := b, t3 := c } with
    | .ok j => decide (j = i)
    | .error _ => false)

theorem test_decode_alu : readsAll [
  (0x8101, 0x040C, 0x0000, 0x0000, .add (.g 1) (.g 2) (.g 3)),
  (0x8101, 0x040C, 0x0008, 0x0000, .sub (.g 1) (.g 2) (.g 3)),
  (0x8101, 0x040C, 0x0010, 0x0000, .mul (.g 1) (.g 2) (.g 3)),
  (0x8101, 0x040C, 0x0018, 0x0000, .mulh (.g 1) (.g 2) (.g 3)),
  (0x8101, 0x040C, 0x0020, 0x0000, .mulhu (.g 1) (.g 2) (.g 3)),
  (0x8101, 0x040C, 0x0028, 0x0000, .div (.g 1) (.g 2) (.g 3)),
  (0x8101, 0x040C, 0x0030, 0x0000, .divu (.g 1) (.g 2) (.g 3)),
  (0x8101, 0x040C, 0x0038, 0x0000, .rem (.g 1) (.g 2) (.g 3)),
  (0x8101, 0x040C, 0x0040, 0x0000, .remu (.g 1) (.g 2) (.g 3)),
  (0x8101, 0x040C, 0x0048, 0x0000, .and (.g 1) (.g 2) (.g 3)),
  (0x8101, 0x040C, 0x0050, 0x0000, .or (.g 1) (.g 2) (.g 3)),
  (0x8101, 0x040C, 0x0058, 0x0000, .xor (.g 1) (.g 2) (.g 3)),
  (0x8101, 0x040C, 0x0060, 0x0000, .shl (.g 1) (.g 2) (.g 3)),
  (0x8101, 0x040C, 0x0068, 0x0000, .shr (.g 1) (.g 2) (.g 3)),
  (0x8101, 0x040C, 0x0070, 0x0000, .sra (.g 1) (.g 2) (.g 3)),
  (0x8101, 0x040C, 0x0078, 0x0000, .slt (.g 1) (.g 2) (.g 3)),
  (0x8101, 0x040C, 0x0080, 0x0000, .sltu (.g 1) (.g 2) (.g 3)),
  (0x8101, 0x040C, 0x0088, 0x0000, .min (.g 1) (.g 2) (.g 3)),
  (0x8101, 0x040C, 0x0090, 0x0000, .max (.g 1) (.g 2) (.g 3)),
  (0x8101, 0x040C, 0x0098, 0x0000, .minu (.g 1) (.g 2) (.g 3)),
  (0x8101, 0x040C, 0x00A0, 0x0000, .maxu (.g 1) (.g 2) (.g 3)),
  (0x8101, 0x050C, 0xD8A8, 0x0000, .sel (.g 1) (.g 2) (.q 3) (.k 4)),
  (0x811F, 0x0400, 0x00B0, 0x0000, .clz (.g 31) (.g 2)),
  (0x811F, 0x0400, 0x00B8, 0x0000, .ctz (.g 31) (.g 2)),
  (0x811F, 0x0400, 0x00C0, 0x0000, .popc (.g 31) (.g 2)),
  (0x811F, 0x0400, 0x00C8, 0x0000, .mov (.g 31) (.g 2))] = true := by decide

theorem test_decode_immediates : readsAll [
  (0x8185, 0x0C00, 0x8001, 0x0000, .addi (.g 5) (.g 6) 0x8001),
  (0x8205, 0x0C00, 0x8001, 0x0000, .andi (.g 5) (.g 6) 0x8001),
  (0x8285, 0x0C00, 0x8001, 0x0000, .ori (.g 5) (.g 6) 0x8001),
  (0x8305, 0x0C00, 0x8001, 0x0000, .xori (.g 5) (.g 6) 0x8001),
  (0x8385, 0x0C00, 0x003F, 0x0000, .shli (.g 5) (.g 6) 63),
  (0x8405, 0x0C00, 0x003F, 0x0000, .shri (.g 5) (.g 6) 63),
  (0x8485, 0x0C00, 0x003F, 0x0000, .srai (.g 5) (.g 6) 63),
  (0x8505, 0x0C00, 0x8001, 0x0000, .slti (.g 5) (.g 6) 0x8001),
  (0xC582, 0x0000, 0x9ABC, 0xDEF0, .li (.g 2) 0x9ABCDEF0),
  (0xC64F, 0x0000, 0x1234, 0x5679, .lih (.q 15) 0x12345679),
  (0xC6EF, 0x0000, 0xFFFF, 0xFFE1, .addpc (.k 7) 0xFFFFFFE1),
  (0x8701, 0x0400, 0x0FC0, 0x0000, .bext (.g 1) (.g 2) 0 63),
  (0x8701, 0x0401, 0x0FC0, 0x0000, .bexts (.g 1) (.g 2) 0 63),
  (0x8701, 0x040E, 0x003F, 0x0000, .bins (.g 1) (.g 2) (.g 3) 63 0),
  (0x0080, 0x0000, 0x0000, 0x0000, .nop)] = true := by decide

theorem test_decode_control : readsAll [
  (0x8800, 0x0208, 0x8021, 0x0000, .beq (.g 1) (.g 2) 0x8021),
  (0x8880, 0x0208, 0x8021, 0x0000, .bne (.g 1) (.g 2) 0x8021),
  (0x8900, 0x0208, 0x8021, 0x0000, .blt (.g 1) (.g 2) 0x8021),
  (0x8980, 0x0208, 0x8021, 0x0000, .bge (.g 1) (.g 2) 0x8021),
  (0x8A00, 0x0208, 0x8021, 0x0000, .bltu (.g 1) (.g 2) 0x8021),
  (0x8A80, 0x0208, 0x8021, 0x0000, .bgeu (.g 1) (.g 2) 0x8021),
  (0x8B09, 0x0000, 0xFFE1, 0x0000, .loop (.g 9) 0xFFE1),
  (0xCB80, 0x0000, 0x8000, 0x0001, .jmp 0x80000001),
  (0xCC01, 0x0000, 0x0000, 0x0021, .jal (.g 1) 33),
  (0x8C81, 0x0400, 0xFFFE, 0x0000, .jalr (.g 1) (.g 2) 0xFFFE)] = true := by decide

theorem test_decode_system : readsAll [
  (0x0D00, 0x0000, 0x0000, 0x0000, .enda),
  (0x0D01, 0x0000, 0x0000, 0x0000, .endaT),
  (0x8D81, 0x0000, 0x0013, 0x0000, .crrd (.g 1) 0x013),
  (0x8D80, 0x0201, 0x0012, 0x0000, .crwr 0x012 (.g 1)),
  (0x8D80, 0x0202, 0x0020, 0x0000, .crset 0x020 (.g 1)),
  (0x8D80, 0x0203, 0x0020, 0x0000, .crclr 0x020 (.g 1)),
  (0x8D80, 0x0201, 0x0031, 0x0000, .cpydoneWrite (.g 1)),
  (0x8D80, 0x0201, 0x0025, 0x0000, .mwgtWrite (.g 1)),
  (0x8D81, 0x0000, 0x0880, 0x0000, .healthRead (.g 1)),
  (0x8D80, 0x0201, 0x0A10, 0x0000, .lnkRateWrite 17 (.g 1)),
  (0x8D80, 0x0201, 0x0909, 0x0000, .lnkTrapWrite 0 (.g 1)),
  (0x8D81, 0x0000, 0x0A15, 0x0000, .lnkDegradeRead 17 (.g 1)),
  (0x0E7F, 0x0000, 0x0000, 0x0000, .trap 127),
  (0x0E80, 0x0000, 0x0000, 0x0000, .eret),
  (0x0F00, 0x0000, 0x0000, 0x0000, .waiti),
  (0x8F80, 0x0000, 0x0000, 0x0000, .sdrain),
  (0x8FBF, 0x0000, 0x0008, 0x0000, .sfqpop (.v 31)),
  (0x8F80, 0x0208, 0x0610, 0x0000, .tlbinv (.g 1) (.g 2) (.g 3)),
  (0x8F80, 0x0200, 0x0018, 0x0000, .gkill (.g 1)),
  (0x2000, 0x0000, 0x0000, 0x0000, .chkpt),
  (0xBC00, 0x0000, 0xBEEF, 0x0000, .sigchk 0xBEEF)] = true := by decide

theorem test_decode_memory : readsAll [
  (0x9001, 0x0400, 0xFFF8, 0x0000, .ld .s1 (.g 1) (.g 2) 0xFFF8),
  (0x9001, 0x0401, 0xFFF8, 0x0000, .ld .s2 (.g 1) (.g 2) 0xFFF8),
  (0x9001, 0x0402, 0xFFF8, 0x0000, .ld .s4 (.g 1) (.g 2) 0xFFF8),
  (0x9001, 0x0403, 0xFFF8, 0x0000, .ld .s8 (.g 1) (.g 2) 0xFFF8),
  (0x9081, 0x0402, 0x7FFF, 0x0000, .ldu .s4 (.g 1) (.g 2) 0x7FFF),
  (0x9100, 0x020B, 0x0008, 0x0000, .st .s8 (.g 1) (.g 2) 8),
  (0x9181, 0x040D, 0x0000, 0x0000, .ldx .s2 (.g 1) (.g 2) (.g 3)),
  (0x9200, 0x0208, 0x0600, 0x0000, .stx .s1 (.g 1) (.g 2) (.g 3)),
  (0x9421, 0x0400, 0x0040, 0x0000, .vld (.v 1) (.g 2) 64),
  (0x9480, 0x0288, 0x0040, 0x0000, .vst (.g 1) (.v 2) 64),
  (0x9521, 0x040E, 0x0007, 0x0000, .vlds .w8 (.v 1) (.g 2) (.g 3) 7),
  (0x9580, 0x0209, 0x4601, 0x0000, .vsts .w16 (.g 1) (.g 2) (.v 3) 1)] = true := by decide

theorem test_decode_queues : readsAll [
  (0x9841, 0x0000, 0x0032, 0x0000, .qbind (.q 1) 2 3 0),
  (0x984F, 0x0000, 0x00FF, 0x0000, .qbindProd (.q 15) 15 7 0),
  (0x98C1, 0x0400, 0x0000, 0x0000, .qstream .w4 (.q 1) (.g 2)),
  (0x98C1, 0x0401, 0x0000, 0x0000, .qstream .w16 (.q 1) (.g 2)),
  (0x98C1, 0x0402, 0x0000, 0x0000, .qstream .w64 (.q 1) (.g 2)),
  (0x98C1, 0x0402, 0x0001, 0x0000, .qstreamWr .w64 (.q 1) (.g 2)),
  (0x9941, 0x0000, 0x0000, 0x0000, .qunbind (.q 1)),
  (0x9901, 0x8400, 0x0008, 0x0000, .qstat (.g 1) (.q 2)),
  (0x9941, 0x0000, 0x0010, 0x0000, .qflush (.q 1))] = true := by decide

theorem test_decode_engines : readsAll [
  (0x5A00, 0x0200, 0x0000, 0x0000, .cpy (.g 1)),
  (0x1A81, 0x0000, 0x0000, 0x0000, .cpyseal (.g 1)),
  (0x9B00, 0x0200, 0xFFFF, 0x0000, .cpywait (.g 1) 0xFFFF),
  (0x5B80, 0x0208, 0x0000, 0x0000, .deal (.g 1) (.g 2)),
  (0x9C01, 0x0400, 0x0003, 0x0000, .mon (.g 1) (.g 2) 3),
  (0x9C81, 0x0400, 0x0003, 0x0000, .mwait (.g 1) (.g 2) 3),
  (0x5D00, 0x0200, 0x0000, 0x0000, .mdisarm (.g 1)),
  (0x5D00, 0x0001, 0x0000, 0x0000, .mdisarmAll)] = true := by decide

theorem test_decode_atomics : readsAll [
  (0x9E01, 0x040F, 0x0000, 0x0000, .amoAdd .s8 (.g 1) (.g 2) (.g 3)),
  (0x9E01, 0x040F, 0x0008, 0x0000, .amoAnd .s8 (.g 1) (.g 2) (.g 3)),
  (0x9E01, 0x040F, 0x0010, 0x0000, .amoOr .s8 (.g 1) (.g 2) (.g 3)),
  (0x9E01, 0x040F, 0x0018, 0x0000, .amoXor .s8 (.g 1) (.g 2) (.g 3)),
  (0x9E01, 0x040F, 0x0020, 0x0000, .amoMin .s8 (.g 1) (.g 2) (.g 3)),
  (0x9E01, 0x040F, 0x0028, 0x0000, .amoMax .s8 (.g 1) (.g 2) (.g 3)),
  (0x9E01, 0x040F, 0x0030, 0x0000, .amoMinu .s8 (.g 1) (.g 2) (.g 3)),
  (0x9E01, 0x040F, 0x0038, 0x0000, .amoMaxu .s8 (.g 1) (.g 2) (.g 3)),
  (0x9E01, 0x040F, 0x0040, 0x0000, .amoSwap .s8 (.g 1) (.g 2) (.g 3)),
  (0x9E01, 0x040E, 0x0848, 0x0000, .amoCas .s4 (.g 1) (.g 2) (.g 3) (.g 4)),
  (0x9E01, 0x040E, 0x0050, 0x0000, .amoFadd (.g 1) (.g 2) (.g 3)),
  (0x9EA1, 0x048F, 0x0054, 0x0000, .amov .fadd .bf16 (.v 1) (.g 2) (.v 3) 4),
  (0x9F00, 0x0289, 0x0003, 0x0000, .ared .i32 (.g 1) (.v 2) 3)] = true := by decide

theorem test_decode_ordering : readsAll [
  (0x5FB4, 0x0000, 0x0000, 0x0000, .fence .sys .full true false),
  (0x5FC0, 0x0000, 0x0000, 0x0000, .fence .core .acq false true),
  (0xA080, 0x0000, 0x00FF, 0x0000, .gbar 255),
  (0xA080, 0x0001, 0x00FF, 0x0000, .gbarArrive 255),
  (0xA080, 0x0002, 0x00FF, 0x0000, .gbarWait 255)] = true := by decide

theorem test_decode_messages : readsAll [
  (0xE20A, 0x0E00, 0x0000, 0x1321, .send (.g 10) (.g 7) 0x21 3 false true),
  (0xE28A, 0x0E8C, 0x0000, 0x0FDF, .sendv (.g 10) (.g 7) (.v 3) 0xDF 7 true false),
  (0xE301, 0x0E00, 0x0000, 0x0100, .sendg (.g 1) (.g 7) 0 1 false false),
  (0xA380, 0x0200, 0x0000, 0x0000, .migrate (.g 1) 0),
  (0xA380, 0x0200, 0x0001, 0x0000, .migrateNear (.g 1) 0),
  (0xA401, 0x040C, 0x0800, 0x0000, .spawn (.g 1) (.g 2) (.g 3) (.g 4)),
  (0x2481, 0x0000, 0x0000, 0x0000, .tskts (.g 1))] = true := by decide

theorem test_decode_gathers : readsAll [
  (0xA521, 0x048C, 0x000C, 0x0000, .gath true (.v 1) (.g 2) (.v 3) 4),
  (0xA5C1, 0x048C, 0x0805, 0x0000, .gathq false (.q 1) (.g 2) (.v 3) (.g 4) 5),
  (0xA600, 0x0288, 0x4604, 0x0000, .scat (.g 1) (.v 2) (.v 3) 4),
  (0xA680, 0x0289, 0x4604, 0x0000, .scata true (.g 1) (.v 2) (.v 3) 4)] = true := by decide

theorem test_decode_labels : readsAll [
  (0xA801, 0x040C, 0x0000, 0x0000, .lmake (.g 1) (.g 2) (.g 3)),
  (0xA801, 0x0400, 0x0008, 0x0000, .lpar (.g 1) (.g 2)),
  (0xA801, 0x0400, 0x0010, 0x0000, .ldep (.g 1) (.g 2)),
  (0xA801, 0x040C, 0x0018, 0x0000, .lanc (.g 1) (.g 2) (.g 3)),
  (0xA801, 0x0400, 0x0020, 0x0000, .lrange (.g 1) (.g 2)),
  (0xA801, 0x040C, 0x0028, 0x0000, .lcmp (.g 1) (.g 2) (.g 3)),
  (0xA801, 0x0400, 0x0030, 0x0000, .lcanon (.g 1) (.g 2)),
  (0xA801, 0x0400, 0x0038, 0x0000, .lxlook (.g 1) (.g 2)),
  (0xA800, 0x040C, 0x0040, 0x0000, .lxinv (.g 2) (.g 3)),
  (0xA800, 0x040C, 0x0048, 0x0000, .lxfill (.g 2) (.g 3)),
  (0xA841, 0x040C, 0x0850, 0x0000, .lscan (.q 1) (.g 2) (.g 3) (.g 4))] = true := by decide

theorem test_decode_wide : readsAll [
  (0xAA00, 0x0288, 0x0003, 0x0000, .wacc (.g 1) (.v 2) 3),
  (0xAA00, 0x2499, 0x4C03, 0x0000, .waccMul (.g 18) (.v 6) (.v 6) 3),
  (0xAA00, 0x020A, 0x0000, 0x0000, .waccWin (.g 1) (.g 2)),
  (0xAA00, 0x020B, 0x0000, 0x0000, .waccS (.g 1) (.g 2)),
  (0x6A81, 0x0403, 0x0000, 0x0000, .wrd .rup (.g 1) (.g 2)),
  (0x6B00, 0x0200, 0x0000, 0x0000, .wclr (.g 1))] = true := by decide

theorem test_decode_vectorFloat : readsAll [
  (0xB021, 0x448C, 0x0005, 0x0000, .vadd .f32 (.v 1) (.v 2) (.v 3) 5),
  (0xB021, 0x448C, 0x000D, 0x0000, .vsub .f32 (.v 1) (.v 2) (.v 3) 5),
  (0xB021, 0x448C, 0x0015, 0x0000, .vmul .f32 (.v 1) (.v 2) (.v 3) 5),
  (0xB021, 0x448E, 0x481D, 0x0000, .vfma .bf16 (.v 1) (.v 2) (.v 3) (.v 4) 5),
  (0xB021, 0x448E, 0x4825, 0x0000, .vfms .bf16 (.v 1) (.v 2) (.v 3) (.v 4) 5),
  (0xB021, 0x448C, 0x002D, 0x0000, .vmin .f32 (.v 1) (.v 2) (.v 3) 5),
  (0xB021, 0x448C, 0x0035, 0x0000, .vmax .f32 (.v 1) (.v 2) (.v 3) 5),
  (0xB021, 0x8401, 0x003D, 0x0000, .vabs .f16 (.v 1) (.q 2) 5),
  (0xB021, 0x8401, 0x0045, 0x0000, .vneg .f16 (.v 1) (.q 2) 5),
  (0xB021, 0x448C, 0x004D, 0x0000, .vdiv .f32 (.v 1) (.v 2) (.v 3) 5),
  (0xB021, 0x8401, 0x0055, 0x0000, .vrcp .f16 (.v 1) (.q 2) 5),
  (0xB021, 0x8401, 0x005D, 0x0000, .vrsq .f16 (.v 1) (.q 2) 5),
  (0xB021, 0x8401, 0x0065, 0x0000, .vsqrt .f16 (.v 1) (.q 2) 5),
  (0xB021, 0x8401, 0x006D, 0x0000, .vexp2 .f16 (.v 1) (.q 2) 5),
  (0xB021, 0x8401, 0x0075, 0x0000, .vlog2 .f16 (.v 1) (.q 2) 5),
  (0xB061, 0x448C, 0x0E7D, 0x0000, .vcmp .f32 .ord (.m 1) (.v 2) (.v 3) 5),
  (0xB021, 0x448D, 0x0085, 0x0000, .vsel .f16 (.v 1) (.v 2) (.v 3) 5)] = true := by decide

theorem test_decode_vectorInteger : readsAll [
  (0xB0A1, 0x448E, 0x0005, 0x0000, .viadd .w8 (.v 1) (.v 2) (.v 3) 5),
  (0xB0A1, 0x448E, 0x000D, 0x0000, .visub .w8 (.v 1) (.v 2) (.v 3) 5),
  (0xB0A1, 0x448E, 0x0015, 0x0000, .vimul .w8 (.v 1) (.v 2) (.v 3) 5),
  (0xB0A1, 0x448E, 0x001D, 0x0000, .vimin .w8 (.v 1) (.v 2) (.v 3) 5),
  (0xB0A1, 0x448E, 0x0025, 0x0000, .vimax .w8 (.v 1) (.v 2) (.v 3) 5),
  (0xB0A1, 0x448E, 0x002D, 0x0000, .viminu .w8 (.v 1) (.v 2) (.v 3) 5),
  (0xB0A1, 0x448E, 0x0035, 0x0000, .vimaxu .w8 (.v 1) (.v 2) (.v 3) 5),
  (0xB0A1, 0x448E, 0x003D, 0x0000, .vand .w8 (.v 1) (.v 2) (.v 3) 5),
  (0xB0A1, 0x448E, 0x0045, 0x0000, .vor .w8 (.v 1) (.v 2) (.v 3) 5),
  (0xB0A1, 0x448E, 0x004D, 0x0000, .vxor .w8 (.v 1) (.v 2) (.v 3) 5),
  (0xB0A1, 0x448E, 0x0055, 0x0000, .vshl .w8 (.v 1) (.v 2) (.v 3) 5),
  (0xB0A1, 0x448E, 0x005D, 0x0000, .vshr .w8 (.v 1) (.v 2) (.v 3) 5),
  (0xB0A1, 0x448E, 0x0065, 0x0000, .vsra .w8 (.v 1) (.v 2) (.v 3) 5),
  (0xB0E1, 0x448D, 0x0A6D, 0x0000, .vicmp .w16 .leu (.m 1) (.v 2) (.v 3) 5)] = true := by decide

theorem test_decode_vectorMoves : readsAll [
  (0xB121, 0x4401, 0x019B, 0x0000, .vcvt .e4m3 .fp32 (some .rup) true (.v 1) (.v 2) 3),
  (0xB121, 0x4402, 0x1C3B, 0x0000, .vcvt .int8 .uint64 none false (.v 1) (.v 2) 3),
  (0xB1A1, 0x0401, 0x0006, 0x0000, .vbcast .w16 (.v 1) (.g 2) 6),
  (0xB181, 0x440D, 0x0008, 0x0000, .vextr .w16 (.g 1) (.v 2) (.g 3)),
  (0xB1A1, 0x040D, 0x0010, 0x0000, .vins .w16 (.v 1) (.g 2) (.g 3)),
  (0xB1A1, 0x0001, 0x001E, 0x0000, .vidx .w16 (.v 1) 6),
  (0xB1A1, 0x448D, 0x0026, 0x0000, .vperm .w16 (.v 1) (.v 2) (.v 3) 6),
  (0xB1A1, 0x440D, 0x002E, 0x0000, .vslide .w16 (.v 1) (.v 2) (.g 3) 6),
  (0xB1A1, 0x4401, 0x0036, 0x0000, .vcomp .w16 (.v 1) (.v 2) 6),
  (0xB1A1, 0x4401, 0x003E, 0x0000, .vexpnd .w16 (.v 1) (.v 2) 6),
  (0xB1A1, 0x4401, 0x0046, 0x0000, .vmov .w16 (.v 1) (.v 2) 6),
  (0xB201, 0x4403, 0x0017, 0x0000, .vred .max .bf16 (.g 1) (.v 2) 7),
  (0xB2A1, 0x4401, 0x000F, 0x0000, .vscan .min .i32 (.v 1) (.v 2) 7),
  (0xB361, 0xC58C, 0x0000, 0x0000, .mand (.m 1) (.m 2) (.m 3)),
  (0xB361, 0xC58C, 0x0008, 0x0000, .mor (.m 1) (.m 2) (.m 3)),
  (0xB361, 0xC58C, 0x0010, 0x0000, .mxor (.m 1) (.m 2) (.m 3)),
  (0xB361, 0xC400, 0x0018, 0x0000, .mnot (.m 1) (.m 2)),
  (0xB301, 0xC400, 0x0020, 0x0000, .mpop (.g 1) (.m 2)),
  (0xB301, 0xC400, 0x0028, 0x0000, .mfirst (.g 1) (.m 2)),
  (0xB361, 0x0400, 0x0030, 0x0000, .mset (.m 1) (.g 2)),
  (0xB301, 0xC400, 0x0038, 0x0000, .mget (.g 1) (.m 2))] = true := by decide

theorem test_decode_attention : readsAll [
  (0xB421, 0x440C, 0x0800, 0x0000, .vrope (.v 1) (.v 2) (.g 3) (.g 4)),
  (0xB4A1, 0x448C, 0x0800, 0x0000, .vsmax (.v 1) (.v 2) (.v 3) (.g 4)),
  (0xB541, 0x0400, 0x0000, 0x0000, .kvscan (.q 1) (.g 2)),
  (0x758A, 0x142C, 0x0000, 0x0000, .posadd (.g 10) (.g 10) (.g 11)),
  (0xB621, 0x440E, 0x8805, 0x0000, .vthrc .bf16 (.v 1) (.v 2) (.g 3) (.q 4) 5),
  (0x7681, 0x4401, 0x0000, 0x0000, .vargmx .f16 (.g 1) (.v 2)),
  (0xB701, 0x4490, 0x4C00, 0x0000, .tkmerge (.g 1) (.v 2) (.v 4) (.v 6))] = true := by decide

theorem test_decode_matrix : readsAll [
  (0xB801, 0x040C, 0x0800, 0x0000, .mma (.g 1) (.g 2) (.g 3) (.g 4)),
  (0xB881, 0x040C, 0x0800, 0x0000, .mmas (.g 1) (.g 2) (.g 3) (.g 4)),
  (0xB901, 0x040C, 0x0800, 0x0000, .spdec .p2x4 (.g 1) (.g 2) (.g 3) (.g 4)),
  (0xB901, 0x040D, 0x0800, 0x0000, .spdec .p1x4 (.g 1) (.g 2) (.g 3) (.g 4)),
  (0xB901, 0x040E, 0x0800, 0x0000, .spdec .p2x8 (.g 1) (.g 2) (.g 3) (.g 4)),
  (0xB901, 0x040F, 0x0800, 0x0000, .spdec .p1x8 (.g 1) (.g 2) (.g 3) (.g 4)),
  (0xB980, 0x0000, 0x000F, 0x0000, .mmsync 15),
  (0x7A01, 0x0000, 0x0000, 0x0000, .mqstat (.g 1))] = true := by decide

/-! Witnesses: a state and operands that meet the hypotheses of each statement together, clause by clause. -/

theorem witness_StepRunsDecoded :
    let s := fetching (Line.single addWords) 2
    let x := s.slot 0 0
    s.agenda = [.slot 0 0] ∧ x.act = some placedAct ∧ x.phase = .run ∧
    ¬(placedAct.cls = 0 ∧ s.halting placedAct.stamp.asid = true) ∧ (x.ext = [] ∨ ∀ y ∈ s.arrivals, y.act ≠ placedAct.id) ∧
    x.chunk = none ∧ ¬(placedAct.cls = 1 ∧ 2048 ≤ placedAct.executed) ∧
    (x.impreciseDue = false ∨ x.regs.resumed = true) ∧ x.regs.pc.toNat < 2 ^ 57 ∧
    x.fetch.line = some (x.regs.pc &&& 0xFFFFFFFFFFFFFFC0) ∧ Line.legal x.fetch.slots = true ∧ x.regs.pc.toNat % 2 = 0 ∧
    x.regs.pc.toNat / 2 % 32 = 1 ∧ Line.heads x.fetch.slots = 1 ∧
    decide (decode (Line.enc x.fetch.slots 1) = .ok (.add (.g 1) (.g 1) (.g 2))) = true ∧
    nextIs (step s) (fun t => t.regs.pc == 66) = true := by decide +kernel

theorem witness_LineFetch :
    (let s := State.reset.place addWords
     let x := s.slot 0 0
     s.agenda = [.slot 0 0] ∧ x.act = some placedAct ∧ x.phase = .run ∧ x.ext = [] ∧ x.chunk = none ∧
     ¬(placedAct.cls = 0 ∧ s.halting placedAct.stamp.asid = true) ∧ x.impreciseDue = false ∧ x.regs.pc.toNat < 2 ^ 57 ∧
     x.fetch.line ≠ some (x.regs.pc &&& 0xFFFFFFFFFFFFFFC0) ∧
     (x.regs.pc &&& 0xFFFFFFFFFFFFFFC0).toNat + 64 ≤ tcmSize 0 ∧ s.bad = [] ∧ s.soft = [] ∧
     x.fetch.seen = []) ∧
    Line.legal ((fetching [] 2).slot 0 0).fetch.slots = false ∧
    (let x := (fetching (Line.single addWords) 64).slot 0 0
     Line.legal x.fetch.slots = true ∧ x.regs.pc.toNat / 2 % 32 = 0) ∧
    (let x := (fetching (Line.single addWords) 4).slot 0 0
     Line.legal x.fetch.slots = true ∧ Line.heads x.fetch.slots < x.regs.pc.toNat / 2 % 32) ∧
    (let x := (fetching (Line.single { head := 0x0780, t1 := 0, t2 := 0, t3 := 0 }) 2).slot 0 0
     Line.legal x.fetch.slots = true ∧ x.regs.pc.toNat / 2 % 32 = 1 ∧ Line.heads x.fetch.slots = 1 ∧
     refusedWord (Line.enc x.fetch.slots 1) = true) := by decide +kernel

theorem witness_DecodeEncode : Instr.wf (.bins (.g 31) (.k 7) (.q 15) 63 0) = true ∧ Instr.wf (.sendg (.g 0) (.g 1) 0xFF 0 true true) = true := by
  decide

theorem witness_DecodeRefuses :
    decide (decode addWords = .ok (.add (.g 1) (.g 1) (.g 2))) = true ∧
    (headMajor (0x7F80 : Half)).toNat = 0x7F ∧ (headMajor (0x0000 : Half)).toNat = 0 := by decide

/-- A state one store from done: the canonical form holds before and after a step. -/
theorem witness_StepKeepsMemory :
    let s := State.reset.place addWords
    Memory.wf s.mem = true ∧ Memory.wf s.hub.staging = true ∧ nextIs (step s) (fun t => Memory.wf t.mem) = true := by
  decide +kernel

theorem witness_InstructionsLeaveMemory :
    isEvent (.add (.g 1) (.g 2) (.g 3)) = false ∧ Memory.wf demo.mem = true ∧
    nextIs (exec (.add (.g 1) (.g 2) (.g 3)) demo) (fun _ => true) = true ∧ bit demo.hub.hint[1] 0 = false := by decide +kernel

theorem witness_NothingRefused : isEvent .waitiWake = true := by decide

theorem witness_RegisterFiles :
    ({ demoRegs with tstat := 1 } : Regs).inHandler = true ∧ (demoWith { demoRegs with tstat := 1 }).regs.inHandler = true ∧
    demo.regs.inHandler = false ∧ demo.regs.q[1].bind = .unbound ∧ demo.regs.q[1].entries = [11, 12] ∧
    demo.regs.q[2].bind = .unbound ∧ demo.regs.q[2].entries = [] ∧
    (let s := demoWith { demoRegs with q := (Vector.replicate 16 Queue.empty).set 1 { Queue.empty with entries := List.replicate 8 1 } }
     s.regs.q[1].bind = .unbound ∧ 8 ≤ s.regs.q[1].entries.length) := by decide +kernel

theorem witness_AluGroup :
    (∃ (s t u : State) (p : Pops) (x y : W64), Reads [okG (.g 1), okG (.g 2), okG (.q 1)] [.g 2, .q 1] (some (.g 1)) s p t ∧
      G p (.g 2) t x ∧ G p (.q 1) t y ∧ Gives (writeG (.g 1) (x + y)) t () u ∧ u.regs.readG 1 = 18) ∧
    (Reads [okG (.g 1), okG (.g 2)] [.g 2] (some (.g 1)) demo [] demo ∧ G [] (.g 2) demo 7 ∧
      ∃ u, Gives (writeG (.g 1) 61) demo () u) ∧
    (Reads [okG (.g 0), okG (.g 2), okG (.g 3), okG (.g 4)] [.g 2, .g 3, .g 4] (some (.g 0)) demo [] demo ∧ G [] (.g 2) demo 7 ∧
      G [] (.g 3) demo 9 ∧ G [] (.g 4) demo 64 ∧ ∃ u, Gives (writeG (.g 0) 9) demo () u) := by
  refine ⟨⟨demo, _, _, _, _, _, ⟨?_, gives (by decide +kernel)⟩, readG_g _ _ _, readG_q _ _ _, writeG_g _ _ _, by decide +kernel⟩,
    ⟨plain ?_ rfl, g_is (by decide +kernel), _, writeG_g _ _ _⟩,
    ⟨plain ?_ rfl, g_is (by decide +kernel), g_is (by decide +kernel), g_is (by decide +kernel), _, writeG_g _ _ _⟩⟩ <;> simp

theorem witness_ImmediateForms :
    Reads [okG (.g 1), okG (.g 2)] [.g 2] (some (.g 1)) demo [] demo ∧ G [] (.g 2) demo 7 ∧
    (∃ u, Gives (writeG (.g 1) (BitVec.ofInt 64 ((7 : W64).toInt + (0x8000 : Half).toInt))) demo () u) ∧
    ((headMajor (0x8385 : Half)).toNat = 0x07 ∧ 64 ≤ (64 : Half).toNat) :=
  ⟨plain (by simp) rfl, g_is (by decide +kernel), ⟨_, writeG_g _ _ _⟩, by decide⟩

theorem witness_Constants :
    Reads [okG (.g 1)] [] (some (.g 1)) demo [] demo ∧
    (∃ u, Gives (writeG (.g 1) (BitVec.ofInt 64 (0x80000000 : BitVec 32).toInt)) demo () u) ∧
    (∃ u, Gives (writeG (.g 1) (BitVec.ofNat 64 ((0xFFFFFFFF : BitVec 32).toNat * 2 ^ 32))) demo () u) :=
  ⟨plain (by simp) rfl, ⟨_, writeG_g _ _ _⟩, ⟨_, writeG_g _ _ _⟩⟩

/-- The field of bits 63 to 63 and that of all 64 bits; bit 64 is outside. -/
theorem witness_BitFields :
    fieldOk 63 0 = true ∧ fieldOk 0 63 = true ∧
    Reads [okG (.g 1), okG (.g 2)] [.g 2] (some (.g 1)) demo [] demo ∧
    Reads [okG (.g 1), okG (.g 2), okG (.g 3)] [.g 2, .g 3] (some (.g 1)) demo [] demo ∧ G [] (.g 2) demo 7 ∧ G [] (.g 3) demo 9 ∧
    (∀ i, i < 64 → (9 : W64).getLsbD i = if 0 ≤ i ∧ i ≤ 0 + 63 then (9 : W64).getLsbD (i - 0) else (7 : W64).getLsbD i) ∧
    (∃ u, Gives (writeG (.g 1) 9) demo () u) ∧
    ((headMajor (0x8700 : Half)).toNat = 0x0E ∧ 64 ≤ (0x0041 : Half).toNat % 64 + (0x0FC1 : Half).toNat / 64 % 64) :=
  ⟨by decide, by decide, plain (by simp) rfl, plain (by simp) rfl, g_is (by decide +kernel), g_is (by decide +kernel),
    by decide +kernel, ⟨_, writeG_g _ _ _⟩, by decide⟩

/-- The instruction of ScalarFrame's hypotheses completes in `demo`: one of each form. -/
theorem witness_ScalarFrame :
    nextIs (exec (.add (.g 1) (.g 2) (.q 1)) demo) (fun t => t.regs.readG 1 == 18 && t.regs.q[1].entries == [12]) = true ∧
    nextIs (exec (.clz (.g 1) (.g 2)) demo) (fun t => t.regs.readG 1 == 61) = true ∧
    nextIs (exec (.addi (.g 1) (.g 2) 0xFFFF) demo) (fun t => t.regs.readG 1 == 6) = true ∧
    nextIs (exec (.srai (.g 1) (.g 2) 63) demo) (fun t => t.regs.readG 1 == 0) = true ∧
    nextIs (exec (.sel (.g 1) (.g 2) (.g 3) (.g 4)) demo) (fun t => t.regs.readG 1 == 9) = true ∧
    nextIs (exec (.bexts (.g 1) (.g 2) 0 2) demo) (fun t => t.regs.readG 1 == BitVec.allOnes 64) = true ∧
    nextIs (exec (.bins (.g 1) (.g 2) (.g 3) 60 3) demo) (fun t => t.regs.readG 1 == 0x9000000000000007) = true ∧
    nextIs (exec (.li (.g 1) 0x80000000) demo) (fun t => t.regs.readG 1 == 0xFFFFFFFF80000000) = true ∧
    Reads [okG (.g 1), okG (.g 2)] [.g 2] (some (.g 1)) demo [] demo :=
  four (by decide +kernel) (four (by decide +kernel) (plain (by simp) rfl))

theorem witness_ControlFlow :
    Reads [okG (.g 2), okG (.g 3)] [.g 2, .g 3] none demo [] demo ∧ G [] (.g 2) demo 7 ∧ G [] (.g 3) demo 9 ∧
    nextIs (exec (.blt (.g 2) (.g 3) 33) demo) (fun t => t.regs.pc == 66) = true ∧
    Reads [okGOnly (.g 2)] [] none demo [] demo ∧
    nextIs (exec (.loop (.g 2) 0xFFE1) demo) (fun t => t.regs.readG 2 == 6) = true ∧
    Reads [okG (.g 1)] [] (some (.g 1)) demo [] demo ∧ (∃ u, Gives (writeG (.g 1) demo.cur.next) demo () u) ∧
    Reads [okG (.g 1), okG (.g 2)] [.g 2] (some (.g 1)) demo [] demo :=
  ⟨plain (by simp) rfl, g_is (by decide +kernel), g_is (by decide +kernel), by decide +kernel, plain (by simp) rfl,
    by decide +kernel, plain (by simp) rfl, ⟨_, writeG_g _ _ _⟩, plain (by simp) rfl⟩

/-- The last slot number a worker may name, and one only a system slot may. -/
theorem witness_ControlRegisters :
    Reads [okG (.g 1)] [] (some (.g 1)) demo [] demo ∧ Named demo 0x013 ∧ ¬ Named demo 0x880 ∧ ¬ Named demo 0x7FF ∧
    (∃ u v, Gives (crReadClear 0x013 (demo.crValue 0x013)) demo () u ∧ Gives (writeG (.g 1) (demo.crValue 0x013)) u () v) ∧
    Reads [okG (.g 2)] [.g 2] none demo [] demo ∧ G [] (.g 2) demo 7 ∧
    (∃ u, Gives (crStore 0x020 7 7) demo () u) ∧ TrapReady demo ∧
    crWritable 0x014 false = false ∧ (7 : W64) &&& crZero 0x012 false ≠ 0 ∧ (0 : W64) &&& crZero 0x012 false = 0 := by
  refine ⟨plain (by simp) rfl, ⟨by decide, by decide⟩, ?_, ?_, ⟨_, _, gives (by decide +kernel), writeG_g _ _ _⟩, plain (by simp) rfl,
    g_is (by decide +kernel), ⟨_, gives (by decide +kernel)⟩, ready_is (by decide +kernel), by decide, by decide, by decide⟩ <;>
    (unfold Named; decide +kernel)

theorem witness_TrapEntry :
    (let x := demo.slot 0 0
     x.regs.inHandler = false ∧ x.mustWait demo = false ∧ x.regs.tvec ≠ 0) ∧
    (let x := (demoWith { demoRegs with lxmiss := 0x2000 }).slot 0 0
     x.regs.inHandler = false ∧ x.regs.lxmiss ≠ 0) ∧
    (let s := demoWith { demoRegs with tstat := 1 }
     (s.slot 0 0).act.isSome = true ∧ (s.slot 0 0).regs.inHandler = true ∧ (s.slot 0 0).ended = none) ∧
    (let s := demoWith { demoRegs with tvec := 0 }
     (s.slot 0 0).act.isSome = true ∧ (s.slot 0 0).regs.inHandler = false ∧ (s.slot 0 0).regs.tvec = 0 ∧
     (s.slot 0 0).regs.lxmiss = 0) := by decide +kernel

/-- A handler's slot after ERET ended its chunk and the chunk committed. -/
def returning : State :=
  let s := demoWith { demoRegs with tstat := 1, tpc := 0x40 }
  s.modMe (fun x => { x with chunk := none, phase := .commit .eret })

theorem witness_TrapAndReturn :
    NotOnHart demo ∧ TrapReady demo ∧ demo.regs.inHandler = false ∧
    (demoWith { demoRegs with tstat := 1 }).regs.inHandler = true ∧ Free (demoWith { demoRegs with tstat := 1 }) ∧
    returning.me.phase = .commit .eret ∧ returning.me.ended = none ∧ returning.me.chunk = none ∧ Free returning ∧
    nextIs (exec .chunkCommit returning) (fun t => t.regs.pc == 0x40) = true :=
  ⟨offHart (by decide +kernel), ready_is (by decide +kernel), by decide +kernel, by decide +kernel,
    free_is (by decide +kernel), by decide +kernel, by decide +kernel, by decide +kernel, free_is (by decide +kernel),
    by decide +kernel⟩

/-- A slot whose stores are all checked, with no record: what ENDA asks. -/
theorem witness_EndsAndSystem :
    demo.me.unchecked = 0 ∧ demo.regs.sfq = [] ∧ Free demo ∧ NotOnHart demo ∧ demo.me.impreciseDue = false ∧
    demo.me.ext = [] ∧ demo.me.extPending = false ∧ demo.engBusy demo.cur.core demo.cur.slot = false ∧
    demo.xlatBusy .sys demo.cur.core demo.cur.slot = false ∧
    bit demo.regs.sigcfg 1 = false ∧ bit demo.regs.sigcfg 0 = true ∧ demo.regs.sigacc.setWidth 16 = (0xFFFF : Half) ∧
    nextIs (exec (.sigchk 0xFFFF) demo) (fun t => t.regs.sigacc == 0xFFFF && t.regs.sigcfg == 1) = true ∧
    Reads [okV (.v 1)] [] (some (.v 1)) demo [] demo ∧ (∃ u, Gives (writeV (.v 1) (demo.regs.sfq.headD 0)) demo () u) ∧
    Reads [okG (.g 0), okG (.g 2), okG (.g 3)] [.g 0, .g 2, .g 3] none demo [] demo ∧ G [] (.g 0) demo 0 ∧
    (0 : W64).setWidth 16 = demo.me.asid ∧ (7 : W64).toNat < 2 ^ 57 := by
  refine ⟨by decide +kernel, by decide +kernel, free_is (by decide +kernel), offHart (by decide +kernel),
    four (by decide +kernel) (four (by decide +kernel) ⟨by decide +kernel, plain (by simp) rfl, ⟨_, writeV_v _ _ _⟩, plain (by simp) rfl,
      g_is (by decide +kernel), by decide +kernel, by decide⟩)⟩

/-- `demo` in an address space of its own whose group 9 it may kill and join. -/
def grouped (gid : BitVec 8) : State :=
  let st : Stamp := { Stamp.none 0 5 with group := gid }
  let s := demo.modMe (fun x => { x with act := some { placedAct with stamp := st } })
  { s with
    spaces := [(5, { Space.none with groups := [(9, { members := [0, 1], home := 0, own := { gen := 0, arrived := [], next := [] },
                                                      mirror := { gen := 0, arrived := [], next := [] } })] })] }

theorem witness_SystemGroup_kills :
    (let s := grouped 0
     s.me.asid = 5 ∧ (s.group s.me.asid 9).isSome = true ∧ (s.me.act.map (·.stamp.group)) = some 0 ∧
     Id.kind s.cur.core ≠ 2 ∧ (s.regs.readG 3).toNat < 256 ∧ (s.regs.readG 3).setWidth 8 = (9 : BitVec 8)) ∧
    (let s := grouped 9
     (s.group s.me.asid 9).isSome = true ∧ (s.me.act.map (·.stamp.group)) = some 9 ∧
     nextIs (exec (.gkill (.g 3)) s) (fun t => t.me.act.isNone && t.kills.length == 1) = true) := by decide +kernel

theorem witness_LoadAddresses :
    bit (0x0100000000000000 : W64) 63 = false ∧ ((0x01FFFFFFFFFFFFF8 : W64) + 0).toNat < 2 ^ 57 ∧
    2 ^ 57 ≤ ((0x01FFFFFFFFFFFFF8 : W64) + 8).toNat ∧ ((7 : W64) + 0).toNat % 8 ≠ 0 ∧
    own demo 24568 8 ∧ demo.bad = [] ∧ demo.soft = [] ∧ tcmSize demo.cur.core ≤ (24576 : W64).toNat ∧
    demo.lookup demo.cur.core demo.cur.slot demo.me.asid 24576 = .pending ∧ demo.me.stores = [] ∧
    (∀ i ∈ [0, 3], ((64 : W64) + BitVec.ofNat 64 i * 8).toNat < 2 ^ 57 ∧ ((64 : W64) + BitVec.ofNat 64 i * 8).toNat % 4 = 0) := by
  unfold own; decide +kernel

theorem witness_AddressRule_labels :
    bit lab1 63 = true ∧
    (∃ t, Gives (wellFormedLabel lab1) labelled skein0 t ∧
      (∃ u, Gives (labelTranslate skein0 lab1 0) t 0x1000 u) ∧
      (∀ i ∈ [0, 15], 0 ≤ (BitVec.ofNat 64 i * (32 : W64)).toInt ∧ (BitVec.ofNat 64 i * (32 : W64)).toInt + 32 ≤ 2 ^ skein0.log2 ∧
        ((0x1000 : W64) + BitVec.ofNat 64 i * 32).toNat % 32 = 0)) ∧
    ((504 : W64).toInt + 8 ≤ 2 ^ skein0.log2 ∧ 2 ^ skein0.log2 < (505 : W64).toInt + 8 ∧ (BitVec.allOnes 64 : W64).toInt < 0) :=
  ⟨by decide, ⟨_, gives_is (by decide +kernel), ⟨_, gives_is (by decide +kernel)⟩, by decide⟩,
    by decide⟩

theorem witness_LoadsReach_pages :
    (let s := paged 0x20000F
     tcmSize s.cur.core ≤ (0x10000 : W64).toNat ∧ isConfig 0x200000 = false ∧ isExt 0x200000 = false ∧ s.bad = [] ∧ s.soft = [] ∧
     s.lookup s.cur.core s.cur.slot s.me.asid 0x10000 = .page { corrupt := false, asid := 0, page := 0x10000, log2 := 12, leaf := 0x20000F } ∧
     s.access s.cur.core s.me.side (s.cur.slot == 7) .load { corrupt := false, asid := 0, page := 0x10000, log2 := 12, leaf := 0x20000F } 0x10000 =
       .ok 0x200000) ∧
    (let s := paged 0x200003
     s.access s.cur.core s.me.side (s.cur.slot == 7) .load { corrupt := false, asid := 0, page := 0x10000, log2 := 12, leaf := 0x200003 } 0x10000 =
       .error 3) ∧
    (let s := demo.modCore 0 (fun k => { k with walks := [{ slot := 0, asid := 0, va := 0x10000, result := .fail 2, removed := [] }] })
     s.lookup s.cur.core s.cur.slot s.me.asid 0x10000 = .fail 2) := by decide +kernel

theorem witness_Loads :
    Reads [okG (.g 1), okG (.g 4)] [.g 4] (some (.g 1)) demo [] demo ∧ G [] (.g 4) demo 64 ∧
    (∃ u, Gives (accessAddr 64 (BitVec.ofInt 64 (0xFFC0 : Half).toInt) (2 ^ sizeCode .s8) 0) demo 0 u ∧
      ∃ b v, Gives (memLoad 0 (2 ^ sizeCode .s8)) u b v ∧ b.length = 8 ∧ ∃ w, Gives (writeG (.g 1) (signedOf b (2 ^ sizeCode .s8))) v () w) ∧
    (∃ u, Gives (accessAddr 64 (BitVec.ofNat 64 ((64 : W64).toNat * 2 ^ sizeCode .s2)) (2 ^ sizeCode .s2) 0) demo 192 u ∧
      ∃ b v, Gives (memLoad 192 (2 ^ sizeCode .s2)) u b v) ∧
    Reads [okV (.v 1), okG (.g 4)] [.g 4] (some (.v 1)) demo [] demo ∧
    (∃ u b v w, Gives (accessAddr 64 (BitVec.ofInt 64 (0 : Half).toInt) 64 0) demo 64 u ∧ Gives (memLoad 64 64) u b v ∧
      Gives (writeV (.v 1) (BitVec.ofNat 512 (bytesNat b))) v () w) ∧
    Reads [okV (.v 1), okG (.g 4), okG (.g 4)] [.g 4, .g 4] (some (.v 1)) demo [] demo ∧
    (∃ es u xs v old, Gives (elements 64 64 (widthBits .w32 / 8) (activeLanes (512 / widthBits .w32) (demo.regs.readM 1)) 0) demo es u ∧
      Gives (es.mapM (fun e => do pure (e.1, bytesNat (← memLoad e.2 (widthBits .w32 / 8))))) u xs v ∧
      Gives (oldV (.v 1)) v old v) := by
  refine ⟨plain (by simp) rfl, g_is (by decide +kernel), ⟨_, gives_is (by decide +kernel), _, _, gives (by decide +kernel), ?_, _, writeG_g _ _ _⟩,
    ⟨_, gives_is (by decide +kernel), _, _, gives (by decide +kernel)⟩, plain (by simp) rfl,
    ⟨_, _, _, _, gives_is (by decide +kernel), gives (by decide +kernel), writeV_v _ _ _⟩, plain (by simp) rfl,
    ⟨_, _, _, _, _, gives (by decide +kernel), gives (by decide +kernel), oldV_v _ _⟩⟩
  decide +kernel

theorem witness_Stores :
    Reads [okG (.g 4), okG (.g 3)] [.g 4, .g 3] none demo [] demo ∧ G [] (.g 4) demo 64 ∧ G [] (.g 3) demo 9 ∧
    (∃ u v, Gives (accessAddr 64 (BitVec.ofInt 64 (0 : Half).toInt) (2 ^ sizeCode .s8) 1) demo 64 u ∧
      Gives (storePart 0 64 (natBytes (9 : W64).toNat 8)) u (onePart 0 64 (natBytes 9 8)) v ∧
      StoreRoom v (oneStore v 0 3 0 [onePart 0 64 (natBytes 9 8)])) ∧
    Reads [okG (.g 4), okG (.g 4), okG (.g 3)] [.g 4, .g 4, .g 3] none demo [] demo ∧
    Reads [okG (.g 4), okV (.v 2)] [.g 4, .v 2] none demo [] demo ∧
    (∃ q u v, Gives (accessAddr 64 (BitVec.ofInt 64 (0 : Half).toInt) 64 1) demo 64 u ∧ V [] (.v 2) u (demo.regs.readV 2) ∧
      Gives (storePart 0 64 (natBytes (demo.regs.readV 2).toNat 64)) u q v ∧ StoreRoom v (oneStore v 1 0 2 [q])) ∧
    Reads [okG (.g 4), okG (.g 4), okV (.v 2)] [.g 4, .g 4, .v 2] none demo [] demo ∧
    (∃ es ps u v, Gives (elements 64 64 (widthBits .w32 / 8) (activeLanes (512 / widthBits .w32) (demo.regs.readM 1)) 1) demo es u ∧
      es.length = 2 ∧
      Gives (es.mapM (fun e => storePart e.1 e.2 (natBytes (lane (widthBits .w32) (demo.regs.readV 2) e.1) (widthBits .w32 / 8)))) u ps v ∧
      StoreRoom v (oneStore v 2 (widthSize .w32) 0 ps)) := by
  refine ⟨plain (by simp) rfl, g_is (by decide +kernel), g_is (by decide +kernel),
    ⟨_, _, gives_is (by decide +kernel), gives_is (by decide +kernel), room_is (c := chunkAt demoRegs) ?_ ?_ ?_⟩, plain (by simp) rfl, plain (by simp) rfl,
    ⟨_, _, _, gives_is (by decide +kernel), v_is (by decide +kernel), gives_is (a := onePart 0 64 (natBytes (demo.regs.readV 2).toNat 64)) (by decide +kernel),
      room_is (c := chunkAt demoRegs) ?_ ?_ ?_⟩,
    plain (by simp) rfl,
    ⟨[(0, 64), (2, 192)], [onePart 0 64 (natBytes 2 4), onePart 2 192 (natBytes 0 4)], _, _, gives_is (by decide +kernel), by decide, gives_is (by decide +kernel),
      room_is (c := chunkAt demoRegs) ?_ ?_ ?_⟩⟩ <;> decide +kernel

theorem witness_MemoryFrames :
    demo.me.chunk = some (chunkAt demoRegs) ∧ (64 : W64).toNat < tcmSize demo.cur.core ∧ demo.me.side = .none ∧
    nextIs (exec (.st .s8 (.g 4) (.g 3) 0) demo) (fun t => t.ownByte t.me (tcmKey 0 64) == 9) = true ∧
    nextIs (exec (.vst (.g 4) (.v 2) 0) demo) (fun t => t.ownByte t.me (tcmKey 0 68) == 3) = true ∧
    nextIs (exec (.ld .s4 (.g 1) (.g 4) 0xFFC0) demo) (fun t => t.regs.readG 1 == 0) = true ∧ NotQ (.g 1) ∧ NotQ (.v 1) ∧
    nextIs (exec (.ldx .s4 (.g 1) (.g 4) (.g 2)) demo) (fun t => t.regs.readG 1 == 0) = true ∧
    nextIs (exec (.stx .s4 (.g 4) (.g 2) (.g 3)) demo) (fun t => t.ownByte t.me (tcmKey 0 92) == 9) = true ∧
    nextIs (exec (.vld (.v 1) (.g 4) 0) demo) (fun t => t.regs.readV 1 == 0) = true ∧
    nextIs (exec (.vlds .w32 (.v 1) (.g 4) (.g 4) 1) demo) (fun t => t.regs.readV 1 == 0) = true ∧
    nextIs (exec (.vsts .w32 (.g 4) (.g 4) (.v 2) 1) demo) (fun t => t.ownByte t.me (tcmKey 0 64) == 2) = true := by
  unfold NotQ; decide +kernel

theorem witness_QueueGroup :
    NotOnHart demo ∧ Unused demo 2 ∧ ¬ Unused demo 1 ∧ ((1 : BitVec 3).toNat ≠ demo.cur.slot) ∧ ((0 : BitVec 3).toNat = demo.cur.slot) ∧
    TrapReady demo ∧ Reads [okG (.g 4)] [.g 4] none demo [] demo ∧ G [] (.g 4) demo 64 ∧
    (∃ u b v, Gives (accessAddr 64 0 32 4) demo 64 u ∧ Gives (memLoad 64 32) u b v ∧
      b = bvBytes (0 : W64) 8 ++ bvBytes (0 : W64) 8 ++ bvBytes (0 : W64) 8 ++ bvBytes (0 : W64) 8 ∧ v.cur = demo.cur) ∧
    Reads [okG (.g 1)] [] (some (.g 1)) demo [] demo ∧
    (let s := { demo with mem := Memory.writeAll [] (tcmKey 0 64) (bvBytes (0x100 : W64) 8 ++ bvBytes (0x000100020003 : W64) 8 ++
        bvBytes (0xFFFFFFFC00000008 : W64) 8 ++ bvBytes (16 : W64) 8) }
     nextIs (exec (.qstream .w4 (.q 2) (.g 4)) s) (fun t => t.regs.q[2].kind == 3 && t.regs.q[2].count == 6) = true) ∧
    (0 < 3 ∧ 1 < 2) := by
  refine ⟨offHart (by decide +kernel), ?_, ?_, by decide +kernel, by decide +kernel, ready_is (by decide +kernel), plain (by simp) rfl,
    g_is (by decide +kernel), ⟨_, _, _, gives_is (by decide +kernel), gives_is (by decide +kernel), rfl, by decide +kernel⟩, plain (by simp) rfl, by decide +kernel, by decide⟩ <;>
    (unfold Unused; decide +kernel)

/-- `demo` with bytes at an address of its TCM. -/
def demoMem (a : Nat) (l : List Byte) : State := { demo with mem := Memory.writeAll [] (tcmKey 0 a) l }

theorem witness_Scans_labels :
    (∃ u v w o k, Gives (wellFormedLabel lab1) labelled k u ∧ Gives (wellFormedLabel lab12) u k v ∧
      Gives (loadDword 64) v 0 w ∧ Gives (countRange lab1 lab12 64 0 0) w 0 o) ∧
    Unused labelled 2 ∧ NotOnHart labelled ∧ bit (64 : W64) 63 = false ∧
    Reads [okG (.g 5), okG (.g 6), okG (.g 4)] [.g 5, .g 6, .g 4] none labelled [] labelled ∧ G [] (.g 5) labelled lab1 ∧
    G [] (.g 6) labelled lab12 ∧ G [] (.g 4) labelled 64 ∧
    (demo.bad = [] ∧ demo.soft = [] ∧ (24560 : W64).toNat + 16 + 16 * 0 ≤ tcmSize demo.cur.core) ∧
    (let s := demoMem 80 (bvBytes lab1 8)
     s.ownBytes s.me (tcmKey s.cur.core (64 + 16 + 16 * 0)) 8 = bvBytes lab1 8 ∧ (64 : W64).toNat + 16 + 16 * 1 ≤ tcmSize s.cur.core) := by
  refine ⟨⟨_, _, _, _, skein0, gives_is (by decide +kernel), gives_is (by decide +kernel),
    ⟨gives_is (by decide +kernel), gives_is (by decide +kernel)⟩⟩,
    ?_, offHart (by decide +kernel), by decide, plain (by simp) rfl, g_is (by decide +kernel), g_is (by decide +kernel),
    g_is (by decide +kernel), by decide +kernel⟩
  unfold Unused; decide +kernel

/-- A descriptor of two valid tokens in one page, at the storage of `lab1`. -/
def kvWords : List Byte :=
  bvBytes (0x0000000200000000 : W64) 8 ++ bvBytes (0x100000 : W64) 8 ++ bvBytes (3 : W64) 8 ++ List.replicate 40 0

def kvState : State :=
  let s := labelled
  { s with mem := Memory.writeAll s.mem (tcmKey 0 0x1000) kvWords }

theorem witness_Scans_kv :
    NotOnHart kvState ∧ Unused kvState 2 ∧ Reads [okG (.g 5)] [.g 5] none kvState [] kvState ∧ G [] (.g 5) kvState lab1 ∧
    bit lab1 63 = true ∧ 6 ≤ skein0.log2 ∧ kvUsable kvWords = true ∧
    kvUsable (List.replicate 8 0 ++ bvBytes (0x100800 : W64) 8 ++ List.replicate 48 0) = false ∧
    (∃ u v w o, Gives (wellFormedLabel lab1) kvState skein0 u ∧ Gives (labelTranslate skein0 lab1 4) u 0x1000 v ∧
      (0x1000 : W64).toNat % 64 = 0 ∧ Gives (memLoad 0x1000 64) v kvWords w ∧
      Gives ((List.range (fld (dword kvWords 3) 0 16)).mapM (fun i => do
        let e := (dword kvWords 4 &&& 0x01FFFFFFFFFFFFF0) + BitVec.ofNat 64 (16 * i)
        flatOk e
        memLoad e 16)) w [] o) ∧
    nextIs (exec (.kvscan (.q 2) (.g 5)) kvState) (fun t => t.regs.q[2].count == 4) = true := by
  refine ⟨offHart (by decide +kernel), by unfold Unused; decide +kernel, plain (by simp) rfl, g_is (by decide +kernel), by decide, by decide,
    by decide +kernel, by decide +kernel, ⟨_, _, _, _, gives_is (by decide +kernel), gives_is (by decide +kernel), by decide,
      gives_is (by decide +kernel), gives_is (by decide +kernel)⟩, by decide +kernel⟩

theorem witness_GathersAndScatters :
    NotOnHart demo ∧ Reads [okV (.v 1), okG (.g 4), okV (.v 2)] [.g 4, .v 2] (some (.v 1)) demo [] demo ∧ G [] (.g 4) demo 64 ∧
    V [] (.v 2) demo (demo.regs.readV 2) ∧ bit (64 : W64) 63 = false ∧ (64 : W64).toNat % 4 = 0 ∧
    (∃ u v, Gives (resolveLanes demo true (((List.range 16).filter (fun i => (demo.regs.readM 1).getLsbD i)).map
        (fun i => (i, (64 : W64) + BitVec.ofNat 64 (4 * lane 32 (demo.regs.readV 2) i))))) demo
        (some [(0, 72, .ok (tcmKey 0 72)), (2, 64, .ok (tcmKey 0 64))]) u ∧
      Gives ((gathered [(0, 72, .ok (tcmKey 0 72)), (2, 64, .ok (tcmKey 0 64))]).mapM
        (fun e => do pure (e.1, bytesNat (← loadAt e.2.2 4)))) u [(0, 0), (2, 0)] v) ∧
    Unused demo 2 ∧ 1 ≤ fld (0x100 : W64) 0 9 ∧ fld (0x100 : W64) 0 9 ≤ 256 ∧
    Reads [okG (.g 4), okV (.v 2), okG (.g 3)] [.g 4, .v 2, .g 3] none demo [] demo ∧
    (23576 : W64).toNat < tcmSize demo.cur.core ∧ tcmSize demo.cur.core ≤ (0x0200000000000000 : W64).toNat ∧
    2 ^ 57 ≤ (0x0200000000000000 : W64).toNat ∧
    demo.lookup demo.cur.core demo.cur.slot demo.me.asid 0x10000 = .pending ∧
    Reads [okG (.g 4), okV (.v 2), okV (.v 3)] [.g 4, .v 2, .v 3] none demo [] demo ∧
    (∃ u v, Gives (elementsAt 64 (fun i => BitVec.ofNat 64 (4 * lane 32 (demo.regs.readV 2) i)) 4 (activeLanes 16 (demo.regs.readM 1)) 1)
        demo [(0, 72), (2, 64)] u ∧
      Gives ([(0, (72 : W64)), (2, 64)].mapM (fun e => storePart e.1 e.2 (natBytes (lane 32 (demo.regs.readV 3) e.1) 4))) u
        [onePart 0 72 (natBytes 5 4), onePart 2 64 (natBytes 0 4)] v ∧
      StoreRoom v (oneStore v 3 2 0 [onePart 0 72 (natBytes 5 4), onePart 2 64 (natBytes 0 4)])) := by
  refine ⟨offHart (by decide +kernel), plain (by simp) rfl, g_is (by decide +kernel), v_is rfl, by decide, by decide,
    ⟨_, _, gives_is (by decide +kernel), gives_is (by decide +kernel)⟩, by unfold Unused; decide +kernel, by decide, by decide,
    plain (by simp) rfl, by decide +kernel, by decide +kernel, by decide +kernel, by decide +kernel, plain (by simp) rfl,
    ⟨_, _, gives_is (by decide +kernel), gives_is (by decide +kernel), room_is (c := chunkAt demoRegs) ?_ ?_ ?_⟩⟩ <;> decide +kernel

theorem witness_Scatters_remote :
    let s := (paged 0x20000F).modRegs (fun r => { r with v := r.v.set 2 0x0000000300000002 })
    NotOnHart s ∧ Reads [okG (.g 5), okV (.v 2), okV (.v 3)] [.g 5, .v 2, .v 3] none s [] s ∧ G [] (.g 5) s 0x10000 ∧
    (∃ u, Gives (elementsWith 0x10000 (fun i => BitVec.ofNat 64 (4 * lane 32 (s.regs.readV 2) i)) 4 (activeLanes 16 (s.regs.readM 1)) 4
      (fun i va => do
        let k ← scataKey va
        pure (k, (← get).live va k, BitVec.ofNat 32 (lane 32 (s.regs.readV 3) i)))) s
      [(0x200008, 0x200008, 5), (0x200000, 0x200000, 0)] u) :=
  ⟨offHart (by decide +kernel), plain (by simp) rfl, g_is (by decide +kernel), ⟨_, gives_is (by decide +kernel)⟩⟩

/-- A copy descriptor of one run of 64 bytes to address 0 of core 0.0.1's TCM, with its arrival. -/
def copyWords : List Byte :=
  bvBytes (0x10000 : W64) 8 ++ bvBytes (0 : W64) 8 ++ bvBytes (0x21030001 : W64) 8 ++ bvBytes (63 : W64) 8 ++ List.replicate 32 0

def copying : State := (demoMem 64 copyWords).modRegs (fun r => { r with cpydone := 1, shpat := 0x0004080040400F31 })

theorem witness_Copies :
    NotOnHart copying ∧ Reads [okG (.g 4)] [.g 4] none copying [] copying ∧ G [] (.g 4) copying 64 ∧
    (∃ u v, Gives (accessAddr 64 0 64 4) copying 64 u ∧ Gives (memLoad 64 64) u copyWords v ∧ copyZero copyWords = true ∧
      v.copyOk (copyOf copyWords) = true ∧ bit v.regs.cpydone 0 = true ∧ Free v) ∧
    Reads [okG (.g 1)] [] (some (.g 1)) copying [] copying ∧
    Gives batchWord copying 0 copying ∧ (copying.regs.batch.setWidth 32 - 1 - (0 : BitVec 32)).toNat ≤ ((64 : W64) + 0).toNat ∧
    Id.kind copying.cur.core = 0 ∧ Reads [okG (.g 5), okG (.g 4)] [.g 5, .g 4] none copying [] copying ∧
    copying.dealOk (dealOf copying.regs.shpat) 0x10000 5120 = true ∧ copying.dealOk (dealOf copying.regs.shpat) 0x10000 0 = true := by
  refine ⟨offHart (by decide +kernel), plain (by simp) rfl, g_is (by decide +kernel),
    ⟨_, _, gives_is (by decide +kernel), gives_is (by decide +kernel), by decide +kernel, by decide +kernel, by decide +kernel,
      free_is (by decide +kernel)⟩, plain (by simp) rfl, gives_to (by decide +kernel) (by decide +kernel), by decide +kernel, by decide +kernel,
    plain (by simp) rfl, by decide +kernel⟩

/-- R211's example: a DEAL of 5 KiB under this SHPAT sends its blocks to cores 0 to 3 at 0x2000 and the last to core 0 at 0x2400. -/
theorem test_deal_example :
    let d := dealOf 0x0004080040400F31
    d.typ = 0x31 ∧ d.block = 1024 ∧ d.blocks 5120 = 5 ∧ d.core 3 = 3 ∧ d.tcm 3 = 0x2000 ∧ d.core 4 = 0 ∧ d.tcm 4 = 0x2400 ∧
    d.size 5120 4 = 1024 := by decide

theorem witness_Watches :
    NotOnHart demo ∧ Reads [okG (.g 1), okG (.g 4)] [.g 4] (some (.g 1)) demo [] demo ∧ G [] (.g 4) demo 64 ∧
    (∃ u v, Gives (accessAddr 64 (BitVec.ofInt 64 (0 : Half).toInt) 1 4) demo 64 u ∧ Gives (xlate 64 .load) u (.ok (tcmKey 0 64)) v) ∧
    demo.regs.answer = none ∧ Gives (needPlace (.g 1)) demo () demo ∧ Free demo ∧
    (demoWith { demoRegs with result := some (2, some 2) }).regs.answer = some (some 2) ∧
    Reads [okG (.g 0)] [.g 0] none demo [] demo ∧
    ((0 : W64).toNat ≤ 15 ∧ 15 < (16 : W64).toNat ∧
      (let s := demo.modCore 0 (fun k => { k with watches := [{ index := 7, slot := 1, line := 0, fired := false }] })
       ∃ w ∈ (s.core s.cur.core).watches, w.index = (7 : W64).toNat ∧ w.slot ≠ s.cur.slot)) := by
  refine ⟨offHart (by decide +kernel), plain (by simp) rfl, g_is (by decide +kernel),
    ⟨_, _, gives_is (by decide +kernel), gives_is (by decide +kernel)⟩, by decide +kernel, gives_to (by decide +kernel) (by decide +kernel),
    free_is (by decide +kernel), by decide +kernel, plain (by simp) rfl, by decide +kernel⟩

theorem witness_AtomicsInOwnMemory :
    NotOnHart demo ∧ NoAnswer demo ∧ Reads [okG (.g 1), okG (.g 4), okG (.g 3)] [.g 4, .g 3] (some (.g 1)) demo [] demo ∧
    Reads [okG (.g 1), okG (.g 4), okG (.g 3), okG (.g 0)] [.g 4, .g 3, .g 0] (some (.g 1)) demo [] demo ∧
    Reads [okV (.v 1), okG (.g 4), okV (.v 2)] [.g 4, .v 2] (some (.v 1)) demo [] demo ∧ G [] (.g 4) demo 64 ∧ G [] (.g 3) demo 9 ∧
    (∃ u v, Gives (accessAddr 64 0 (2 ^ sizeCode .s8) 4) demo 64 u ∧ (64 : W64).toNat < tcmSize u.cur.core ∧
      Gives (loadAt (tcmKey u.cur.core (64 : W64).toNat) (2 ^ sizeCode .s8)) u (List.replicate 8 0) v ∧ v.cur = u.cur ∧
      StoreRoom v (ownStore v 64 (natBytes 9 8)) ∧ bytesNat (List.replicate 8 0) = (0 : W64).toNat % 2 ^ (8 * 8) ∧
      bytesNat (List.replicate 8 0) ≠ (9 : W64).toNat % 2 ^ (8 * 8) ∧ ∃ w, Gives (writeG (.g 1) 0) (buffered v (ownStore v 64 (natBytes 9 8))) () w) ∧
    (∃ u l v, Gives (accessAddr 64 0 64 4) demo 64 u ∧ Gives (loadAt (tcmKey u.cur.core (64 : W64).toNat) 64) u l v) ∧
    nextIs (exec (.amoAdd .s8 (.g 1) (.g 4) (.g 3)) demo) (fun t => t.ownByte t.me (tcmKey 0 64) == 9 && t.regs.readG 1 == 0) = true := by
  unfold NoAnswer
  refine ⟨offHart (by decide +kernel), by decide +kernel, plain (by simp) rfl, plain (by simp) rfl, plain (by simp) rfl,
    g_is (by decide +kernel), g_is (by decide +kernel), ⟨_, _, gives_is (by decide +kernel), by decide +kernel, gives_is (by decide +kernel),
      by decide +kernel, room_is (c := { chunkAt demoRegs with reads := [lineOf (tcmKey 0 64)] }) ?_ ?_ ?_, by decide, by decide, _, writeG_g _ _ _⟩,
    ⟨_, _, _, gives_is (by decide +kernel), gives (by decide +kernel)⟩, by decide +kernel⟩ <;> decide +kernel

theorem witness_AtomicsElsewhere :
    (let s := paged 0x20000F
     NotOnHart s ∧ NoAnswer s ∧ Reads [okG (.g 1), okG (.g 5), okG (.g 3)] [.g 5, .g 3] (some (.g 1)) s [] s ∧
     G [] (.g 5) s 0x10000 ∧ G [] (.g 3) s 9 ∧
     ∃ u v, Gives (accessAddr 0x10000 0 8 4) s 0x10000 u ∧ tcmSize u.cur.core ≤ (0x10000 : W64).toNat ∧ slotClass u.cur.slot ≠ 1 ∧
       Gives (atomicKey 0x10000) u 0x200000 v ∧ Gives (needPlace (.g 1)) v () v ∧ Free v) ∧
    slotClass 5 = 1 ∧ slotClass 6 = 1 ∧
    (demoWith { demoRegs with result := some (2, none) }).regs.answer = some none ∧
    (demoWith { demoRegs with result := some (2, some 5) }).regs.answer = some (some 5) := by
  unfold NoAnswer
  refine ⟨⟨offHart (by decide +kernel), by decide +kernel, plain (by simp) rfl, g_is (by decide +kernel), g_is (by decide +kernel),
    _, _, gives_is (by decide +kernel), by decide +kernel, by decide +kernel, gives_is (by decide +kernel), ?_, free_is (by decide +kernel)⟩,
    by decide, by decide, by decide +kernel⟩
  exact gives_to (by decide +kernel) (by decide +kernel)

/-- `demo` running a tile of a node whose graph declares a reduction window. -/
def reducing : State :=
  let s := grouped 0
  { s with
    graphs := [(3, { Graph.absent with
                     resident := true
                     asid := 5
                     nodes := [{ words := [], cores := [0] }]
                     redwins := [{ win := 2, offset := 0x400, bytes := 256 }] })] }

theorem witness_ReductionAdds :
    let s := reducing
    Id.kind s.cur.core = 0 ∧ s.me.side = .none ∧ s.me.chunk = some (chunkAt demoRegs) ∧ s.roomFor (s.me.lineCount + 1) = true ∧
    Reads [okG (.g 4), okV (.v 2)] [.g 4, .v 2] none s [] s ∧ V [] (.v 2) s (s.regs.readV 2) ∧
    (s.windowAt s.cur.core (s.stampOf s.cur.core s.cur.slot) 0x80000000000200C0 64).isSome = true ∧
    (s.windowAt s.cur.core (s.stampOf s.cur.core s.cur.slot) 0x8000000000020100 64).isSome = false :=
  ⟨by decide +kernel, by decide +kernel, by decide +kernel, by decide +kernel, plain (by simp) rfl, v_is rfl, by decide +kernel⟩

theorem witness_Barriers :
    InGroup (grouped 0) 9 ∧ ¬ InGroup (grouped 0) 8 ∧ Free (grouped 0) ∧ TrapReady (grouped 0) ∧ (∀ b ∈ (grouped 0).me.bars, b.group ≠ 9) ∧
    (let s := (grouped 0).modMe (fun x => { x with bars := [{ group := 9, gen := none, released := false }] })
     InGroup s 9 ∧ ∃ b ∈ s.me.bars, b.group = 9) := by
  refine ⟨⟨{ members := [0, 1], home := 0, own := ⟨0, [], []⟩, mirror := ⟨0, [], []⟩ }, by decide +kernel⟩, ?_,
    free_is (by decide +kernel), ready_is (by decide +kernel), by decide +kernel,
    ⟨{ members := [0, 1], home := 0, own := ⟨0, [], []⟩, mirror := ⟨0, [], []⟩ }, by decide +kernel⟩, by decide +kernel⟩
  rintro ⟨g, h, -⟩
  have : (grouped 0).group (grouped 0).me.asid 8 = none := by decide +kernel
  rw [this] at h
  cases h

/-- The last type a worker may send, the last payload registers, and 15 or 16 messages held. -/
theorem witness_Sends :
    NotOnHart demo ∧ Reads [okG (.g 0)] [.g 0] none demo [] demo ∧ G [] (.g 0) demo 0 ∧ (25 + (7 : BitVec 3).toNat ≤ 32) ∧
    (0xDF : BitVec 8).toNat < 0xE0 ∧ ¬ (0xE0 : BitVec 8).toNat < 0xE0 ∧ slotClass demo.cur.slot ≠ 2 ∧
    demo.sendTo (demo.stampOf demo.cur.core demo.cur.slot) 0 = true ∧ demo.regs.held.length < 16 ∧ TrapReady demo ∧ Free demo ∧
    (let s := demoWith { demoRegs with held := List.replicate 16 { msg := placedMessage, group := none } }
     16 ≤ s.regs.held.length) ∧
    (let s := grouped 0
     s.sendGroup (s.stampOf s.cur.core s.cur.slot) 9 = true) ∧
    65536 ≤ (65536 : W64).toNat ∧ demo.provided 65535 = false ∧
    nextIs (exec (.send (.g 2) (.g 0) 0x21 3 false false) demo) (fun t => t.regs.held.length == 1) = true :=
  ⟨offHart (by decide +kernel), plain (by simp) rfl, g_is (by decide +kernel), by decide, by decide, by decide, by decide +kernel,
    by decide +kernel, by decide +kernel, ready_is (by decide +kernel), free_is (by decide +kernel), by decide +kernel, by decide +kernel,
    by decide, by decide +kernel⟩

/-- A context of eight vector registers at most and no queue in use. -/
def portableState : State :=
  (paged 0x20004F).modRegs (fun r => { r with q := Vector.replicate 16 Queue.empty })

theorem witness_Migration :
    (let s := portableState
     NotOnHart s ∧ Reads [okG (.g 0)] [.g 0] none s [] s ∧ G [] (.g 0) s 0 ∧ (0 : W64).toNat < 65536 ∧ s.provided 0 = true ∧
     s.portReasons s.cur.core s.cur.slot = 0 ∧ s.me.unchecked = 0 ∧ s.regs.sfq = [] ∧ Free s ∧
     Reads [okG (.g 5)] [.g 5] none s [] s ∧ G [] (.g 5) s 0x10000 ∧
     ∃ u v, Gives (handleAddr 0x10000 0 1 4) s 0x10000 u ∧ Gives (nearFrame 0x10000) u 0x200000 v ∧ 0x200000 < 2 ^ 39 ∧
       v.provided (16384 + 0x200000 / 2 ^ 36 * 2048 + 0x200000 / 2 ^ 13 % 32) = true ∧ v.portReasons v.cur.core v.cur.slot = 0 ∧
       v.me.unchecked = 0 ∧ v.regs.sfq = [] ∧ Free v) ∧
    demo.portReasons demo.cur.core demo.cur.slot ≠ 0 ∧ TrapReady demo ∧ Reads [okG (.g 0)] [.g 0] none demo [] demo :=
  ⟨⟨offHart (by decide +kernel), plain (by simp) rfl, g_is (by decide +kernel), by decide, by decide +kernel, by decide +kernel,
    by decide +kernel, by decide +kernel, free_is (by decide +kernel), plain (by simp) rfl, g_is (by decide +kernel), _, _,
    gives_is (by decide +kernel), gives_is (by decide +kernel), by decide, by decide +kernel, by decide +kernel, by decide +kernel,
    by decide +kernel, free_is (by decide +kernel)⟩, by decide +kernel, ready_is (by decide +kernel), plain (by simp) rfl⟩

/-- `demo` in an address space of a resident graph, with places in its die's task queues. -/
def spawning (ts : Option W64) : State :=
  let s := reducing
  s.modMe (fun x => { x with act := x.act.map (fun a => { a with task := ts.map (fun v =>
    { key := { ts := v, spawner := 0, seq := 0 }, typ := 0, arg := 0, state := .firm }) }) })

theorem witness_Tasks :
    (let s := spawning none
     NotOnHart s ∧ Reads [okG (.g 1), okG (.g 2), okG (.g 3), okG (.g 0)] [.g 2, .g 3, .g 0] (some (.g 1)) s [] s ∧ G [] (.g 2) s 7 ∧
     G [] (.g 3) s 9 ∧ G [] (.g 0) s 0 ∧ (0xDF : W64).toNat ≤ 0xDF ∧ slotClass s.cur.slot ≠ 1 ∧ s.me.taskKey = none ∧
     s.me.isSpeculative = false ∧ s.graphOfStamp (s.stampOf s.cur.core s.cur.slot) = some 3 ∧
     (let u := s.refill (s.targetCluster (some 3) ((9 : W64).toNat % 128)) 256
      u.freePlace (s.targetCluster (some 3) ((9 : W64).toNat % 128)) = some false) ∧ TrapReady s ∧
     Reads [okG (.g 1)] [] (some (.g 1)) s [] s) ∧
    (let s := spawning (some 7)
     (∃ k, s.me.taskKey = some k ∧ k.ts = 7) ∧ TrapReady s ∧ 0xDF < (0xE0 : W64).toNat ∧ Reads [okG (.g 1)] [] (some (.g 1)) s [] s) ∧
    nextIs (exec (.spawn (.g 1) (.g 2) (.g 3) (.g 0)) (spawning none)) (fun t => t.tasks.length == 1 && t.regs.readG 1 == 0) = true := by
  refine ⟨⟨offHart (by decide +kernel), plain (by simp) rfl, g_is (by decide +kernel), g_is (by decide +kernel), g_is (by decide +kernel),
    by decide, four (by decide +kernel) ⟨by decide +kernel, ready_is (by decide +kernel), plain (by simp) rfl⟩⟩, ⟨⟨{ ts := 7, spawner := 0, seq := 0 }, by decide +kernel, rfl⟩, ready_is (by decide +kernel), by decide, plain (by simp) rfl⟩,
    by decide +kernel⟩

/-- The forms of a lookup's first and second match: no match, NODE, DENSE, FWD then NODE, GRAFT then NODE, a rewrite that does not
fit, and the same FWD under a strict skein. -/
theorem witness_LabelLookups :
    best demo skein0 lab1 false = none ∧
    best labelled skein0 lab1 false = some (hentry lab1 0x1000) ∧ fld (hentry lab1 0x1000).e1 62 2 = 0 ∧
    (let e := hentry lab1 0x4000000000001000
     best (labelledWith false [e]) skein0 lab12 false = some e ∧ fld e.e1 62 2 = 1 ∧ 1 ≤ depthOf skein0 lab12) ∧
    (let e := hentry lab1 0xC000200000000000
     let n := hentry 0x8000220000000000 0x1000
     let s := labelledWith false [e, n]
     best s skein0 lab12 false = some e ∧ fld e.e1 62 2 = 3 ∧ rewrite skein0.widths lab12 e = some 0x8000220000000000 ∧
     best (touched s skein0 lab12 false) skein0 0x8000220000000000 false = some n ∧ fld n.e1 62 2 = 0 ∧ skein0.strict = false ∧
     ({ skein0 with strict := true } : Skein).strict = true) ∧
    (let e := hentry lab1 0x8000200000000000
     let n := hentry 0x8000220000000000 0x1000
     let s := labelledWith false [e, n]
     best s skein0 lab12 false = some e ∧ fld e.e1 62 2 = 2 ∧ rewrite skein0.widths lab12 e = some 0x8000220000000000 ∧
     best (touched s skein0 lab12 false) skein0 0x8000220000000000 true = some n) ∧
    (let e := hentry lab1 0xC000222200000000
     best (labelledWith false [e]) skein0 lab12 false = some e ∧ rewrite skein0.widths lab12 e = none) := by decide +kernel

theorem witness_LabelInstructions :
    NotOnHart labelled ∧ Reads [okG (.g 1), okG (.g 5)] [.g 5] (some (.g 1)) labelled [] labelled ∧ G [] (.g 5) labelled lab1 ∧
    (∃ u v, Gives (wellFormedLabel lab1) labelled skein0 u ∧ Gives (wellFormedLabel lab12) u skein0 v) ∧
    Reads [okG (.g 1), okG (.g 5), okG (.g 3)] [.g 5, .g 3] (some (.g 1)) labelled [] labelled ∧ G [] (.g 3) labelled 9 ∧
    (depthOf skein0 lab1 = 1 ∧ 1 ≤ (15 : W64).toNat ∧ (15 : W64).toNat ≤ 2 ^ 4 - 1 ∧ 2 ^ 4 - 1 < (16 : W64).toNat) ∧
    Reads [okG (.g 5), okG (.g 6)] [.g 5, .g 6] none labelled [] labelled ∧ G [] (.g 6) labelled lab12 ∧
    (∃ u x w, Gives (labelTranslate skein0 lab1 2) labelled x u ∧ Gives (writeG (.g 1) x) u () w) ∧
    best labelled skein0 lab1 false = some (hentry lab1 0x1000) ∧ TrapReady labelled ∧
    nextIs (exec (.lmake (.g 1) (.g 5) (.g 4)) (labelled.modRegs (fun r => { r with g := r.g.set 4 2 }))) (fun t => t.regs.readG 1 == lab12) = true ∧
    nextIs (exec (.lrange (.g 1) (.g 5)) labelled) (fun t => t.regs.readG 1 == 0x80001FFF00000000) = true ∧
    nextIs (exec (.lpar (.g 1) (.g 6)) labelled) (fun t => t.regs.readG 1 == lab1) = true ∧
    nextIs (exec (.lcmp (.g 1) (.g 5) (.g 6)) labelled) (fun t => t.regs.readG 1 == 1) = true :=
  ⟨offHart (by decide +kernel), plain (by simp) rfl, g_is (by decide +kernel),
    ⟨_, _, gives_is (by decide +kernel), gives_is (by decide +kernel)⟩, plain (by simp) rfl, g_is (by decide +kernel), by decide +kernel,
    plain (by simp) rfl, g_is (by decide +kernel), ⟨_, _, _, gives (by decide +kernel), writeG_g _ _ _⟩, by decide +kernel,
    ready_is (by decide +kernel), by decide +kernel⟩

theorem witness_LabelGroup_fwd :
    let e := hentry lab1 0xC000200000000000
    let s := labelledWith false [e, hentry 0x8000220000000000 0x1000]
    best s skein0 lab12 false = some e ∧ rewrite skein0.widths lab12 e = some 0x8000220000000000 ∧
    best (touched s skein0 lab12 false) skein0 0x8000220000000000 false = some (hentry 0x8000220000000000 0x1000) := by decide +kernel

/-- Codes of each class, the sticky bits one by one and in pairs. -/
theorem witness_WideAccumulators :
    FFmt.fp32.decode 0x7FC00000 = .nan ∧ FFmt.fp32.decode 0xFF800000 = .inf true ∧ FFmt.fp32.decode 0x80000000 = .zero true ∧
    FFmt.fp32.decode 0x3F800000 = .fin false 0x800000 (-23) ∧ fixed false 0x800000 (-23) = 2 ^ 320 ∧
    (0xF : Nat).testBit 0 = true ∧ (6 : Nat).testBit 0 = false ∧ (6 : Nat).testBit 1 = true ∧ (6 : Nat).testBit 2 = true ∧
    (2 : Nat).testBit 2 = false ∧ (4 : Nat).testBit 1 = false ∧ (8 % 8 = 0 ∧ (8 : Nat).testBit 3 = true) ∧ 0 % 16 = 0 := by decide +kernel

theorem witness_WideAccumulator_forms :
    NotOnHart demo ∧ (∀ f ∈ [okG (.g 4), okV (.v 2), okV (.v 3)], f demo = .ok () demo) ∧
    Gives (waccTarget (.g 4) [.v 2]) demo ([], 64) demo ∧ Gives (waccTarget (.g 4) [.v 2, .v 3]) demo ([], 64) demo ∧
    Gives (waccTarget (.g 4) [.g 3]) demo ([], 64) demo ∧ V [] (.v 2) demo (demo.regs.readV 2) ∧
    (∃ w u v, Gives (loadWindow 64) demo w u ∧ Gives (storeWindow 64 w [0, 9]) u () v) ∧
    Reads [okG (.g 1), okG (.g 4)] [.g 4] (some (.g 1)) demo [] demo ∧ G [] (.g 4) demo 64 ∧ bit (64 : W64) 63 = false ∧
    (64 : W64).toNat % 32 = 0 ∧ (64 : W64).toNat < 2 ^ 57 ∧ (24480 : W64).toNat + 96 ≤ tcmSize demo.cur.core ∧
    demo.me.chunk = some (chunkAt demoRegs) ∧ demo.me.side = .none := by
  refine ⟨offHart (by decide +kernel), by simp, gives_to (by decide +kernel) (by decide +kernel), gives_to (by decide +kernel) (by decide +kernel),
    gives_to (by decide +kernel) (by decide +kernel), v_is rfl, ⟨{ i := 0, sticky := 0, reached := [] }, _, _, gives_is (by decide +kernel), gives_is (by decide +kernel)⟩, plain (by simp) rfl,
    g_is (by decide +kernel), by decide, by decide, by decide, by decide +kernel⟩

theorem witness_VectorFloat :
    NotOnHart demo ∧ Reads [okV (.v 1), okV (.v 2)] [.v 2] (some (.v 1)) demo [] demo ∧
    Reads [okV (.v 1), okV (.v 2), okV (.v 3)] [.v 2, .v 3] (some (.v 1)) demo [] demo ∧
    Reads [okV (.v 1), okV (.v 2), okV (.v 3), okV (.v 3)] [.v 2, .v 3, .v 3] (some (.v 1)) demo [] demo ∧
    Reads [okM (.m 1), okV (.v 2), okV (.v 3)] [.v 2, .v 3] none demo [] demo ∧
    V [] (.v 2) demo (demo.regs.readV 2) ∧ V [] (.v 3) demo (demo.regs.readV 3) ∧ Gives (oldV (.v 1)) demo 0 demo ∧
    (∃ u, Gives (writeV (.v 1) 5) demo () u) ∧ (∃ u, Gives (writeM (.m 1) 5) demo () u) :=
  ⟨offHart (by decide +kernel), plain (by simp) rfl, plain (by simp) rfl, plain (by simp) rfl, plain (by simp) rfl, v_is rfl, v_is rfl,
    gives_to (by decide +kernel) (by decide +kernel), ⟨_, writeV_v _ _ _⟩, ⟨_, writeM_m _ _ _⟩⟩

/-- The largest finite code and the smallest, of the formats of the statement. -/
theorem witness_RoundingExact :
    (FFmt.fp32.decode 0x7F7FFFFF).isNan = false ∧ (FFmt.e5m2.decode 0x7B).isNan = false ∧ (FFmt.fp16.decode 1).isNan = false ∧
    roundTo FFmt.fp32 .rup false (FFmt.fp32.decode 0x7F7FFFFF) = (0x7F7FFFFF, 0) ∧
    roundTo FFmt.bf16 .rdn false (FFmt.bf16.decode 0x8000) = (0x8000, 0) := by decide +kernel

theorem witness_VectorIntegers :
    NotOnHart demo ∧ Reads [okV (.v 1), okG (.g 3)] [.g 3] (some (.v 1)) demo [] demo ∧ G [] (.g 3) demo 9 ∧
    Reads [okV (.v 1)] [] (some (.v 1)) demo [] demo ∧ Reads [okV (.v 1), okV (.v 2), okG (.g 3)] [.v 2, .g 3] (some (.v 1)) demo [] demo ∧
    Reads [okG (.g 1), okV (.v 2), okG (.g 3)] [.v 2, .g 3] (some (.g 1)) demo [] demo ∧
    Reads [okG (.g 2), okG (.g 3)] [.g 2, .g 3] none demo [] demo ∧ G [] (.g 2) demo 7 ∧
    nextIs (exec (.vbcast .w8 (.v 1) (.g 3) 1) demo) (fun t => t.regs.readV 1 == 0x090009) = true ∧
    nextIs (exec (.visub .w8 (.v 1) (.v 0) (.v 2) 0) demo) (fun t => t.regs.readV 1 == 0xFD000000FE) = true ∧
    nextIs (exec (.vcvt .fp16 .fp32 none false (.v 1) (.v 2) 0) (demo.modRegs (fun r => { r with v := r.v.set 2 0x3F800000C0000000 })))
      (fun t => t.regs.readV 1 == 0x3C00C000) = true :=
  ⟨offHart (by decide +kernel), plain (by simp) rfl, g_is (by decide +kernel), plain (by simp) rfl, plain (by simp) rfl, plain (by simp) rfl,
    plain (by simp) rfl, g_is (by decide +kernel), by decide +kernel⟩

theorem witness_Reductions :
    NotOnHart demo ∧ Reads [okG (.g 1), okV (.v 2)] [.v 2] (some (.g 1)) demo [] demo ∧
    Reads [okV (.v 1), okV (.v 2)] [.v 2] (some (.v 1)) demo [] demo ∧ V [] (.v 2) demo (demo.regs.readV 2) ∧
    (∃ u, Gives (writeG (.g 1) 0xFFFFFFFF80000000) (flagged demo 0) () u) ∧
    nextIs (exec (.vred .sum .i32 (.g 1) (.v 2) 0) demo) (fun t => t.regs.readG 1 == 5) = true ∧
    nextIs (exec (.vscan .sum .i32 (.v 1) (.v 2) 0) demo) (fun t => lane 32 (t.regs.readV 1) 15 == 5) = true :=
  ⟨offHart (by decide +kernel), plain (by simp) rfl, plain (by simp) rfl, v_is rfl, ⟨_, writeG_g _ _ _⟩, by decide +kernel⟩

theorem witness_MaskGroup :
    (∀ f ∈ [okM (.m 1), okM (.m 1), okM (.m 0)], f demo = .ok () demo) ∧ MK (.m 1) demo 5 ∧ MK (.m 0) demo (BitVec.allOnes 64) ∧
    Reads [okG (.g 1), okM (.m 1)] [] (some (.g 1)) demo [] demo ∧ Reads [okM (.m 1), okG (.g 2)] [.g 2] none demo [] demo ∧
    (headMajor (0xB300 : Half)).toNat = 0x66 ∧ 8 ≤ (0x0040 : Half).toNat / 8 % 64 ∧ TrapReady demo ∧
    okM (.g 2) demo = .error (.trap Cause.illegalOperand (encVal demo.cur.enc) 0 none none) demo ∧ okG (.g 1) demo = .ok () demo ∧
    (∃ u, Gives (writeM (.m 1) 7) demo () u) ∧ (∀ n, (Reg.g 1) ≠ .m n) := by
  refine ⟨by simp, ?_, ?_, plain (by simp) rfl, plain (by simp) rfl, by decide, by decide, ready_is (by decide +kernel), rfl, rfl,
    ⟨_, writeM_m _ _ _⟩, by simp⟩ <;> (unfold MK; rw [readM_m]; exact congrArg (EStateM.Result.ok · _) (by decide +kernel))

theorem witness_VectorFrame :
    NotQ (.v 1) ∧ (∃ p t, Reads [okV (.v 1), okV (.v 2)] [.v 2] (some (.v 1)) demo p t) ∧
    (∃ p t, Reads [okV (.v 1), okV (.v 2), okV (.v 3)] [.v 2, .v 3] (some (.v 1)) demo p t) ∧ NotOnHart demo ∧
    nextIs (exec (.vadd .f32 (.v 1) (.v 2) (.v 3) 0) demo) (fun t => t.regs.readV 3 == demo.regs.readV 3) = true ∧
    nextIs (exec (.vperm .w32 (.v 1) (.v 2) (.v 3) 0) demo) (fun t => t.regs.fpst == 0) = true ∧
    nextIs (exec (.vabs .f32 (.v 1) (.v 2) 0) demo) (fun t => t.regs.readV 1 == demo.regs.readV 2) = true :=
  ⟨rfl, ⟨_, _, plain (by simp) rfl⟩, ⟨_, _, plain (by simp) rfl⟩, offHart (by decide +kernel), by decide +kernel⟩

/-- The three ranges of the sum, at their ends. -/
theorem witness_PositionAdd :
    NotOnHart demo ∧ Reads [okG (.g 1), okG (.g 2), okG (.g 3)] [.g 2, .g 3] (some (.g 1)) demo [] demo ∧ G [] (.g 2) demo 7 ∧
    (let f (a b : W64) : State := demoWith { demoRegs with g := (demoRegs.g.set 2 a).set 3 b }
     nextIs (exec (.posadd (.g 1) (.g 2) (.g 3)) (f 1 0xFFFFFFFF)) (fun t => t.regs.readG 1 == 0 && t.regs.fpst == 0) = true ∧
     nextIs (exec (.posadd (.g 1) (.g 2) (.g 3)) (f 0 0xFFFFFFFF)) (fun t => t.regs.readG 1 == 0 && t.regs.fpst == 0x40) = true ∧
     nextIs (exec (.posadd (.g 1) (.g 2) (.g 3)) (f 0xFFFFFFFF 0)) (fun t => t.regs.readG 1 == 0xFFFFFFFF && t.regs.fpst == 0) = true ∧
     nextIs (exec (.posadd (.g 1) (.g 2) (.g 3)) (f 0x1FFFFFFFF 1)) (fun t => t.regs.readG 1 == 0xFFFFFFFF && t.regs.fpst == 0x40) = true) :=
  ⟨offHart (by decide +kernel), plain (by simp) rfl, g_is (by decide +kernel), by decide +kernel⟩

theorem witness_AttentionSteps :
    NotOnHart demo ∧ Reads [okV (.v 1), okV (.v 2), okG (.g 3), okG (.g 4)] [.v 2, .g 3, .g 4] (some (.v 1)) demo [] demo ∧
    (64 : W64).toNat + 32 ≤ tcmSize demo.cur.core ∧ (24544 : W64).toNat + 32 = tcmSize demo.cur.core ∧ (64 : W64).toNat % 4 = 0 ∧
    bit (64 : W64) 63 = false ∧ (∃ l v, Gives (memLoad 64 32) demo l v) ∧
    Reads [okV (.v 2), okG (.g 3)] [.v 2, .g 3] none demo [] demo ∧ V [] (.v 2) demo (demo.regs.readV 2) ∧ G [] (.g 3) demo 9 ∧
    okV (.v 2) demo = .ok () demo ∧ okG (.g 3) demo = .ok () demo ∧ TrapReady demo ∧
    FFmt.fp32.decode 0x7FC00000 = .nan ∧ FFmt.fp32.decode 0xFF800000 = .inf true ∧ FFmt.fp32.decode 0x7F800000 = .inf false ∧
    nextIs (exec (.vrope (.v 1) (.v 2) (.g 3) (.g 4)) demo) (fun t => t.regs.readV 1 == demo.regs.readV 2) = true :=
  ⟨offHart (by decide +kernel), plain (by simp) rfl, by decide +kernel, by decide +kernel, by decide, by decide,
    ⟨_, _, gives (by decide +kernel)⟩, plain (by simp) rfl, v_is rfl, g_is (by decide +kernel), rfl, rfl, ready_is (by decide +kernel),
    by decide +kernel⟩

theorem witness_Selection :
    NotOnHart demo ∧ takesPush (demo.regs.q[(2 : Fin 16)]).kind = true ∧
    Reads [okV (.v 1), okV (.v 2), okG (.g 3)] [.v 2, .g 3] (some (.v 1)) demo [] demo ∧ V [] (.v 2) demo (demo.regs.readV 2) ∧
    G [] (.g 3) demo 9 ∧ (∃ u v, Gives (writeV (.v 1) 0) (flagged demo 0) () u ∧ Gives (pushQ 2 0) u () v) ∧
    Reads [okG (.g 1), okV (.v 2)] [.v 2] (some (.g 1)) demo [] demo ∧ Reads [okG (.g 1)] [] (some (.g 1)) demo [] demo ∧
    ((30 : Fin 32).val % 2 = 0 ∧ (0 : Fin 32).val % 2 = 0) :=
  ⟨offHart (by decide +kernel), by decide +kernel, plain (by simp) rfl, v_is rfl, g_is (by decide +kernel),
    ⟨_, _, writeV_v _ _ _, gives_is (by decide +kernel)⟩, plain (by simp) rfl, plain (by simp) rfl, by decide⟩

/-- `demo` with FP16 operands set up: g5 a shape, g6 the target, g7 and g8 the handles. -/
def matrix : State :=
  (demoWith { demoRegs with
    g := ((((demoRegs.g.set 5 0x04001010).set 6 0x5C00).set 7 0x100000).set 8 0x110000).set 9 0x00000082
    fmta := 0x08000001
    fmtb := 0x08000001 })

theorem witness_MatrixIssue :
    matrix.me.act = some placedAct ∧ matrix.me.chunk = some (chunkAt matrix.regs) ∧ bit matrix.me.oldest.mfrx 63 = false ∧
    (matrix.core matrix.cur.core).mq.length < 16 ∧
    (let s := matrix.modCore 0 (fun k => { k with mq := List.replicate 16 (MCmd.blank matrix) })
     16 ≤ (s.core s.cur.core).mq.length ∧ s.me.act = some placedAct) := by decide +kernel

theorem witness_MatrixInstructions :
    let t := matrix
    Id.kind t.cur.core = 0 ∧ slotClass t.cur.slot ≠ 1 ∧ slotClass 6 = 1 ∧
    Reads [okG (.g 5), okG (.g 6), okG (.g 7), okG (.g 8)] [.g 5, .g 6, .g 7, .g 8] none t [] t ∧ G [] (.g 5) t 0x04001010 ∧
    G [] (.g 6) t 0x5C00 ∧ G [] (.g 7) t 0x100000 ∧ G [] (.g 8) t 0x110000 ∧ shapeOf 0x04001010 = some (16, 16, 1024) ∧
    shapeOf 0 = some (0, 0, 0) ∧ fmtKnown (fmtCode t.regs.fmta) = true ∧ fmtPair (fmtCode t.regs.fmta) (fmtCode t.regs.fmtb) = true ∧
    kOk (fmtCode t.regs.fmta) (fmtCode t.regs.fmtb) 1024 = true ∧ pitchOk t.regs.fmta 1024 = true ∧ pitchOk t.regs.fmtb 1024 = true ∧
    t.targetFits 0x5C00 = true ∧ t.targetFits 0x5C40 = false ∧ (0x100000 : W64).toNat % 64 = 0 ∧
    t.outstanding t.cur.core t.cur.slot ≤ (0 : Half).toNat ∧ Reads [okG (.g 1)] [] (some (.g 1)) t [] t ∧ TrapReady t :=
  ⟨by decide +kernel, by decide +kernel, by decide, plain (by simp) rfl, g_is (by decide +kernel), g_is (by decide +kernel),
    g_is (by decide +kernel), g_is (by decide +kernel),
    four (by decide +kernel) (four (by decide +kernel) ⟨by decide +kernel, by decide, by decide +kernel, plain (by simp) rfl, ready_is (by decide +kernel)⟩)⟩

/-- `matrix` with a record header of 12 terms of pattern 1:8, K = 64, at 0x1000 of its TCM. -/
def structuredState : State :=
  let r := { demoRegs with
    g := (((((demoRegs.g.set 5 0x00401010).set 6 0x400).set 7 0x1000).set 8 0x110000).set 9 0x400).set 10 0x0000000000000081
    fmta := 0x00100001
    fmtb := 0x00800001 }
  { demoWith r with mem := Memory.writeAll [] (tcmKey 0 0x1000) (bvBytes (0x0000000000400C03 : W64) 8) }

theorem witness_StructuredMatrix_mmas :
    let t := structuredState
    Id.kind t.cur.core = 0 ∧ slotClass t.cur.slot ≠ 1 ∧
    Reads [okG (.g 5), okG (.g 6), okG (.g 7), okG (.g 8)] [.g 5, .g 6, .g 7, .g 8] none t [] t ∧ G [] (.g 5) t 0x00401010 ∧
    G [] (.g 6) t 0x400 ∧ G [] (.g 7) t 0x1000 ∧ G [] (.g 8) t 0x110000 ∧ shapeOf 0x00401010 = some (16, 16, 64) ∧
    1 ≤ fmtCode t.regs.fmta ∧ fmtCode t.regs.fmta ≤ 4 ∧ fmtKnown (fmtCode t.regs.fmtb) = true ∧
    fmtPair (fmtCode t.regs.fmta) (fmtCode t.regs.fmtb) = true ∧ kOk (fmtCode t.regs.fmta) (fmtCode t.regs.fmtb) 64 = true ∧
    pitchOk t.regs.fmtb 64 = true ∧ t.targetFits 0x400 = true ∧
    (∃ v, Gives (memLoad 0x1000 16) t (bvBytes (0x0000000000400C03 : W64) 8 ++ List.replicate 8 0) v) ∧
    headerOk 0x0000000000400C03 = true ∧ fld (0x0000000000400C03 : W64) 16 11 = 64 ∧
    12 * Rec.size 3 64 (elemBits 1 / 8) + 8 * 0 ≤ 4032 :=
  ⟨by decide +kernel, by decide +kernel, plain (by simp) rfl, g_is (by decide +kernel), g_is (by decide +kernel), g_is (by decide +kernel),
    g_is (by decide +kernel),
    four (by decide +kernel) (four (by decide +kernel) ⟨⟨_, gives_is (by decide +kernel)⟩, by decide, by decide, by decide +kernel⟩)⟩

/-- A panel of zeros, and the record of 64 bytes SPDEC forms from it: no term, no entry. -/
def zeroRows : List (List Byte) := List.replicate 16 (List.replicate 16 0)

def zeroRecord : Spdec.Result :=
  Spdec.run FFmt.fp16 0 1 8 0 (fun i j => bytesNat (((zeroRows.getD i []).drop (j * 2)).take 2))

theorem zero_rows_read : answer? ((List.range 16).mapM (fun i => memSpan ((0x400 : W64) + BitVec.ofNat 64 (i * 16)) 16 16)) structuredState =
    some zeroRows := by decide +kernel

theorem zero_record_parts :
    let u := after ((List.range 16).mapM (fun i => memSpan ((0x400 : W64) + BitVec.ofNat 64 (i * 16)) 16 16)) structuredState
    answer? (recordParts 0x1000 zeroRecord.bytes (List.range ((zeroRecord.bytes.length + 63) / 64))) u =
      some [onePart 0 0x1000 (bvBytes (0x80000 : V512) 64)] := by decide +kernel

theorem witness_StructuredMatrix_spdec :
    Reads [okG (.g 1), okG (.g 9), okG (.g 7), okG (.g 10)] [.g 9, .g 7, .g 10] (some (.g 1)) t [] t ∧ G [] (.g 9) structuredState 0x400 ∧
    G [] (.g 7) structuredState 0x1000 ∧ G [] (.g 10) structuredState 0x81 ∧ fld (0x81 : W64) 15 17 = 0 ∧ fld (0x81 : W64) 4 11 = 8 ∧
    8 % (Rec.nm (patCode .p2x4)).2 = 0 ∧ 8 * (elemBits (fmtCode structuredState.regs.fmta) / 8) ≤ fmtPitch structuredState.regs.fmta ∧
    mxElem (fmtCode structuredState.regs.fmta) = some FFmt.fp16 ∧ zeroRecord.bytes.length ≤ 4096 ∧
    (∃ u parts v, Gives ((List.range 16).mapM (fun i => memSpan ((0x400 : W64) + BitVec.ofNat 64 (i * 16)) 16 16)) structuredState zeroRows u ∧
      Gives (recordParts 0x1000 zeroRecord.bytes (List.range ((zeroRecord.bytes.length + 63) / 64))) u parts v ∧
      StoreRoom v { oneStore v 5 0 2 parts with pc := structuredState.regs.pc }) := by
  refine ⟨plain (by simp) rfl, g_is (by decide +kernel), g_is (by decide +kernel), g_is (by decide +kernel), by decide, by decide,
    by decide +kernel, by decide +kernel, by decide +kernel, by decide +kernel,
    ⟨_, [onePart 0 0x1000 (bvBytes (0x80000 : V512) 64)], _, gives_is zero_rows_read, gives_is zero_record_parts, ?_⟩⟩
  exact room_is (c := { chunkAt structuredState.regs with
    reads := [0x4C0, 0x480, 0x440, 0x400].map (fun a => lineOf (tcmKey 0 a)) }) (by decide +kernel) (by decide +kernel) (by decide +kernel)

/-- `demo` at the end of a chunk with one checked store of eight bytes at 0x40, then nothing more. -/
def committing (checked : Bool) : State :=
  demo.modMe (fun x => { x with
    phase := .commit .go
    chunk := some { chunkAt demoRegs with
      stores := [{ oneStore demo 0 3 0 [onePart 0 64 (natBytes 9 8)] with checked := checked }] } })

theorem witness_Commits :
    (let s := committing true
     Memory.wf s.mem = true ∧ s.me.ended = none ∧ s.me.phase = .commit .go ∧
     (s.me.chunk.map (fun c => c.ready && s.mayGrant s.cur.core s.cur.slot c && c.acts == [])) = some true ∧
     nextIs (exec .chunkCommit s) (fun t => Memory.read t.mem (tcmKey 0 64) == 9 && t.me.phase == .run && t.me.chunk.isNone) = true) ∧
    (let s := committing false
     (s.me.chunk.map (fun c => c.ready)) = some false ∧ nextIs (exec .chunkCommit s) (fun t => decide (t = s)) = true) ∧
    (let s := (committing true).modMe (fun x => { x with ended := x.chunk, chunk := none, phase := .run })
     s.me.ended.isSome = true ∧ nextIs (exec .chunkCommit s) (fun t => Memory.read t.mem (tcmKey 0 64) == 9 && t.me.ended.isNone) = true) ∧
    Free (committing true) ∧
    (∀ s ∈ [committing true], s.cores.map (·.1) = [0] ∧ (s.core 0).slots.map (·.1) = [0]) := by
  refine ⟨by decide +kernel, by decide +kernel, by decide +kernel, free_is (by decide +kernel), by decide +kernel⟩

/-- A task at the head of its address space that has ended. -/
def finishing : State :=
  let k : TaskKey := { ts := 7, spawner := 0, seq := 0 }
  let s := (committing true).modMe (fun x => { x with
    phase := .commit (.enda false)
    act := some { placedAct with task := some { key := k, typ := 0, arg := 0, state := .firm } } })
  { s with
    reports := [(0, [(0, k)])]
    tasks := [{ cluster := 0, spilled := false, key := k, typ := 0, arg := 0, stamp := Stamp.none 0 0, parent := none,
                running := some (0, 0), contained := 0 }] }

theorem witness_Commits_task :
    finishing.headSlot finishing.cur.core finishing.cur.slot = true ∧ finishing.me.ended = none ∧ finishing.me.phase = .commit (.enda false) ∧
    (finishing.me.chunk.map (fun c => c.ready && finishing.mayGrant finishing.cur.core finishing.cur.slot c)) = some true ∧
    nextIs (exec .taskCommit finishing) (fun t => t.me.act.isNone && t.tasks == []) = true := by decide +kernel

/-- A store of two lanes whose second fails permission. -/
def failingStore : Store :=
  { oneStore demo 2 2 0 [onePart 0 64 (natBytes 9 4), { onePart 2 0x10000 (natBytes 5 4) with key := none, fail := 3 }] with src := 2 }

theorem witness_Checks :
    (let s := demo.modMe (fun x => { x with chunk := some { chunkAt demoRegs with stores := [failingStore] } })
     s.me.ended = none ∧ s.me.chunk = some { chunkAt demoRegs with stores := [failingStore] } ∧
     FirstUnchecked [failingStore] [] failingStore [] ∧
     nextIs (exec .storeCheck s) (fun t => t.regs.sfq.length == 1 && (t.regs.sfq.map (fun r => lane 64 r 0)) == [0x10000] &&
       (t.regs.sfq.map (fun r => lane 64 r 3 / 2 ^ 16 % 16)) == [3]) = true) ∧
    (let s := demo.modSlot 0 0 (fun x => { x with ext := [{ stream := false, key := hostKey 8, bytes := [7] }, { stream := true, key := hostKey 64, bytes := [1] }] })
     (s.slot 0 0).ext[1]? = some { stream := true, key := hostKey 64, bytes := [1] } ∧
     (∀ v ∈ (s.slot 0 0).ext.take 1, v.key / 64 ≠ hostKey 64 / 64) ∧ s.hubCut 0 = false ∧
     nextIs (exec (.hostPeerAck 0 0 1) s) (fun t => Memory.read t.mem (hostKey 64) == 1 && (t.slot 0 0).ext.length == 1) = true) := by
  unfold FirstUnchecked; decide +kernel

theorem witness_Boundaries :
    (let s := demo.modMe (fun x => { x with chunk := some { chunkAt demoRegs with count := 512 } })
     s.me.phase = .run ∧ nextIs (exec .chunkInstructionLimit s) (fun t => t.me.phase == .commit .go) = true) ∧
    (let s := demo.modMe (fun x => { x with act := some { placedAct with cls := 1, executed := 2048 } })
     s.me.phase = .run ∧ nextIs (exec .serviceOverrun s) (fun t => t.me.act.isNone && t.kills.length == 1) = true) ∧
    (let s := demo.modRegs (fun r => { r with sfq := [5] })
     s.me.impreciseDue = true ∧ s.regs.tvec ≠ 0 ∧
     nextIs (exec .trapEntry s) (fun t => t.regs.tval == 5 && t.regs.tcause == 0x10020) = true) ∧
    (let s := demo.modMe (fun x => { x with matrix := [{ order := 0, tval := 1, k0 := 2, k1 := 3 }], regs := { x.regs with mfrx := 0x8000000000000002 } })
     s.me.impreciseDue = true ∧ s.regs.sfq = [] ∧ s.me.matrixPending = [{ order := 0, tval := 1, k0 := 2, k1 := 0x8000000000000002 }] ∧
     nextIs (exec .trapEntry s) (fun t => t.regs.tval == 1 && t.regs.k[1] == 0x8000000000000002) = true) ∧
    (let s := demo.modMe (fun x => { x with engine := [{ order := 0, tval := 1, k0 := 2, k1 := 3 }] })
     s.me.impreciseDue = true ∧ s.me.matrix = []) ∧
    (let s := (demo.modRegs (fun r => { r with tvec := 0 })).modMe (fun x => { x with engine := [{ order := 0, tval := 1, k0 := 2, k1 := 3 }] })
     s.me.act.isSome = true ∧ s.regs.tvec = 0 ∧ s.me.impreciseDue = true ∧ nextIs (exec .trapEntry s) (fun t => t.me.act.isNone) = true) := by
  decide +kernel

def waiting (w : Wait) : State := demo.modMe (fun x => { x with phase := .wait w })

theorem witness_WaitEnds :
    (waiting .waiti).me.phase = .wait .waiti ∧ (waiting .mwait).me.phase = .wait .mwait ∧
    ((waiting .gather).me.phase = .wait .gather ∧ ∀ w ∈ (waiting .gather).myCore.walks, w.slot = (waiting .gather).cur.slot → w.result ≠ .pending) ∧
    (let s := { waiting .reply with replies := [{ core := 0, slot := 0, act := 0, old := some [1, 0, 0, 0], flags := 1, pc := 2 }] }
     (s.slot 0 0).act = some placedAct ∧ (s.slot 0 0).phase = .wait .reply ∧
     nextIs (exec (.amoReply 0) s) (fun t => t.regs.result == some (2, some 1) && t.regs.fpst == 1 && t.replies == []) = true) ∧
    (let s := { (waiting (.gbar 9)).modMe (fun x => { x with bars := [{ group := 9, gen := some 4, released := false }] }) with
       releases := [{ core := 0, asid := 0, group := 9, side := .none, gen := 4 }] }
     (s.slot 0 0).phase = .wait (.gbar 9) ∧ (s.slot 0 0).bars = [{ group := 9, gen := some 4, released := false }] ∧
     nextIs (exec (.gbarRelease 0) s) (fun t => t.me.phase == .run && t.me.bars == []) = true) ∧
    (let s := demo.modCore 0 (fun k => { k with walks := [{ slot := 0, asid := 0, va := 0x10000, result := .pending, removed := [] }] })
     ((s.core 0).walks[0]?).map (·.result) = some .pending ∧
     nextIs (exec (.walkComplete 0 0) s) (fun t => (t.core 0).walks.map (·.result) == [.fail 2]) = true) ∧
    (let r : Removal := { heddle := false, asid := 0, lo := 0, hi := 0x10000 }
     let s := { paged 0x20000F with broadcasts := [{ removal := r, core := 0, slot := 0, act := 0, reached := [] }] }
     0 ∈ s.removalPlaces r ∧ nextIs (exec (.invalidationComplete 0 (some 0)) s) (fun t => (t.core 0).tlb == []) = true) := by
  decide +kernel

theorem witness_InvalidationComplete_done :
    let b : Broadcast := { removal := { heddle := true, asid := 0, lo := 0, hi := 1 }, core := 0, slot := 0, act := 0,
                           reached := demo.removalPlaces { heddle := true, asid := 0, lo := 0, hi := 1 } }
    let s := { demo with broadcasts := [b] }
    s.broadcasts[0]? = some b ∧ ∀ p ∈ s.removalPlaces b.removal, p ∈ b.reached := ⟨rfl, fun _ h => h⟩

/-- A page table from ROOT 0 that maps virtual 0x10000, and a walk for it that began before removals. -/
def walking (removed : List (W64 × W64)) : State :=
  let s := demo.modCore 0 (fun k => { k with walks := [{ slot := 0, asid := 0, va := 0x10000, result := .pending, removed := removed }] })
  let entries : List (Nat × W64) := [(0, 0x1001), (0x1000, 0x2001), (0x2000, 0x3001), (0x3000, 0x4001), (0x4080, 0x20000F)]
  { s with mem := entries.foldl (fun m e => Memory.writeAll m e.1 (bvBytes e.2 8)) [] }

/-- A page the walk finds fills, but not one a removal named since the walk began. -/
theorem witness_WalkFills :
    let e : TlbEntry := { corrupt := false, asid := 0, page := 0x10000, log2 := 12, leaf := 0x20000F }
    (walking []).walk 0 0x10000 = .page e ∧ e.hits 0 0x10FFF 0x20000 = true ∧ e.hits 0 0x11000 0x20000 = false ∧
    nextIs (exec (.walkComplete 0 0) (walking [(0x11000, 0x20000)])) (fun t => (t.core 0).tlb == [e]) = true ∧
    nextIs (exec (.walkComplete 0 0) (walking [(0x10FFF, 0x20000)])) (fun t => (t.core 0).tlb == [] && t.l2 == []) = true := by
  decide +kernel

/-- The priority of a chunk squashed four times withholds a younger chunk that writes what it read, and no other. -/
theorem witness_Commits_priority :
    let rival (order line : Nat) : State := (committing true).setSlot 0 1 { Slot.free with
      act := some { placedAct with id := 2 }
      chunk := some { chunkAt demoRegs with squashes := 4, order := order, last := [line] } }
    let ch : Chunk := { chunkAt demoRegs with order := 3, stores := [{ oneStore demo 0 3 0 [onePart 0 64 (natBytes 9 8)] with checked := true }] }
    ((rival 2 (tcmKey 0 64 / 64)).slot 0 1).priority = some (2, [tcmKey 0 64 / 64]) ∧ ((rival 2 (tcmKey 0 64 / 64)).slot 0 1).mustWait (rival 2 (tcmKey 0 64 / 64)) = false ∧
    ch.squashes < 4 ∧ tcmKey 0 64 / 64 ∈ ch.written ∧ readsHit [tcmKey 0 64 / 64] (tcmKey 0 64 / 64) = true ∧
    (rival 2 (tcmKey 0 64 / 64)).mayGrant 0 0 ch = false ∧
    ((committing true).slot 0 1).priority = none ∧ ((committing true).slot 0 1).hitBy ch.written = (false, false) ∧
    (committing true).mayGrant 0 0 ch = true := by decide +kernel

/-- An ordinary ENDA at its commit: the held message leaves and the tile is reported. -/
theorem witness_Commits_ends :
    let st : Stamp := { Stamp.none 0 5 with lseq := 7, tx := 2 }
    let m : Message := Message.plain 3 0x21 st [1]
    let s : State := { ((committing true).modMe (fun x => { x with
        phase := .commit (.enda true)
        act := some { placedAct with stamp := st }
        regs := { x.regs with held := [{ msg := m, group := none }] } })) with
      graphs := [(4, { Graph.absent with resident := true, asid := 5 })] }
    s.me.ended = none ∧ s.me.phase = .commit (.enda true) ∧ s.me.mustWait s = false ∧ s.graphOfStamp st = some 4 ∧
    s.me.chunk.map (fun c => c.ready && s.mayGrant 0 0 c && c.acts == []) = some true ∧
    nextIs (exec .chunkCommit s) (fun t => t.me.act.isNone && t.net == [m] && t.tileDone.map (·.x) == [2]) = true := by decide +kernel

/-- A service activation's 2,049th instruction: its copy request is dropped with it. -/
theorem witness_Boundaries_overrun :
    let s := { demo.modMe (fun x => { x with act := some { placedAct with cls := 1, executed := 2048 } }) with
      requests := [{ tag := 9, work := .deal 0 0 0, core := 0, slot := 0, act := placedAct.id, stamp := Stamp.none 4 0, pc := 2, batch := 4,
                     progress := 0, ahead := [], flight := [], stopped := false }] }
    s.me.act = some { placedAct with cls := 1, executed := 2048 } ∧ s.me.phase = .run ∧
    nextIs (exec .serviceOverrun s) (fun t => t.me.act.isNone && t.kills.length == 1 && t.requests == []) = true := by decide +kernel

/-! Messages and launches. -/

/-- A message of type 0x21 with three payload registers for core 0.0.0. -/
def mail : Message := Message.plain 0 0x21 (Stamp.none 4 0) [5, 6, 7]

def mailed : State := { State.reset with net := [mail] }

theorem witness_Arrivals :
    (mailed.net[0]? = some mail ∧ mailed.net.take 0 = [] ∧ mailed.kills = [] ∧ ¬(mail.stamp.asid ≠ 0 ∧ mailed.graphsOf mail.stamp.asid = []) ∧
     mailed.preemptedAt mail.stamp.asid 0 = false ∧ mailed.parked.get 0 [] = [] ∧ (mailed.core 0).inbox.length < 64 ∧
     (mailed.masked 0 mail = false ∨ mailed.maskedHeld 0 < 48) ∧
     nextIs (exec (.messageArrival 0) mailed) (fun t => (t.core 0).inbox.map (·.msg) == [mail] && t.net == []) = true) ∧
    (let s := mailed.modCore 0 (fun k => { k with inbox := List.replicate 64 { msg := mail, arrival := 0, contained := 0, undeliv := false, byMask := false } })
     64 ≤ (s.core 0).inbox.length ∧ (s.masked 0 mail = false ∨ s.maskedHeld 0 < 48)) ∧
    (let m : Message := { mail with stamp := Stamp.none 4 5 }
     let s := { mailed with
       net := [m]
       graphs := [(3, { Graph.absent with resident := true, asid := 5, pre := .stopped })]
       parkPlaces := [(0, 1)] }
     ¬(m.stamp.asid ≠ 0 ∧ s.graphsOf m.stamp.asid = []) ∧ s.preemptedAt m.stamp.asid 0 = true ∧
     (s.parked.get 0 []).length < s.parkPlaces.get 0 0 ∧
     nextIs (exec (.messageArrival 0) s) (fun t => (t.parked.get 0 []).map (·.msg) == [m] && (t.core 0).inbox == []) = true) ∧
    (let m : Message := { mail with stamp := Stamp.none 4 5, nackReq := true }
     let s := { mailed with net := [m] }
     (m.stamp.asid ≠ 0 ∧ s.graphsOf m.stamp.asid = []) ∧ s.lastExited m.stamp.asid = none ∧
     nextIs (exec (.messageArrival 0) s) (fun t => t.hub.xdrop == 1 && t.net == [nackOf m 2]) = true) ∧
    (let m : Message := { mail with stamp := Stamp.none 4 5 }
     let s := { mailed with net := [m], graphs := [(3, { Graph.absent with exited := true, asid := 5 })], lastExit := [(5, 3)] }
     s.lastExited m.stamp.asid = some 3 ∧ nextIs (exec (.messageArrival 0) s) (fun t => (t.graph 3).exitDrop == 1) = true) := by decide +kernel

/-- A request to its owner; a message that waits behind one of its type whose data stand; a full parking area. -/
theorem witness_Arrivals_places :
    (let r : OwnerReq := { tag := 0, owner := 0, key := 0, live := 0, op := .amo .add false 4 1 0, core := 4, slot := 0, act := 3,
                           stamp := Stamp.none 4 0, pc := 2 }
     let m : Message := { mail with typ := 0xFD, owner := some r }
     let s := { mailed with net := [m] }
     m.owner.isSome = true ∧ m.dst ≠ 0xFFFF ∧ (s.core 0).inbox.length < 64 ∧
     nextIs (exec (.messageArrival 0) s) (fun t => (t.core 0).inbox.map (·.msg) == [m]) = true ∧
     64 ≤ ((s.modCore 0 (fun k => { k with inbox := List.replicate 64 { msg := mail, arrival := 0, contained := 0, undeliv := false, byMask := false } })).core 0).inbox.length) ∧
    (let s := { mailed with net := [{ mail with fromSlot := writtenMark, stamp := Stamp.none 9 0 }, mail] }
     s.net[1]? = some mail ∧ ((s.net.take 1).all (fun x => !(x.fromSlot == writtenMark && x.typ == mail.typ))) = false ∧
     nextIs (exec (.messageArrival 1) s) (fun t => decide (t = s)) = true) ∧
    (let m : Message := { mail with stamp := Stamp.none 4 5, nackReq := true }
     let s := { mailed with
       net := [m]
       graphs := [(3, { Graph.absent with resident := true, asid := 5, pre := .stopped })] }
     s.preemptedAt m.stamp.asid 0 = true ∧ s.parkPlaces.get 0 0 ≤ (s.parked.get 0 []).length ∧ s.lowGraph m.stamp.asid = some 3 ∧
     nextIs (exec (.messageArrival 0) s) (fun t => (t.graph 3).parkDrop == 1 && t.net == [nackOf m 3]) = true) := by decide +kernel

/-- A core whose runtime table's entry for type 0xE0 is a worker's at line 1, with a message of that type pending. -/
def called : State :=
  let m : Message := { mail with typ := 0xE0 }
  let s := State.reset.modCore 0 (fun k => { k with inbox := [{ msg := m, arrival := 0, contained := 0, undeliv := false, byMask := false }], rvtbase := 0x800 })
  { s with mem := Memory.writeAll [] (tcmKey 0 (2048 + 8 * 0xE0)) (bvBytes (0x0000000800000042 : W64) 8) }

theorem witness_Starts :
    (let u := settled called 0
     (u.core 0).failing = false ∧ (u.winner 0).map (·.msg.typ) = some 0xE0 ∧
     (u.winner 0).map (fun p => (u.classOf 0 p.msg).1) = some 0 ∧ u.freeSlots 0 0 = [0, 1, 2, 3, 4] ∧
     (u.winner 0).map (fun p => p.msg.portable.isNone && p.msg.task.isNone) = some true) ∧
    nextIs (exec (.selection 0) called) (fun t => (t.slot 0 0).act.map (·.typ) == some 0xE0 && (t.slot 0 0).regs.readG 3 == 7 &&
      (t.slot 0 0).regs.readG 8 == 0xE00004 && (t.core 0).inbox == []) = true ∧
    (settled State.reset 0).candidates 0 = [] := by decide +kernel

/-- A record of one worker tile on core 0.0.0 with entry type 0x21. -/
def node0 : NodeDecl := { words := [0x210000, 0x0001000100010001 &&& 0xFFFFFFFFFFFF, 0x0001000100010001, 0, 0x77], cores := [0] }

def graphed (y : Graph) : State := { State.reset with graphs := [(3, y)] }

def resident3 : Graph := { Graph.absent with resident := true, asid := 5, nodes := [node0] }

theorem witness_Triggers :
    64 ≤ fld (64 : W64) 0 16 ∧ fld (3 : W64) 0 16 < 64 ∧ (graphed Graph.absent).graph 3 = Graph.absent ∧
    behind { resident3 with queued := [0, 0, 0, 0, 0] } = 4 ∧ behind { resident3 with queued := [0, 0, 0, 0] } = 3 ∧
    ((graphed resident3).graph 3).resident = true ∧
    nextIs (exec (.trigger 3) (graphed { resident3 with queued := [0, 0, 0, 0] })) (fun t => (t.graph 3).queued.length == 5) = true ∧
    nextIs (exec (.trigger 3) (graphed { resident3 with queued := [0, 0, 0, 0, 0] })) (fun t => (t.graph 3).err == 2) = true := by decide +kernel

theorem witness_LaunchesStart :
    (let s := graphed { resident3 with queued := [0] }
     (s.graph 3).queued = 0 :: [] ∧ (s.graph 3).resident = true ∧ (s.graph 3).running = none ∧ (s.graph 3).pre = .none ∧ s.hub.busy = none ∧
     s.launchError (s.graph 3) (launchNodes (s.graph 3) []) = 0 ∧ (launchNodes (s.graph 3) []).length = 1 ∧
     nextIs (exec (.launchStart 3) s) (fun t => (t.graph 3).running.map (fun l => (l.seq, l.nodes.length)) == some (1, 1) &&
       (t.graph 3).next == 2) = true) ∧
    (let s := graphed { resident3 with queued := [0], nodes := [] }
     launchNodes (s.graph 3) [] = [] ∧ nextIs (exec (.launchStart 3) s) (fun t => (t.graph 3).done == 1) = true) ∧
    (let s := graphed { resident3 with queued := [0], nodes := [{ node0 with words := [] }] }
     s.launchError (s.graph 3) (launchNodes (s.graph 3) []) ≠ 0 ∧ recordBad { node0 with words := [] } = true) ∧
    (let y := { resident3 with marked := true }
     (∀ n ∈ y.nodes, recordBad n = false ∧ regionBad n = false) ∧ (graphed y).launchError y y.nodes = 7) ∧
    (let s := graphed { resident3 with queued := [8] }
     (8 : W64) ≠ 0 ∧ (match s.patchList 5 8 with | .error c => c | .ok _ => 0) = 3 ∧
     nextIs (exec (.launchStart 3) s) (fun t => (t.graph 3).err == 3) = true) ∧
    (patchOk resident3.nodes (0x10000, 1) = true ∧ patchOk resident3.nodes (0x10001, 1) = false ∧ patchOk resident3.nodes (0x200000, 1) = false) ∧
    (let s := { graphed { resident3 with queued := [0x10000] } with
       mem := Memory.writeAll (walking []).mem 0x200000 [1, 0, 0, 0, 0, 0, 0, 0, 0, 0, 0, 0, 0, 0, 0, 0, 1, 0, 1, 0, 0, 0, 0, 0, 7] }
     (match s.patchList 5 0x10000 with
       | .ok ps => ps == [(0x10001, 7)]
       | .error _ => false) = true ∧
     nextIs (exec (.launchStart 3) s) (fun t => (t.graph 3).err == 4 && (t.graph 3).queued == []) = true) := by decide +kernel

/-- The launch of `node0` with its tile entered or not. -/
def launched (tiles : List Tile) (entered : Bool) (duals : List DualRun) (n : NodeDecl) : State :=
  graphed { resident3 with
    next := 2
    running := some { seq := 1, nodes := [n], tiles := tiles, duals := duals
                      cursors := if entered then [(0, ⟨1, 0⟩), (1, ⟨1, 0⟩), (2, ⟨1, 0⟩), (3, ⟨1, 0⟩)] else [] } }

def tile0 (sent : Bool) : Tile := { order := 1, node := 0, x := 0, y := 0, z := 0, sent := sent, mirrorDone := false, primaryDone := false }

theorem witness_TilesSent :
    (let s := launched [] false [] node0
     s.hubCut (Id.compute 0 0 0) = false ∧
     ((s.graphs.filter (fun p => p.2.running.isSome)).map (·.1)).findSome? (fun g => ((entered s).nextTile 0 g).map (fun x => (g, x.2.2))) =
       some (3, tile0 false) ∧
     nextIs (exec (.tileSend 0) s) (fun t => t.net.map (fun m => (m.dst, m.typ, m.payload)) ==
       [((0 : CoreId), (0x21 : BitVec 8), [(0 : W64), 0, 0, 0x77, 1, 0, 0])]) = true) ∧
    (State.reset.hubCut (Id.compute 3 0 0) = false ∧ (entered State.reset).nextTile 3 0 = none) ∧
    (let l : Launch := { seq := 1, nodes := [node0], tiles := [tile0 true], duals := [], cursors := [] }
     l.node 0 = some node0) := by decide +kernel

theorem witness_TilesReported :
    (let d : TileDone := { graph := 3, seq := 1, node := 0, x := 0, y := 0, z := 0, side := .none }
     (let s := { launched [tile0 true] true [] node0 with tileDone := [d] }
      s.tileDone[0]? = some d ∧ (s.graph 3).resident = true ∧ (tile0 true).is d = true ∧
      nextIs (exec (.tileReport 0) s) (fun t => (t.graph 3).running.isNone && (t.graph 3).done == 1) = true) ∧
     (let s := { graphed resident3 with tileDone := [d] }
      (s.graph 3).running = none ∧ nextIs (exec (.tileReport 0) s) (fun t => (t.graph 3).lateEnd == 1) = true)) ∧
    (let d : TileDone := { graph := 3, seq := 1, node := 0, x := 0, y := 0, z := 0, side := .primary }
     let s := { launched [tile0 true] true [{ node := 0, again := false, mismatch := false, primary := [], mirror := [] }] node0 with tileDone := [d] }
     [tile0 true].find? (fun t => t.is d) = some (tile0 true) ∧ (tile0 true).doneOn .primary = false ∧
     nextIs (exec (.tileReport 0) s) (fun t => (t.graph 3).running.map (·.tiles) == some [(tile0 true).finish .primary]) = true) := by
  decide +kernel

/-- `node0` redundant, its tile done on both sides. -/
def dualState (again : Bool) (primary : List (Nat × Nat)) : State :=
  let n : NodeDecl := { node0 with words := node0.words.set 0 0x800210000 }
  launched [{ tile0 true with primaryDone := true, mirrorDone := true }] true
    [{ node := 0, again := again, mismatch := false, primary := primary, mirror := [] }] n

/-- The accumulator after these bytes, each step's number worked out before the next. -/
def crcRun : Nat → List Byte → Nat
  | a, [] => a
  | 0, x :: l => crcRun (crc64Byte 0 x).toNat l
  | n + 1, x :: l => crcRun (crc64Byte (BitVec.ofNat 64 (n + 1)) x).toNat l

theorem crcRun_eq (l : List Byte) : ∀ a : W64, l.foldl crc64Byte a = BitVec.ofNat 64 (crcRun a.toNat l) := by
  induction l with
  | nil => intro a; simp [crcRun]
  | cons x l ih =>
    intro a
    rw [List.foldl_cons, ih]
    cases h : a.toNat with
    | zero => rw [crcRun, show a = 0 from BitVec.eq_of_toNat_eq h]
    | succ n => rw [crcRun, ← h, BitVec.ofNat_toNat, BitVec.setWidth_eq]

/-- The hash of R347 of nine bytes after no address: the published check value of this polynomial with this start and end. -/
theorem test_crc64 :
    ~~~ (([0x31, 0x32, 0x33, 0x34, 0x35, 0x36, 0x37, 0x38, 0x39] : List Byte).foldl crc64Byte (BitVec.allOnes 64)) =
      0x62EC59E3F1A4F00A := by
  rw [crcRun_eq]; decide +kernel

theorem witness_DualsCompared :
    (((dualState false []).graph 3).running.map (fun l => l.duals.length)) = some 1 ∧
    (((dualState false []).graph 3).running.map (fun l => l.nodes.map (fun n => (l.node 0 == some n) && l.dualDone n))) = some [true] ∧
    fld ((dualState false []).graph 3).dstat 0 2 = 0 ∧
    nextIs (exec (.dualCompare 3) (dualState false [])) (fun t => fld (t.graph 3).dstat 0 2 == 2) = true := by decide +kernel

theorem witness_DualsCompared_differing (again : Bool) :
    ((dualState again [(1, 1)]).dualSig [(1, 1)]).1 ≠ (((dualState again [(1, 1)]).dualSig [(1, 1)]).2.dualSig []).1 := by
  have h : ((dualState again [(1, 1)]).dualSig [(1, 1)]).1 = 0 ^^^ dualHash 64 ((dualState again [(1, 1)]).hostBytes (1 * 64) 64).1 := rfl
  have b : ((dualState again [(1, 1)]).hostBytes (1 * 64) 64).1 = Memory.readN [] 64 64 := by cases again <;> decide +kernel
  have k : (((dualState again [(1, 1)]).dualSig [(1, 1)]).2.dualSig []).1 = 0 := rfl
  rw [h, b, k, dualHash, crcRun_eq]
  decide +kernel

/-- Sets of one line each that lie apart; equal signatures copy what the primary wrote, as a run of the step shows of the second
disagreement's hypotheses. -/
theorem witness_DualsCompared_apart :
    Apart { node := 0, again := false, mismatch := false, primary := [(1, 65)], mirror := [(2, 130)] } ∧
    (let s := dualState false [(1, 65)]
     (s.dualSig [(1, 65)]).1 = ((s.dualSig [(1, 65)]).2.dualSig [(1, 129)]).1) ∧
    trio 1 (1, 65) = [1, 65, 129] ∧ trio 2 (2, 130) = [2, 66, 130] ∧
    (∀ d ∈ [({ node := 0, again := true, mismatch := true, primary := [], mirror := [] } : DualRun)], d.mismatch = true) := by
  let s := dualState false [(1, 65)]
  have h : (s.dualSig [(1, 65)]).1 = 0 ^^^ dualHash 64 (s.hostBytes (65 * 64) 64).1 := rfl
  have k : ((s.dualSig [(1, 65)]).2.dualSig [(1, 129)]).1 =
      0 ^^^ dualHash 64 ((s.dualSig [(1, 65)]).2.hostBytes (129 * 64) 64).1 := rfl
  have b : (s.hostBytes (65 * 64) 64).1 = ((s.dualSig [(1, 65)]).2.hostBytes (129 * 64) 64).1 := by decide +kernel
  refine ⟨by unfold Apart; decide, ?_, rfl, rfl, by decide⟩
  exact h.trans ((congrArg (fun l => 0 ^^^ dualHash 64 l) b).trans k.symm)

/-- Of two graphs with a ready tile the one that entered its tile first sends it. -/
theorem witness_TilesSent_order :
    let tiles (n : Nat) : State := launched [{ tile0 false with order := n }] true [] node0
    let y2 := ((tiles 9).graph 3)
    let s : State := { tiles 4 with graphs := [(2, { y2 with asid := 6 }), (3, (tiles 4).graph 3)] }
    (match (entered s).nextTile 0 3, (entered s).nextTile 0 2 with
      | some x, some y => decide (x.2.2.order < y.2.2.order)
      | _, _ => false) = true ∧
    nextIs (exec (.tileSend 0) s) (fun t => t.net.map (·.stamp.asid) == [5]) = true := by decide +kernel

/-! The host link, graphs and boot. -/

theorem witness_ClearingReads :
    (3 < 64) ∧
    nextIs (exec (.gstatRead 3) (graphed { resident3 with err := 2, queued := [0], done := 5 }))
      (fun t => t.hostRead == bvBytes (0x50021 : W64) 8 && (t.graph 3).err == 0) = true ∧
    nextIs (exec (.gstatRead 3) (graphed { resident3 with queued := [0, 0, 0] })) (fun t => t.hostRead == bvBytes (0x2001 : W64) 8) = true ∧
    nextIs (exec .herrRead { State.reset with hub := { State.reset.hub with herr := 7 } })
      (fun t => t.hostRead == bvBytes (7 : W64) 8 && t.hub.herr == 0) = true := by decide +kernel

theorem witness_HubWrites :
    isHubReg 0x10 = false ∧ bit (5 : W64) 8 = false ∧ bit (5 : W64) 9 = false ∧
    nextIs (exec (.registerWrite (0x10000 + 64 * 3) 5) (graphed resident3)) (fun t => (t.graph 3).prio == 5) = true := by decide +kernel

theorem witness_HostWindows :
    (let w : W64 := 0x1033
     12 ≤ fld w 2 6 ∧ fld w 2 6 ≤ 40 ∧ fld w 12 36 * 4096 % 2 ^ fld w 2 6 = 0 ∧ fld w 12 36 * 4096 < 2 ^ 39) ∧
    (let w : W64 := 0x1037
     ¬ fld w 12 36 * 4096 % 2 ^ fld w 2 6 = 0) ∧
    (let w : W64 := 0x2F
     ¬ 12 ≤ fld w 2 6) := by decide +kernel

/-- Window 2 opened on the HBM page at 0x1000, for writes too or not. -/
def opened (wr : Bool) : State :=
  { State.reset with hub := { State.reset.hub with hwin := State.reset.hub.hwin.set 2 (if wr then 0x1033 else 0x1031) } }

theorem witness_HostAccesses :
    (let s := opened true
     let w := s.hub.hwin[2]
     bit w 0 = true ∧ 0x40 + 4 ≤ 2 ^ fld w 2 6 ∧ (∀ i, i < 4 → s.populated (fld w 12 36 * 4096 + 0x40 + i) = true) ∧ bit w 1 = true ∧
     s.bad = [] ∧ s.soft = [] ∧ Memory.wf s.mem = true ∧ ¬(4094 + 4 ≤ 2 ^ fld w 2 6) ∧
     nextIs (exec (.hostWrite (.link (2 * 2 ^ 40 + 0x40)) [1, 2, 3, 4]) s)
       (fun t => Memory.read t.mem 0x1042 == 3 && t.hub.herr == 0) = true ∧
     nextIs (exec (.hostRead (.link (2 * 2 ^ 40 + 0xFFE)) 4) s) (fun t => t.hostRead == [255, 255, 255, 255] && t.hub.herr == 1) = true) ∧
    (bit (opened false).hub.hwin[2] 1 = false ∧
     nextIs (exec (.hostWrite (.link (2 * 2 ^ 40 + 0x40)) [1]) (opened false)) (fun t => t.mem == [] && t.hub.herr == 1) = true) ∧
    (0x100 + 2 ≤ 2 ^ 47 ∧
     nextIs (exec (.hostWrite (.own 0x100) [8, 9]) State.reset) (fun t => Memory.read t.mem (2 ^ 47 + 0x101) == 9) = true) := by
  decide +kernel

/-- Ready for graphs. -/
def readied : State := { State.reset with hub := { State.reset.hub with bootState := 5 } }

theorem witness_GraphCommands :
    (let w : W64 := 0x10000001
     fld w 0 4 = 1 ∧ gcmdBad w = false ∧ readied.hub.busy = none ∧ readied.hub.bootState = 5 ∧ State.reset.hub.bootState ≠ 5 ∧
     nextIs (exec (.graphUpload w) readied) (fun t => t.hub.busy == some w) = true ∧
     nextIs (exec (.graphUpload w) State.reset) (fun t => t.hub.result == 5) = true ∧
     gcmdBad (0x10001 : W64) = true ∧ fld (0x10001 : W64) 0 4 = 1) ∧
    (let w : W64 := 0x30002
     let s := { readied with graphs := [(3, resident3)] }
     fld w 0 4 = 2 ∧ gcmdBad w = false ∧ fld w 16 48 = 3 ∧ (s.graph 3).resident = true ∧ (readied.graph 3).resident = false ∧
     nextIs (exec (.graphExit w) readied) (fun t => t.hub.result == 6) = true) := by decide +kernel

/-- An image named 3 of `node0`, with a group of the cores 0.0.0 and 0.0.1. -/
def image3 : GraphImage :=
  { readable := true, name := 3, prio := 2, asid := none, root := 0x100000, vtbase := none, codebase := 0, sktab := 0, vtypes := []
    groups := [{ id := 1, members := [1, 0], home := none }], nodes := [node0], redwins := [], skeins := [], placements := []
    tcm := [1, 2], tcmCores := [0], maps := [], parkPlaces := 0 }

theorem witness_Residence :
    (let s := { readied with hub := { readied.hub with busy := some 0x10000001 } }
     s.hub.busy = some 0x10000001 ∧ s.uploadRefusals image3 = [] ∧ s.freeId image3 = some 3 ∧ s.freeAsid image3 = 1 ∧
     s.graphsOf (s.freeAsid image3) = [] ∧ s.uploadRefusals { image3 with readable := false } = [2] ∧
     s.uploadRefusals { image3 with groups := [] , tcmCores := [0x3FFF] } ≠ []) ∧
    (let s := { readied with hub := { readied.hub with busy := some 0x30002 }, graphs := [(3, resident3)] }
     s.hub.busy = some 0x30002 ∧ fld (0x30002 : W64) 0 4 = 2 ∧ fld (0x30002 : W64) 16 48 = 3 ∧
     (∀ h ∈ s.graphsOf (s.graph 3).asid, h = 3) ∧
     nextIs (exec .exitDone s) (fun t => (t.graph 3).exited && !(t.graph 3).resident && t.hub.busy.isNone) = true) := by decide +kernel

/-- An activation of address space 5. -/
def act5 : Act := { placedAct with stamp := Stamp.none 4 5 }

/-- Graph 3 with a save area, slot 2 of core 0.0.0 halted by a pre-emption of it. -/
def halted3 : State :=
  { (graphed { resident3 with pre := .stopping, gsave := 1 }) with
    cores := [(0, { Core.init with slots := [(2, { Slot.free with act := some act5, phase := .halted none })] })] }

/-- What that context becomes. -/
def saved3 : Saved :=
  { core := 0, slot := 2, regs := { Regs.start with pc := 6 }, act := act5, wait := none, bars := [], engine := [], matrix := []
    attempt := Slot.free.attempt, under := [], seen := [], acq := 0, acqEng := false, acqOld := [], cmds := [], watches := [] }

theorem witness_Preemptions :
    (let s := graphed resident3
     (s.graph 3).resident = true ∧ (s.graph 3).pre = .none ∧ bit (s.graph 3).gsave 0 = false ∧
     nextIs (exec (.preempt 3) s) (fun t => (t.graph 3).err == 8) = true) ∧
    (let s := graphed { resident3 with gsave := 1 }
     bit (s.graph 3).gsave 0 = true ∧ 3 ∈ s.graphsOf (s.graph 3).asid ∧
     nextIs (exec (.preempt 3) s) (fun t => (t.graph 3).pre == .stopping) = true) ∧
    ((halted3.graph 3).resident = true ∧ (halted3.graph 3).pre = .stopping ∧ bit (halted3.graph 3).gsave 0 = true ∧
     halted3.allHalted 5 = true ∧ 3 ∈ halted3.graphsOf 5 ∧ halted3.workersOf 5 = [(0, 2)] ∧ (halted3.slot 0 2).act = some act5 ∧
     (halted3.slot 0 2).phase = .halted none) ∧
    (let s := graphed { resident3 with pre := .stopped, saved := [saved3] }
     (s.graph 3).state = 3 ∧ 3 ∈ s.graphsOf (s.graph 3).asid ∧
     nextIs (exec (.resume 3) s) (fun t => (t.graph 3).pre == .resuming) = true) ∧
    ((graphed resident3).graph 3).state ≠ 3 ∧
    (let t := graphed { resident3 with pre := .resuming, saved := [saved3] }
     let s := { t with cur := { t.cur with core := 0, slot := 2 } }
     s.me.act = none ∧ (s.core 0).failing = false ∧ s.provided 0 = true ∧ s.graphs = [(3, s.graph 3)] ∧
     (s.graph 3).pre = .resuming ∧ saved3 ∈ (s.graph 3).saved ∧ saved3.core = 0 ∧ saved3.slot = 2 ∧
     (∀ u ∈ (s.graph 3).saved, u.core = 0 → u.slot = 2 → u = saved3) ∧ saved3.wait = none ∧
     nextIs (exec .contextRestore s) (fun t => t.regs.pc == 6 && (t.graph 3).pre == .none) = true) := by decide +kernel

/-- A self-test that finds nothing wrong. -/
def sound : SelfTest :=
  { pass := true, rows := [], cores := [], channels := [] }

theorem witness_BootStates :
    (State.reset.hub.bootState ∈ [0, 2, 3] ∧ readied.hub.bootState ∉ [0, 2, 3] ∧ State.reset.headerOk = false ∧
     nextIs (exec .bootDownload State.reset) (fun t => t.hub.bootState == 3) = true) ∧
    (let s := { State.reset with hub := { State.reset.hub with
       staging := Memory.writeAll [] 0 (bvBytes (0x53513934 : W64) 8 ++ bvBytes (0x100 : W64) 8) } }
     s.headerOk = true) ∧
    (let s := { State.reset with hub := { State.reset.hub with bootState := 4 } }
     s.hub.bootState = 4 ∧ sound.pass = true) ∧ readied.hub.bootState ≠ 4 := by decide +kernel

theorem witness_PowerAndReports :
    Memory.wf (opened true).mem = true ∧
    nextIs (exec .powerUp (opened true)) (fun t => t.hub.hwin[2] == 0x30) = true ∧
    { State.reset with hub := { State.reset.hub with attest := some 9 } }.hub.attest = some 9 ∧ State.reset.hub.attest = none ∧
    nextIs (exec .powerLimit State.reset) (fun t => t.clock == 1900) = true := by decide +kernel

/-- GCMD before the module is ready, malformed, and with an OP that is none; each is answered with a result that applies. -/
theorem witness_GraphCommands_refused :
    State.reset.hub.busy = none ∧ State.reset.hub.bootState ≠ 5 ∧ gcmdBad (0x10001 : W64) = true ∧ gcmdBad (0x10000001 : W64) = false ∧
    fld (9 : W64) 0 4 ≠ 1 ∧ fld (9 : W64) 0 4 ≠ 2 ∧
    nextIs (exec (.registerWrite 0x20 9) readied) (fun t => t.hub.result == 7 && t.hub.busy.isNone) = true ∧
    nextIs (exec (.registerWrite 0x20 0x10000001) State.reset) (fun t => t.hub.result == 5) = true ∧
    { readied with hub := { readied.hub with busy := some 2 } }.hub.busy.isSome = true := by decide +kernel

/-- Two graphs of one address space: a PREEMPT written for one stops both; an image that joins them with a node of theirs is refused. -/
theorem witness_Preemptions_space :
    (let s : State := { graphed resident3 with graphs := [(3, { resident3 with gsave := 1 }), (4, { resident3 with nodes := [] })] }
     (s.graph 3).resident = true ∧ bit (s.graph 3).gsave 0 = true ∧ s.graphsOf (s.graph 3).asid = [3, 4] ∧
     nextIs (exec (.preempt 3) s) (fun t => (t.graph 3).pre == .stopping && (t.graph 4).pre == .stopping) = true) ∧
    (let s : State := { readied with graphs := [(3, resident3)] }
     s.freeAsid { image3 with asid := some 5 } = 5 ∧ s.graphsOf 5 ≠ [] ∧ s.joins 5 { image3 with asid := some 5 } = false ∧
     4 ∈ s.uploadRefusals { image3 with asid := some 5 } ∧ 4 ∈ s.uploadRefusals { image3 with asid := some 0 }) := by decide +kernel

/-- A staged image with repair records and one without. -/
theorem witness_BootStates_records :
    State.reset.stagedNat 0xC8 8 = 0 ∧
    { State.reset with hub := { State.reset.hub with staging := Memory.writeAll [] 0xC8 [1] } }.stagedNat 0xC8 8 ≠ 0 := by decide +kernel

/-! Engines, owners, barriers. -/

/-- A copy of 16 bytes from 0x10040 to address 0x80 of core 0.0.1's TCM, with its arrival, tag 9. -/
def copyD : CopyDesc :=
  { src := 0x10040, dst := 0x80, dcore := 1, dkind := true, arrv := true, note := true, typ := 0x21, run := 16, n1 := 1, n2 := 1
    sst1 := 0, sst2 := 0, dst1 := 0, dst2 := 0 }

def requestOf (w : Work) : Request :=
  { tag := 9, work := w, core := 0, slot := 0, act := placedAct.id, stamp := Stamp.none 4 0, pc := 2, batch := 4, progress := 0, ahead := [], flight := [], stopped := false }

/-- `demo` with one request, its die's L2 holding a page of HBM. -/
def engaged (w : Work) : State :=
  { demo with
    mem := Memory.writeAll [] 0x200040 [1, 2, 3]
    l2 := [(0, [{ corrupt := false, asid := 0, page := 0x10000, log2 := 12, leaf := 0x20000F }])]
    requests := [requestOf w] }

theorem witness_CopiesMove :
    (let s := engaged (.copy copyD)
     let r := requestOf (.copy copyD)
     s.kickAt 0 0 = some (r, copyD) ∧ Clean s ∧ r.ahead = [] ∧ Memory.wf s.mem = true ∧ r.progress = 0 ∧ r.stamp.side = .none ∧ copyD.dkind = true ∧
     copyD.n1 = 1 ∧ copyD.n2 = 1 ∧ 1 ≤ copyD.run ∧ copyD.src.toNat % 64 + copyD.run ≤ 64 ∧ copyD.dst.toNat % 64 + copyD.run ≤ 64 ∧
     (∃ u k, s.engineXlate (hartOf 0) r.stamp.asid .none .load copyD.src = (u, .ok k) ∧ isExt k = false) ∧
     isExt (tcmKey copyD.dcore.toNat copyD.dst.toNat) = false ∧ copyD.arrv = true ∧
     nextIs (exec (.copyKick 0 0) s) (fun t => Memory.read t.mem (tcmKey 1 0x81) == 2 &&
       (t.core 1).inbox.map (fun p => (p.msg.dst, p.msg.payload)) == [((1 : CoreId), [(0x80 : W64), 16, 4])]) = true) ∧
    (let d := { copyD with src := 0x40000 }
     let s := engaged (.copy d)
     let r := requestOf (.copy d)
     s.kickAt 0 0 = some (r, d) ∧ 1 ≤ r.total ∧ Holds s r.core r.slot r.act ∧
     (∃ u, s.engineXlate (hartOf 0) r.stamp.asid r.stamp.side .load d.src = (u, .error Code.translation)) ∧
     nextIs (exec (.copyKick 0 0) s) (fun t => (t.slot 0 0).engine.map (·.tval) == [0x40000]) = true) ∧
    (let d := { copyD with run := 4, n1 := 3, n2 := 2 }
     3 < d.run ∧ 2 < d.n1 ∧ 1 < d.n2 ∧ { copyD with arrv := false }.arrv = false) := by
  refine ⟨⟨by decide +kernel, ⟨rfl, rfl⟩, rfl, by decide +kernel, rfl, rfl, rfl, rfl, rfl, by decide, by decide, by decide,
    ⟨_, 0x200040, Prod.ext rfl ?_, by decide⟩, by decide, rfl, by decide +kernel⟩,
    ⟨by decide +kernel, by decide, ⟨placedAct, by decide +kernel, rfl⟩, ⟨_, Prod.ext rfl ?_⟩, by decide +kernel⟩, by decide⟩
  all_goals decide +kernel

theorem witness_DealsDeliver :
    (let w : Work := .deal 0x0004080040400F31 0x10000 5120
     let s := engaged w
     s.dealAt 0 0 = some (requestOf w, dealOf 0x0004080040400F31, 0x10000, 5120) ∧ (requestOf w).stamp.side = .none ∧ Memory.wf s.mem = true ∧
     (∃ u x, s.engineRead (hartOf 0) (requestOf w).stamp 0x10000 1024 1024 = (u, .ok x)) ∧
     nextIs (exec (.shuttleBlock (.deliver 0 0)) s) (fun t => Memory.read t.mem (tcmKey 0 0x2041) == 2 && t.net == [] && (t.core 0).inbox.length == 1) = true) ∧
    (let w : Work := .deal 0x0004080040400F31 0x40000 5120
     let s := engaged w
     Holds s 0 0 placedAct.id ∧ (∃ u e, s.engineRead (hartOf 0) (requestOf w).stamp 0x40000 1024 1024 = (u, .error e)) ∧
     nextIs (exec (.shuttleBlock (.deliver 0 0)) s) (fun t => (t.slot 0 0).engine.map (·.tval) == [0x40000]) = true) := by
  refine ⟨⟨by decide +kernel, rfl, by decide +kernel, ?_, by decide +kernel⟩, ⟨placedAct, by decide +kernel, rfl⟩, ?_, by decide +kernel⟩
  · have h : (match ((engaged (.deal 0x0004080040400F31 0x10000 5120)).engineRead (hartOf 0) (Stamp.none 4 0) 0x10000 1024 1024).2 with
      | .ok _ => true
      | .error _ => false) = true := by decide +kernel
    revert h
    show _ → ∃ u x, (engaged (.deal 0x0004080040400F31 0x10000 5120)).engineRead (hartOf 0) (Stamp.none 4 0) 0x10000 1024 1024 = (u, .ok x)
    generalize (engaged (.deal 0x0004080040400F31 0x10000 5120)).engineRead (hartOf 0) (Stamp.none 4 0) 0x10000 1024 1024 = p
    obtain ⟨u, e⟩ := p
    cases e with
    | ok x => intro _; exact ⟨u, x, rfl⟩
    | error e => intro h; cases h
  · have h : (match ((engaged (.deal 0x0004080040400F31 0x40000 5120)).engineRead (hartOf 0) (Stamp.none 4 0) 0x40000 1024 1024).2 with
      | .ok _ => false
      | .error _ => true) = true := by decide +kernel
    revert h
    show _ → ∃ u e, (engaged (.deal 0x0004080040400F31 0x40000 5120)).engineRead (hartOf 0) (Stamp.none 4 0) 0x40000 1024 1024 = (u, .error e)
    generalize (engaged (.deal 0x0004080040400F31 0x40000 5120)).engineRead (hartOf 0) (Stamp.none 4 0) 0x40000 1024 1024 = p
    obtain ⟨u, e⟩ := p
    cases e with
    | ok x => intro h; cases h
    | error e => intro _; exact ⟨u, e, rfl⟩

/-- Batch 4 of the request's activation, sealed, its word at address 0x100. -/
def batch4 (word : Nat) : Batch :=
  { core := 0, slot := 0, act := placedAct.id, stamp := Stamp.none 4 0, n := 4, word := word, note := true }

theorem witness_BatchesFinish :
    let s := { engaged (.copy copyD) with
      requests := [{ requestOf (.copy copyD) with progress := 16 }]
      batches := [batch4 (tcmKey 0 0x100)] }
    Memory.wf s.mem = true ∧ (s.batches.filter (fun b => Id.clusterNo b.core == 0))[0]? = some (batch4 (tcmKey 0 0x100)) ∧
    (∀ r ∈ s.requests, r.done = true) ∧ (batch4 (tcmKey 0 0x100)).word ≠ 0 ∧ copyD.note = true ∧ (batch4 0).word = 0 ∧
    nextIs (exec (.batchFinish 0 0) s) (fun t => t.batches == [] && t.requests == [] &&
      bytesNat (Memory.readN t.mem (tcmKey 0 0x100) 8) == 1 && t.net.map (·.typ) == [0xFB]) = true := by decide +kernel

/-- A core with an owner's activation in service slot 5, at the handler's line, which is held. -/
def owning (q : OwnerReq) (s : State) : State :=
  s.setSlot 1 5 { Slot.free with
    act := some { placedAct with id := 77, typ := 0xFD, cls := 1, owner := some q }
    regs := { Regs.start with pc := 2 }
    fetch := { line := some 0, slots := Line.single addWords, seen := [] } }

def atomicReq : OwnerReq :=
  { tag := 0, owner := 1, key := tcmKey 1 0x40, live := tcmKey 1 0x40, op := .amo .add false 8 5 0, core := 0, slot := 0, act := placedAct.id
    stamp := Stamp.none 4 0, pc := 2 }

/-- The slot goes on from its head. -/
def goes (r : Ready) : Bool :=
  match r with
  | .go _ _ => true
  | _ => false

/-- The state its fetch leaves. -/
def goneTo (r : Ready) (s : State) : State :=
  match r with
  | .go u _ => u
  | _ => s

theorem ready_owner {s : State} {i c j : Nat} {q : OwnerReq} (h : s.ownerSlots[i]? = some (c, j))
    (o : (s.slot c j).act.bind (·.owner) = some q) (g : goes (s.fetchHead c j) = true) :
    OwnerReady s i c j q (goneTo (s.fetchHead c j) s) := by
  refine ⟨h, o, ?_⟩
  revert g
  cases s.fetchHead c j with
  | go u e => intro _; exact ⟨e, rfl⟩
  | stay u => intro g; cases g
  | stop f => intro g; cases g

theorem witness_OwnersServe :
    (let s := owning atomicReq { demo with mem := Memory.writeAll [] (tcmKey 1 0x40) [7] }
     ∃ u, OwnerReady s 0 1 5 atomicReq u ∧ Clean u ∧ Memory.wf u.mem = true ∧ Unheld u [atomicReq.key / 64] ∧
      (atomicReq.op.run (Memory.readN u.mem atomicReq.key atomicReq.op.size)).1.isSome = true ∧
      nextIs (exec (.ownerRequest 0) s) (fun t => Memory.read t.mem (tcmKey 1 0x40) == 12 && (t.slot 1 5).act.isNone &&
        t.replies.map (fun p => p.old.map bytesNat) == [some 7]) = true) ∧
    (let l := [(0x200040, 0x200040, (5 : BitVec 32))]
     let q : OwnerReq := { atomicReq with tag := 9, key := 0x200040, live := 0x200040, op := .scata true l }
     let s := owning q (engaged (.scata true l))
     ∃ u, OwnerReady s 0 1 5 q u ∧ u.requests.find? (fun r => r.tag == q.tag) = some (requestOf (.scata true l)) ∧ Clean u ∧
      Memory.wf u.mem = true ∧ Unheld u (laneLines l) ∧ l.Pairwise (fun a b => a.1 + 4 ≤ b.1 ∨ b.1 + 4 ≤ a.1) ∧
      nextIs (exec (.ownerRequest 0) s) (fun t => bytesNat (Memory.readN t.mem 0x200040 4) == 0x30206) = true) ∧
    (let s := owning atomicReq { demo with bad := [tcmKey 1 0x40 / 8] }
     ∃ u, OwnerReady s 0 1 5 atomicReq u ∧ u.badRange atomicReq.key atomicReq.op.size = true ∧ Holds u 0 0 atomicReq.act ∧
      nextIs (exec (.ownerRequest 0) s) (fun t => (t.slot 0 0).engine.map (·.k1) == [10 + 3 * 16] &&
        t.replies.map (·.old) == [none]) = true) := by
  refine ⟨⟨_, ready_owner (by decide +kernel) (by decide +kernel) (by decide +kernel), ?_, ?_, ?_, ?_, ?_⟩,
    ⟨_, ready_owner (by decide +kernel) (by decide +kernel) (by decide +kernel), ?_, ?_, ?_, ?_, ?_, ?_⟩,
    ⟨_, ready_owner (by decide +kernel) (by decide +kernel) (by decide +kernel), ?_, ⟨placedAct, ?_, rfl⟩, ?_⟩⟩
  all_goals first
    | decide +kernel
    | (unfold Clean; decide +kernel)
    | (unfold Unheld; decide +kernel)

/-- A queue bound to a read stream of 8-byte elements, or to the strips of a KV row or of a gathered row. -/
def boundTo (b : Binding) (pc : W64) (acq : Nat) : State :=
  State.reset.setSlot 0 0 { Slot.free with
    act := some placedAct
    acq := acq
    regs := { Regs.start with
      pc := pc
      q := (Vector.replicate 16 Queue.empty).set 1 { Queue.empty with bind := b, count := 2 } } }

def pat8 : Pattern := { base := 0x40, n0 := 4, n1 := 1, n2 := 1, st0 := 8, st1 := 0, st2 := 0, w := 8 }

theorem witness_QueuesFetch :
    (let s := boundTo (.stream false pat8 0) 2 0
     let x := (s.slot 0 0).regs.q[(1 : Fin 16)]
     x.nextFetch = some (0x40, 8) ∧ (0x40 : W64).toNat < tcmSize 0 ∧ 8 ≤ 4096 - (0x40 : W64).toNat % 4096 ∧ x.kind = 3 ∧
     nextIs (exec (.streamFetch 0 0 1) s) (fun t => (t.slot 0 0).regs.q[(1 : Fin 16)].fetched == [.ok (tcmKey 0 0x40)]) = true) ∧
    (let s := boundTo (.stream false { pat8 with base := 0x41 } 0) 2 0
     (s.slot 0 0).regs.q[(1 : Fin 16)].nextFetch = some (0x41, 8) ∧ (0x41 : W64).toNat % 8 ≠ 0 ∧
     nextIs (exec (.streamFetch 0 0 1) s) (fun t => (t.slot 0 0).regs.q[(1 : Fin 16)].fetched == [.fail codeMisaligned]) = true) ∧
    (let s := boundTo (.rows true [⟨0x80, 16⟩, ⟨0xC0, 16⟩]) 2 0
     (s.slot 0 0).regs.q[(1 : Fin 16)].nextFetch = some (0x80, 16) ∧ (s.slot 0 0).regs.q[(1 : Fin 16)].kind = 6) ∧
    (let s := boundTo (.rows false [⟨0x80, 16⟩, ⟨0xC0, 16⟩]) 2 0
     (s.slot 0 0).regs.q[(1 : Fin 16)].nextFetch = some (0x80, 16) ∧ (s.slot 0 0).regs.q[(1 : Fin 16)].kind = 7 ∧ s.stripFenced 0 0 1 = false ∧
     nextIs (exec (.gathqStrip 0 0 1) s) (fun t => (t.slot 0 0).regs.q[(1 : Fin 16)].fetched == [.ok (tcmKey 0 0x80)]) = true) ∧
    (let s := (boundTo (.rows false [⟨0x80, 16⟩, ⟨0xC0, 16⟩]) 2 7).modCore 0 (fun k => { k with
       mq := [{ num := 3, issue := 0, core := 0, slot := 0, act := placedAct.id, stamp := Stamp.none 0 0, pc := 0, structured := false, m := 1, n := 1
                k := 1, fa := 0, fb := 0, sa := 0, sb := 0, target := 0, a := 0, b := 0, terms := 0, pat := 0, nres := 0, after := 0, afterEng := false }] })
     (s.slot 0 0).regs.q[(1 : Fin 16)].nextFetch = some (0x80, 16) ∧ (s.slot 0 0).regs.q[(1 : Fin 16)].kind = 7 ∧ s.stripFenced 0 0 1 = true) := by
  decide +kernel

theorem witness_BarriersCount :
    let r (c : Nat) : Arrival := { core := c, slot := 0, act := 1, asid := 5, group := 9, side := .none }
    let s := { grouped 0 with arrivals := [r 1] }
    let u : State := { s with
      spaces := [(5, { Space.none with groups := [(9, { members := [0, 1], home := 0, own := { gen := 4, arrived := [0], next := [] }
                                                        mirror := { gen := 0, arrived := [], next := [] } })] })] }
    s.arrivals[0]? = some (r 1) ∧ (s.slot 1 0).ext = [] ∧ (s.group 5 9).map (fun g => (g.homeOf .none, g.members.length)) =
      some ({ gen := 0, arrived := [], next := [] }, 2) ∧
    (u.group 5 9).map (fun g => (g.homeOf .none, g.members.length)) = some ({ gen := 4, arrived := [0], next := [] }, 2) ∧
    1 ∉ [0] ∧
    nextIs (exec (.gbarArrival 0) s) (fun t => t.releases == [] && t.arrivals == []) = true ∧
    nextIs (exec (.gbarArrival 0) u) (fun t => t.releases.map (fun x => (x.core, x.gen)) == [(0, 4), (1, 4)] &&
      (t.group 5 9).map (fun g => (g.own.gen, g.own.arrived)) == some (5, [])) = true := by decide +kernel

/-! The matrix unit, tasks, kills, links, repair. -/

/-- A command of one FP16 row and column of core 0.0.0's slot 0, its panel A at an address. -/
def cmd1 (a : W64) : MCmd :=
  { MCmd.blank demo with act := placedAct.id, stamp := Stamp.none 0 0, m := 1, n := 1, k := 1, fa := 0x08000001, fb := 0x08000001, a := a, b := 0x80,
                         target := 0x400 }

def unitState (l : List MCmd) (r : List Running) : State :=
  let s := demo.modCore 0 (fun k => { k with mq := l })
  { s with munits := [(0, { MUnit.idle with running := r })] }

theorem witness_CommandsStart :
    (let s := unitState [cmd1 0x40000] []
     let u := visited s 0
     u.visit < 8 ∧ ((s.waiting u (octetBase 0 + u.visit)).filter (fun m => u.taken.contains m.issue)).length = 1 ∧
     (s.startReads (cmd1 0x40000)).2.2 = some { opnd := 0, cause := 1, va := 0x40000 } ∧ (s.slot 0 0).act = some placedAct ∧
     bit (s.slot 0 0).oldest.mfrx 63 = false ∧
     nextIs (exec (.matrixCommandStart 0) s) (fun t => bit (t.slot 0 0).regs.mfrx 63 && fld (t.slot 0 0).regs.mfrx 40 4 == 1) = true) ∧
    (let s := unitState [cmd1 0x40000, { cmd1 0x40 with num := 1, issue := 1 }] []
     nextIs (exec (.matrixCommandStart 0) s) (fun t => fld (t.slot 0 0).regs.mfrx 48 8 == 1 && (t.core 0).mq.length == 1 &&
       (t.slot 0 0).matrix.map (·.k1) == [(t.slot 0 0).regs.mfrx]) = true) ∧
    (let s := unitState [{ cmd1 0x40000 with act := 33 }] []
     (s.startReads { cmd1 0x40000 with act := 33 }).2.2.isSome = true ∧ (s.slot 0 0).act.map (·.id) ≠ some 33 ∧
     nextIs (exec (.matrixCommandStart 0) s) (fun t => t.net.map (·.typ) == [0xFE]) = true) ∧
    (let s := unitState [cmd1 0x40] []
     (s.startReads (cmd1 0x40)).2.2 = none ∧
     nextIs (exec (.matrixCommandStart 0) s) (fun t => (t.munits.get 0 MUnit.idle).running.length == 1) = true) ∧
    (∀ i, i < 8 → demo.waiting (demo.munit (octetBase 0)) (octetBase 0 + i) = []) ∧ 4 < 8 ∧ 8 < 16 := by decide +kernel

theorem witness_CommandsComplete :
    (let r : Running := { cmd := { cmd1 0x40 with m := 0 }, flits := [], fault := none }
     let s := unitState [r.cmd] [r]
     (s.munit (octetBase 0)).running = [r] ∧ r.cmd.m = 0 ∧ Memory.wf s.mem = true) ∧
    (let f (o va : Nat) : Flit := { opnd := o, va := va, key := tcmKey 0 va, bytes := List.replicate 32 0x3C }
     let r : Running := { cmd := cmd1 0x40, flits := [f 0 0x40, f 1 0x80], fault := none }
     let s := unitState [r.cmd] [r]
     (s.munit (octetBase 0)).running = [r] ∧ ¬(r.fault.isSome = true ∨ r.cmd.m = 0 ∨ r.cmd.n = 0 ∨ r.cmd.k = 0) ∧
     bit r.cmd.target 63 = false ∧ r.cmd.m ≤ 16 ∧ r.cmd.n ≤ 16 ∧ (s.slot 0 0).act.map (·.id) = some r.cmd.act ∧
     (s.slot 0 0).chunk.isSome = true) := by decide +kernel

/-- One product of a group, exact: (1084 / 1024) squared is 1 + 126480 / 2^20. -/
theorem test_group_product :
    Mx.group 0 [({ a := .fin false 1084 (-10), b := .fin false 1084 (-10), scale := 254, nan := false } : Prod)] =
      (0x3F8F7080, 0) := by decide +kernel

/-- A task of key timestamp n in cluster 0's queue. -/
def task (n : W64) : TaskEntry :=
  { cluster := 0, spilled := false, key := { ts := n, spawner := 0, seq := 0 }, typ := 0x30, arg := 0, stamp := Stamp.none 0 5, parent := none
    running := none, contained := 0 }

def tasked : State :=
  { State.reset with
    tasks := [task 9, task 4]
    cores := [(0, { Core.init with spaces := [(5, SpaceRegs.zero)] })] }

theorem witness_TasksDispatch :
    0 < 4 ∧ lowest ((tasked.refill 0 queuePlaces).tasks.filter (fun t =>
      t.cluster == 0 && !t.spilled && t.parent.isNone && t.running.isNone && !(tasked.refill 0 queuePlaces).preempted t.stamp.asid)) = some (task 4) ∧
    (tasked.refill 0 queuePlaces).takers 0 5 = [0] ∧
    nextIs (exec (.orderReport 0) tasked) (fun t => (t.reports.get 0 []).find 5 == some (task 4).key) = true := by
  decide +kernel

theorem witness_KillsReach :
    (let k : Kill := { core := 0, slot := 0, asid := 5, group := 9, side := .none, reached := [1] }
     let s := { grouped 9 with kills := [k] }
     s.kills[0]? = some k ∧ 0 ∉ k.reached ∧ s.provided 0 = true ∧ s.me.act.isSome = true ∧
     nextIs (exec (.killDelivery 0 0) s) (fun t => t.me.act.isNone && t.kills.map (·.reached) == [[0, 1]]) = true) ∧
    (((grouped 9).group 5 9).isSome = true) ∧
    (let k : Kill := { core := 0, slot := 0, asid := 5, group := 9, side := .none, reached := [] }
     let st : Stamp := { Stamp.none 4 5 with group := 9 }
     let s : State := { graphed { resident3 with saved := [{ saved3 with act := { act5 with stamp := st } }] } with kills := [k] }
     k.hits st = true ∧ (s.graph 3).saved.length = 1 ∧ nextIs (exec (.killDelivery 0 0) s) (fun t => (t.graph 3).saved == []) = true) ∧
    (let k : Kill := { core := 0, slot := 0, asid := 5, group := 9, side := .none, reached := [] }
     let s : State := { grouped 9 with kills := [k], requests := [requestOf (.copy copyD)] }
     (s.slot 0 0).act.map (fun a => k.hits a.stamp) = some true ∧ s.requests.map (·.act) = (s.slot 0 0).act.toList.map (·.id) ∧
     nextIs (exec (.killDelivery 0 0) s) (fun t => t.requests == []) = true) := by decide +kernel

/-- Every core a kill has to reach can have been reached. -/
theorem witness_KillsReach_complete (s : State) :
    ∃ k : Kill, (∀ p, s.provided p = true → p ∈ k.reached) ∧ k.slot ≠ 8 ∧ k.side ≠ .mirror ∧ k.asid = 5 ∧ k.group = 9 := by
  refine ⟨{ core := 0, slot := 0, asid := 5, group := 9, side := .none, reached := List.range 65536 }, ?_, by decide, by decide, rfl, rfl⟩
  intro p h
  rw [List.mem_range]
  unfold State.provided Id.isCompute Id.isBank at h
  simp only [Bool.or_eq_true, Bool.and_eq_true, decide_eq_true_eq] at h
  omega

theorem witness_FlitsCount :
    (0 < 18 ∧ (Lnk.get State.reset 0).down = false ∧ (Lnk.get State.reset 0).training = false ∧
     nextIs (exec (.flitReceive 0 true 0 true []) State.reset) (fun t => (Lnk.get t 0).flits == 1 && (Lnk.get t 0).seqB == 1) = true ∧
     nextIs (exec (.flitReceive 0 true 0 false [(0, 3)]) State.reset) (fun t => (Lnk.get t 0).crcerr == 1 && (Lnk.get t 0).seqB == 0) = true) ∧
    (18 ≤ 29 ∧ 29 < 30) ∧ (Lnk.get { State.reset with links := [(4, { Link.init with down := true })] } 4).down = true ∧
    (let s := { State.reset with links := [(4, { Link.init with training := true, rate := 0x222 })] }
     (Lnk.get s 4).training = true ∧ nextIs (exec (.flitReceive 4 true 0 true []) s) (fun t => decide (t = s)) = true) ∧
    nextIs (exec (.flitReceive 20 true 0 true []) State.reset) (fun t => (t.ports.get 2 Port.init).seqB == 1) = true ∧
    nextIs (exec (.flitReceive 20 true 7 true []) State.reset) (fun t => (t.ports.get 2 Port.init).seqB == 0) = true := by decide +kernel

/-- Link 0 with a full window of replays, at a rate code, those of one lane or none attributed. -/
def worn (rate : W64) (win : List (Lane × Nat)) : State :=
  { State.reset with links := [(0, { Link.init with rate := rate, training := bit rate 9, winFlits := 2 ^ 30, winReplay := 17, window := win })] }

def lane0 : Lane := { mod := 0, dir := true, lane := 3 }

theorem witness_LinksDegrade :
    (let x := Lnk.get (worn 0x22 []) 0
     x.down = false ∧ 2 ^ fld x.budget 16 5 ≤ x.winFlits ∧ fld x.budget 0 16 < x.winReplay ∧ x.worst = none ∧ 0 < fld x.rate 0 3) ∧
    (let x := Lnk.get (worn 0x22 [(lane0, 17)]) 0
     bit x.budget 24 = false ∧ x.worst = some lane0) ∧
    (fld (Lnk.get (worn 0x20 []) 0).rate 0 3 = 0 ∧ (16 : Nat) ≤ fld Link.init.budget 0 16) ∧
    ((Lnk.get State.reset 0).winFlits < 2 ^ fld (Lnk.get State.reset 0).budget 16 5) ∧
    (let s := worn 0x221 []
     (Lnk.get s 0).down = false ∧ (Lnk.get s 0).training = true ∧ s.stoppingOn 0 = false ∧
     nextIs (exec (.retrainDone 0 true) s) (fun t => bit (Lnk.get t 0).rate 9 == false && fld (Lnk.get t 0).rate 0 3 == 2) = true) := by
  decide +kernel

theorem witness_PeersWrite :
    (3 < 4096 ∧ 3 ∉ State.reset.unreachable) ∧
    (let s := demo.modSlot 0 0 (fun x => { x with ext := [{ stream := false, key := peerKey 3 64, bytes := [1] }, { stream := false, key := hostKey 8, bytes := [7] }] })
     ((s.slot 0 0).ext.filter (fun v => ofPeer 3 v.key)).length = 1 ∧ (s.slot 0 0).ext.length = 2) ∧
    (Memory.wf State.reset.mem = true ∧
     (∀ i, i < 4 → (isHbm (0x1000 + i) || isSram (0x1000 + i) || isScratch (0x1000 + i)) = true ∧ State.reset.populated (0x1000 + i) = true) ∧
     nextIs (exec (.peerWrite (.mem 0x1000) [1, 2, 3, 4]) State.reset) (fun t => Memory.read t.mem 0x1003 == 4) = true) ∧
    (State.reset.provided 1 = true ∧ 0x100 + 1 ≤ tcmSize 1 ∧
     nextIs (exec (.peerWrite (.tcm 1 0x100 none 0 0 0 0 0 0 0 0) [6]) State.reset)
       (fun t => Memory.read t.mem (tcmKey 1 0x100) == 6 && (t.core 1).inbox.map (·.msg.typ) == [0xF9]) = true) := by decide +kernel

theorem witness_QuiesceRepairs :
    (let row : Row := { bank := .sram 2 0 1, row := 12 }
     let s := { State.reset with capacity := { Capacity.full with scheduled := [row] } }
     dieOfBank row.bank = 2 ∧ s.quiet 2 = true ∧ row ∈ s.capacity.scheduled ∧ row ∉ s.capacity.noSpare ∧ s.capacity.spareRows row.bank < 8 ∧
     demo.quiet 0 = false ∧ 1 ≠ dieOfBank row.bank ∧
     nextIs (exec (.quiesceRepair 2 (.row row)) s) (fun t => t.capacity.scheduled == [] && fld t.hub.health 8 8 == 1) = true ∧
     nextIs (exec (.quiesceRepair 1 (.row row)) s) (fun t => decide (t = s)) = true) ∧
    (let row : Row := { bank := .tcm 4 1, row := 12 }
     let s := { State.reset with capacity := { Capacity.full with scheduled := [row], rowSpares := [(row.bank, 8)] } }
     8 ≤ s.capacity.spareRows row.bank ∧
     nextIs (exec (.quiesceRepair 0 (.row row)) s) (fun t => t.capacity.noSpare == [row] && (t.core 4).failing && fld t.hub.health 8 8 == 2) = true) ∧
    (let s := graphed { resident3 with marked := true }
     (s.graph 3).resident = true ∧ nextIs (exec (.quiesceRepair 0 (.recheck 3)) s) (fun t => (t.graph 3).marked == false) = true) ∧
    (let s := State.reset.modCore 1 (fun k => { k with failing := true })
     Memory.wf s.mem = true ∧ s.quiet 0 = true ∧ Id.die 1 = 0 ∧ Id.isCompute 1 = true ∧ (s.core 1).failing = true ∧ s.provided 1 = true ∧
     s.capacity.spares.get (Id.clusterNo 1) 0 < 2 ∧
     nextIs (exec (.quiesceRepair 0 (.core 1)) s) (fun t => (t.core 1).failing == false && t.provided 1) = true) := by decide +kernel

/-! Witnesses of further clauses: registers, traps, ends, gathers, watches, atomics, labels, vectors. -/

/-- A line that changed while the activation ran: what stood in it before is among what its fetch may give. -/
theorem witness_LineFetch_changed :
    let s := { State.reset.place addWords with history := [(lineOf (tcmKey 0 0), [(3, [1, 2])])] }
    (s.slot 0 0).act.map (fun a => (a.owner.isNone, decide (a.id < 3))) = some (true, true) ∧
    (3, [1, 2]) ∈ s.history.get (lineOf (tcmKey 0 0)) [] ∧
    (∀ w ∈ (State.reset.place addWords).history.get (lineOf (tcmKey 0 0)) [], w.1 ≤ 0) := by decide +kernel

/-- An activation that ended by escalation, its interrupt enabled: the one way an instruction writes memory. -/
theorem witness_InstructionsLeaveMemory_told :
    let s : State := { demoWith { demoRegs with tstat := 1 } with hub := { Hub.init with hint := Hub.init.hint.set 1 1 } }
    Memory.wf s.mem = true ∧ bit s.hub.hint[1] 0 = true ∧
    nextIs (exec (.trap 3) s) (fun t => (t.slot 0 0).act.isNone && t.mem != []) = true := by decide +kernel

/-- Slot 7 of core 0.0.0, a system slot, as `demo` stands in slot 0. -/
def sysDemo : State :=
  let s := State.reset.setSlot 0 7 { Slot.free with act := some placedAct, regs := demoRegs, chunk := some (chunkAt demoRegs) }
  { s with cur := { s.cur with slot := 7 } }

/-- Numbers a write may name, and ones it may not: unknown, of the system, read-only. -/
theorem witness_ControlRegister_numbers :
    Open demo 0x020 ∧ Open demo 0x031 ∧ ¬ Open demo 0x014 ∧ ¬ Open demo 0x883 ∧ ¬ Open demo 0x7FF ∧ Open sysDemo 0x883 ∧
    (0x020, Regs.fpst) ∈ slotRegs ∧ (0x014, Regs.tcause) ∈ otherRegs := by
  refine ⟨?_, ?_, ?_, ?_, ?_, ?_, by simp [slotRegs], by simp [otherRegs]⟩ <;> (unfold Open Named; decide +kernel)

theorem witness_ControlRegister_shared :
    (demo.me.chunk = some (chunkAt demoRegs) ∧ ZeroOk demo 0x025 2 ∧ written demo 0x025 2 ≠ 0) ∧
    (sysDemo.me.chunk = some (chunkAt demoRegs) ∧ ZeroOk sysDemo 0x882 0x800 ∧ ZeroOk sysDemo 0x883 0x103) ∧
    (let s := grouped 0
     s.me.chunk.isSome = true ∧ isGraphReg 0x038 = true ∧ (s.ownView.graphSel s.cur.core s.cur.slot).1.isSome = true) ∧
    (Lnk.isReg 0x906 = true ∧ (Lnk.split 0x906).2 = 6 ∧ (Lnk.split 0x907).2 = 7 ∧ (Lnk.split 0x909).2 = 9 ∧
     Lnk.refused sysDemo 0 6 (written sysDemo 0x906 0x1E0020) = false ∧ Lnk.refused sysDemo 0 9 (written sysDemo 0x909 0) = false) := by
  unfold ZeroOk; decide +kernel

/-- CPYDONE without EN, with EN in TCM, and beyond it. -/
theorem witness_CpydoneWrite :
    ZeroOk demo 0x031 0x41 ∧ bit (written demo 0x031 0x40) 0 = false ∧ (written demo 0x031 0x40 &&& 0xFFF8).toNat + 8 ≤ tcmSize 0 ∧
    bit (written demo 0x031 0x41) 0 = true ∧ tcmSize 0 < (written demo 0x031 0xFFF8 &&& 0xFFF8).toNat + 8 ∧
    ∃ u, Gives (memStore 0x40 (natBytes 0 8) 0 3 0) demo () u := by
  refine ⟨?_, ?_, ?_, ?_, ?_, _, gives (by decide +kernel)⟩ <;> first | decide +kernel | (unfold ZeroOk; decide +kernel)

theorem witness_ControlRegisterRefusals :
    let s := demoWith { demoRegs with tvec := 0x1007 }
    Open demo 0x012 ∧ ¬ ZeroOk demo 0x012 7 ∧ ¬ ZeroOk demo 0x012 (demo.crValue 0x012 ||| 7) ∧ Open s 0x012 ∧
    ¬ ZeroOk s 0x012 (s.crValue 0x012 &&& ~~~ 0) := by
  unfold ZeroOk Open Named; decide +kernel

/-- A handler's open chunk, ripe, at its ERET's commit. -/
theorem witness_TrapAndReturn_open :
    let s := demoWith { demoRegs with tstat := 1, tpc := 0x40 }
    let u := s.modMe (fun x => { x with phase := .commit .eret })
    u.me.ended = none ∧ u.me.chunk.map (fun c => c.ready && u.mayGrant 0 0 c) = some true ∧ u.tasks = [] ∧ u.me.mustWait u = false ∧
    nextIs (exec .chunkCommit u) (fun t => t.regs.pc == 0x40 && t.me.chunk.isNone && t.regs.tstat == 0) = true := by decide +kernel

theorem witness_EndsAndSystem_more :
    (demo.modRegs (fun r => { r with sfq := [5] })).me.trapPending = true ∧ demo.me.trapPending = false ∧
    nextIs (exec .waiti (demo.modRegs (fun r => { r with sfq := [5] }))) (fun t => t.me.phase == .run) = true ∧
    (let r : Request := { tag := 9, work := .deal 0 0 0, core := 0, slot := 0, act := placedAct.id, stamp := Stamp.none 0 5, pc := 2, batch := 4
                          progress := 64, ahead := [], flight := [], stopped := false }
     let s := { grouped 9 with requests := [r, { r with progress := 0, tag := 8 }] }
     (s.me.act.map (fun a => decide (∀ q ∈ s.requests, q.act = a.id))) = some true ∧
     nextIs (exec (.gkill (.g 3)) s) (fun t => t.requests == [{ r with stopped := true }]) = true) := by decide +kernel

/-- A tight gather whose lane waits for a walk, and one whose lowest failing lane has a bit above 56 set. -/
theorem witness_Gathers_tight :
    let at_ (base : W64) : State := demo.modRegs (fun r => { r with g := r.g.set 4 base })
    let es (base : W64) : List (Nat × W64) := [(0, base + 8), (2, base)]
    ((List.range 16).filter (fun n => (demo.regs.readM 1).getLsbD n)).map
        (fun n => (n, (0x40000 : W64) + BitVec.ofNat 64 (4 * lane 32 (demo.regs.readV 2) n))) = es 0x40000 ∧
    demo.fenced demo.cur.core demo.cur.slot = false ∧
    answer? ((es 0x40000).mapM resolveLane) (at_ 0x40000) = some [(0, 0x40008, .error 1), (2, 0x40000, .error 1)] ∧
    answer? ((es 0x0200000000000000).mapM resolveLane) (at_ 0x0200000000000000) =
      some [(0, 0x0200000000000008, .error 8), (2, 0x0200000000000000, .error 8)] ∧
    nextIs (exec (.gath true (.v 1) (.g 4) (.v 2) 1) (at_ 0x40000)) (fun t => t.me.phase == .wait .gather && t.myCore.walks.length == 2) = true ∧
    nextIs (exec (.gath true (.v 1) (.g 4) (.v 2) 1) (at_ 0x0200000000000000)) (fun t => t.regs.tcause == 0x808 || t.regs.tval == 0x0200000000000008) =
      true ∧
    nextIs (exec (.gathq true (.q 2) (.g 4) (.v 2) (.g 5) 1) ((at_ 0x40000).modRegs (fun r => { r with g := r.g.set 5 0x40040 })))
      (fun t => t.me.phase == .wait .gather) = true := by decide +kernel

theorem witness_Scatters_refused : scataKey 64 demo = .error (.trap Cause.illegalOperand (encVal demo.cur.enc) 0 none none) demo ∧
    (64 : W64).toNat < tcmSize demo.cur.core := ⟨by rfl, by decide +kernel⟩

/-- CPYWAIT with more sealed batches unfinished than it may leave. -/
theorem witness_Copies_wait :
    let s := (copying.modRegs (fun r => { r with batch := 90 }))
    s.bad = [] ∧ s.soft = [] ∧ bit s.regs.cpydone 0 = true ∧
    ((64 : W64) + (0 : Half).setWidth 64).toNat < ((s.regs.batch.setWidth 32 - 1 - 0 : BitVec 32)).toNat := by decide +kernel

/-- What MON arms: the slot's own entry of the line, a free one, the least recently armed. -/
theorem witness_Watches_arm :
    let own : Watch := { index := 7, slot := 0, line := 5, fired := true }
    let full : List Watch := (List.range 16).map (fun n => { index := 15 - n, slot := 1, line := n, fired := false })
    let with_ (l : List Watch) : State := (demo.setSlot 0 1 { Slot.free with act := some placedAct }).modCore 0 (fun k => { k with watches := l })
    ((with_ [own]).arm 0 0 5).2 = 7 ∧ (((with_ [own]).arm 0 0 5).1.core 0).watches = [own] ∧
    (∃ e, e < 16 ∧ ∀ w ∈ [own], w.index ≠ e) ∧ ((with_ [own]).arm 0 0 6).2 = 0 ∧
    (∀ e, e < 16 → ∃ v ∈ full, v.index = e) ∧ (∀ w ∈ full, w.slot ≠ 0 ∨ w.line ≠ 6) ∧ ((with_ full).arm 0 0 6).2 = 15 ∧
    (((with_ full).arm 0 0 6).1.slot 0 1).act.map (·.spurious) = some true := by
  refine ⟨?_, ?_, ⟨0, ?_, ?_⟩, ?_, ?_, ?_, ?_, ?_⟩ <;> decide +kernel

/-- CAS, FADD and AMOV of a page of device memory leave for its owner; in a service slot an atomic outside TCM is refused. -/
theorem witness_AtomicsElsewhere_members :
    let s := paged 0x20000F
    let svc : State := { s with cur := { s.cur with slot := 5 } }.setSlot 0 5 s.me
    Reads [okG (.g 1), okG (.g 5), okG (.g 3), okG (.g 0)] [.g 5, .g 3, .g 0] (some (.g 1)) s [] s ∧
    Reads [okV (.v 1), okG (.g 5), okV (.v 2)] [.g 5, .v 2] (some (.v 1)) s [] s ∧ G [] (.g 0) s 0 ∧
    (nextIs (exec (.amoCas .s8 (.g 1) (.g 5) (.g 3) (.g 0)) s) (fun t => t.me.phase == .commit (.wait .reply)) = true ∧
     nextIs (exec (.amoFadd (.g 1) (.g 5) (.g 3)) s) (fun t => t.me.phase == .commit (.wait .reply)) = true ∧
     nextIs (exec (.amov .add .i32 (.v 1) (.g 5) (.v 2) 1) s) (fun t => t.me.phase == .commit (.wait .reply)) = true ∧
     slotClass svc.cur.slot = 1 ∧ svc.me.act.isSome = true ∧
     nextIs (exec (.amoAdd .s8 (.g 1) (.g 5) (.g 3)) svc) (fun t => t.regs.tcause == 0x05 || t.regs.tstat == 1) = true) :=
  ⟨plain (by simp) rfl, plain (by simp) rfl, g_is (by decide +kernel), by decide +kernel⟩

/-- A declared window named on the mirror side. -/
theorem witness_ReductionAdds_side :
    let s := reducing.modMe (fun x => { x with act := x.act.map (fun a => { a with stamp := { a.stamp with side := .mirror } }) })
    (s.windowOf (s.stampOf s.cur.core s.cur.slot) 0x80000000000200C0 64).isSome = true ∧ s.me.side ≠ .none ∧
    (s.windowOf (s.stampOf s.cur.core s.cur.slot) 0x8000000000070000 64).isSome = false ∧
    nextIs (exec (.ared .i32 (.g 4) (.v 2) 1) (s.modRegs (fun r => { r with g := r.g.set 4 0x80000000000200C0 })))
      (fun t => t.regs.tval == 0x80000000000200C0 && t.regs.tstat == 1) = true := by decide +kernel

/-- Labels of top fields 3, 4 and 5 of skein 0. -/
def labTop (n : Nat) : W64 := BitVec.ofNat 64 (2 ^ 63 + n * 2 ^ 44)

/-- `labelled`, but `lab1` forwarded to top field 3, which is grafted to 4, a NODE, or to a label with no entry, or forwarded on. -/
def chained (strict : Bool) (last : List HedEntry) : State :=
  labelledWith strict ([hentry lab1 0xC000300000000000, hentry (labTop 3) 0x8000400000000000] ++ last)

/-- Two rewrites in a row, a FWD and a GRAFT. -/
theorem rewritten_twice (strict : Bool) (last : List HedEntry) (h : last = [] ∨ last = [hentry (labTop 4) 0x1000] ∨ last = [hentry (labTop 4) 0x8000500000000000])
    (k : Skein) (hk : k = { skein0 with strict := strict }) :
    ∃ fwd nofwd t, Rewritten k (chained strict last) lab1 2 (labTop 4) fwd nofwd t ∧ fwd = true ∧ nofwd = true ∧
      best t k (labTop 4) nofwd = last.head? := by
  subst hk
  rcases h with rfl | rfl | rfl <;> cases strict <;>
    exact ⟨_, _, _, .next (l' := labTop 4) (.next (l' := labTop 3) (e := hentry lab1 0xC000300000000000) .start (by decide +kernel) (by decide +kernel) (by decide +kernel))
      (e := hentry (labTop 3) 0x8000400000000000) (by decide +kernel) (by decide +kernel) (by decide +kernel), by decide +kernel⟩

/-- A label forwarded twice, to one that is forwarded again: LCANON's loop; and to one that is not, its answer. -/
theorem witness_LabelGroup_canon (last : HedEntry) (h : last = hentry (labTop 4) 0xC000500000000000 ∨ last = hentry (labTop 4) 0x1000) :
    let s := labelledWith false [hentry lab1 0xC000300000000000, hentry (labTop 3) 0xC000400000000000, last]
    ∃ fwd nofwd t, Rewritten skein0 s lab1 2 (labTop 4) fwd nofwd t ∧ nofwd = false ∧ best t skein0 (labTop 4) false = some last := by
  rcases h with rfl | rfl <;>
    exact ⟨_, _, _, .next (l' := labTop 4) (.next (l' := labTop 3) (e := hentry lab1 0xC000300000000000) .start (by decide +kernel) (by decide +kernel) (by decide +kernel))
      (e := hentry (labTop 3) 0xC000400000000000) (by decide +kernel) (by decide +kernel) (by decide +kernel), by decide +kernel⟩

/-- The vector forms of VectorFrame complete in `demo`. -/
theorem witness_VectorFrame_forms :
    let runs (i : Instr) : Bool := nextIs (exec i demo) (fun _ => true)
    ([.vfma .f32 (.v 1) (.v 2) (.v 3) (.v 3) 0, .vfms .f16 (.v 1) (.v 2) (.v 3) (.v 3) 0, .vcmp .f32 .lt (.m 2) (.v 2) (.v 3) 0,
      .vicmp .w8 .leu (.m 2) (.v 2) (.v 3) 0, .vsel .bf16 (.v 1) (.v 2) (.v 3) 1, .vred .sum .f32 (.g 1) (.v 2) 0] : List Instr).all runs = true ∧
    ([.vscan .max .i32 (.v 1) (.v 2) 0, .vbcast .w32 (.v 1) (.g 3) 0, .vidx .w16 (.v 1) 0, .vmov .w32 (.v 1) (.v 2) 0,
      .vslide .w32 (.v 1) (.v 2) (.g 3) 0, .vcomp .w32 (.v 1) (.v 2) 1, .vexpnd .w32 (.v 1) (.v 2) 1] : List Instr).all runs = true ∧
    ([.vextr .w32 (.g 1) (.v 2) (.g 3), .vins .w32 (.v 1) (.g 2) (.g 3), .mand (.m 1) (.m 1) (.m 0), .mnot (.m 1) (.m 2),
      .mpop (.g 1) (.m 1), .mfirst (.g 1) (.m 0), .mset (.m 1) (.g 2), .mget (.g 1) (.m 1)] : List Instr).all runs = true := by decide +kernel

theorem witness_VectorFrame_reads :
    NotQ (.m 1) ∧ NotQ (.g 1) ∧ (∃ p t, Reads [okM (.m 1), okV (.v 2), okV (.v 3)] [.v 2, .v 3] none demo p t) ∧
    (∃ p t, Reads [okV (.v 1), okV (.v 2), okV (.v 3), okV (.v 3)] [.v 2, .v 3, .v 3] (some (.v 1)) demo p t) ∧
    (∃ p t, Reads [okM (.m 1), okM (.m 2)] [] none demo p t) ∧ (∃ p t, Reads [okG (.g 2), okG (.g 3)] [.g 2, .g 3] none demo p t) :=
  ⟨rfl, rfl, ⟨_, _, plain (by simp) rfl⟩, ⟨_, _, plain (by simp) rfl⟩, ⟨_, _, plain (by simp) rfl⟩, ⟨_, _, plain (by simp) rfl⟩⟩

/-- The rows of R287 with two infinities, and with a finite score and maximum. -/
theorem witness_SoftmaxStep_rows :
    let f := FFmt.fp32
    f.decode 0x7F800000 = .inf false ∧ (f.decode 0x3F800000).isNan = false ∧ (f.decode 0x3F800000).isInf = false ∧
    (f.decode 0).isNan = false ∧ (f.decode 0).isInf = false ∧
    (softmax .rne 0x7F800000 0x7F800000 0x40000000 [0x3F800000] [0x40400000]).l = 0x40400000 ∧
    (softmax .rne 0x7F800000 0x7F800000 0x40000000 [0x3F800000] [0x40400000]).acc = [0x40800000] := by decide +kernel

/-- The zero-record codes and the window of MQSTAT: a weight the register holds. -/
theorem witness_MatrixInstructions_weight : fld (matrix.core matrix.cur.core).mwgt 0 4 = 1 ∧
    nextIs (exec (.mqstat (.g 1)) matrix) (fun t => t.regs.readG 1 == 0x11000) = true := by decide +kernel

/-- R75: a line skipped by .align is all zero and is not legal. -/
theorem test_zero_line : Line.legal (List.replicate 32 0) = false := by decide

/-- SHA-256 of the three bytes 0x61, 0x62, 0x63: the example of the published standard. -/
theorem test_sha256 : sha256 [0x61, 0x62, 0x63] = 0xBA7816BF8F01CFEA414140DE5DAE2223B00361A396177A9CB410FF61F20015AD := by decide +kernel

/-- The base point lies on the curve, and its double is the published point of k = 2. -/
theorem test_p256 :
    P256.onCurve 0x6B17D1F2E12C4247F8BCE6E563A440F277037D812DEB33A0F4A13945D898C296
      0x4FE342E2FE1A7F9B8EE7EB4A7C0F9E162BCE33576B315ECECBB6406837BF51F5 = true ∧
    P256.times 2 P256.base 256 = some (0x7CF27B188D034F7E8A52380304B51AC3C08969E277F21B35A60B48FC47669978,
      0x07775510DB8ED040293D9AC69F7430DBBA7DADE63CE982299E04B79D227873D1) := by decide +kernel

/-! Witnesses of the clauses on mapped lines, waits, containments, masked messages, the hub's configuration space and deals. -/

/-- A slot whose PC lies on a page of HBM that its core's buffer holds, executable or not. -/
def mappedLine (leaf : W64) : State :=
  { (paged leaf).modMe (fun x => { x with regs := { x.regs with pc := 0x10002 } }) with agenda := [.slot 0 0] }

/-- The page grants the fetch; refuses it; is none that a buffer holds; its walk failed; a table entry of it was in error. -/
theorem witness_LineFetch_mapped :
    (let s := mappedLine 0x20001F
     let e : TlbEntry := { corrupt := false, asid := 0, page := 0x10000, log2 := 12, leaf := 0x20001F }
     s.lookup 0 0 (s.slot 0 0).asid 0x10000 = .page e ∧ tcmSize 0 ≤ (0x10000 : W64).toNat ∧
     (match s.access 0 .none false .fetch e 0x10000 with | .ok k => k | .error _ => 0) = 0x200000 ∧ isConfig 0x200000 = false ∧ s.bad = [] ∧ s.soft = [] ∧
     (s.slot 0 0).act.map (fun a => a.owner.isNone && decide (a.cls ≠ 1)) = some true ∧ (s.slot 0 0).impreciseDue = false) ∧
    (let s := mappedLine 0x200003
     let e : TlbEntry := { corrupt := false, asid := 0, page := 0x10000, log2 := 12, leaf := 0x200003 }
     s.lookup 0 0 0 0x10000 = .page e ∧ (match s.access 0 .none false .fetch e 0x10000 with | .ok _ => 0 | .error c => c) = Code.permission ∧
     nextIs (step s) (fun t => t.regs.pc == 0x1000 && t.regs.tval == 0x10002 && fld t.regs.tcause 8 4 == 3) = true) ∧
    (let s := (mappedLine 0).modCore 0 (fun k => { k with tlb := [] })
     s.lookup 0 0 0 0x10000 = .pending ∧ nextIs (step s) (fun t => (t.core 0).walks.length == 1) = true ∧
     (let u := s.modCore 0 (fun k => { k with walks := [{ slot := 0, asid := 0, va := 0x10000, result := .fail 2, removed := [] }] })
      u.lookup 0 0 0 0x10000 = .fail 2)) ∧
    2 ^ 57 ≤ ((mappedLine 0).modMe (fun x => { x with regs := { x.regs with pc := 0x0200000000000000 } })).regs.pc.toNat := by decide +kernel

/-- A handler that both TVEC and LXMISS name is entered for another cause with LX 1. -/
theorem witness_TrapEntry_lx :
    let s := demoWith { demoRegs with lxmiss := 0x1000 }
    (s.takeTrap 0 0 2 Cause.illegalOperand 0 false 0 none).regs.tstat = 3 ∧ (demo.takeTrap 0 0 2 Cause.illegalOperand 0 false 0 none).regs.tstat = 1 := by
  decide +kernel

/-- SDRAIN with a store unchecked waits behind its boundary, and goes on when none is; after CHKPT's commit the next chunk is set apart. -/
theorem witness_Waits_drain :
    (let s := (committing false).modMe (fun x => { x with phase := .run })
     NotOnHart s ∧ s.me.unchecked ≠ 0 ∧ nextIs (exec .sdrain s) (fun t => t.me.phase == .wait .drain && t.regs.pc == s.cur.next) = true) ∧
    ((waiting .drain).me.phase = .wait .drain ∧ (waiting .drain).me.unchecked = 0 ∧
     ((committing false).modMe (fun x => { x with phase := .wait .drain })).me.unchecked ≠ 0 ∧ demo.halting 0 = false) ∧
    (let s := (committing true).modMe (fun x => { x with phase := .commit .chkpt })
     s.me.mustWait s = false ∧ nextIs (exec .chunkCommit s) (fun t => t.me.phase == .run && t.me.attempt.region) = true) ∧
    (let e : Chunk := { chunkAt demoRegs with squashes := 4, order := 7, last := [9] }
     { demo.me with ended := some e }.priority = some (7, [9])) := by
  refine ⟨⟨offHart (by decide +kernel), by decide +kernel, by decide +kernel⟩, by decide +kernel, by decide +kernel, by decide +kernel⟩

/-- A signature that differs: the trigger returns to its inbox, or the group is killed. -/
theorem witness_Sigchk_contained :
    (bit demo.regs.sigcfg 0 = true ∧ bit demo.regs.sigcfg 1 = false ∧ demo.regs.sigacc.setWidth 16 ≠ (5 : Half) ∧ placedAct.task = none ∧
     demo.me.inRegion = false ∧ placedAct.restartable = true ∧ placedAct.issuedMatrix = false ∧ placedAct.contained < 2 ∧
     nextIs (exec (.sigchk 5) demo) (fun t => t.me.act.isNone && (t.core 0).inbox.map (·.contained) == [1]) = true) ∧
    (let s := demo.modMe (fun x => { x with act := some { placedAct with contained := 2 } })
     nextIs (exec (.sigchk 5) s) (fun t => t.me.act.isNone && t.kills.length == 1) = true) := by decide +kernel

/-- A signature that differs in a task before its first commit, and in a region whose second CHKPT follows. -/
theorem witness_Sigchk_restarts :
    (let a : Act := { placedAct with task := some { key := (task 4).key, typ := 0, arg := 0, state := .speculative } }
     let s := demo.modMe (fun x => { x with act := some a })
     a.early = true ∧ a.contained < 2 ∧ s.me.ended = none ∧ s.me.chunk.isSome = true ∧ s.tasks = [] ∧
     nextIs (exec (.sigchk 5) s) (fun t => (t.me.act.map (·.contained)) == some 1 && t.me.chunk.isNone && t.kills == []) = true) ∧
    (let line : List Half := [2, (encode .nop).head, (encode .chkpt).head] ++ List.replicate 29 0
     let s := { demo.modMe (fun x => { x with act := some { placedAct with restartable := false }, fetch := { x.fetch with line := none }
                                              chunk := x.chunk.map (fun c => { c with region := true }) }) with
       mem := Memory.writeAll [] (tcmKey 0 0) (line.flatMap (fun h => bvBytes h 2)) }
     s.regionAt 0 0 = some true ∧
     nextIs (exec (.sigchk 5) s) (fun t => t.me.act.isSome && t.me.chunk.isNone && t.kills == [] && t.me.attempt.region) = true) := by
  decide +kernel

/-- A spawn into a cluster that a kill of its group has passed leaves no entry. -/
theorem witness_Tasks_killed :
    let s := spawning none
    let u := { s with kills := [{ core := 0, slot := 8, asid := s.me.asid, group := 0, side := .none, reached := clusterCores 0 }] }
    (s.me.act.map (·.stamp.group)) = some 0 ∧ u.killPassed 0 (s.stampOf 0 0) = true ∧
    nextIs (exec (.spawn (.g 1) (.g 2) (.g 3) (.g 0)) u) (fun t => t.regs.readG 1 == 0) = true := by decide +kernel

/-- A floating scan whose one addition is inexact. -/
theorem witness_Reductions_flags :
    let s := demoWith { demoRegs with v := demoRegs.v.set 2 0x338000013F800000 }
    nextIs (exec (.vscan .sum .f32 (.v 1) (.v 2) 0) s) (fun t => t.regs.fpst &&& 0xFF == 0x10) = true ∧
    (step1 .sum .f32 .rne 0x3F800000 0x33800001).2 = 0x10 := by decide +kernel

/-- With its queue full an activation whose MFRX.VALID is set waits; with a place its command is cancelled, a VALID cleared in the open
chunk included; at the commit of a set VALID the commands in the queue go. -/
theorem witness_MatrixIssue_valid :
    (let v (r : Regs) : Regs := { r with mfrx := 0x8000000000000000 }
     let s := matrix.modMe (fun x => { x with chunk := some (chunkAt (v matrix.regs)) })
     let full := s.modCore 0 (fun k => { k with mq := List.replicate 16 (MCmd.blank matrix) })
     16 ≤ (full.core full.cur.core).mq.length ∧ bit full.me.oldest.mfrx 63 = true ∧
     (s.core s.cur.core).mq.length < 16 ∧ bit s.me.oldest.mfrx 63 = true ∧ bit s.regs.mfrx 63 = false ∧ bit matrix.me.oldest.mfrx 63 = false ∧
     nextIs (exec (.mma (.g 0) (.g 6) (.g 7) (.g 8)) s) (fun t => fld t.regs.mfrx 48 8 == 1 && (t.core 0).mq == []) = true ∧
     s.me.chunk = some (chunkAt (v matrix.regs)) ∧ (0x8000000000000000 : W64) &&& crZero 0x028 (slotClass s.cur.slot == 2) = 0 ∧
     nextIs (exec (.crset 0x028 (.g 10)) (s.modRegs (fun r => { r with g := r.g.set 10 0x8000000000000000 })))
       (fun t => (t.me.chunk.map (·.acts)) == some [.coreReg 0x028 0x8000000000000000]) = true) ∧
    (let s := unitState [cmd1 0x40] []
     let t := s.perform 0 0 { demoRegs with mfrx := 0x8000000000000000 } (.coreReg 0x028 0x8000000000000000) []
     (s.slot 0 0).act = some placedAct ∧ (t.core 0).mq = [] ∧ fld (t.slot 0 0).regs.mfrx 48 8 = 1) := by decide +kernel

/-- A chunk that executes again matches the command of its earlier attempt, whatever its shape and header hold now. -/
theorem witness_Matrix_matched :
    let s := matrix.modMe (fun x => { x with chunk := some { chunkAt matrix.regs with issued := [4] } })
    (∀ ch, matrix.me.chunk = some ch → ch.issued.length ≤ ch.matched) ∧
    ({ chunkAt matrix.regs with issued := [4] } : Chunk).matched < [4].length ∧ s.me.chunk = some { chunkAt matrix.regs with issued := [4] } ∧
    Reads [okG (.g 7), okG (.g 6), okG (.g 7), okG (.g 8)] [.g 7, .g 6, .g 7, .g 8] none s [] s ∧
    nextIs (exec (.mma (.g 7) (.g 6) (.g 7) (.g 8)) s) (fun t => (t.core 0).mq == [] && t.me.chunk.map (·.matched) == some 1 && t.regs.pc == s.cur.next) = true ∧
    nextIs (exec (.mmas (.g 7) (.g 6) (.g 7) (.g 8)) s) (fun t => (t.core 0).mq == [] && t.me.chunk.map (·.matched) == some 1) = true := by
  refine ⟨fun ch h => ?_, by decide, by decide +kernel, plain (by simp) rfl, by decide +kernel, by decide +kernel⟩
  have e : ch = chunkAt matrix.regs := Option.some.inj (h.symm.trans (by decide +kernel))
  rw [e]; decide

/-- A write to a peer that has been marked unreachable, at its acknowledgement. -/
theorem witness_Checks_unreachable :
    let s := { demo.modSlot 0 0 (fun x => { x with ext := [{ stream := false, key := peerKey 3 64, bytes := [1] }] }) with unreachable := [3] }
    s.peerGone (peerKey 3 64) = true ∧ ofPeer 3 (peerKey 3 64) = true ∧ s.hubCut 0 = false ∧ demo.peerGone (hostKey 64) = false ∧
    nextIs (exec (.hostPeerAck 0 0 0) s) (fun t => t.mem == [] && (t.slot 0 0).ext == []) = true := by decide +kernel

/-- No overrun while an imprecise trap is due or a full chunk stands. -/
theorem witness_Boundaries_no_overrun :
    let s := demo.modMe (fun x => { x with act := some { placedAct with cls := 1, executed := 2048 } })
    (∀ ch, s.me.chunk = some ch → ch.count < 512) ∧ s.me.impreciseDue = false ∧ s.me.ext = [] ∧
    (let u := s.modRegs (fun r => { r with sfq := [5] })
     u.me.impreciseDue = true ∧ u.me.regs.resumed = false ∧ nextIs (exec .serviceOverrun u) (fun t => decide (t = u)) = true) ∧
    (let u := s.modMe (fun x => { x with chunk := some { chunkAt demoRegs with count := 512 } })
     nextIs (exec .serviceOverrun u) (fun t => decide (t = u)) = true) := by
  refine ⟨fun ch h => ?_, by decide +kernel, by decide +kernel, by decide +kernel, by decide +kernel⟩
  have e : ch = chunkAt demoRegs := by
    have : some ch = some (chunkAt demoRegs) := h.symm.trans (by decide +kernel)
    exact Option.some.inj this
  rw [e]; decide

/-- A message of a masked type is accepted though one of its type is parked; before a full inbox it waits; a candidate of the type waits
for the parked one. -/
theorem witness_Arrivals_behind :
    let m : Message := { mail with typ := 0xE0 }
    let p : Pending := { msg := m, arrival := 0, contained := 0, undeliv := false, byMask := true }
    let t := State.reset.modCore 0 (fun k => { k with rvtbase := 0x800 })
    let s := { t with
      mem := Memory.writeAll [] (tcmKey 0 (2048 + 8 * 0xE0)) (bvBytes (0x0000004800000042 : W64) 8)
      net := [m]
      parked := [(0, [p])]
      parkPlaces := [(0, 2)] }
    let full (s : State) : State := s.modCore 0 (fun k => { k with inbox := List.replicate 64 { msg := mail, arrival := 0, contained := 0, undeliv := false, byMask := false } })
    s.masked 0 m = true ∧ s.preemptedAt m.stamp.asid 0 = false ∧ s.maskedHeld 0 < 48 ∧ (s.core 0).inbox.length < 64 ∧
    (∀ q ∈ s.parked.get 0 [], q.byMask = true ∧ s.masked 0 q.msg = true) ∧
    nextIs (exec (.messageArrival 0) s) (fun t => (t.parked.get 0 []).length == 1 && (t.core 0).inbox.map (·.msg) == [m]) = true ∧
    s.behindParked 0 { p with arrival := 1 } = true ∧ s.behindParked 0 p = false ∧
    (full s).masked 0 m = true ∧ (full s).maskedHeld 0 < 48 ∧ 64 ≤ ((full s).core 0).inbox.length ∧
    (∀ q ∈ (full s).parked.get 0 [], q.byMask = true ∧ (full s).masked 0 q.msg = true) ∧
    nextIs (exec (.messageArrival 0) (full s)) (fun t => t.net == [m] && (t.core 0).inbox.length == 64) = true := by decide +kernel

/-- An inbox of 64: a request to an owner waits with nothing changed; another message waits as its entry has been read. -/
theorem witness_Arrivals_full :
    let full (s : State) : State := s.modCore 0 (fun k => { k with inbox := List.replicate 64 { msg := mail, arrival := 0, contained := 0, undeliv := false, byMask := false } })
    let r : OwnerReq := { tag := 0, owner := 0, key := 0, live := 0, op := .amo .add false 4 1 0, core := 4, slot := 0, act := 3,
                          stamp := Stamp.none 4 0, pc := 2 }
    let m : Message := { mail with typ := 0xFD, owner := some r }
    let s := full { mailed with net := [m] }
    let u := full mailed
    64 ≤ (s.core 0).inbox.length ∧ m.owner.isSome = true ∧ s.preemptedAt 0 0 = false ∧ s.masked 0 m = false ∧
    nextIs (exec (.messageArrival 0) s) (fun t => decide (t = s)) = true ∧
    64 ≤ (u.core 0).inbox.length ∧ mail.owner = none ∧ u.masked 0 mail = false ∧
    nextIs (exec (.messageArrival 0) u) (fun t => decide (t = u.readEntry 0 0 0x21)) = true := by decide +kernel

/-- A task's message whose address space has exited takes its entry with it. -/
theorem witness_Arrivals_exited_task :
    let m : Message := { mail with typ := 0xFA, stamp := Stamp.none 4 5, task := some (task 4).key }
    let s := { mailed with net := [m], tasks := [task 4] }
    m.taskKey = some (task 4).key ∧ m.nack = false ∧ s.graphsOf 5 = [] ∧
    nextIs (exec (.messageArrival 0) s) (fun t => t.tasks == []) = true := by decide +kernel

/-- The hub link of die 0 retired: no tile leaves for it, no report of it arrives, no peer's write enters it. -/
theorem witness_Cut_die :
    let cut (s : State) : State := { s with links := [(14, { Link.init with down := true })] }
    let d : TileDone := { graph := 3, seq := 1, node := 0, x := 0, y := 0, z := 0, side := .none }
    let l : Launch := { seq := 1, nodes := [node0], tiles := [tile0 true], duals := [], cursors := [] }
    let s := cut { launched [tile0 true] true [] node0 with tileDone := [d] }
    s.hubCut (l.sideCore (tile0 true) .none).toNat = true ∧ (l.tiles.find? (fun t => t.is d)) = some (tile0 true) ∧
    nextIs (exec (.tileReport 0) s) (fun t => decide (t = s)) = true ∧
    ((launched [tile0 false] true [] node0).nextTile 0 3).isSome = true ∧ ((cut (launched [tile0 false] true [] node0)).nextTile 0 3).isNone = true ∧
    (cut State.reset).hubCut 0 = true ∧ (cut State.reset).hubCutAt 0x1000 = true ∧ State.reset.hubCutAt 0x1000 = false ∧
    nextIs (exec (.peerWrite (.mem 0x1000) [1]) (cut State.reset)) (fun t => t.mem == []) = true := by decide +kernel

/-- What the host reads of HEALTH and of a port. -/
theorem witness_ConfigReads :
    (let s := State.reset.healthEvent 9 (.link 3)
     nextIs (exec (.hostRead .health 8) s) (fun t => fld (bytesNat t.hostRead : W64) 16 16 == 1 && fld t.healthWord 16 16 == 0 && bit t.healthWord 1) = true) ∧
    (let s := { State.reset with ports := [(2, { Port.init with dropped := 5 })] }
     nextIs (exec (.hostRead (.port 2) 32) s) (fun t => t.hostRead.length == 32 && t.hostRead[24]? == some 5) = true) := by decide +kernel

/-- Tables of memory that nothing has written hold no leaf. -/
theorem leaves_bare {s : State} (h : s.mem = []) (a : Asid) : s.leaves a = [] := by
  have z (pa : Nat) : bytesBv 64 (Memory.readN s.mem pa 8) = 0 := by rw [h]; rfl
  have e (pa : Nat) : s.tableEntry pa = .ok 0 ∨ ∃ r, s.tableEntry pa = .error r := by
    unfold State.tableEntry
    rw [z]
    repeat' split
    all_goals first
      | exact .inl rfl
      | exact .inr ⟨_, rfl⟩
  unfold State.leaves State.leavesFrom
  refine List.flatMap_eq_nil_iff.2 fun i _ => ?_
  rcases e ((s.space a).root + 8 * i) with q | ⟨r, q⟩
  all_goals
    simp only [q]
    try rfl

/-- An upload that adds nothing to page tables, and one that says it maps a page its placements do not. -/
theorem witness_Residence_maps :
    let k := { Core.init with spaces := [(1, SpaceRegs.zero)] }
    let s := { readied with hub := { readied.hub with busy := some 0x10000001 }, cores := [(0, k), (1, k)] }
    let m := { image3 with tcm := [], tcmCores := [], maps := [(0x10000, 4096)] }
    s.mapsAdded (s.install 3 1 image3) 1 image3 = true ∧ s.uploadRefusals m = [] ∧ s.mapsAdded (s.install 3 1 m) 1 m = false := by
  refine ⟨by decide +kernel, by decide +kernel, ?_⟩
  unfold State.mapsAdded
  rw [leaves_bare (by decide +kernel)]
  decide +kernel

/-- A deal's block leaves, and arrives later; a second one of the same core waits for the first; one whose source has changed is read
again; a second deal need not wait for the first. -/
theorem witness_DealsDeliver_flight :
    let w : Work := .deal 0x0004080040400F31 0x10000 5120
    let fly (l : List (Nat × List (Nat × List Byte))) : State := { engaged w with requests := [{ requestOf w with progress := 1, flight := l }] }
    let two : State := { engaged w with requests := [requestOf (.deal 0 0 64), requestOf w] }
    (requestOf w).flight = [] ∧ (requestOf w).stopped = false ∧ (requestOf w).progress < (requestOf w).total ∧
    nextIs (exec (.shuttleBlock (.leave 0 0)) (engaged w)) (fun t => t.requests.map (fun r => r.flight.map (·.1)) == [[0]] && t.net == []) = true ∧
    (fly []).unchanged [(0x200040, [1, 2])] = true ∧ (fly []).unchanged [(0x200040, [7])] = false ∧
    nextIs (exec (.shuttleBlock (.land 0 0 0)) (fly [(0, [(0x200040, [1, 2])])])) (fun t => Memory.read t.mem (tcmKey 0 0x2001) == 2 && (t.core 0).inbox.length == 1) = true ∧
    nextIs (exec (.shuttleBlock (.land 0 0 0)) (fly [(0, [(0x200040, [7])])])) (fun t => Memory.read t.mem (tcmKey 0 0x2041) == 2 && (t.core 0).inbox.length == 1) = true ∧
    nextIs (exec (.shuttleBlock (.land 0 0 1)) (fly [(0, [(0x200040, [1, 2])]), (0, [(0x200040, [1])])]))
      (fun t => decide (t = fly [(0, [(0x200040, [1, 2])]), (0, [(0x200040, [1])])])) = true ∧
    (two.dealAt 0 1).map (·.1) = some (requestOf w) ∧
    nextIs (exec (.shuttleBlock (.deliver 0 1)) two) (fun t => Memory.read t.mem (tcmKey 0 0x2041) == 2) = true ∧
    ((fly [(0, [])]).dropRequests placedAct.id).requests.map (fun r => (r.stopped, r.flight.length)) = [(true, 1)] := by decide +kernel

/-- The code after a CHKPT: a containment restarts the region where a second CHKPT follows, not where ENDA does, and by a free choice
where a branch decides. -/
theorem test_regionAt :
    let heads (l : List Half) (tails : List Half) : List Half := BitVec.ofNat 16 l.length :: l ++ List.replicate (31 - l.length - tails.length) 0 ++ tails
    let at_ (l tails : List Half) : State :=
      { demo with mem := Memory.writeAll [] (tcmKey 0 0) ((heads l tails).flatMap (fun h => bvBytes h 2)) }.setSlot 0 0
        { Slot.free with act := some { placedAct with restartable := false }, regs := { Regs.start with pc := 2 }
                         attempt := { Attempt.fresh with region := true } }
    let chkpt := (encode .chkpt).head
    let enda := (encode .enda).head
    let b := encode (.beq (.g 1) (.g 2) 3)
    (at_ [(encode .nop).head, chkpt] []).regionAt 0 0 = some true ∧ (at_ [(encode .nop).head, enda] []).regionAt 0 0 = some false ∧
    (at_ [b.head, enda, chkpt] [b.t2, b.t1]).regionAt 0 0 = none := by decide +kernel

/-- The signed repair log names its own entries when it comes back. -/
theorem test_records :
    let l : List RepairEvent := [RepairEvent.mk 1 (.row { bank := .sram 2 3 4, row := 77 }), RepairEvent.mk 6 (.lane 5 1 true 9), RepairEvent.mk 3 (.core 65)]
    let sig : BitVec 512 := 0x0102 <<< 496 ||| 0x0304
    recordSplit (recordJoin (repairBytes l) sig) = (repairBytes l, sig) ∧ recordEvents (repairBytes l) (repairBytes l).length = l := by
  decide +kernel

/-- Windows an upload refuses: not at a multiple of 64, too long, or over one of a resident graph in a cluster of both. -/
theorem test_redwins :
    redwinOk { win := 0, offset := 0x400, bytes := 256 } = true ∧ redwinOk { win := 0, offset := 0x420, bytes := 256 } = false ∧
    redwinOk { win := 0, offset := 0, bytes := 65600 } = false ∧
    (let w (o : Nat) : RedwinDecl := { win := 0, offset := o, bytes := 256 }
     let s := graphed { resident3 with redwins := [w 0x400] }
     let m := { image3 with nodes := [node0], redwins := [w 0x4C0] }
     s.redwinsTaken m = true ∧ s.redwinsTaken { m with redwins := [w 0x500] } = false ∧ s.redwinsTaken { m with redwins := [w 0x1FFFC0] } = true) ∧
    (let m := { image3 with vtbase := none, skeins := [{ id := 1, d0 := 2, d1 := 3 }, { id := 4, d0 := 5, d1 := 6 }] }
     sameSkeins m.skeins m.skeins.reverse = true ∧ sameSkeins m.skeins [] = false ∧ tablePlace none 0 = tablePlace (some 0x5000) 0) := by
  decide +kernel

/-- A die's summary spans its own tiles of a node that have not completed: of four tiles, two of them on die 1, one left to enter
there. -/
theorem test_summary :
    let n : NodeDecl := { words := [0x0000000100210000, 0x000100010004, 0x0002000100010001, 0, 0, 0xC000000000001000, 0x100, 0x4000000000],
                          cores := [0, 0x1000] }
    let l : Launch := { seq := 1, nodes := [n], tiles := [], duals := [], cursors := [(1, { node := 0, next := 2 })] }
    (l.toEnter 1 n).map (·.x) = [3] ∧ l.against 0 n true = [(0x1300, 0x1340)] := by decide +kernel

/-- A batch word in error stays as it is. -/
theorem witness_BatchesFinish_bad :
    let s := { engaged (.copy copyD) with
      requests := [{ requestOf (.copy copyD) with progress := 16 }]
      batches := [batch4 (tcmKey 0 0x100)]
      bad := [tcmKey 0 0x100 / 8] }
    s.badRange (tcmKey 0 0x100) 8 = true ∧ nextIs (exec (.batchFinish 0 0) s) (fun t => t.batches == [] && decide (t.mem = s.mem)) = true := by
  decide +kernel

/-- A lane of SCATA in own TCM, and a CPY whose descriptor is in order with no batch word in use: both are refused. -/
theorem witness_Refused_operands :
    (NotOnHart demo ∧ TrapReady demo ∧ Reads [okG (.g 4), okV (.v 2), okV (.v 3)] [.g 4, .v 2, .v 3] none demo [] demo ∧
     G [] (.g 4) demo 64 ∧ bit (64 : W64) 63 = false ∧ (demo.regs.readM 1).getLsbD 0 = true ∧
     ((64 : W64) + BitVec.ofNat 64 (4 * lane 32 (demo.regs.readV 2) 0)).toNat < tcmSize demo.cur.core ∧
     nextIs (exec (.scata true (.g 4) (.v 2) (.v 3) 1) demo) (fun t => t.regs.tcause.setWidth 8 == Cause.illegalOperand) = true) ∧
    (let s := copying.modRegs (fun r => { r with cpydone := 0 })
     (∃ u v, Gives (accessAddr 64 0 64 4) s 64 u ∧ Gives (memLoad 64 64) u copyWords v ∧ v.cur = s.cur ∧ TrapReady s ∧
       bit v.regs.cpydone 0 = false) ∧
     nextIs (exec (.cpy (.g 4)) s) (fun t => t.regs.tcause.setWidth 8 == Cause.illegalOperand) = true) :=
  ⟨⟨offHart (by decide +kernel), ready_is (by decide +kernel), plain (by simp) rfl, g_is (by decide +kernel), by decide, by decide +kernel,
    by decide +kernel, by decide +kernel⟩,
   ⟨_, _, gives_is (by decide +kernel), gives_is (by decide +kernel), by decide +kernel, ready_is (by decide +kernel), by decide +kernel⟩,
   by decide +kernel⟩

/-- A handler's chunk asks for priority beside the chunk its trap ended. -/
theorem witness_Commits_asks :
    let e := { chunkAt demoRegs with squashes := 4, order := 7, last := [9] }
    let ch := { chunkAt demoRegs with squashes := 5, order := 8, last := [3] }
    let x : Slot := { demo.me with ended := some e, chunk := some ch }
    x.asks = [(7, [9]), (8, [3])] ∧ 4 ≤ ch.squashes := by decide +kernel

/-- A candidate before which nothing of its type is parked, with something of its type parked after it. -/
theorem witness_Starts_candidate :
    let s := { called with parked := [(0, [{ msg := { mail with typ := 0xE0 }, arrival := 5, contained := 0, undeliv := false, byMask := true }])] }
    (s.candidates 0).map (fun p => (p.arrival, p.msg.owner.isNone)) = [(0, true)] ∧
    ((s.parked.get 0 []).map (fun q => (q.msg.dst.toNat, q.msg.typ, q.arrival))) = [(0, 0xE0, 5)] := by decide +kernel

/-- QSTAT gives at most 8 entries, and a load sees the adds pending on each line it touches. -/
theorem test_occ_and_adds :
    (let s := demo.modRegs (fun r => r.writeQ 2
       { bind := .stream false { base := 0x10000, w := 4, n0 := 100, n1 := 1, n2 := 1, st0 := 4, st1 := 0, st2 := 0 } 0, entries := [],
         count := 100, closed := false, fetched := List.replicate 11 (.ok 0x200000) })
     s.queueOcc 2 = 8) ∧
    (let k := scratchKey 0 0x440
     let add (a : Nat) (v : V512) : Store := { oneStore demo 0 0 0 [] with adds := some { key := a, t := .i32, mask := 1, v := v }, checked := true }
     let s : State := { demo with mem := Memory.writeAll [] (k - 4) [1, 0, 0, 0, 2, 0, 0, 0] }
     let x : Slot := { demo.me with chunk := some { chunkAt demoRegs with stores := [add k 5] } }
     s.ownBytes x (k - 4) 8 = [1, 0, 0, 0, 7, 0, 0, 0]) := by decide +kernel

/-! Witnesses of rounding, the unit's sums, links that step, retirements, the exit's refusals, and what a lane or a label stops at. -/

/-- The examples of R138, and the smallest magnitudes that are tiny before rounding and not after it. -/
theorem witness_RoundingRule :
    FFmt.e4m3 ∈ floats ∧ (300 : Nat) ≠ 0 ∧ Finite (.zero true) ∧ Finite (.fin true 3 (-1)) ∧ ¬ Finite (.inf false) ∧
    0x7E % FFmt.e4m3.signBit ≤ FFmt.e4m3.maxCode ∧
    roundTo FFmt.e4m3 .rne false (.fin false 300 0) = (0x79, Fl.nx) ∧
    roundTo FFmt.e4m3 .rne false (.fin false 500 0) = (0x7F, Fl.of ||| Fl.nx) ∧
    roundTo FFmt.e4m3 .rne true (.fin false 500 0) = (0x7E, Fl.satf ||| Fl.nx) ∧
    roundTo FFmt.e4m3 .rne false (.fin false 891 (-20)) = (0, Fl.uf ||| Fl.nx) ∧
    roundTo FFmt.fp16 .rdn false (.fin true 65519 0) = (0xFC00, Fl.of ||| Fl.nx) ∧
    roundTo FFmt.fp16 .rne false (.fin false 8191 (-27)) = (0x400, Fl.nx) ∧
    roundTo FFmt.fp16 .rtz false (.fin false 8191 (-27)) = (0x3FF, Fl.uf ||| Fl.nx) := by
  refine ⟨?_, by decide, trivial, ?_, fun h => h, by decide, by decide +kernel, by decide +kernel, by decide +kernel, by decide +kernel,
    by decide +kernel, by decide +kernel, by decide +kernel⟩
  · unfold floats; decide
  · show (3 : Nat) ≠ 0; decide

/-- Formats that pair and a K of whole groups: FP16 panels, INT8 panels, a record of E4M3 values; one product of two FP16 ones, and the
MXFP8 block of R146. -/
theorem witness_MatrixResults :
    (let c := { cmd1 0x40 with k := 8 }
     fmtKnown (fld c.fa 0 8) = true ∧ fmtKnown (fld c.fb 0 8) = true ∧ fmtPair (fld c.fa 0 8) (fld c.fb 0 8) = true ∧
     kOk (fld c.fa 0 8) (fld c.fb 0 8) c.k = true ∧ c.structured = false ∧ fld c.fa 0 8 ≠ 7 ∧ kGroup (fld c.fa 0 8) (fld c.fb 0 8) = 8 ∧
     c.k / 8 = 1 ∧
     (let f (o va : Nat) : Flit := { opnd := o, va := va, key := 0, bytes := [0, 0x3C] ++ List.replicate 30 0 }
      c.results [f 0 0x40, f 1 0x80] (fun _ _ => 0x40000000) = ([[0x40400000]], 0))) ∧
    (let c := { cmd1 0x40 with k := 16, fa := 0x00200007, fb := 0x00200007 }
     fmtPair 7 7 = true ∧ kOk 7 7 16 = true ∧ fld c.fa 0 8 = 7 ∧
     (let f (o va : Nat) : Flit := { opnd := o, va := va, key := 0, bytes := [0xFF, 2] ++ List.replicate 30 0 }
      c.results [f 0 0x40, f 1 0x80] (fun _ _ => 0xFFFFFFFE) = ([[3]], 0))) ∧
    (let c := { cmd1 0x40 with k := 16, fa := 0x00200003, fb := 0x00200003, structured := true, terms := 0, nres := 0 }
     fmtPair 3 3 = true ∧ kOk 3 3 16 = true ∧ c.structured = true ∧ 1 ≤ fld c.fa 0 8 ∧ fld c.fa 0 8 ≤ 4 ∧
     supplied c [] 0 0 = [] ∧
     (let f : Flit := { opnd := 1, va := 0x80, key := 0, bytes := [0x7F] ++ List.replicate 31 0 }
      c.results [f] (fun _ _ => 5) = ([[5]], Fl.sknf))) := by decide +kernel

/-- A command whose target is a window of the cluster: its result joins the window's word. -/
theorem witness_CommandsComplete_window :
    let h : W64 := 0x8000000000000000
    let f (o va : Nat) : Flit := { opnd := o, va := va, key := tcmKey 0 va, bytes := [0, 0x3C] ++ List.replicate 30 0 }
    let r : Running := { cmd := { cmd1 0x40 with target := h, k := 8 }, flits := [f 0 0x40, f 1 0x80], fault := none }
    let s := { unitState [r.cmd] [r] with
      graphs := [(3, { resident3 with asid := 0, redwins := [{ win := 0, offset := 0x400, bytes := 1024 }] })]
      mem := Memory.writeAll [] (scratchKey 0 0x400) (natBytes 0x40000000 4) }
    (s.munit (octetBase 0)).running = [r] ∧ Memory.wf s.mem = true ∧ bit r.cmd.target 63 = true ∧ r.cmd.m ≤ 16 ∧
    s.windowAt 0 r.cmd.stamp h 1024 = some (scratchKey 0 0x400) ∧
    Memory.readN (s.windowAdd false (scratchKey 0 0x400) [0x3F800000]).mem (scratchKey 0 0x400) 4 = natBytes 0x40400000 4 := by
  decide +kernel

/-- An exit while a command is in progress, with a bit set that must be zero, and before the module is ready. -/
theorem witness_GraphCommands_exit :
    let w : W64 := 0x30002
    let busy : State := { readied with hub := { readied.hub with busy := some 2 } }
    let early : State := { State.reset with graphs := [(3, resident3)] }
    fld w 0 4 = 2 ∧ gcmdBad w = false ∧ gcmdBad (0x400002 : W64) = true ∧ fld (0x400002 : W64) 0 4 = 2 ∧ busy.hub.busy.isSome = true ∧
    nextIs (exec (.graphExit w) busy) (fun t => decide (t = busy)) = true ∧
    nextIs (exec (.graphExit 0x400002) readied) (fun t => t.hub.result == 7) = true ∧
    State.reset.hub.bootState ≠ 5 ∧ (early.graph 3).resident = true ∧ (State.reset.graph 3).resident = false ∧
    nextIs (exec (.graphExit w) early) (fun t => t.hub.result == 5 && t.hub.graph == 3) = true := by decide +kernel

/-- Links that step with LNK_TRAP enabled: a lane, a rate still of 48 GT/s, one below it, the floor, a retirement. -/
theorem witness_LinksDegrade_tells :
    let trap (s : State) : State := Lnk.put s 0 { Lnk.get s 0 with trap := 0x01E00004 }
    let told (t : State) : Bool := t.net.map (fun m => (m.dst, m.typ, m.stamp.lpri, m.payload.take 1)) == [((4 : CoreId), (0xE0 : BitVec 8), 7, [0])]
    let last (t : State) : Nat := fld t.hub.health 8 8
    bit (Lnk.get (trap (worn 0x22 [])) 0).trap 24 = true ∧ Id.isCompute 4 = true ∧ State.reset.provided 4 = true ∧
    bit (Lnk.get (worn 0x22 []) 0).trap 24 = false ∧
    nextIs (exec (.linkWindowEnd 0) (trap (worn 0x22 [(lane0, 17)]))) (fun t => told t && last t == 6) = true ∧
    nextIs (exec (.linkWindowEnd 0) (trap (worn 0x122 []))) (fun t => told t && last t == 7) = true ∧
    nextIs (exec (.linkWindowEnd 0) (worn 0x144 [])) (fun t => t.net == [] && last t == 0) = true ∧
    nextIs (exec (.linkWindowEnd 0) (trap (worn 0x20 []))) (fun t => told t && last t == 8) = true ∧
    nextIs (exec (.retrainDone 0 false) (trap (worn 0x221 []))) (fun t => told t && last t == 9 &&
      t.net.map (·.payload.drop 2) == [[Lnk.rateWord (Lnk.get t 0)]]) = true ∧
    (let s : State := { worn 0x20 [] with hub := { State.reset.hub with hint := State.reset.hub.hint.set 2 0x1001 } }
     bit s.hub.hint[0] 0 = false ∧ bit s.hub.hint[2] 0 = true ∧ fld s.hub.hint[2] 47 1 = 0 ∧ Memory.wf s.mem = true) := by decide +kernel

/-- A core whose cluster has no spare left, and a bank core whose base die is cut off, with a saved context of theirs; a pseudo-channel
that fails with no page on it, and one whose page would stay. -/
theorem witness_QuiesceRepairs_lost :
    (let s := { (graphed { resident3 with saved := [{ saved3 with core := 1, act := act5 }] }).modCore 1 (fun k => { k with failing := true }) with
       capacity := { Capacity.full with spares := [(0, 2)] } }
     s.quiet 0 = true ∧ s.provided 1 = true ∧ (s.core 1).failing = true ∧ 2 ≤ s.capacity.spares.get (Id.clusterNo 1) 0 ∧
     (s.graph 3).saved.map (·.core) = [1] ∧
     nextIs (exec (.quiesceRepair 0 (.core 1)) s) (fun t => t.provided 1 == false && fld t.hub.health 8 8 == 4 && t.kills.length == 1 &&
       (t.graph 3).saved == []) = true) ∧
    (let s := { State.reset with links := [(6, { Link.init with down := true })] }
     Id.die 16384 = 0 ∧ Id.isBank 16384 = true ∧ Id.stack 16384 = 0 ∧ s.provided 16384 = true ∧ (Lnk.get s (6 + Id.stack 16384)).down = true ∧
     s.quiet 0 = true ∧ nextIs (exec (.quiesceRepair 0 (.core 16384)) s) (fun t => t.provided 16384 == false) = true ∧
     (0, 3) ∉ s.capacity.lostChannels ∧ s.movesOk 0 3 [] = true ∧ s.editsOk 0 3 (s.mappedOn 0 3) [] = true ∧ s.movesOk 0 3 [(1, 2)] = false ∧
     nextIs (exec (.quiesceRepair 0 (.channel 0 3 [] [])) s) (fun t => t.capacity.lostChannels == [(0, 3)] && fld t.hub.health 8 8 == 5 &&
       t.populated 0x3000 == false) = true ∧
     nextIs (exec (.quiesceRepair 0 (.channel 0 3 [(1, 2)] [])) s) (fun t => decide (t = s)) = true) ∧
    (let s := { State.reset with capacity := { Capacity.full with channelRows := [(3, 1), (3, 2), (3, 5)] } }
     3 ≤ (s.capacity.channelRows.filter (fun e => e.1 == 0 * 64 + 3)).length) := by decide +kernel

/-- Lanes 0 and 1 pass and lane 2 does not: beyond 2^57, misaligned; under a label, outside its node, misaligned in it. -/
theorem witness_AddressRule_lanes :
    (let h : W64 := 0x01FFFFFFFFFFFFF8
     (∀ j ∈ [0, 1], (h + BitVec.ofNat 64 j * 4).toNat < 2 ^ 57 ∧ (h + BitVec.ofNat 64 j * 4).toNat % 4 = 0) ∧ bit h 63 = false ∧
     2 ^ 57 ≤ (h + BitVec.ofNat 64 2 * 4).toNat ∧
     (match elements h 4 4 ([0, 1] ++ 2 :: [3]) 0 demo with | .error (.trap c v _ _ _) _ => c == Cause.address && v == h + 8 | _ => false) = true) ∧
    ((∀ j ∈ [0], ((0x40 : W64) + BitVec.ofNat 64 j * 6).toNat < 2 ^ 57 ∧ ((0x40 : W64) + BitVec.ofNat 64 j * 6).toNat % 4 = 0) ∧
     ((0x40 : W64) + BitVec.ofNat 64 1 * 6).toNat % 4 ≠ 0) ∧
    (∃ t b u, Gives (wellFormedLabel lab1) labelled skein0 t ∧ Gives (labelTranslate skein0 lab1 0) t b u ∧
      (∀ j ∈ [0, 1], (0 ≤ (BitVec.ofNat 64 j * 0x100 : W64).toInt ∧ (BitVec.ofNat 64 j * 0x100 : W64).toInt + (4 : Nat) ≤ 2 ^ skein0.log2)) ∧
      ¬ (0 ≤ (BitVec.ofNat 64 2 * 0x100 : W64).toInt ∧ (BitVec.ofNat 64 2 * 0x100 : W64).toInt + (4 : Nat) ≤ 2 ^ skein0.log2)) ∧
    (match elements lab1 0x100 4 [0, 1, 2] 0 labelled with | .error (.trap c v _ _ _) _ => c == Cause.labelOffset && v == lab1 | _ => false) = true ∧
    (match elements lab1 6 4 [0, 1] 0 labelled with | .error (.trap c _ _ _ _) _ => c == Cause.misaligned | _ => false) = true := by
  refine ⟨by decide +kernel, by decide +kernel, ⟨_, _, _, gives_is (by decide +kernel), gives (by decide +kernel), by decide +kernel, by decide +kernel⟩,
    by decide +kernel, by decide +kernel⟩

/-- TSTAT of a non-restartable speculative activation inside a handler with a trap held, MSTAT of one with a command outstanding, SFQSTAT
of one with a record. -/
theorem witness_ControlRegisterReads_views :
    (let a : Act := { placedAct with restartable := false, task := some { key := (task 4).key, typ := 0, arg := 0, state := .speculative } }
     let s := demo.modMe (fun x => { x with act := some a, matrix := [{ order := 0, tval := 0, k0 := 0, k1 := 0 }], regs := { x.regs with tstat := 3 } })
     s.crValue 0x016 = 0x1F ∧ s.regs.inHandler = true) ∧ demo.crValue 0x016 = 0 ∧
    (let s := (unitState [cmd1 0x40] []).modRegs (fun r => { r with mstat := 0x105 })
     s.crValue 0x026 = 0x10105 ∧ s.outstanding s.cur.core s.cur.slot ≤ 16) ∧
    (let s := demo.modRegs (fun r => { r with sfq := [5] })
     s.regs.sfq.length ≤ 8 ∧ s.crValue 0x048 = 1) := by decide +kernel

/-- Lanes of AMOV: a minimum signed, a float minimum of the zeros and of a NaN, a float sum. -/
theorem witness_Atomics_lanes :
    (AmoOp.min ∈ amos.map (·.2.1)) ∧ amovNew .i32 .min 0xFFFFFFFF 1 = (0xFFFFFFFF, 0) ∧ amovNew .i32 .minu 0xFFFFFFFF 1 = (1, 0) ∧
    amovNew .f32 .min 0 0x80000000 = (0x80000000, 0) ∧ amovNew .f16 .max 0x7E01 0x3C00 = (0x7E00, 0) ∧
    amovNew .bf16 .fadd 0x3F80 0x3F80 = (0x4000, 0) := by
  refine ⟨by simp [amos], by decide +kernel, by decide +kernel, by decide +kernel, by decide +kernel, by decide +kernel⟩

/-- The lists of R295. -/
theorem test_tkMerge :
    tkMerge [(0x40A00000, 7), (0x40400000, 2), (0x40400000, 9), (0x40800000, 9), (0x7FC00000, 3), (0x40400000, 1), (0xFF800000, 4)] =
      [(0x40A00000, 7), (0x40800000, 9), (0x40400000, 1), (0x40400000, 2), (0xFF800000, 4)] := by decide +kernel

/-- A task whose activation resumed from a migration message: a containment redelivers that message, its entry in flight again. -/
theorem test_migrated_task_contained :
    let p : Portable := { g := Vector.replicate 32 0, v := [], m := Vector.replicate 8 0, pc := 2, cls := 0, task := some (task 4).key }
    let a : Act := { placedAct with task := some { key := (task 4).key, typ := 0x30, arg := 0, state := .firm }
                                    trigger := { placedMessage with portable := some p } }
    let s : State := { demo.modMe (fun x => { x with act := some a }) with tasks := [{ task 4 with running := some (0, 0) }] }
    nextIs (exec (.sigchk 5) s) (fun t => t.kills == [] && t.me.act.isNone && (t.core 0).inbox.map (·.msg.portable) == [some p] &&
      t.tasks.map (·.running) == [some (0, 99)]) = true := by decide +kernel

/-- An atomic elsewhere whose destination is a full bound queue is not executed: no request leaves. A pop of a label base is undone by a
label miss and by no other fault. -/
theorem test_not_executed :
    (let full (n : Nat) : State := (paged 0x20004F).modRegs (fun r => { r with q := r.q.set 4 { Queue.empty with bind := .producer 1 2, closed := n == 0 } })
     (match needPlace (.q 4) (full 0) with | .error (.trap c _ _ _ _) _ => c == Cause.streamEnd | _ => false) = true ∧
     (match needPlace (.q 4) (full 1) with | .error .holdCommit t => decide (t = full 1) | _ => false) = true ∧
     nextIs (exec (.amoAdd .s8 (.q 4) (.g 5) (.g 2)) (full 1)) (fun t => t.me.phase == .run && t.net == [] && t.regs.pc == 2) = true) ∧
    (let q (s : State) (x : V512) : State := s.modRegs (fun r => { r with q := r.q.set 1 { Queue.empty with entries := [x, 7] }, tvec := 0x1000 })
     nextIs (exec (.ld .s8 (.g 1) (.q 1) 0) (q (labelledWith false []) (lab1.setWidth 512)))
       (fun t => t.regs.tcause.setWidth 8 == Cause.labelMiss && t.regs.q[1].entries.length == 2) = true ∧
     nextIs (exec (.ld .s8 (.g 1) (.q 1) 0) (q demo 3))
       (fun t => t.regs.tcause.setWidth 8 == Cause.misaligned && t.regs.q[1].entries.length == 1) = true) := by decide +kernel

/-- A lane in own TCM refuses a SCATA before its empty data queue does. -/
theorem test_scata_order :
    nextIs (exec (.scata true (.g 4) (.v 2) (.q 5) 1) demo) (fun t => t.regs.tcause.setWidth 8 == Cause.illegalOperand) = true := by decide +kernel

/-- Shadow frames beyond their range, tables outside device memory, a key pair's bytes, messages that nothing orders. -/
theorem test_ranges_and_orders :
    State.reset.shadowOk 0 4096 = true ∧ State.reset.shadowOk (0x8000000000 - 4096) 4096 = false ∧
    State.reset.shadowOk (2 ^ 48 - 8192) 4096 = false ∧ State.reset.shadowOk (2 ^ 47) 4096 = true ∧
    (match State.reset.tableEntry (2 ^ 47) with | .ok _ => false | .error _ => true) = true ∧
    (match State.reset.tableEntry 0x1000 with | .ok v => v == 0 | .error _ => false) = true ∧
    (pairBytes (1 <<< 256 ||| 2)).take 2 = [1, 0] ∧ (pairBytes (1 <<< 256 ||| 2)).drop 32 = 2 :: List.replicate 31 0 ∧
    mail.precedes mail = false ∧ ({ mail with fromSlot := 2 } : Message).precedes { mail with fromSlot := 2 } = true := by decide +kernel

/-- A skein table apart from what the image maps, and one inside it. -/
theorem witness_Residence_skeins :
    let s := State.reset
    let m := { image3 with sktab := 0x401, skeins := [{ id := 1, d0 := 2, d1 := 3 }] }
    s.skeinsPlaced 1 image3 = true ∧ s.skeinsPlaced 1 m = true ∧ s.skeinsPlaced 1 { m with maps := [(0x400, 64)] } = false ∧
    s.skeinsPlaced 1 { m with sktab := 0 } = false := by decide +kernel

/-- A queue with more fetched entries than its eight gives eight to the record. -/
theorem test_entriesOf :
    (demo.entriesOf { Queue.empty with bind := .stream false { base := 0x10000, w := 4, n0 := 100, n1 := 1, n2 := 1, st0 := 4, st1 := 0, st2 := 0 } 0,
                                       fetched := List.replicate 11 (.ok 0x200000) } 0).length = 512 := by decide +kernel

/-! Heads that raise illegal-instruction (R63, R69, R70), each one field away from a word that decodes. -/

theorem test_refused_major : refusedWord { head := 0x0000, t1 := 0, t2 := 0, t3 := 0 } = true ∧
    refusedWord { head := 0x3F80, t1 := 0, t2 := 0, t3 := 0 } = true := by decide

theorem test_refused_tail_length : refusedWord { head := 0x4080, t1 := 0, t2 := 0, t3 := 0 } = true ∧
    refusedWord { head := 0x4101, t1 := 0x040C, t2 := 0, t3 := 0 } = true := by decide

theorem test_refused_function : refusedWord { head := 0x8101, t1 := 0x040C, t2 := 0x01F8, t3 := 0 } = true ∧
    refusedWord { head := 0x8701, t1 := 0x0403, t2 := 0x0FC0, t3 := 0 } = true := by decide

theorem test_refused_nonzero_field : refusedWord { head := 0x0081, t1 := 0, t2 := 0, t3 := 0 } = true ∧
    refusedWord { head := 0x8101, t1 := 0x040C, t2 := 0x0200, t3 := 0 } = true ∧
    refusedWord { head := 0x8101, t1 := 0x040D, t2 := 0, t3 := 0 } = true ∧
    refusedWord { head := 0x811F, t1 := 0x0404, t2 := 0x00C8, t3 := 0 } = true := by decide

theorem test_refused_register : refusedWord { head := 0x8150, t1 := 0x040C, t2 := 0, t3 := 0 } = true ∧
    refusedWord { head := 0x8170, t1 := 0x040C, t2 := 0, t3 := 0 } = true ∧
    refusedWord { head := 0x8178, t1 := 0x040C, t2 := 0, t3 := 0 } = true := by decide

/-! Terms that stand for no instruction the encoding tables admit. -/

theorem test_ill_formed_fields : (Instr.bext (.g 1) (.g 2) 60 4).wf = false ∧ (Instr.bext (.g 1) (.g 2) 60 3).wf = true ∧
    (Instr.bexts (.g 1) (.g 2) 63 1).wf = false ∧ (Instr.bins (.g 1) (.g 2) (.g 3) 1 63).wf = false := by decide

theorem test_ill_formed_crwr : (Instr.crwr 0x031 (.g 1)).wf = false ∧ (Instr.crwr 0x025 (.g 1)).wf = false ∧
    (Instr.crwr 0xA10 (.g 1)).wf = false ∧ (Instr.crwr 0x909 (.g 1)).wf = false ∧ (Instr.crwr 0x012 (.g 1)).wf = true := by decide

theorem test_ill_formed_crrd : (Instr.crrd (.g 1) 0x880).wf = false ∧ (Instr.crrd (.g 1) 0xA15).wf = false ∧
    (Instr.crrd (.g 1) 0x013).wf = true := by decide

theorem test_ill_formed_amov : (Instr.amov .fadd .i32 (.v 1) (.g 4) (.v 2) 0).wf = false ∧
    (Instr.amov .xor .f32 (.v 1) (.g 4) (.v 2) 0).wf = false ∧ (Instr.amov .fadd .f32 (.v 1) (.g 4) (.v 2) 0).wf = true := by decide

theorem test_ill_formed_send : (Instr.send (.g 1) (.g 2) 0x21 0 false false).wf = false ∧
    (Instr.send (.g 0) (.g 2) 0x21 0 false false).wf = true := by decide

theorem test_ill_formed_vcvt : (Instr.vcvt .e2m1 .e2m1 none false (.v 1) (.v 2) 0).wf = false ∧
    (Instr.vcvt .fp32 .fp16 none true (.v 1) (.v 2) 0).wf = false ∧ (Instr.vcvt .e4m3 .fp32 (some .rne) true (.v 1) (.v 2) 0).wf = true := by decide

theorem test_ill_formed_event : (Instr.chunkCommit).wf = false ∧ (Instr.trigger 0).wf = false ∧ (Instr.powerUp).wf = false := by decide

/-! Words of the opcode table. -/

theorem test_table_word : decodeTableWord 16 0x0080 = some .nop ∧ decodeTableWord 48 0x8101040C0008 = some (.sub (.g 1) (.g 2) (.g 3)) ∧
    decodeTableWord 16 0x0000 = none := by decide

theorem test_fetch_word :
    nextIs (step (State.reset.withFetchWord 16 0x0080)) (fun t => t.regs.pc == 66) = true ∧
    nextIs (step (State.reset.withFetchWord 64 0xC582000000000005)) (fun t => t.regs.readG 2 == 5) = true := by decide +kernel

/-! Single steps on values worked out by hand from each rule. -/

/-- `demo` with these in g2 and g3. -/
def pairOf (a b : W64) : State := demoWith { demoRegs with g := ((demoRegs.g).set 2 a).set 3 b }

/-- What an instruction leaves in g1. -/
def g1Of (i : Instr) (s : State) (x : W64) : Bool := nextIs (exec i s) (fun t => t.regs.readG 1 == x)

/-- What an instruction leaves in v1. -/
def v1Of (i : Instr) (s : State) (x : V512) : Bool := nextIs (exec i s) (fun t => t.regs.readV 1 == x)

/-- R76. -/
theorem test_scalar_arithmetic :
    g1Of (.add (.g 1) (.g 2) (.g 3)) (pairOf 0xFFFFFFFFFFFFFFFF 2) 1 = true ∧
    g1Of (.sub (.g 1) (.g 2) (.g 3)) demo 0xFFFFFFFFFFFFFFFE = true ∧
    g1Of (.mul (.g 1) (.g 2) (.g 3)) (pairOf 0x8000000000000001 2) 2 = true ∧
    g1Of (.mulh (.g 1) (.g 2) (.g 3)) (pairOf 0xFFFFFFFFFFFFFFFF 2) 0xFFFFFFFFFFFFFFFF = true ∧
    g1Of (.mulhu (.g 1) (.g 2) (.g 3)) (pairOf 0xFFFFFFFFFFFFFFFF 2) 1 = true ∧
    g1Of (.div (.g 1) (.g 2) (.g 3)) (pairOf 0xFFFFFFFFFFFFFFF9 2) 0xFFFFFFFFFFFFFFFD = true ∧
    g1Of (.rem (.g 1) (.g 2) (.g 3)) (pairOf 0xFFFFFFFFFFFFFFF9 2) 0xFFFFFFFFFFFFFFFF = true ∧
    g1Of (.divu (.g 1) (.g 2) (.g 3)) (pairOf 9 2) 4 = true ∧ g1Of (.remu (.g 1) (.g 2) (.g 3)) (pairOf 9 2) 1 = true := by decide +kernel

/-- R76. -/
theorem test_scalar_logic :
    g1Of (.and (.g 1) (.g 2) (.g 3)) (pairOf 12 10) 8 = true ∧ g1Of (.or (.g 1) (.g 2) (.g 3)) (pairOf 12 10) 14 = true ∧
    g1Of (.xor (.g 1) (.g 2) (.g 3)) (pairOf 12 10) 6 = true ∧ g1Of (.shl (.g 1) (.g 2) (.g 3)) (pairOf 3 65) 6 = true ∧
    g1Of (.shr (.g 1) (.g 2) (.g 3)) (pairOf 0x8000000000000000 63) 1 = true ∧
    g1Of (.sra (.g 1) (.g 2) (.g 3)) (pairOf 0x8000000000000000 63) 0xFFFFFFFFFFFFFFFF = true ∧
    g1Of (.slt (.g 1) (.g 2) (.g 3)) (pairOf 0xFFFFFFFFFFFFFFFF 0) 1 = true ∧
    g1Of (.sltu (.g 1) (.g 2) (.g 3)) (pairOf 0xFFFFFFFFFFFFFFFF 0) 0 = true ∧
    g1Of (.min (.g 1) (.g 2) (.g 3)) (pairOf 0xFFFFFFFFFFFFFFFF 3) 0xFFFFFFFFFFFFFFFF = true ∧
    g1Of (.maxu (.g 1) (.g 2) (.g 3)) (pairOf 0xFFFFFFFFFFFFFFFF 3) 0xFFFFFFFFFFFFFFFF = true ∧
    g1Of (.max (.g 1) (.g 2) (.g 3)) (pairOf 0xFFFFFFFFFFFFFFFF 3) 3 = true ∧
    g1Of (.minu (.g 1) (.g 2) (.g 3)) (pairOf 0xFFFFFFFFFFFFFFFF 3) 3 = true ∧
    g1Of (.clz (.g 1) (.g 2)) (pairOf 1 0) 63 = true ∧ g1Of (.ctz (.g 1) (.g 2)) (pairOf 8 0) 3 = true ∧
    g1Of (.popc (.g 1) (.g 2)) (pairOf 0xF0F 0) 8 = true := by decide +kernel

/-- R77, R79. -/
theorem test_scalar_immediates :
    g1Of (.addi (.g 1) (.g 2) 0xFFFF) demo 6 = true ∧ g1Of (.shli (.g 1) (.g 2) 63) demo 0x8000000000000000 = true ∧
    g1Of (.slti (.g 1) (.g 2) 0x8000) demo 0 = true ∧ g1Of (.li (.g 1) 0x80000000) demo 0xFFFFFFFF80000000 = true ∧
    g1Of (.bext (.g 1) (.g 2) 4 7) (pairOf 0xABCD 0) 0xBC = true ∧ g1Of (.bexts (.g 1) (.g 2) 4 7) (pairOf 0xABCD 0) 0xFFFFFFFFFFFFFFBC = true ∧
    g1Of (.bins (.g 1) (.g 2) (.g 3) 4 7) (pairOf 0xABCD 0x42) 0xA42D = true := by decide +kernel

/-- R60, R80, R81. -/
theorem test_branches :
    nextIs (exec (.blt (.g 2) (.g 3) 0x22) demo) (fun t => t.regs.pc == 68) = true ∧
    nextIs (exec (.bge (.g 2) (.g 3) 0x22) demo) (fun t => t.regs.pc == demo.cur.next) = true ∧
    nextIs (exec (.loop (.g 2) 0xFFE1) demo) (fun t => t.regs.readG 2 == 6 && t.regs.pc == 0xFFFFFFFFFFFFFFC2) = true := by decide +kernel

/-- A pop yields the oldest entry and removes it; a push adds the newest (R62, R66). -/
theorem test_queue_operands :
    nextIs (exec (.add (.g 1) (.q 1) (.q 1)) demo) (fun t => t.regs.readG 1 == 22 && t.regs.q[(1 : Fin 16)].entries == [12]) = true ∧
    nextIs (exec (.mov (.q 1) (.g 2)) demo) (fun t => t.regs.q[(1 : Fin 16)].entries == [11, 12, 7]) = true := by decide +kernel
end

section
/-! Fields of a word: what a write of one field leaves in every field. -/

namespace Sys2Proof.Machine

/-- A bit of a field is a bit of the word. -/
theorem testBit_fld (x : W64) (lo n j : Nat) : (fld x lo n).testBit j = (decide (j < n) && bit x (lo + j)) := by
  unfold fld bit
  rw [Nat.testBit_mod_two_pow, Nat.testBit_div_two_pow, BitVec.testBit_toNat, Nat.add_comm j lo]

/-- A field written holds the new value, and every bit outside it stands. -/
theorem bit_setFld {lo n : Nat} (h : lo + n ≤ 64) (x : W64) (v i : Nat) :
    bit (setFld x lo n v) i = if lo ≤ i ∧ i < lo + n then v.testBit (i - lo) else bit x i := by
  have parts : x.toNat = 2 ^ lo * (2 ^ n * (x.toNat / 2 ^ lo / 2 ^ n) + fld x lo n) + x.toNat % 2 ^ lo := by
    unfold fld
    rw [Nat.div_add_mod, Nat.div_add_mod]
  have split : x.toNat - fld x lo n * 2 ^ lo + v % 2 ^ n * 2 ^ lo =
      2 ^ lo * (2 ^ n * (x.toNat / 2 ^ lo / 2 ^ n) + v % 2 ^ n) + x.toNat % 2 ^ lo := by
    conv_lhs => rw [parts]
    simp only [Nat.mul_add, Nat.mul_comm (2 ^ lo) (fld x lo n), Nat.mul_comm (2 ^ lo) (v % 2 ^ n)]
    omega
  have low : x.toNat % 2 ^ lo < 2 ^ lo := Nat.mod_lt _ (Nat.two_pow_pos lo)
  unfold bit setFld
  rw [BitVec.getLsbD_ofNat, split, Nat.testBit_two_pow_mul_add _ low, ← BitVec.testBit_toNat]
  by_cases below : i < lo
  · simp [below, show ¬ lo ≤ i by omega, show i < 64 by omega, Nat.testBit_mod_two_pow]
  · rw [if_neg below, Nat.testBit_two_pow_mul_add _ (Nat.mod_lt _ (Nat.two_pow_pos n))]
    by_cases inside : i < lo + n
    · simp [show i - lo < n by omega, show lo ≤ i by omega, inside, show i < 64 by omega, Nat.testBit_mod_two_pow]
    · by_cases top : i < 64
      · simp [show ¬ i - lo < n by omega, inside, top, Nat.testBit_div_two_pow,
          show i - lo - n + n + lo = i by omega]
      · simp [inside, top, BitVec.testBit_toNat, BitVec.getLsbD_of_ge x i (by omega)]

/-- The field written. -/
theorem fld_setFld_same {lo n : Nat} (h : lo + n ≤ 64) (x : W64) (v : Nat) : fld (setFld x lo n v) lo n = v % 2 ^ n := by
  refine Nat.eq_of_testBit_eq fun j => ?_
  rw [testBit_fld, bit_setFld h, Nat.testBit_mod_two_pow]
  by_cases hj : j < n
  · simp [hj]
  · simp [hj]

/-- A field beside the one written. -/
theorem fld_setFld_other {lo n lo' n' : Nat} (h : lo + n ≤ 64) (x : W64) (v : Nat) (o : lo' + n' ≤ lo ∨ lo + n ≤ lo') :
    fld (setFld x lo n v) lo' n' = fld x lo' n' := by
  refine Nat.eq_of_testBit_eq fun j => ?_
  rw [testBit_fld, testBit_fld, bit_setFld h]
  by_cases hj : j < n'
  · rw [if_neg (by omega)]
  · simp [hj]

/-- A bit beside the field written. -/
theorem bit_setFld_other {lo n i : Nat} (h : lo + n ≤ 64) (x : W64) (v : Nat) (o : i < lo ∨ lo + n ≤ i) :
    bit (setFld x lo n v) i = bit x i := by
  rw [bit_setFld h, if_neg (by omega)]

/-- The bit written as a field of one bit. -/
theorem bit_setFld_one {i : Nat} (h : i + 1 ≤ 64) (x : W64) (v : Nat) : bit (setFld x i 1 v) i = v.testBit 0 := by
  rw [bit_setFld h, if_pos (by omega), Nat.sub_self]

/-- A field is below its width. -/
theorem fld_lt (x : W64) (lo n : Nat) : fld x lo n < 2 ^ n := Nat.mod_lt _ (Nat.two_pow_pos n)

/-- A field of a number's 64 bits. -/
theorem fld_ofNat (x lo n : Nat) : fld (BitVec.ofNat 64 x) lo n = x % 2 ^ 64 / 2 ^ lo % 2 ^ n := by
  rw [fld, BitVec.toNat_ofNat]

/-- A bit of a number's 64 bits. -/
theorem bit_ofNat (x : Nat) {i : Nat} (h : i < 64) : bit (BitVec.ofNat 64 x) i = decide (x / 2 ^ i % 2 = 1) := by
  rw [bit, BitVec.getLsbD_ofNat, Nat.testBit_eq_decide_div_mod_eq]
  simp [h]

/-- A number that stops at a limit, as a minimum. -/
theorem satAdd_eq_min (x y lim : Nat) : satAdd x y lim = min (x + y) lim := by
  unfold satAdd
  split <;> omega

theorem sat32_eq_min (n : Nat) : sat32 n = min (n + 1) (2 ^ 32 - 1) := satAdd_eq_min n 1 _

end Sys2Proof.Machine
end

section
/-! What happens inside slots leaves everything else: ending an activation, a squash, the firing of a watch entry change slots, what a
core holds for them, the contexts saved with graphs, and the task entries, and nothing more. -/

namespace Sys2Proof.Machine

/-- A property of the state that every element keeps, a fold keeps. -/
theorem foldl_keeps {α β : Type} (f : State → α → State) (proj : State → β) (h : ∀ s a, proj (f s a) = proj s) (l : List α) :
    ∀ s, proj (l.foldl f s) = proj s := by
  induction l with
  | nil => exact fun _ => rfl
  | cons a l ih => exact fun s => (ih (f s a)).trans (h s a)

/-- What becomes of a waiting MWAIT: it goes on waiting, or its slot changes, an entry unfired with it or not. -/
theorem State.pollMwait_cases (s : State) (c i : Nat) : s.pollMwait c i = s ∨ (s.slot c i).phase = .wait .mwait ∧
    ∃ x, s.pollMwait c i = s.setSlot c i x ∨ ∃ n, s.pollMwait c i = (s.modCore c (fun k => k.unfire n)).setSlot c i x := by
  unfold State.pollMwait
  dsimp only
  split
  · exact .inl rfl
  · split
    · exact .inl rfl
    · next waits =>
      have waits := not_not.mp waits
      split
      · exact .inr ⟨waits, _, .inl rfl⟩
      · split
        · exact .inl rfl
        · exact .inr ⟨waits, _, .inr ⟨_, rfl⟩⟩

/-- A core changed, and every other. -/
theorem State.core_modCore_same (s : State) (c : Nat) (f : Core → Core) : (s.modCore c f).core c = f (s.core c) :=
  State.core_setCore_same _ _ _

theorem State.core_modCore_other (s : State) {c d : Nat} (f : Core → Core) (h : d ≠ c) : (s.modCore c f).core d = s.core d :=
  State.core_setCore_other _ _ h

/-- A core without its slots and what it holds for them. -/
def Core.shell (k : Core) : Core := { k with slots := [], watches := [], walks := [], mq := [] }

/-- A graph without the contexts saved with it. -/
def Graph.shell (y : Graph) : Graph := { y with saved := [] }

/-- The state without cores, graphs and tasks. -/
def State.shell (s : State) : State := { s with cores := [], graphs := [], tasks := [] }

/-- The graphs, each without its saved contexts. -/
def State.graphShells (s : State) : Tab Graph := s.graphs.map (fun p => (p.1, p.2.shell))

/-- The cores and graphs of two states differ in slots, what cores hold for them, and saved contexts alone. -/
structure Alike (s t : State) : Prop where
  core : ∀ c, (t.core c).shell = (s.core c).shell
  graphs : t.graphShells = s.graphShells

/-- Two states differ in those and in task entries alone. -/
structure Within (s t : State) : Prop extends Alike s t where
  shell : t.shell = s.shell

namespace Alike

variable {s t u : State}

theorem refl (s : State) : Alike s s := ⟨fun _ => rfl, rfl⟩

theorem trans (h : Alike s t) (k : Alike t u) : Alike s u :=
  ⟨fun c => (k.core c).trans (h.core c), k.graphs.trans h.graphs⟩

/-- A table found through a change of its values. -/
theorem find_map {α β : Type} (f : α → β) (l : Tab α) (i : Nat) :
    Tab.find (l.map (fun p => (p.1, f p.2))) i = (Tab.find l i).map f := by
  induction l with
  | nil => rfl
  | cons p r ih =>
    obtain ⟨k, v⟩ := p
    simp only [List.map_cons, Tab.find]
    split
    · rfl
    · exact ih

theorem inbox (h : Alike s t) (c : Nat) : (t.core c).inbox = (s.core c).inbox := (congrArg Core.inbox (h.core c) :)

/-- Each graph, but for its saved contexts. -/
theorem graph (h : Alike s t) (g : Nat) : (t.graph g).shell = (s.graph g).shell := by
  have look (u : State) : (u.graph g).shell = ((Tab.find u.graphShells g).getD Graph.absent.shell) := by
    unfold State.graph Tab.get State.graphShells
    rw [find_map]
    cases Tab.find u.graphs g <;> rfl
  rw [look, look, h.graphs]

/-- The graphs that a test of what is not saved selects. -/
theorem filter_graphs (h : Alike s t) (p : Nat × Graph → Bool) (hp : ∀ q, p (q.1, q.2.shell) = p q) :
    (t.graphs.filter p).map (·.1) = (s.graphs.filter p).map (·.1) := by
  have look (u : State) : (u.graphs.filter p).map (·.1) = (u.graphShells.filter p).map (·.1) := by
    unfold State.graphShells
    rw [List.filter_map, List.map_map]
    exact congrArg (fun q => (u.graphs.filter q).map (·.1)) (funext fun q => (hp q).symm)
  rw [look, look, h.graphs]

theorem graphsOf (h : Alike s t) (a : Asid) : t.graphsOf a = s.graphsOf a := h.filter_graphs _ (fun _ => rfl)

/-- A core changed in its slots and what it holds for them. -/
theorem modCore (h : Alike s t) {c : Nat} {f : Core → Core} (hf : ∀ k, (f k).shell = k.shell) : Alike s (t.modCore c f) := by
  refine ⟨fun d => ?_, h.graphs⟩
  rw [← h.core d]
  unfold State.modCore
  by_cases e : d = c
  · subst e; rw [State.core_setCore_same]; exact hf _
  · rw [State.core_setCore_other _ _ e]

/-- Saved contexts changed, graph by graph. -/
theorem mapSaved (h : Alike s t) {f : List Saved → List Saved} :
    Alike s { t with graphs := t.graphs.map (fun g => (g.1, { g.2 with saved := f g.2.saved })) } := by
  refine ⟨h.core, ?_⟩
  rw [← h.graphs]
  show (t.graphs.map _).map _ = t.graphs.map _
  rw [List.map_map]
  rfl

end Alike

namespace Within

variable {s t u : State} {c i : Nat}

theorem refl (s : State) : Within s s := ⟨Alike.refl s, rfl⟩

theorem trans (h : Within s t) (k : Within t u) : Within s u := ⟨h.toAlike.trans k.toAlike, k.shell.trans h.shell⟩

/-- A fold whose steps all stay within slots does. -/
theorem foldl {α : Type} {f : State → α → State} {l : List α} (h : Within s t) (hf : ∀ s a, Within s (f s a)) :
    Within s (l.foldl f t) := by
  induction l generalizing t with
  | nil => exact h
  | cons a l ih => exact ih (h.trans (hf t a))

theorem mem (h : Within s t) : t.mem = s.mem := (congrArg State.mem h.shell :)
theorem bad (h : Within s t) : t.bad = s.bad := (congrArg State.bad h.shell :)
theorem soft (h : Within s t) : t.soft = s.soft := (congrArg State.soft h.shell :)
theorem net (h : Within s t) : t.net = s.net := (congrArg State.net h.shell :)
theorem requests (h : Within s t) : t.requests = s.requests := (congrArg State.requests h.shell :)
theorem kills (h : Within s t) : t.kills = s.kills := (congrArg State.kills h.shell :)
theorem hub (h : Within s t) : t.hub = s.hub := (congrArg State.hub h.shell :)
theorem cur (h : Within s t) : t.cur = s.cur := (congrArg State.cur h.shell :)
theorem stamp (h : Within s t) : t.stamp = s.stamp := (congrArg State.stamp h.shell :)
theorem parked (h : Within s t) : t.parked = s.parked := (congrArg State.parked h.shell :)

theorem modCore (h : Within s t) {f : Core → Core} (hf : ∀ k, (f k).shell = k.shell) : Within s (t.modCore c f) :=
  ⟨h.toAlike.modCore hf, h.shell⟩

theorem setSlot (h : Within s t) {x : Slot} : Within s (t.setSlot c i x) := h.modCore (f := fun k => k.setSlot i x) (fun _ => rfl)

theorem modSlot (h : Within s t) {f : Slot → Slot} : Within s (t.modSlot c i f) := h.setSlot

/-- Task entries changed. -/
theorem setTasks (h : Within s t) {l : List TaskEntry} : Within s { t with tasks := l } := ⟨⟨h.core, h.graphs⟩, h.shell⟩

theorem mapSaved (h : Within s t) {f : List Saved → List Saved} :
    Within s { t with graphs := t.graphs.map (fun g => (g.1, { g.2 with saved := f g.2.saved })) } :=
  ⟨h.toAlike.mapSaved, h.shell⟩

theorem modRegsOf (h : Within s t) {a : Asid} {f : Regs → Regs} : Within s (t.modRegsOf c i a f) := by
  unfold State.modRegsOf
  refine .mapSaved (f := fun l => l.map _) ?_
  split
  · exact h.modSlot
  · exact h

theorem closeEnds (h : Within s t) {a : Asid} {r : Regs} : Within s (t.closeEnds c i a r) :=
  h.foldl (fun s _ => (refl s).modRegsOf)

theorem rollSlot (h : Within s t) : Within s (t.rollSlot c i) := h.modSlot

theorem unbindSlot (h : Within s t) : Within s (t.unbindSlot c i) := by
  unfold State.unbindSlot
  exact h.closeEnds.modSlot

theorem discardSpawns {fuel parent : Nat} (h : Within s t) : Within s (t.discardSpawns parent fuel) := by
  induction fuel generalizing s t parent with
  | zero => exact h
  | succ fuel ih =>
    unfold State.discardSpawns
    refine h.setTasks.foldl (fun s e => ?_)
    dsimp only
    split
    · split
      · exact refl s
      · refine .modCore (.modSlot (.modCore (.unbindSlot (.rollSlot (.foldl (refl s) fun s o => ih (refl s)))) ?_)) ?_
        · exact fun _ => rfl
        · exact fun _ => rfl
    · exact refl s

theorem discardAll (h : Within s t) {l : List Nat} : Within s (t.discardAll l) := h.foldl (fun s _ => (refl s).discardSpawns)

theorem freeSlot (h : Within s t) : Within s (t.freeSlot c i) := by
  unfold State.freeSlot
  dsimp only
  refine .modSlot ?_
  refine .modCore h.unbindSlot ?_
  exact fun _ => rfl

theorem squash (h : Within s t) {whole : Bool} : Within s (t.squash c i whole) := by
  unfold State.squash
  dsimp only
  split
  · exact h.discardAll.modSlot
  · exact h.discardAll.modSlot
  · exact h

theorem pollMwait (h : Within s t) : Within s (t.pollMwait c i) := by
  rcases t.pollMwait_cases c i with e | ⟨-, x, e | ⟨n, e⟩⟩ <;> rw [e]
  · exact h
  · exact h.setSlot
  · exact .setSlot (h.modCore (f := fun k => k.unfire n) (fun _ => rfl))

theorem fireLine (h : Within s t) {line : Nat} : Within s (t.fireLine line) := by
  refine h.foldl (fun s p => ?_)
  dsimp only
  split
  · exact refl s
  · exact .foldl (.modCore (refl s) (fun _ => rfl)) (fun s w => (refl s).pollMwait)

/-- Ending an activation whose pending faults go nowhere. -/
theorem endActivation (h : Within s t) : Within s (t.endActivation c i false) := by
  unfold State.endActivation
  simp only [Bool.false_eq_true, if_false]
  split
  · exact h
  · refine .modCore (f := Core.wakeWaiti) ?_ (fun _ => rfl)
    refine .freeSlot (.rollSlot ?_)
    refine .modCore ?_ (fun _ => rfl)
    exact h.discardAll.setTasks

end Within

end Sys2Proof.Machine
end

section
/-! What a commit leaves: the bytes stand in memory, and beyond memory, its flips and the lines kept from before, only slots change. -/

namespace Sys2Proof.Machine

/-- Keeping what stood in lines changes what is kept and counts the commit. -/
theorem State.recordLines_eq (s : State) (old : List Host.Cell) (lines : List Nat) :
    ∃ h, s.recordLines old lines = { s with history := h, stamp := s.stamp + 1 } := by
  have keep (s : State) : ∃ h, lines.foldl (State.recordLine old) s = { s with history := h } := by
    induction lines generalizing s with
    | nil => exact ⟨s.history, rfl⟩
    | cons a l ih =>
      have one : ∃ h, s.recordLine old a = { s with history := h } := by
        unfold State.recordLine
        dsimp only
        split
        · exact ⟨s.history, rfl⟩
        · exact ⟨_, rfl⟩
      obtain ⟨h, e⟩ := one
      obtain ⟨h', e'⟩ := ih { s with history := h }
      exact ⟨h', by rw [List.foldl_cons, e, e']⟩
  obtain ⟨h, e⟩ := keep s
  exact ⟨h, by unfold State.recordLines; rw [e]⟩

/-- Publishing lines squashes and fires. -/
theorem State.published_within (s : State) (old : List Host.Cell) (lines : List Nat) (from_ : Option (Nat × Nat)) :
    ∃ h, Within { s with history := h, stamp := s.stamp + 1 } (s.published old lines from_) := by
  obtain ⟨h, e⟩ := s.recordLines_eq old lines
  refine ⟨h, ?_⟩
  unfold State.published
  rw [e]
  refine .foldl (.foldl (.refl _) fun s p => .foldl (.refl s) fun s q => ?_) fun s a => (Within.refl s).fireLine
  dsimp only
  split
  · exact .refl s
  · split
    · exact (Within.refl s).squash
    · split
      · exact (Within.refl s).squash
      · exact .refl s

/-- A state after commits: another memory, its flips, the lines kept from before, and later counts of commits. -/
def State.rewritten (s : State) (m : List Host.Cell) (bad soft : List Nat) (h : Tab (List (Nat × List Half))) (n : Nat) : State :=
  { s with mem := m, bad := bad, soft := soft, history := h, stamp := n }

/-- Two states differ in memory, and in what commits change, alone. -/
def Rewrites (s t : State) (m : List Host.Cell) : Prop :=
  ∃ bad soft h n, s.stamp ≤ n ∧ Within (s.rewritten m bad soft h n) t

namespace Rewrites

variable {s t u : State} {m m' : List Host.Cell}

theorem refl (s : State) : Rewrites s s s.mem := ⟨s.bad, s.soft, s.history, s.stamp, le_refl _, .refl s⟩

theorem mem (h : Rewrites s t m) : t.mem = m := by
  obtain ⟨_, _, _, _, -, w⟩ := h
  exact w.mem

theorem stamp (h : Rewrites s t m) : s.stamp ≤ t.stamp := by
  obtain ⟨_, _, _, _, le, w⟩ := h
  exact w.stamp ▸ le

theorem alike (h : Rewrites s t m) : Alike s t := by
  obtain ⟨_, _, _, _, -, w⟩ := h
  exact ⟨w.core, w.graphs⟩

theorem trans (h : Rewrites s t m) (k : Rewrites t u m') : Rewrites s u m' := by
  have le := h.stamp
  obtain ⟨_, _, _, _, -, v⟩ := h
  obtain ⟨bad, soft, hist, n, le', w⟩ := k
  refine ⟨bad, soft, hist, n, le.trans le', ⟨⟨fun c => (w.core c).trans (v.core c), w.graphs.trans v.graphs⟩, ?_⟩⟩
  exact w.shell.trans (congrArg (fun x => State.rewritten x m' bad soft hist n) v.shell :)

end Rewrites

/-- A commit puts its bytes into memory. -/
theorem State.commitBytes_rewrites (s : State) (k : Nat) (b : List Byte) :
    Rewrites s (s.commitBytes k b) (Memory.writeAll s.mem k b) := by
  unfold State.commitBytes
  split
  case isTrue e => subst e; exact .refl s
  case isFalse =>
    obtain ⟨h, w⟩ := (s.writeBytes k b).published_within s.mem (linesOf k b.length) none
    exact ⟨_, _, h, _, Nat.le_succ _, w⟩

theorem State.commitBytes_spaces (s : State) (k : Nat) (b : List Byte) : (s.commitBytes k b).spaces = s.spaces := by
  obtain ⟨_, _, _, _, -, w⟩ := s.commitBytes_rewrites k b
  exact (congrArg State.spaces w.shell :)

end Sys2Proof.Machine
end

section
/-! The graphs after changes: which ids an address space's resident graphs have, and what stands in each. -/

namespace Sys2Proof.Machine

namespace Tab
variable {α : Type}

/-- An entry found stands in the table. -/
theorem mem_of_find {t : Tab α} {i : Nat} {v : α} (h : find t i = some v) : (i, v) ∈ t := by
  induction t with
  | nil => exact nomatch h
  | cons p r ih =>
    obtain ⟨k, w⟩ := p
    unfold find at h
    split at h
    · next e => subst e; obtain rfl := Option.some.inj h; exact List.mem_cons_self
    · exact List.mem_cons_of_mem _ (ih h)

/-- A value put in place of one of the same property leaves the keys with that property. -/
theorem exists_mem_put {P : α → Prop} {t : Tab α} {i : Nat} {x : α} (h : P x ↔ ∃ v, find t i = some v ∧ P v) (j : Nat) :
    (∃ v, (j, v) ∈ put t i x ∧ P v) ↔ ∃ v, (j, v) ∈ t ∧ P v := by
  induction t with
  | nil =>
    have no : ¬ P x := by simpa [find] using h
    simp [put, no]
  | cons p r ih =>
    obtain ⟨k, w⟩ := p
    unfold put
    by_cases e : k = i
    · subst e
      have same : P x ↔ P w := by simpa [find] using h
      rw [if_pos rfl]
      simp [or_and_right, exists_or, and_assoc, same]
    · rw [if_neg e]
      split
      · have held : P x → ∃ v, (i, v) ∈ (k, w) :: r ∧ P v := fun px => by
          obtain ⟨v, f, pv⟩ := h.mp px
          exact ⟨v, mem_of_find f, pv⟩
        refine ⟨fun ⟨v, m, pv⟩ => ?_, fun ⟨v, m, pv⟩ => ⟨v, List.mem_cons_of_mem _ m, pv⟩⟩
        rcases List.mem_cons.mp m with m | m
        · cases m
          exact held pv
        · exact ⟨v, m, pv⟩
      · have rest := ih (by simpa [find, e] using h)
        simp only [List.mem_cons, or_and_right, exists_or, rest]

end Tab

theorem State.mem_graphsOf {s : State} {a : Asid} {h : Nat} :
    h ∈ s.graphsOf a ↔ ∃ y, (h, y) ∈ s.graphs ∧ (y.resident = true ∧ y.asid = a) := by
  unfold State.graphsOf
  simp only [List.mem_map, List.mem_filter, Bool.and_eq_true, beq_iff_eq, Prod.exists, exists_and_right, exists_eq_right]

@[simp] theorem State.graph_modGraph_same (s : State) (g : Nat) (f : Graph → Graph) : (s.modGraph g f).graph g = f (s.graph g) :=
  Tab.get_put_same _ _ _ _

theorem State.graph_modGraph_other (s : State) {g h : Nat} (f : Graph → Graph) (n : h ≠ g) : (s.modGraph g f).graph h = s.graph h :=
  Tab.get_put_other _ _ _ n

/-- A change of a graph that keeps residence and address space. -/
def Graph.Stays (f : Graph → Graph) : Prop := ∀ y, (f y).resident = y.resident ∧ (f y).asid = y.asid

theorem State.mem_graphsOf_modGraph {f : Graph → Graph} (hf : Graph.Stays f) (s : State) (g : Nat) (a : Asid) (h : Nat) :
    h ∈ (s.modGraph g f).graphsOf a ↔ h ∈ s.graphsOf a := by
  rw [State.mem_graphsOf, State.mem_graphsOf]
  refine Tab.exists_mem_put ?_ h
  rw [(hf _).1, (hf _).2]
  unfold State.graph Tab.get
  cases Tab.find s.graphs g <;> simp [Graph.absent]

/-- Two states have resident graphs of the same ids in every address space, and of each graph a view stands. -/
structure SameGraphs {β : Type} (view : Graph → β) (s t : State) : Prop where
  graph : ∀ h, view (t.graph h) = view (s.graph h)
  ids : ∀ a h, h ∈ t.graphsOf a ↔ h ∈ s.graphsOf a

namespace SameGraphs

variable {β γ : Type} {view : Graph → β} {s t u : State}

theorem refl (view : Graph → β) (s : State) : SameGraphs view s s := ⟨fun _ => rfl, fun _ _ => Iff.rfl⟩

theorem trans (h : SameGraphs view s t) (k : SameGraphs view t u) : SameGraphs view s u :=
  ⟨fun g => (k.graph g).trans (h.graph g), fun a g => (k.ids a g).trans (h.ids a g)⟩

/-- What a view determines stands with it. -/
theorem map (h : SameGraphs view s t) (f : β → γ) : SameGraphs (fun y => f (view y)) s t := ⟨fun g => congrArg f (h.graph g), h.ids⟩

theorem of_graphs (view : Graph → β) (e : t.graphs = s.graphs) : SameGraphs view s t := by
  refine ⟨fun h => ?_, fun a h => ?_⟩
  · unfold State.graph; rw [e]
  · unfold State.graphsOf; rw [e]

theorem of_alike (h : Alike s t) : SameGraphs Graph.shell s t := ⟨h.graph, fun a g => by rw [h.graphsOf a]⟩

theorem foldl {α : Type} {f : State → α → State} (hf : ∀ s a, SameGraphs view s (f s a)) (l : List α) (s : State) :
    SameGraphs view s (l.foldl f s) := by
  induction l generalizing s with
  | nil => exact refl _ s
  | cons a l ih => exact (hf s a).trans (ih _)

theorem modGraph {f : Graph → Graph} (hv : ∀ y, view (f y) = view y) (hf : Graph.Stays f) (s : State) (g : Nat) :
    SameGraphs view s (s.modGraph g f) := by
  refine ⟨fun h => ?_, s.mem_graphsOf_modGraph hf g⟩
  by_cases e : h = g
  · subst e; rw [State.graph_modGraph_same]; exact hv _
  · rw [State.graph_modGraph_other _ _ e]

end SameGraphs

/-- A change made to every graph of a list, which made again changes nothing. -/
theorem State.graph_foldl_modGraph {f : Graph → Graph} (hf : ∀ y, f (f y) = f y) (l : List Nat) (s : State) (h : Nat) :
    (l.foldl (fun s g => s.modGraph g f) s).graph h = if h ∈ l then f (s.graph h) else s.graph h := by
  induction l generalizing s with
  | nil => rfl
  | cons g l ih =>
    rw [List.foldl_cons, ih]
    by_cases e : h = g
    · subst e; simp [hf]
    · simp [State.graph_modGraph_other _ _ e, e]

theorem State.graph_setPre (s : State) (a : Asid) (p : PreState) (h : Nat) :
    (s.setPre a p).graph h = if h ∈ s.graphsOf a then { s.graph h with pre := p } else s.graph h :=
  State.graph_foldl_modGraph (f := fun y => { y with pre := p }) (fun _ => rfl) _ s h

/-- A pre-emption's progress leaves everything else of a graph. -/
def Graph.butPre (y : Graph) : Graph := { y with pre := .none }

theorem State.setPre_graphs (s : State) (a : Asid) (p : PreState) : SameGraphs Graph.butPre s (s.setPre a p) :=
  .foldl (fun s g => .modGraph (f := fun y => { y with pre := p }) (fun _ => rfl) (fun _ => ⟨rfl, rfl⟩) s g) _ s

/-- A change made to every core. -/
theorem State.core_mapCores {f : Core → Core} (hf : f Core.init = Core.init) (s : State) (c : Nat) :
    Tab.get (s.cores.map (fun p => (p.1, f p.2))) c Core.init = f (s.core c) := by
  unfold State.core Tab.get
  rw [Alike.find_map]
  cases Tab.find s.cores c with
  | none => exact hf.symm
  | some k => rfl

/-- Retrains that begin change links alone. -/
theorem State.beginRetrains_eq (s : State) : ∃ l, s.beginRetrains = { s with links := l } := by
  have one (s : State) (l : Nat) : ∃ x, s.beginRetrain l = { s with links := x } := by
    unfold State.beginRetrain
    dsimp only
    split
    · exact ⟨_, rfl⟩
    · exact ⟨s.links, rfl⟩
  unfold State.beginRetrains
  generalize s.links.map (·.1) = ls
  induction ls generalizing s with
  | nil => exact ⟨s.links, rfl⟩
  | cons a r ih =>
    obtain ⟨x, e⟩ := one s a
    obtain ⟨l, e'⟩ := ih (s.beginRetrain a)
    exact ⟨l, by rw [List.foldl_cons, e', e]⟩

/-- A change of graphs leaves the rest of the state. -/
theorem State.setPre_eq (s : State) (a : Asid) (p : PreState) : ∃ l, s.setPre a p = { s with graphs := l } := by
  unfold State.setPre
  generalize s.graphsOf a = ids
  induction ids generalizing s with
  | nil => exact ⟨s.graphs, rfl⟩
  | cons g r ih =>
    obtain ⟨l, e⟩ := ih (s.modGraph g (fun y => { y with pre := p }))
    exact ⟨l, e⟩

theorem State.setPre_cores (s : State) (a : Asid) (p : PreState) : (s.setPre a p).cores = s.cores := by
  obtain ⟨_, e⟩ := s.setPre_eq a p
  rw [e]

end Sys2Proof.Machine
end

section
/-! What reads of memory leave: flipped bits are corrected and consumed errors counted, and what memory holds stands; and what an interrupt
leaves. -/

namespace Sys2Proof.Machine

/-- An interrupt writes host memory alone. -/
theorem State.interrupt_eq (s : State) (n : Fin 4) : ∃ m, s.interrupt n = { s with mem := m } := by
  unfold State.interrupt
  dsimp only
  split
  · exact ⟨_, rfl⟩
  · exact ⟨s.mem, rfl⟩

/-- The correction of flipped bits leaves what the words hold, and everything but their marks and the capacity map. -/
theorem State.correct_eq (s : State) (k : Nat) : ∃ f c, s.correct k = { s with soft := f, capacity := c } := by
  unfold State.correct
  split
  · exact ⟨_, _, rfl⟩
  · exact ⟨s.soft, s.capacity, rfl⟩

theorem State.foldl_correct_eq {α : Type} (word : α → Nat) (l : List α) (s : State) :
    ∃ f c, l.foldl (fun t a => t.correct (word a)) s = { s with soft := f, capacity := c } := by
  induction l generalizing s with
  | nil => exact ⟨s.soft, s.capacity, rfl⟩
  | cons a l ih =>
    obtain ⟨f, c, e⟩ := s.correct_eq (word a)
    obtain ⟨f', c', e'⟩ := ih { s with soft := f, capacity := c }
    exact ⟨f', c', by rw [List.foldl_cons, e, e']⟩

theorem State.correctRange_eq (s : State) (k n : Nat) : ∃ f c, s.correctRange k n = { s with soft := f, capacity := c } := by
  unfold State.correctRange
  split
  · exact ⟨s.soft, s.capacity, rfl⟩
  · exact State.foldl_correct_eq (fun i => k / 8 + i) _ s

theorem State.walked_eq (s : State) (a : Asid) (va : W64) :
    ∃ f c, s.walked a va = ({ s with soft := f, capacity := c }, s.walk a va) := by
  unfold State.walked
  split
  · exact ⟨s.soft, s.capacity, rfl⟩
  · obtain ⟨f, c, e⟩ := State.foldl_correct_eq (fun k => k / 8) (s.walkReads va (s.space a).root 4) s
    exact ⟨f, c, by rw [e]⟩

/-- A core without its count of consumed errors and its mark. -/
def Core.sound (k : Core) : Core := { k with consumed := 0, failing := false }

/-- Two states differ in flipped bits, in the capacity map, and in what cores count of errors. -/
structure Counted (s t : State) : Prop where
  state : ∃ k f c, t = { s with cores := k, soft := f, capacity := c }
  core : ∀ c, (t.core c).sound = (s.core c).sound

namespace Counted

variable {s t : State}

theorem refl (s : State) : Counted s s := ⟨⟨s.cores, s.soft, s.capacity, rfl⟩, fun _ => rfl⟩

theorem inbox (h : Counted s t) (c : Nat) : (t.core c).inbox = (s.core c).inbox := (congrArg Core.inbox (h.core c) :)
theorem mem (h : Counted s t) : t.mem = s.mem := by obtain ⟨_, _, _, rfl⟩ := h.state; rfl
theorem bad (h : Counted s t) : t.bad = s.bad := by obtain ⟨_, _, _, rfl⟩ := h.state; rfl
theorem net (h : Counted s t) : t.net = s.net := by obtain ⟨_, _, _, rfl⟩ := h.state; rfl
theorem parked (h : Counted s t) : t.parked = s.parked := by obtain ⟨_, _, _, rfl⟩ := h.state; rfl
theorem parkPlaces (h : Counted s t) : t.parkPlaces = s.parkPlaces := by obtain ⟨_, _, _, rfl⟩ := h.state; rfl
theorem graphs (h : Counted s t) : t.graphs = s.graphs := by obtain ⟨_, _, _, rfl⟩ := h.state; rfl
theorem spaces (h : Counted s t) : t.spaces = s.spaces := by obtain ⟨_, _, _, rfl⟩ := h.state; rfl
theorem stamp (h : Counted s t) : t.stamp = s.stamp := by obtain ⟨_, _, _, rfl⟩ := h.state; rfl

end Counted

/-- A core beside its count of errors. -/
theorem Counted.modCore (s : State) (c : Nat) {f : Core → Core} (hf : ∀ k, (f k).sound = k.sound) : Counted s (s.modCore c f) := by
  refine ⟨⟨_, s.soft, s.capacity, rfl⟩, fun d => ?_⟩
  by_cases h : d = c
  · subst h; rw [State.core_modCore_same]; exact hf _
  · rw [State.core_modCore_other _ _ h]

theorem State.noteConsumed_counted (s : State) (k n : Nat) : Counted s (s.noteConsumed k n) := by
  unfold State.noteConsumed
  split
  · exact .refl s
  · extract_lets w c
    split
    · exact .modCore s c (f := fun y => { y with consumed := y.consumed + 1, failing := y.failing || decide (3 ≤ y.consumed + 1) })
        (fun _ => rfl)
    · split
      · split
        · exact .refl s
        · exact ⟨⟨s.cores, s.soft, _, rfl⟩, fun _ => rfl⟩
      · exact .refl s

theorem State.readEntry_counted (s : State) (c : Nat) (a : Asid) (t : Nat) : Counted s (s.readEntry c a t) := by
  unfold State.readEntry
  split
  · exact .refl s
  · next b _ =>
    extract_lets k
    obtain ⟨⟨l, f, m, e⟩, core⟩ := s.noteConsumed_counted k 8
    obtain ⟨f', m', e'⟩ := (s.noteConsumed k 8).correctRange_eq k 8
    rw [e']
    refine ⟨⟨l, f', m', ?_⟩, core⟩
    rw [e]

/-- An entry is read from the core's tables and memory alone. -/
theorem State.ventry_congr {s t : State} {c : Nat} (mem : t.mem = s.mem) (bad : t.bad = s.bad) (spaces : t.spaces = s.spaces)
    (rvtbase : (t.core c).rvtbase = (s.core c).rvtbase) (copies : (t.core c).spaces = (s.core c).spaces) (a : Asid) (ty : Nat) :
    t.ventry c a ty = s.ventry c a ty := by
  unfold State.ventry State.tableBase State.spaceRegs State.badRange
  rw [mem, bad, spaces, rvtbase, copies]

theorem Counted.ventry {s t : State} (h : Counted s t) (c : Nat) (a : Asid) (ty : Nat) : t.ventry c a ty = s.ventry c a ty :=
  State.ventry_congr h.mem h.bad h.spaces (congrArg Core.rvtbase (h.core c) :) (congrArg Core.spaces (h.core c) :) a ty

theorem Counted.masked {s t : State} (h : Counted s t) (c : Nat) (m : Message) : t.masked c m = s.masked c m := by
  unfold State.masked
  rw [h.ventry]

theorem Counted.maskedHeld {s t : State} (h : Counted s t) (c : Nat) : t.maskedHeld c = s.maskedHeld c := by
  unfold State.maskedHeld
  simp only [h.inbox, h.masked]

end Sys2Proof.Machine
end

section
/-! Events of HEALTH, the interrupts that tell of them, and what they leave of memory. -/

namespace Sys2Proof.Machine

@[simp] theorem Memory.length_readN (m : List Host.Cell) (k n : Nat) : (readN m k n).length = n := by
  induction n generalizing k with
  | zero => rfl
  | succ n ih => exact congrArg Nat.succ (ih (k + 1))

theorem Memory.getElem_readN (m : List Host.Cell) (k n i : Nat) (h : i < (readN m k n).length) :
    (readN m k n)[i] = read m (k + i) := by
  induction n generalizing k i with
  | zero => exact absurd h (Nat.not_lt_zero i)
  | succ n ih =>
    cases i with
    | zero => rfl
    | succ i =>
      refine (ih (k + 1) i (Nat.lt_of_succ_lt_succ h)).trans ?_
      rw [Nat.add_assoc, Nat.add_comm 1 i]

/-- Bytes written are read back. -/
theorem Memory.readN_writeAll {m : List Host.Cell} (w : wf m = true) (k : Nat) (l : List Byte) :
    readN (writeAll m k l) k l.length = l :=
  List.ext_getElem (by simp) fun i _ h => by rw [getElem_readN, read_writeAll_inside w l h]

/-- An interrupt that is enabled writes its number to the host. -/
theorem State.interrupt_mem {s : State} {n : Fin 4} (on : bit s.hub.hint[n] 0 = true) (low : fld s.hub.hint[n] 47 1 = 0) :
    (s.interrupt n).mem = Memory.writeAll s.mem (hostKey (fld s.hub.hint[n] 2 45 * 4)) (natBytes n.val 4) := by
  unfold State.interrupt
  dsimp only
  rw [on, low]
  rfl

/-- One that is not writes nothing. -/
theorem State.interrupt_off {s : State} {n : Fin 4} (off : bit s.hub.hint[n] 0 = false) : s.interrupt n = s := by
  unfold State.interrupt
  dsimp only
  rw [off]
  rfl

/-- Interrupts leave device memory as it stood. -/
theorem State.interrupt_device (s : State) (n : Fin 4) (w : Memory.wf s.mem = true) {a : Nat} (h : isExt a = false) :
    Memory.read (s.interrupt n).mem a = Memory.read s.mem a := by
  unfold State.interrupt
  dsimp only
  split
  · refine Memory.read_writeAll_outside w _ ?_
    have field := fld_lt s.hub.hint[n] 2 45
    have four : (natBytes n.val 4).length = 4 := rfl
    simp only [isExt, Bool.and_eq_false_iff, decide_eq_false_iff_not] at h
    rw [four, hostKey]
    omega
  · rfl

/-- What an event leaves of the hub (R338, R339): its count, its kind, and its entry in the repair log. -/
structure Hub.Noted (h : Hub) (kind : Nat) (what : Repaired) (t : Hub) : Prop where
  hint : t.hint = h.hint
  replace : bit t.health 0 = true
  service : bit t.health 1 = true
  last : fld t.health 8 8 = kind % 256
  events : fld t.health 16 16 = min (fld h.health 16 16 + 1) 65535
  log : t.repairLog = h.repairLog ++ [RepairEvent.mk kind what]

/-- An event changes the hub's record, and tells the host by interrupt 0. -/
theorem State.healthEvent_eq (s : State) (kind : Nat) (what : Repaired) :
    ∃ h, s.healthEvent kind what = State.interrupt { s with hub := h } 0 ∧ s.hub.Noted kind what h := by
  refine ⟨_, rfl, rfl, ?_, ?_, ?_, ?_, rfl⟩
  · rw [bit_setFld_other (by decide) _ _ (by decide), bit_setFld_other (by decide) _ _ (by decide),
      bit_setFld_other (by decide) _ _ (by decide), bit_setFld_one (by decide)]
    rfl
  · rw [bit_setFld_other (by decide) _ _ (by decide), bit_setFld_other (by decide) _ _ (by decide), bit_setFld_one (by decide)]
    rfl
  · rw [fld_setFld_other (by decide) _ _ (by decide), fld_setFld_same (by decide)]
    rfl
  · rw [fld_setFld_same (by decide), satAdd_eq_min]
    exact Nat.mod_eq_of_lt (by omega)

/-- An event changes the hub's record and host memory alone. -/
theorem State.healthEvent_within (s : State) (kind : Nat) (what : Repaired) :
    ∃ h m, s.healthEvent kind what = { s with hub := h, mem := m } ∧ s.hub.Noted kind what h := by
  obtain ⟨h, e, noted⟩ := s.healthEvent_eq kind what
  obtain ⟨m, e'⟩ := State.interrupt_eq { s with hub := h } 0
  exact ⟨h, m, e.trans e', noted⟩

theorem State.healthEvent_device (s : State) (kind : Nat) (what : Repaired) (w : Memory.wf s.mem = true) {a : Nat}
    (device : isExt a = false) : Memory.read (s.healthEvent kind what).mem a = Memory.read s.mem a := by
  obtain ⟨h, e, -⟩ := s.healthEvent_eq kind what
  rw [e]
  exact State.interrupt_device { s with hub := h } 0 w device

end Sys2Proof.Machine
end

section
/-! The reset values (O10). -/
namespace Sys2Proof.Claim
open Sys2Proof.Machine

/-- Settles O10: every register stands at the value its rule states, window by window; every link is the one of reset. -/
theorem resetValues : Obligations.ResetValues := by
  have rate : Lnk.rateWord Link.init = 0x22 := by decide
  have budget : fld Link.init.budget 0 16 = 16 ∧ fld Link.init.budget 16 5 = 30 := by decide
  exact ⟨fun _ _ => rfl, fun _ => rfl, fun _ => rfl, by decide, by decide, fun _ => rate, fun _ => budget.1, fun _ => budget.2,
    rfl, rfl, rfl, rfl⟩
end Sys2Proof.Claim
end

section
/-! Launches (O52): the comparison of a redundant node over a memory that is not in canonical form (`Memory.wf`), which `DualsCompared`
does not exclude. -/
namespace Sys2Proof.Claim
open Sys2Proof.Machine
/-- A redundant node of one tile on core 0. -/
def twinNode : NodeDecl := { words := [0x800000000, 0x000100010001, 0x0001000100010001], cores := [0] }

/-- Its run: line 1 was written on both sides, with its shadows in lines 2 and 3. -/
def twinRun : DualRun := { node := 0, again := false, mismatch := false, primary := [(1, 2)], mirror := [(1, 3)] }

/-- Its launch, the one tile ended on both sides. -/
def twinLaunch : Launch :=
  { seq := 1, nodes := [twinNode], cursors := [(0, { node := 1, next := 0 })],
    tiles := [{ order := 0, node := 0, x := 0, y := 0, z := 0, sent := true, mirrorDone := true, primaryDone := true }],
    duals := [twinRun] }

/-- Memory that names byte 64, the first of line 1, twice: a write of zero there removes one cell and leaves the other. -/
def twinState : State :=
  { State.reset with mem := [(64, 1), (64, 1)], graphs := [(0, { Graph.absent with resident := true, running := some twinLaunch })] }

/-- The lines of both shadows hold zeros, so the sides agree. -/
theorem twinState_agrees :
    (twinState.dualSig twinRun.primary).1 = ((twinState.dualSig twinRun.primary).2.dualSig twinRun.mirror).1 := by
  have h : (twinState.hostBytes (2 * 64) 64).1 = (twinState.hostBytes (3 * 64) 64).1 := by decide +kernel
  exact congrArg (fun b => 0 ^^^ dualHash (1 * 64) b) h

/-- Entering tiles touches no memory. -/
theorem enterTiles_mem (s : State) (g : Nat) : (s.enterTiles g).mem = s.mem := by
  refine foldl_keeps _ State.mem (fun s d => ?_) _ s
  dsimp only
  split <;> rfl

/-- What the primary wrote, copied to FRAME and to the mirror's shadow. -/
def takeOver (s : State) (d : DualRun) : State :=
  d.primary.foldl (fun s e => (s.copyLine e.2 e.1).copyLine e.2 (e.1 + 2 * (e.2 - e.1))) s

/-- Of sides that agree the comparison leaves in memory what the copies leave. -/
theorem compareNode_mem_of_agree (s : State) (g : Nat) (l : Launch) (d : DualRun)
    (h : (s.dualSig d.primary).1 = ((s.dualSig d.primary).2.dualSig d.mirror).1) :
    (s.compareNode g l d).mem = (takeOver ((s.dualSig d.primary).2.dualSig d.mirror).2 d).mem := by
  unfold State.compareNode
  simp only [if_pos h]
  exact enterTiles_mem _ g

/-- The comparison copies line 2 over line 1, whose first byte still reads 1. -/
theorem twinState_byte64 {t : State} (h : exec (.dualCompare 0) twinState = .next t) : Memory.read t.mem 64 = 1 := by
  have run : exec (.dualCompare 0) twinState = .next (twinState.compareNode 0 twinLaunch twinRun) := rfl
  obtain rfl : twinState.compareNode 0 twinLaunch twinRun = t := by rw [run] at h; exact Host.Outcome.next.inj h
  rw [compareNode_mem_of_agree _ _ _ _ twinState_agrees]
  show Memory.read (takeOver twinState twinRun).mem 64 = 1
  decide +kernel

/-- Refutes O52: over a memory that is not in canonical form, the comparison of a redundant node need not leave in FRAME what the
primary wrote (`twinState`). -/
theorem not_launchesRun : ¬ Obligations.LaunchesRun := by
  rintro ⟨-, -, -, -, compared, -⟩
  obtain ⟨t, step, -, -, -, equal, -⟩ := compared twinState 0 twinLaunch twinRun twinNode rfl rfl rfl (by decide) rfl (by decide)
  obtain ⟨-, -, -, -, -, copied⟩ := equal twinState_agrees
  have apart : Apart twinRun := by unfold Apart; decide
  have byte : Memory.read t.mem 64 = Memory.read twinState.mem 128 := (copied apart (1, 2) (by decide)).1 0 (by decide)
  rw [twinState_byte64 step] at byte
  exact absurd byte (by decide)
end Sys2Proof.Claim
end

section
/-! The host link (O53): registers, windows and configuration space as the host reads and writes them. -/

namespace Sys2Proof.Machine

/-- HERR counts up to its largest value. -/
theorem State.hostError_eq (s : State) :
    s.hostError = { s with hub := { s.hub with herr := min (s.hub.herr + 1) (2 ^ 32 - 1) } } := by
  rw [State.hostError, sat32_eq_min]

/-- A host read of one register gives its 8 bytes. -/
theorem State.readReg_of_regRead {s t : State} {o : Nat} {w : W64} (h : isHubReg o = true) (r : s.regRead o = (w, t)) :
    s.readReg o = { t with hostRead := bvBytes w 8 } := by
  unfold State.readReg State.readRegs
  simp only [h, if_true, r, State.readRegs, List.append_nil]

/-- The per-graph registers, by graph and offset. -/
theorem isHubReg_graph {g n : Nat} (hg : g < 64) (hn : n < 64) (h8 : n % 8 = 0) : isHubReg (0x10000 + n + 64 * g) = true := by
  unfold isHubReg
  simp only [Bool.and_eq_true, Bool.or_eq_true, decide_eq_true_eq, beq_iff_eq]
  omega

theorem State.regRead_graph (s : State) {g n : Nat} (hg : g < 64) (hn : n < 64) : s.regRead (0x10000 + n + 64 * g) =
    ((s.graph g).read n, if n = 0x08 ∨ n = 0x10 ∨ n = 0x18 ∨ n = 0x28 ∨ n = 0x38 then s.modGraph g (fun y => y.cleared n) else s) := by
  unfold State.regRead
  rw [if_pos (by omega)]
  dsimp only
  rw [show (0x10000 + n + 64 * g - 0x10000) / 64 = g by omega, show (0x10000 + n + 64 * g - 0x10000) % 64 = n by omega]

theorem State.regWrite_graph (s : State) {g n : Nat} (hg : g < 64) (hn : n < 64) (w : W64) :
    s.regWrite (0x10000 + n + 64 * g) w = s.graphWrite g n w := by
  unfold State.regWrite
  rw [if_neg (by omega), if_neg (by omega), if_pos (by omega), show (0x10000 + n + 64 * g - 0x10000) / 64 = g by omega,
    show (0x10000 + n + 64 * g - 0x10000) % 64 = n by omega]

theorem State.regWrite_hint (s : State) (n : Fin 4) (w : W64) : s.regWrite (0x30100 + 8 * n.val) w =
    { s with hub := { s.hub with hint := s.hub.hint.set n (w &&& 0x0000FFFFFFFFFFFD) } } := by
  match n with
  | 0 => rfl
  | 1 => rfl
  | 2 => rfl
  | 3 => rfl

/-- A write of one register. -/
theorem exec_registerWrite {o : Nat} (h : isHubReg o = true) (w : W64) (s : State) :
    exec (.registerWrite o w) s = .next (s.regWrite o w) := by
  show Host.Outcome.next (s.writeRegs o [w]) = _
  unfold State.writeRegs State.writeRegs
  rw [if_pos h]

end Sys2Proof.Machine

namespace Sys2Proof.Claim
open Sys2Proof.Machine

/-- A graph's number of a state is below 4. -/
theorem state_lt (y : Graph) : y.state < 4 := by
  unfold Graph.state
  cases y.resident <;> cases y.pre <;> cases y.running.isSome <;> decide

/-- The launches that wait behind another. -/
theorem waiting_eq_behind (y : Graph) : y.waiting = behind y := by
  unfold Graph.waiting behind
  cases y.running <;> rfl

/-- The fields of GSTAT (R45). -/
theorem gstat_fields (y : Graph) : fld y.gstat 0 2 = y.state ∧ bit y.gstat 2 = y.exited ∧ fld y.gstat 4 8 = y.err % 256 ∧
    fld y.gstat 12 3 = behind y % 8 ∧ fld y.gstat 16 48 = y.done.toNat ∧ bit y.gstat 3 = false ∧ bit y.gstat 15 = false := by
  have hs := state_lt y
  have hd : y.done.toNat < 2 ^ 48 := y.done.isLt
  obtain ⟨e, he, hx⟩ : ∃ e, (if y.exited then 4 else 0) = 4 * e ∧ e < 2 ∧ y.exited = decide (e = 1) := by
    cases y.exited
    · exact ⟨0, rfl, by decide, rfl⟩
    · exact ⟨1, rfl, by decide, rfl⟩
  rw [hx.2]
  unfold Graph.gstat
  rw [he, waiting_eq_behind, fld_ofNat, fld_ofNat, fld_ofNat, fld_ofNat, bit_ofNat _ (by decide), bit_ofNat _ (by decide),
    bit_ofNat _ (by decide)]
  refine ⟨by omega, decide_eq_decide.mpr (by omega), by omega, by omega, by omega, decide_eq_false (by omega),
    decide_eq_false (by omega)⟩

theorem clearingReads : ClearingReads := by
  refine ⟨fun s g hg => ?_, fun s => ⟨?_, ?_, ?_⟩⟩
  · have reads {i : Instr} (n : Nat) (hn : n < 64) (h8 : n % 8 = 0)
        (hi : exec i s = .next (if g < 64 then s.readReg (0x10000 + n + 64 * g) else s)) :
        HubReads i s ((s.graph g).read n)
          (if n = 0x08 ∨ n = 0x10 ∨ n = 0x18 ∨ n = 0x28 ∨ n = 0x38 then s.modGraph g (fun y => y.cleared n) else s) := by
      unfold HubReads
      rw [hi, if_pos hg, State.readReg_of_regRead (isHubReg_graph hg hn h8) (s.regRead_graph hg hn)]
    refine ⟨⟨_, reads 0x08 (by decide) (by decide) rfl, gstat_fields _⟩, reads 0x10 (by decide) (by decide) rfl,
      reads 0x18 (by decide) (by decide) rfl, ⟨_, reads 0x28 (by decide) (by decide) rfl, ?_, ?_⟩,
      reads 0x38 (by decide) (by decide) rfl⟩
    · exact fld_setFld_same (by decide) _ _
    · exact fld_setFld_other (by decide) _ _ (by decide)
  · exact congrArg Host.Outcome.next (State.readReg_of_regRead (by decide) rfl)
  · exact congrArg Host.Outcome.next (State.readReg_of_regRead (by decide) rfl)
  · exact congrArg Host.Outcome.next (State.readReg_of_regRead (by decide) rfl)

/-- A vector's entry set, and the others. -/
theorem vector_set {α : Type} {k : Nat} (v : Vector α k) (n : Fin k) (x : α) :
    (v.set n x)[n] = x ∧ ∀ j : Fin k, j ≠ n → (v.set n x)[j] = v[j] :=
  ⟨Vector.getElem_set_self _, fun _ ne => Vector.getElem_set_ne _ _ (fun e => ne (Fin.ext e.symm))⟩

theorem hubWrites : HubWrites := by
  refine ⟨fun s o w h => ?_, fun s w => ⟨s.triggerWrite w, exec_registerWrite (by decide) w s, rfl⟩, fun s g w hg => ⟨?_, ?_, ?_⟩,
    fun s n w => ?_⟩
  · show Host.Outcome.next (s.writeRegs o [w]) = _
    unfold State.writeRegs State.writeRegs
    rw [h, if_neg Bool.false_ne_true, State.hostError_eq]
  · intro h8 h9
    rw [exec_registerWrite (isHubReg_graph (n := 0) hg (by decide) (by decide)), s.regWrite_graph (n := 0) hg (by decide)]
    have prio : w.setWidth 3 = BitVec.ofNat 3 (fld w 0 3) := by
      unfold fld
      apply BitVec.eq_of_toNat_eq
      simp
    simp only [State.graphWrite, if_true, h8, h9, Bool.false_eq_true, if_false, ← prio]
    rfl
  · rw [exec_registerWrite (isHubReg_graph (n := 0x20) hg (by decide) (by decide)), s.regWrite_graph (n := 0x20) hg (by decide)]
    rfl
  · rw [exec_registerWrite (isHubReg_graph (n := 0x08) hg (by decide) (by decide)), s.regWrite_graph (n := 0x08) hg (by decide)]
    rfl
  · have known : isHubReg (0x30100 + 8 * n.val) = true := by revert n; decide
    refine ⟨_, exec_registerWrite known w s, ?_⟩
    rw [State.regWrite_hint]
    exact ⟨(vector_set _ n _).1, (vector_set _ n _).2, rfl⟩

theorem hostWindows : HostWindows := by
  intro s n w base ok
  have run : exec (.hwinWrite n.val w) s = .next (s.hwinWrite n w) := congrArg Host.Outcome.next (dif_pos n.isLt)
  have accepts : hwinOk w = true ↔ ok := by
    unfold hwinOk ok base
    simp only [Bool.and_eq_true, Bool.or_eq_true, decide_eq_true_eq, beq_iff_eq]
    simp only [hbmEnd, sramBase, scratchBase]
    generalize fld w 12 36 * 4096 % 2 ^ fld w 2 6 = r
    generalize fld w 12 36 * 4096 = b
    omega
  rw [run]
  unfold State.hwinWrite
  refine ⟨fun h => ?_, fun h => ?_⟩
  · rw [if_pos (accepts.mpr h)]
    exact ⟨_, rfl, (vector_set _ n _).1, (vector_set _ n _).2, rfl⟩
  · rw [if_neg (fun e => h (accepts.mp e))]

section
variable {s : State} {a : Nat}

theorem linkRead_of_memory {n pa : Nat} (h : s.reach a n false = .memory pa) :
    s.linkRead a n = { (s.hostBytes pa n).2 with hostRead := (s.hostBytes pa n).1 } := by
  unfold State.linkRead
  rw [h]

theorem linkRead_of_shut {n : Nat} (h : s.reach a n false = .shut) :
    s.linkRead a n = { s.hostError with hostRead := List.replicate n (BitVec.allOnes 8) } := by
  unfold State.linkRead
  rw [h]

theorem linkWrite_of_memory {l : List Byte} {pa : Nat} (h : s.reach a l.length true = .memory pa) :
    s.linkWrite a l = s.hostFlits pa l (l.length + 1) := by
  unfold State.linkWrite
  rw [h]

theorem linkWrite_of_shut {l : List Byte} (h : s.reach a l.length true = .shut) : s.linkWrite a l = s.hostError := by
  unfold State.linkWrite
  rw [h]
end

/-- What a host access finds behind its window. -/
theorem reach_window (s : State) (n : Fin 16) {o : Nat} (ho : o < 2 ^ 40) (k : Nat) (wr : Bool) :
    let w := s.hub.hwin[n]
    let pa := fld w 12 36 * 4096 + o
    let opens := (bit w 0 = true ∧ o + k ≤ 2 ^ fld w 2 6 ∧ ∀ i, i < k → s.populated (pa + i) = true ∧ s.hubCutAt (pa + i) = false) ∧
      (wr = false ∨ bit w 1 = true)
    (opens → s.reach (n.val * 2 ^ 40 + o) k wr = .memory pa) ∧ (¬ opens → s.reach (n.val * 2 ^ 40 + o) k wr = .shut) := by
  intro w pa opens
  have hn := n.isLt
  have window : finOf 16 ((n.val * 2 ^ 40 + o) / 2 ^ 40) (by decide) = n := Fin.ext (by unfold finOf; dsimp only; omega)
  have offset : (n.val * 2 ^ 40 + o) % 2 ^ 40 = o := by omega
  have test : (bit w 0 && (!wr || bit w 1) && decide (o + k ≤ 2 ^ fld w 2 6) &&
      (List.range k).all (fun i => s.populated (pa + i) && !s.hubCutAt (pa + i))) = true ↔ opens := by
    simp only [Bool.and_eq_true, Bool.or_eq_true, Bool.not_eq_true', decide_eq_true_eq, List.all_eq_true, List.mem_range, opens]
    tauto
  unfold State.reach
  rw [if_pos (by omega)]
  simp only [window, offset]
  exact ⟨fun h => if_pos (test.mpr h), fun h => if_neg (fun e => h (test.mp e))⟩

/-- Without words that fail correction the host reads the bytes of memory. -/
theorem hostBytes_good {s : State} (h : s.bad = []) (pa n : Nat) :
    s.hostBytes pa n = (Memory.readN s.mem pa n, s.correctRange pa n) := by
  unfold State.hostBytes
  simp only [h, List.contains_nil, Bool.false_eq_true, if_false, if_true, Prod.mk.injEq, and_true]
  rw [List.map_congr_left (g := Prod.fst) (fun _ _ => rfl), List.zipIdx_map_fst]

/-- Bytes written at a location and bytes written after them. -/
theorem writeAll_append (m : List Host.Cell) (k : Nat) (l r : List Byte) :
    Memory.writeAll m k (l ++ r) = Memory.writeAll (Memory.writeAll m k l) (k + l.length) r := by
  induction l generalizing m k with
  | nil => rfl
  | cons b l ih =>
    rw [List.cons_append, Memory.writeAll, Memory.writeAll, ih, List.length_cons, Nat.add_right_comm, Nat.add_assoc]

/-- The flits of a host write put its bytes into memory. -/
theorem hostFlits_mem {fuel : Nat} {l : List Byte} (h : l.length < fuel) (s : State) (pa : Nat) :
    (s.hostFlits pa l fuel).mem = Memory.writeAll s.mem pa l := by
  induction fuel generalizing s pa l with
  | zero => exact absurd h (Nat.not_lt_zero _)
  | succ fuel ih =>
    unfold State.hostFlits
    split
    case isTrue e => subst e; rfl
    case isFalse e =>
      have pos := List.length_pos_iff.mpr e
      dsimp only
      rw [ih (by rw [List.length_drop]; omega), (s.commitBytes_rewrites _ _).mem]
      by_cases short : l.length ≤ 32 - pa % 32
      · rw [List.take_of_length_le short, List.drop_of_length_le short]
        rfl
      · conv_rhs => rw [← List.take_append_drop (32 - pa % 32) l, writeAll_append, List.length_take_of_le (by omega)]

/-- What memory holds after bytes were written into it, inside and outside of their range. -/
theorem read_written {m m' : List Host.Cell} (w : Memory.wf m = true) {k : Nat} {l : List Byte} (e : m' = Memory.writeAll m k l) :
    (∀ j, (h : j < l.length) → Memory.read m' (k + j) = l[j]) ∧
      ∀ b, (b < k ∨ k + l.length ≤ b) → Memory.read m' b = Memory.read m b := by
  subst e
  exact ⟨fun j h => Memory.read_writeAll_inside w l h, fun b h => Memory.read_writeAll_outside w l h⟩

theorem hostAccesses : HostAccesses := by
  intro s n o ho w a pa inside
  have reach (k : Nat) (wr : Bool) : (inside k ∧ (wr = false ∨ bit w 1 = true) → s.reach a k wr = .memory pa) ∧
      (¬ (inside k ∧ (wr = false ∨ bit w 1 = true)) → s.reach a k wr = .shut) := reach_window s n ho k wr
  refine ⟨fun k h good => ?_, fun k h => ?_, fun l h wr wf => ?_, fun l h => ?_, fun h l fits wf => ?_⟩
  · have read := linkRead_of_memory ((reach k false).1 ⟨h, .inl rfl⟩)
    rw [hostBytes_good good] at read
    exact congrArg Host.Outcome.next read
  · have read := linkRead_of_shut ((reach k false).2 (fun e => h e.1))
    rw [State.hostError_eq] at read
    exact congrArg Host.Outcome.next read
  · have write := linkWrite_of_memory ((reach _ true).1 ⟨h, .inr wr⟩)
    exact ⟨_, congrArg Host.Outcome.next write, read_written wf (hostFlits_mem (Nat.lt_succ_self _) s pa)⟩
  · have shut : ¬ (inside l.length ∧ (true = false ∨ bit w 1 = true)) := by
      rintro ⟨i, e | e⟩
      · exact Bool.noConfusion e
      · exact h.elim (fun g => g i) (fun g => Bool.noConfusion (g.symm.trans e))
    exact congrArg Host.Outcome.next ((linkWrite_of_shut ((reach _ true).2 shut)).trans s.hostError_eq)
  · refine ⟨s.writeBytes (hostKey h) l, congrArg Host.Outcome.next (if_pos fits), ?_⟩
    rw [← hostKey]
    exact read_written wf rfl

/-- A write that names events of HEALTH, and not SVC, takes those events. -/
theorem applyReg_health (s : State) (c i : Nat) {v : W64} (h : bit v 1 = false) : s.applyReg c i 0x880 v =
    { s with hub := { s.hub with health := setFld s.hub.health 16 16 (fld s.hub.health 16 16 - fld v 16 16) } } := by
  unfold State.applyReg
  simp [h]

/-- The bits of a word that a mask of one field keeps. -/
theorem bit_events (x : W64) (i : Nat) : bit (x &&& 0xFFFF0000) i = (bit x i && decide (16 ≤ i ∧ i < 32)) := by
  have mask : bit (0xFFFF0000 : W64) i = decide (16 ≤ i ∧ i < 32) := by
    by_cases h : i < 64
    · revert i; decide
    · rw [bit, BitVec.getLsbD_of_ge _ _ (by omega)]
      exact (decide_eq_false (by omega)).symm
  rw [← mask]
  exact BitVec.getLsbD_and

theorem fld_events (x : W64) : fld (x &&& 0xFFFF0000) 16 16 = fld x 16 16 := by
  refine Nat.eq_of_testBit_eq fun j => ?_
  rw [testBit_fld, testBit_fld, bit_events]
  by_cases h : j < 16
  · simp [h, show 16 + j < 32 by omega]
  · simp [h]

/-- HEALTH reads its word with the count of scheduled rows in [55:48]. -/
theorem fld_healthWord (s : State) {lo n : Nat} (h : lo + n ≤ 48) : fld s.healthWord lo n = fld s.hub.health lo n :=
  fld_setFld_other (by decide) _ _ (.inl h)

/-- The upper half of HEALTH, PEND in it, has no part in the count of events. -/
theorem fld_pend_events (x : W64) (pend : Nat) : fld (setFld (setFld x 16 16 0) 48 8 pend) 32 32 = fld (setFld x 48 8 pend) 32 32 := by
  refine Nat.eq_of_testBit_eq fun j => ?_
  simp only [testBit_fld, bit_setFld (lo := 48) (n := 8) (by decide), bit_setFld (lo := 16) (n := 16) (by decide)]
  rw [if_neg (show ¬ (16 ≤ 32 + j ∧ 32 + j < 16 + 16) by omega)]

theorem configReads : ConfigReads := by
  refine ⟨fun s n => ?_, fun s n => ⟨_, rfl, rfl, rfl, rfl⟩, fun s p n => ?_⟩
  · have taken : s.applyReg 0 0 0x880 (s.healthWord &&& 0xFFFF0000) =
        { s with hub := { s.hub with health := setFld s.hub.health 16 16 0 } } := by
      rw [applyReg_health _ _ _ (by rw [bit_events]; simp), fld_events, fld_healthWord _ (by decide), Nat.sub_self]
    have run : exec (.hostRead .health n) s =
        .next { s.applyReg 0 0 0x880 (s.healthWord &&& 0xFFFF0000) with hostRead := bvBytes s.healthWord 8 } := rfl
    rw [taken] at run
    refine ⟨_, run, rfl, ?_, ?_, ?_, rfl, rfl⟩
    · rw [fld_healthWord _ (by decide)]
      exact fld_setFld_same (by decide) _ 0
    · rw [fld_healthWord _ (by decide), fld_healthWord _ (by decide)]
      exact fld_setFld_other (by decide) _ _ (.inl (by decide))
    · exact fld_pend_events _ _
  · exact congrArg Host.Outcome.next (by simp only [List.flatMap_cons, List.flatMap_nil, List.append_nil, List.append_assoc])

/-- Settles O53, register by register and window by window. -/
theorem hostLink : Obligations.HostLink := ⟨clearingReads, hubWrites, hostWindows, hostAccesses, configReads⟩

end Sys2Proof.Claim
end

section
/-! The life of a graph (O54): the commands that upload and exit it, and its pre-emption. -/

namespace Sys2Proof.Claim
open Sys2Proof.Machine

/-! Commands. -/

theorem gcmdBad_iff (w : W64) : gcmdBad w = false ↔ fld w 4 12 = 0 ∧
    ((fld w 0 4 = 1 ∧ fld w 16 48 < 2 ^ 47 ∧ fld w 16 48 % 4096 = 0) ∨ (fld w 0 4 = 2 ∧ fld w 16 48 < 64)) := by
  unfold gcmdBad
  simp only [Bool.or_eq_false_iff, Bool.and_eq_false_iff, bne_eq_false_iff_eq, beq_eq_false_iff_ne, decide_eq_false_iff_not]
  omega

/-- A command that ends, ends with one of its results. -/
theorem gcmdResult_oneOf (s : State) {l : List Nat} (h : l ≠ []) : ∃ r ∈ l, ∃ f, s.gcmdResult l = ended { s with fresh := f } r := by
  match l, h with
  | [r], _ => exact ⟨r, List.mem_singleton_self r, s.fresh, rfl⟩
  | a :: b :: l, _ =>
    have in_ : (Config.freeWord s.fresh).toNat % (a :: b :: l).length < (a :: b :: l).length := Nat.mod_lt _ (Nat.succ_pos _)
    have many : ¬ (a :: b :: l).length ≤ 1 := by simp
    refine ⟨_, List.getElem_mem in_, s.fresh + 1, ?_⟩
    unfold State.gcmdResult
    simp only [if_neg many, List.getD_eq_getElem?_getD, List.getElem?_eq_getElem in_, Option.getD_some]
    rfl

theorem gcmdResult_single (s : State) (r : Nat) : s.gcmdResult [r] = ended s r := rfl

section
variable {s : State} {w : W64}

theorem gcmd_busy (h : s.hub.busy.isSome = true) : s.gcmd w = s := if_pos h

/-- A command is an exit that names a graph. -/
def exits (w : W64) : Bool := !gcmdBad w && fld w 0 4 == 2

/-- An exit names its graph in GCMDST, refused or not. -/
def named (s : State) (w : W64) : State := if exits w then { s with hub := { s.hub with graph := fld w 16 48 } } else s

theorem gcmd_refused (idle : s.hub.busy = none) (h : s.gcmdRefusals w ≠ []) : s.gcmd w = (named s w).gcmdResult (s.gcmdRefusals w) := by
  have same : (named s w).gcmdRefusals w = s.gcmdRefusals w := by unfold named; split <;> rfl
  have unfolded : s.gcmd w = if s.hub.busy.isSome then s else if (named s w).gcmdRefusals w ≠ [] then
      (named s w).gcmdResult ((named s w).gcmdRefusals w) else _ := rfl
  rw [unfolded, same, idle, if_neg (by decide), if_pos h]

theorem gcmd_taken (idle : s.hub.busy = none) (h : s.gcmdRefusals w = []) : s.gcmd w =
    let t : State := { named s w with hub := { (named s w).hub with busy := some w } }
    if exits w then t.modGraph (fld w 16 48) (fun y => { y with queued := [], running := none }) else t := by
  have same : (named s w).gcmdRefusals w = s.gcmdRefusals w := by unfold named; split <;> rfl
  have unfolded : s.gcmd w = if s.hub.busy.isSome then s else if (named s w).gcmdRefusals w ≠ [] then _ else
      let t : State := { named s w with hub := { (named s w).hub with busy := some w } }
      if exits w then t.modGraph (fld w 16 48) (fun y => { y with queued := [], running := none }) else t := rfl
  rw [unfolded, same, idle, if_neg (by decide), if_neg (by simpa using h)]

/-- What refuses a command that is malformed. -/
theorem gcmdRefusals_bad (bad : gcmdBad w = true) : s.gcmdRefusals w = if s.hub.bootState = 5 then [7] else [7, 5] := by
  unfold State.gcmdRefusals
  simp only [bad, if_true, Bool.not_true, Bool.false_and, Bool.false_eq_true, if_false, List.append_nil]
  split <;> rfl

/-- What refuses one that is not. -/
theorem gcmdRefusals_good (good : gcmdBad w = false) : s.gcmdRefusals w = (if s.hub.bootState = 5 then [] else [5]) ++
    if fld w 0 4 = 2 ∧ (s.graph (fld w 16 48)).resident = false then [6] else [] := by
  unfold State.gcmdRefusals
  simp [good]

theorem named_bad (bad : gcmdBad w = true) : named s w = s := by simp [named, exits, bad]

/-- A malformed command, in a state in which no command is in progress. -/
theorem gcmd_bad (idle : s.hub.busy = none) (bad : gcmdBad w = true) :
    (s.hub.bootState = 5 → s.gcmd w = ended s 7) ∧
      (s.hub.bootState ≠ 5 → ∃ r ∈ [5, 7], ∃ f, s.gcmd w = ended { s with fresh := f } r) := by
  have refusals := gcmdRefusals_bad (s := s) bad
  refine ⟨fun ready => ?_, fun unready => ?_⟩
  · rw [if_pos ready] at refusals
    rw [gcmd_refused idle (by rw [refusals]; decide), refusals, named_bad bad, gcmdResult_single]
  · rw [if_neg unready] at refusals
    rw [gcmd_refused idle (by rw [refusals]; decide), refusals, named_bad bad]
    obtain ⟨r, m, f, e⟩ := gcmdResult_oneOf s (l := [7, 5]) (by decide)
    exact ⟨r, by simpa [or_comm] using m, f, e⟩

end

theorem graphCommands : GraphCommands := by
  intro s w g
  have written : exec (.registerWrite 0x20 w) s = .next (s.gcmd w) := exec_registerWrite (by decide) w s
  refine ⟨fun op => ?_, fun op => ?_, fun op1 op2 => ?_, fun op idle good ready => ?_, gcmdBad_iff w⟩
  · have run : exec (.graphUpload w) s = .next (s.gcmd w) := congrArg Host.Outcome.next (if_pos op)
    have plain : exits w = false := by simp [exits, op]
    have noGraph : named s w = s := by simp [named, plain]
    unfold EndsOneOf
    rw [run, written]
    refine ⟨fun b => by rw [gcmd_busy b], fun idle bad ready => by rw [(gcmd_bad idle bad).1 ready], fun idle bad unready => ?_,
      fun idle good unready => ?_, fun idle good ready => ?_, _, rfl, rfl⟩
    · obtain ⟨r, m, f, e⟩ := (gcmd_bad idle bad).2 unready
      exact ⟨r, m, f, congrArg Host.Outcome.next e⟩
    · have refusals : s.gcmdRefusals w = [5] := by rw [gcmdRefusals_good good, if_neg unready]; simp [op]
      rw [gcmd_refused idle (by rw [refusals]; decide), refusals, noGraph, gcmdResult_single]
    · have refusals : s.gcmdRefusals w = [] := by rw [gcmdRefusals_good good, if_pos ready]; simp [op]
      rw [gcmd_taken idle refusals, noGraph]
      simp [plain]
  · have run : exec (.graphExit w) s = .next (s.gcmd w) := congrArg Host.Outcome.next (if_pos op)
    unfold EndsOneOf
    rw [run, written]
    refine ⟨fun b => by rw [gcmd_busy b], fun idle bad ready => by rw [(gcmd_bad idle bad).1 ready], fun idle bad unready => ?_,
      fun idle good unready => ?_, _, rfl, rfl⟩
    · obtain ⟨r, m, f, e⟩ := (gcmd_bad idle bad).2 unready
      exact ⟨r, m, f, congrArg Host.Outcome.next e⟩
    · have names : named s w = { s with hub := { s.hub with graph := g } } := by simp [named, exits, op, good, g]
      refine ⟨fun res => ?_, fun absent => ?_⟩
      · have refusals : s.gcmdRefusals w = [5] := by
          rw [gcmdRefusals_good good, if_neg unready, if_neg (fun h => by rw [res] at h; exact absurd h.2 (by decide))]; rfl
        rw [gcmd_refused idle (by rw [refusals]; decide), refusals, names, gcmdResult_single]
      · have refusals : s.gcmdRefusals w = [5, 6] := by
          rw [gcmdRefusals_good good, if_neg unready, if_pos ⟨op, absent⟩]; rfl
        rw [gcmd_refused idle (by rw [refusals]; decide), refusals, names]
        obtain ⟨r, m, f, e⟩ := gcmdResult_oneOf { s with hub := { s.hub with graph := g } } (l := [5, 6]) (by decide)
        exact ⟨r, f, by simpa using m, congrArg Host.Outcome.next e⟩
  · have bad : gcmdBad w = true := by
      rw [← Bool.not_eq_false, gcmdBad_iff]
      omega
    unfold EndsOneOf
    rw [written]
    refine ⟨fun b => by rw [gcmd_busy b], fun idle ready => by rw [(gcmd_bad idle bad).1 ready], fun idle unready => ?_⟩
    obtain ⟨r, m, f, e⟩ := (gcmd_bad idle bad).2 unready
    exact ⟨r, m, f, congrArg Host.Outcome.next e⟩
  · have run : exec (.graphExit w) s = .next (s.gcmd w) := congrArg Host.Outcome.next (if_pos op)
    have names : named s w = { s with hub := { s.hub with graph := g } } := by simp [named, exits, op, good, g]
    rw [run]
    refine ⟨fun res => ?_, fun absent => ?_⟩
    · have refusals : s.gcmdRefusals w = [] := by
        rw [gcmdRefusals_good good, if_pos ready, if_neg (fun h => by rw [res] at h; exact absurd h.2 (by decide))]; rfl
      rw [gcmd_taken idle refusals, names]
      simp [exits, op, good]
      rfl
    · have refusals : s.gcmdRefusals w = [6] := by
        rw [gcmdRefusals_good good, if_pos ready, if_pos ⟨op, absent⟩]; rfl
      rw [gcmd_refused idle (by rw [refusals]; decide), refusals, names, gcmdResult_single]

end Sys2Proof.Claim
end

section
namespace Sys2Proof.Claim
open Sys2Proof.Machine

/-! Upload and exit. -/

section
variable {s : State} {m : GraphImage} {w : W64}

theorem uploadDone_refused (busy : s.hub.busy = some w) (op : fld w 0 4 = 1) (h : s.uploadRefusals m ≠ []) :
    exec (.uploadDone m) s = .next (s.gcmdResult (s.uploadRefusals m)) := by
  show execUploadDone m s = _
  unfold execUploadDone
  simp only [busy, Option.any_some, op, beq_self_eq_true, if_true]
  split
  · contradiction
  · rfl

theorem uploadDone_accepted (busy : s.hub.busy = some w) (op : fld w 0 4 = 1) (h : s.uploadRefusals m = []) {g : Nat}
    (id : s.freeId m = some g) : exec (.uploadDone m) s = .next (
      if s.placedWell (s.install g (s.freeAsid m) m) (s.freeAsid m) m then s.install g (s.freeAsid m) m else s) := by
  show execUploadDone m s = _
  unfold execUploadDone
  simp only [busy, Option.any_some, op, beq_self_eq_true, if_true, h, id]

end

/-- The tables that an image gives its address space. -/
def tables (m : GraphImage) : Space :=
  { root := m.root, groups := Image.groupTable m, vtbase := m.vtbase, codebase := m.codebase, sktab := m.sktab,
    vtypes := m.vtypes, skeins := m.skeins }

/-- The state in which an upload fills memory: its parking places are set, and its address space has tables. -/
def spaced (s : State) (a : Asid) (m : GraphImage) : State :=
  let s := s.setParking m.parkPlaces
  if (s.graphsOf a).isEmpty then
    { s with spaces := s.spaces.put a.toNat (tables m) }
  else s

/-- The state in which it has: placements, TCM, the cores' copies and the skein table. -/
def filled (s : State) (g : Nat) (a : Asid) (m : GraphImage) : State :=
  ((Image.cores m).foldl (fun s c => s.installCore g a m c)
    ((m.placements.foldl State.placeBytes (spaced s a m)).loadTcm m)).installSkeins a m

/-- Where an upload's graph stands in a pre-emption: where the others of its address space do. -/
def joinedPre (s : State) (a : Asid) : PreState :=
  match s.lowGraph a with
  | some h => (s.graph h).pre
  | none => .none

/-- The state in which its graph is resident. -/
def resided (s : State) (g : Nat) (a : Asid) (m : GraphImage) : State :=
  let t := (filled s g a m).modGraph g (fun y => y.install a m (joinedPre s a))
  t.modGraph g (fun y => { y with marked := t.tableBeyond a })

theorem install_eq (s : State) (g : Nat) (a : Asid) (m : GraphImage) : ∃ l k, s.install g a m =
    { resided s g a m with
      lastExit := l, cores := k
      hub := { (resided s g a m).hub with busy := none, result := 0, graph := g, asid := a, name := m.name } } :=
  ⟨_, _, rfl⟩

/-- The graph an upload makes. -/
theorem install_graph (s : State) (g : Nat) (a : Asid) (m : GraphImage) : let y := (s.install g a m).graph g
    y.resident = true ∧ y.exited = false ∧ y.asid = a ∧ y.name = m.name ∧ y.prio = m.prio ∧ y.queued = [] ∧
      y.running = none ∧ y.done = 0 ∧ y.next = 1 ∧ y.nodes = m.nodes := by
  obtain ⟨l, k, e⟩ := install_eq s g a m
  have made : ∃ b, (resided s g a m).graph g = { ((filled s g a m).graph g).install a m (joinedPre s a) with marked := b } := by
    unfold resided
    dsimp only
    rw [State.graph_modGraph_same, State.graph_modGraph_same]
    exact ⟨_, rfl⟩
  obtain ⟨b, made⟩ := made
  have same : (s.install g a m).graph g = (resided s g a m).graph g := by rw [e]; rfl
  rw [same, made]
  exact ⟨rfl, rfl, rfl, rfl, rfl, rfl, rfl, rfl, rfl, rfl⟩

/-- Filling memory leaves the tables of address spaces. -/
theorem filled_spaces (s : State) (g : Nat) (a : Asid) (m : GraphImage) : (filled s g a m).spaces = (spaced s a m).spaces := by
  have skeins (u : State) : (u.installSkeins a m).spaces = u.spaces :=
    foldl_keeps _ State.spaces (fun u _ => foldl_keeps _ State.spaces (fun u _ => u.commitBytes_spaces _ _) _ u) _ u
  have core (u : State) (c : Nat) : (u.installCore g a m c).spaces = u.spaces := by
    unfold State.installCore
    split
    · rfl
    · dsimp only
      split
      · exact State.commitBytes_spaces _ _ _
      · rfl
  have tcm (u : State) : (u.loadTcm m).spaces = u.spaces :=
    foldl_keeps _ State.spaces (fun u _ => u.commitBytes_spaces _ _) _ u
  have places (u : State) : (m.placements.foldl State.placeBytes u).spaces = u.spaces :=
    foldl_keeps _ State.spaces (fun u _ => u.commitBytes_spaces _ _) _ u
  unfold filled
  rw [skeins, foldl_keeps _ State.spaces core, tcm, places]

/-- The tables a graph is given, where its address space is new. -/
theorem install_space (s : State) (g : Nat) (a : Asid) (m : GraphImage) (new : s.graphsOf a = []) :
    ((s.install g a m).space a).root = m.root ∧ ((s.install g a m).space a).groups = Image.groupTable m := by
  have parking : (s.setParking m.parkPlaces).graphsOf a = [] := by
    rw [← new]
    unfold State.setParking
    extract_lets
    split <;> rfl
  have given : (spaced s a m).space a = tables m := by
    unfold spaced State.space
    dsimp only
    rw [parking]
    exact Tab.get_put_same _ _ _ _
  have kept : (s.install g a m).space a = (spaced s a m).space a := by
    obtain ⟨l, k, e⟩ := install_eq s g a m
    unfold State.space
    rw [e, ← filled_spaces s g a m]
    rfl
  rw [kept, given]
  exact ⟨rfl, rfl⟩

/-- What the refusals of a readable image stand for (R363). -/
theorem mem_uploadRefusals (s : State) (m : GraphImage) (readable : m.readable = true) (r : Nat) : r ∈ s.uploadRefusals m ↔
    (r = 1 ∧ s.freeId m = none) ∨ (r = 2 ∧ (Image.malformed m = true ∨ s.placementBad (s.freeAsid m) m = true)) ∨
      (r = 3 ∧ Image.groupsBad m = true) ∨
      (r = 4 ∧ (s.freeAsid m = 0 ∨ (s.graphsOf (s.freeAsid m) ≠ [] ∧ s.joins (s.freeAsid m) m = false))) := by
  have one (p : Prop) [Decidable p] (n : Nat) : r ∈ (if p then [n] else []) ↔ r = n ∧ p := by
    by_cases h : p <;> simp [h]
  unfold State.uploadRefusals
  simp only [readable, Bool.not_true, Bool.false_eq_true, if_false, List.mem_append, one, Bool.or_eq_true, Bool.and_eq_true,
    Bool.not_eq_true', beq_iff_eq, Option.isNone_iff_eq_none, List.isEmpty_eq_false_iff, or_assoc]

theorem uploadRefusals_unreadable (s : State) {m : GraphImage} (h : m.readable = false) : s.uploadRefusals m = [2] := by
  unfold State.uploadRefusals
  simp only [h, Bool.not_false, if_true]

/-! Exit. -/

/-- What an exit leaves of its graph. -/
def gone (y : Graph) : Bool × Bool × Bool × List NodeDecl := (y.resident, y.exited, y.running.isSome, y.nodes)

theorem gone_stays (u : State) (a : Asid) (g : Nat) : gone ((u.settleShared a).graph g) = gone (u.graph g) := by
  have set_ (p : PreState) : gone ((u.setPre a p).graph g) = gone (u.graph g) := ((u.setPre_graphs a p).map gone).graph g
  unfold State.settleShared State.settlePre
  split
  · split
    · exact set_ _
    · rfl
  · rfl

/-- What follows in an address space that a graph has left, its last one or not. -/
def afterLeaving (u : State) (a : Asid) (last : Bool) : State := if !last then u.settleShared a else u.clearSpace a

/-- No other graph of its address space is resident. -/
def isLast (s : State) (g : Nat) : Bool := ((s.graphsOf (s.graph g).asid).filter (fun h => h != g)).isEmpty

theorem isLast_of (s : State) (g : Nat) (h : ∀ h ∈ s.graphsOf (s.graph g).asid, h = g) : isLast s g = true := by
  rw [isLast, List.isEmpty_iff]
  exact List.filter_eq_nil_iff.mpr fun k m => by simpa using h k m

/-- An exit, from the state in which its graph is gone and its address space still there. -/
theorem exitGraph_eq (s : State) (g : Nat) : ∃ u l, gone (State.graph u g) = (false, true, false, []) ∧
    s.exitGraph g =
      let t := afterLeaving u (s.graph g).asid (isLast s g)
      { t with links := l, hub := { t.hub with busy := none, result := 0, graph := g } } := by
  have steps : ∃ (v : State) (f : Graph → Graph) (l : List TileDone) (x : Tab Nat), (∀ y, gone (f y) = (false, true, false, [])) ∧
      s.exitGraph g =
        let u : State := { v.modGraph g f with tileDone := l, lastExit := x }
        let t := (afterLeaving u (s.graph g).asid (isLast s g)).beginRetrains
        { t with hub := { t.hub with busy := none, result := 0, graph := g } } :=
    ⟨_, _, _, _, fun _ => rfl, rfl⟩
  obtain ⟨v, f, l, x, left, e⟩ := steps
  obtain ⟨n, retrained⟩ :=
    State.beginRetrains_eq (afterLeaving { v.modGraph g f with tileDone := l, lastExit := x } (s.graph g).asid (isLast s g))
  refine ⟨{ v.modGraph g f with tileDone := l, lastExit := x }, n, ?_, ?_⟩
  · exact (congrArg gone (State.graph_modGraph_same v g f)).trans (left _)
  · rw [e]
    dsimp only
    rw [retrained]

/-- Nothing of an address space is left where its last graph is gone. -/
theorem clearSpace_clears (u : State) (a : Asid) : let t := u.clearSpace a
    t.spaces.find a.toNat = none ∧ (∀ c, (∀ e ∈ (t.core c).heddle, e.asid ≠ a) ∧ (∀ e ∈ (t.core c).tlb, e.asid ≠ a)) ∧
      (∀ r ∈ t.arrivals, r.asid ≠ a) ∧ ∀ r ∈ t.releases, r.asid ≠ a := by
  have absent {α : Type} (l : Tab α) (i : Nat) : Tab.find (l.filter (fun e => e.1 != i)) i = none := by
    cases f : Tab.find (l.filter (fun e => e.1 != i)) i with
    | none => rfl
    | some v => simpa using (List.mem_filter.mp (Tab.mem_of_find f)).2
  have kept {α : Type} (l : List α) (asid : α → Asid) : ∀ e ∈ l.filter (fun e => asid e != a), asid e ≠ a :=
    fun e m => by simpa using (List.mem_filter.mp m).2
  refine ⟨absent _ _, fun c => ?_, kept _ _, kept _ _⟩
  have core := State.core_mapCores (f := fun k => { k with
    heddle := k.heddle.filter (fun e => e.asid != a), tlb := k.tlb.filter (fun e => e.asid != a)
    walks := k.walks.filter (fun w => w.asid != a), passed := k.passed.filter (fun x => x.asid != a)
    spaces := k.spaces.filter (fun e => e.1 != a.toNat) }) rfl u c
  have here : (u.clearSpace a).core c = _ := core
  rw [here]
  exact ⟨kept _ _, kept _ _⟩

theorem residence : Residence := by
  refine ⟨fun s m w busy op => ⟨fun h => ?_, fun g none_ id bad => ?_, fun g none_ id good => ?_⟩, fun s m => ⟨?_, ?_, ?_⟩,
    fun s w busy op => ?_⟩
  · obtain ⟨r, m', f, e⟩ := gcmdResult_oneOf s h
    exact ⟨r, m', f, (uploadDone_refused busy op h).trans (congrArg Host.Outcome.next e)⟩
  · rw [uploadDone_accepted busy op none_ id, bad, if_neg Bool.false_ne_true]
  · rw [uploadDone_accepted busy op none_ id, if_pos good]
    obtain ⟨p1, p2, p3, p4, p5, p6, p7, p8, p9, p10⟩ := install_graph s g (s.freeAsid m) m
    obtain ⟨l, k, e⟩ := install_eq s g (s.freeAsid m) m
    refine ⟨_, rfl, ?_, ?_, ?_, ?_, ?_, p1, p2, p3, p4, p5, p6, p7, p8, p9, p10, install_space s g _ m⟩
    all_goals rw [e]
  · exact fun h => uploadRefusals_unreadable s h
  · intro h
    refine ⟨?_, ?_, ?_, ?_⟩
    all_goals rw [mem_uploadRefusals s m h]; simp
  · intro r h
    by_cases readable : m.readable = true
    · rw [mem_uploadRefusals s m readable] at h
      omega
    · rw [uploadRefusals_unreadable s (by simpa using readable)] at h
      simp at h
      omega
  · have run : exec .exitDone s = .next (s.exitGraph (fld w 16 48)) := by
      show execExitDone s = _
      unfold execExitDone
      simp only [busy, op, if_true]
    obtain ⟨u, l, left, e⟩ := exitGraph_eq s (fld w 16 48)
    intro g
    have left' : gone ((afterLeaving u (s.graph g).asid (isLast s g)).graph g) = (false, true, false, []) := by
      rw [← left]
      unfold afterLeaving
      split
      · exact gone_stays _ _ _
      · rfl
    refine ⟨_, run, ?_⟩
    rw [e]
    refine ⟨rfl, rfl, (congrArg (·.1) left' :), (congrArg (·.2.1) left' :),
      Option.not_isSome_iff_eq_none.mp (ne_true_of_eq_false (congrArg (·.2.2.1) left' :)), (congrArg (·.2.2.2) left' :), fun last => ?_⟩
    rw [isLast_of s g last]
    exact clearSpace_clears u _

end Sys2Proof.Claim
end

section
namespace Sys2Proof.Claim
open Sys2Proof.Machine

/-! Pre-emption. -/

/-- A message that a pre-emption of an address space moves out of its inbox. -/
def moves (a : Asid) (p : Pending) : Bool := p.msg.stamp.asid == a && p.msg.owner.isNone

theorem dropFull_cores (s : State) (m : Message) : (s.dropFull m).cores = s.cores := by
  unfold State.dropFull State.nack State.dropKey
  split <;> split <;> split <;> rfl

theorem dropFull_pre (s : State) (m : Message) : SameGraphs Graph.pre s (s.dropFull m) := by
  have rest (u : State) : SameGraphs Graph.pre u ((u.dropKey m.stamp.asid m.taskKey).nack m 3) := by
    refine .of_graphs _ ?_
    unfold State.nack State.dropKey
    split <;> split <;> rfl
  unfold State.dropFull
  refine SameGraphs.trans ?_ (rest _)
  split
  · exact .modGraph (f := fun y => { y with parkDrop := sat32 y.parkDrop }) (fun _ => rfl) (fun _ => ⟨rfl, rfl⟩) _ _
  · exact .refl _ _

/-- The messages of an address space leave an inbox, unless there are none; what finds no place is dropped. -/
theorem parkInbox_eq (s : State) (a : Asid) (c : Nat) : s.parkInbox a c = s ∧ (s.core c).inbox.filter (moves a) = [] ∨
    ∃ (t : Tab (List Pending)) (l : List Pending), s.parkInbox a c = l.foldl (fun s p => s.dropFull p.msg)
      { s.modCore c (fun k => { k with inbox := k.inbox.filter (fun p => !moves a p) }) with parked := t } := by
  by_cases h : ((s.core c).inbox.filter (moves a)).isEmpty = true
  · exact .inl ⟨if_pos h, List.isEmpty_iff.mp h⟩
  · exact .inr ⟨_, _, if_neg h⟩

theorem parkInbox_inbox (s : State) (a : Asid) (c d : Nat) : ((s.parkInbox a c).core d).inbox =
    if d = c then (s.core d).inbox.filter (fun p => !moves a p) else (s.core d).inbox := by
  rcases parkInbox_eq s a c with ⟨e, none_⟩ | ⟨t, l, e⟩
  · rw [e]
    split
    · next h =>
      subst h
      refine (List.filter_eq_self.mpr fun p m => ?_).symm
      simpa using List.filter_eq_nil_iff.mp none_ p m
    · rfl
  · have cores := foldl_keeps (fun s (p : Pending) => s.dropFull p.msg) State.cores (fun s p => dropFull_cores s p.msg) l
      { s.modCore c (fun k => { k with inbox := k.inbox.filter (fun p => !moves a p) }) with parked := t }
    rw [e]
    unfold State.core at *
    rw [cores]
    split
    · next h => subst h; exact congrArg Core.inbox (Tab.get_put_same _ _ _ _)
    · next h => exact congrArg Core.inbox (Tab.get_put_other _ _ _ h)

theorem parkInbox_pre (s : State) (a : Asid) (c : Nat) : SameGraphs Graph.pre s (s.parkInbox a c) := by
  rcases parkInbox_eq s a c with ⟨e, -⟩ | ⟨t, l, e⟩
  · rw [e]; exact .refl _ _
  · rw [e]
    refine .trans ?_ (.foldl (fun s p => dropFull_pre s p.msg) l _)
    exact .of_graphs _ rfl

/-- Emptying several. -/
theorem parkInboxes_inbox (a : Asid) (l : List Nat) (s : State) (d : Nat) :
    ((l.foldl (fun s c => s.parkInbox a c) s).core d).inbox =
      if d ∈ l then (s.core d).inbox.filter (fun p => !moves a p) else (s.core d).inbox := by
  induction l generalizing s with
  | nil => rfl
  | cons c l ih =>
    rw [List.foldl_cons, ih, parkInbox_inbox]
    by_cases e : d = c
    · simp [e, List.filter_filter]
    · simp [e]

/-- A core that no entry names holds nothing. -/
theorem core_of_not_mem {s : State} {c : Nat} (h : c ∉ s.cores.map (·.1)) : s.core c = Core.init := by
  unfold State.core Tab.get
  cases f : Tab.find s.cores c with
  | none => rfl
  | some k => exact absurd (List.mem_map_of_mem (f := (·.1)) (Tab.mem_of_find f)) h

theorem preempt_unsaved {s : State} {g : Nat} (res : (s.graph g).resident = true)
    (runs : (s.graph g).pre = .none ∨ (s.graph g).pre = .resuming) (area : bit (s.graph g).gsave 0 = false) :
    s.preempt g = s.setGraph g { s.graph g with err := 8 } := by
  unfold State.preempt
  rcases runs with h | h <;> simp [res, h, area, State.modGraph]

theorem preempt_saved {s : State} {g : Nat} (res : (s.graph g).resident = true)
    (runs : (s.graph g).pre = .none ∨ (s.graph g).pre = .resuming) (area : bit (s.graph g).gsave 0 = true) :
    s.preempt g = (s.cores.map (·.1)).foldl (fun u c => u.parkInbox (s.graph g).asid c) (s.setPre (s.graph g).asid .stopping) := by
  have stands : (!(s.graph g).resident || (s.graph g).pre == .stopping || (s.graph g).pre == .stopped) = false := by
    rcases runs with h | h <;> simp [res, h]
  unfold State.preempt
  dsimp only
  rw [stands, area, if_neg Bool.false_ne_true, if_neg (by decide), State.setPre_cores]

/-! The completion of a pre-emption. -/

/-- Writing a record changes memory alone, and what commits change. -/
theorem writeRecord_alike (s : State) (base c i : Nat) (a : Act) : Alike s (s.writeRecord base c i a) := by
  have parts (l : List (Nat × List Byte)) (u : State) :
      Alike u (l.foldl (fun s p => s.commitBytes (saveKey base c i + p.1) p.2) u) := by
    induction l generalizing u with
    | nil => exact .refl u
    | cons p l ih => exact (u.commitBytes_rewrites _ _).alike.trans (ih _)
  have e : ∃ l n, s.writeRecord base c i a =
      { List.foldl (fun (s : State) (p : Nat × List Byte) => s.commitBytes (saveKey base c i + p.1) p.2) s l with fresh := n } := ⟨_, _, rfl⟩
  obtain ⟨l, n, e⟩ := e
  rw [e]
  exact ⟨(parts l s).core, (parts l s).graphs⟩

/-- The context of a halted slot. -/
def contextOf (s : State) (c i : Nat) (a : Act) (w : Option Wait) : Saved :=
  let x := s.slot c i
  { core := c, slot := i, regs := x.regs, act := a, wait := w, bars := x.bars, engine := x.engine, matrix := x.matrix,
    attempt := x.attempt, under := x.under, seen := x.fetch.seen, acq := x.acq, acqEng := x.acqEng, acqOld := x.acqOld,
    cmds := (s.core c).mq.filter (fun m => m.act == a.id), watches := (s.core c).watches.filter (fun y => y.slot == i) }

/-- A graph with one more saved context. -/
def Keeping (v : Saved) (y : Graph) : Graph := { y with saved := y.saved ++ [v] }

/-- A slot whose activation has left it. -/
def Vacant (x : Slot) : Slot := { Slot.free with ext := x.ext }

/-- A halted context saved: it stands with the graph, of which all else stands, and its slot is free. -/
theorem saveContext_saves {s : State} {g c i : Nat} {a : Act} {w : Option Wait} (act : (s.slot c i).act = some a)
    (halted : (s.slot c i).phase = .halted w) : SameGraphs Graph.shell s (s.saveContext g c i) ∧
      ((s.saveContext g c i).slot c i).act = none ∧ contextOf s c i a w ∈ ((s.saveContext g c i).graph g).saved := by
  have steps (r : State) (v : Saved) (f : Core → Core) (l : List TaskEntry) (u : State)
      (e : u = { ((r.modGraph g (Keeping v)).modCore c f).modSlot c i Vacant with tasks := l }) :
      SameGraphs Graph.shell r u ∧ (u.slot c i).act = none ∧ v ∈ (u.graph g).saved := by
    subst e
    refine ⟨.trans (.modGraph (f := Keeping v) (fun _ => rfl) (fun _ => ⟨rfl, rfl⟩) r g) (.of_graphs _ rfl), ?_, ?_⟩
    · exact congrArg Slot.act (State.slot_modSlot_same ((r.modGraph g (Keeping v)).modCore c f) c i Vacant)
    · have here : (r.modGraph g (Keeping v)).graph g = Keeping v (r.graph g) := State.graph_modGraph_same r g _
      show v ∈ ((r.modGraph g (Keeping v)).graph g).saved
      rw [here]
      exact List.mem_append_right _ List.mem_cons_self
  have e : ∃ f l, s.saveContext g c i = { (((s.writeRecord (fld (s.graph g).gsave 28 8) c i a).modGraph g
      (Keeping (contextOf s c i a w))).modCore c f).modSlot c i Vacant with tasks := l } := by
    unfold State.saveContext
    simp only [act, halted]
    exact ⟨_, _, rfl⟩
  obtain ⟨f, l, e⟩ := e
  obtain ⟨same, free, saved⟩ := steps _ _ f l _ e
  exact ⟨.trans (.of_alike (writeRecord_alike _ _ _ _ _)) same, free, saved⟩

/-- Saving commands leaves slots, and of graphs residence and saved contexts. -/
theorem saveCmds_slot (s : State) (g : Nat) (a : Asid) (c i : Nat) : (s.saveCmds g a).slot c i = s.slot c i := by
  have core := State.core_mapCores (f := fun k => { k with mq := k.mq.filter (fun m => !(m.stamp.asid == a)) }) rfl
    (s.modGraph g (fun y => { y with cmds := y.cmds ++ s.cores.flatMap (fun p => p.2.mq.filter (fun m => m.stamp.asid == a)) })) c
  exact (congrArg (fun k => Core.slot k i) core :)

def heldContexts (y : Graph) : Bool × List Saved := (y.resident, y.saved)

theorem saveCmds_graphs (s : State) (g : Nat) (a : Asid) : SameGraphs heldContexts s (s.saveCmds g a) := by
  refine .trans (.modGraph (f := fun y => { y with cmds := y.cmds ++ s.cores.flatMap (fun p => p.2.mq.filter (fun m => m.stamp.asid == a)) })
    (fun _ => rfl) (fun _ => ⟨rfl, rfl⟩) s g) ?_
  exact .of_graphs _ rfl

theorem graph_beginRetrains (s : State) (g : Nat) : s.beginRetrains.graph g = s.graph g := by
  obtain ⟨_, e⟩ := s.beginRetrains_eq
  rw [e]
  rfl

theorem slot_setPre (s : State) (a : Asid) (p : PreState) (c i : Nat) : (s.setPre a p).slot c i = s.slot c i := by
  unfold State.slot State.core
  rw [State.setPre_cores]

theorem slot_beginRetrains (s : State) (c i : Nat) : s.beginRetrains.slot c i = s.slot c i := by
  obtain ⟨_, e⟩ := s.beginRetrains_eq
  rw [e]
  rfl

/-- A pre-emption of an address space with one context completes. -/
theorem completes {s : State} {g c i : Nat} {a : Act} {w : Option Wait} (res : (s.graph g).resident = true)
    (stops : (s.graph g).pre = .stopping) (area : bit (s.graph g).gsave 0 = true) (halted : s.allHalted (s.graph g).asid = true)
    (member : g ∈ s.graphsOf (s.graph g).asid) (only : s.workersOf (s.graph g).asid = [(c, i)])
    (act : (s.slot c i).act = some a) (phase : (s.slot c i).phase = .halted w) :
    ∃ t, exec (.preemptionComplete g) s = .next t ∧ (t.graph g).pre = .stopped ∧ (t.graph g).state = 3 ∧
      (∀ h ∈ s.graphsOf (s.graph g).asid, (t.graph h).pre = .stopped) ∧ (t.slot c i).act = none ∧
      contextOf s c i a w ∈ (t.graph g).saved := by
  obtain ⟨added, free, kept⟩ := saveContext_saves (g := g) act phase
  let u := s.saveContext g c i
  let v := (u.saveCmds g (s.graph g).asid)
  have run : exec (.preemptionComplete g) s = .next ((v.setPre (s.graph g).asid .stopped).beginRetrains) := by
    show execPreemptionComplete g s = _
    unfold execPreemptionComplete
    simp only [res, stops, area, halted, only, and_self, if_true, List.foldl_cons, List.foldl_nil]
    rfl
  have cmds := saveCmds_graphs u g (s.graph g).asid
  have ids (h : Nat) : h ∈ v.graphsOf (s.graph g).asid ↔ h ∈ s.graphsOf (s.graph g).asid :=
    (cmds.ids _ h).trans (added.ids _ h)
  have pre (h : Nat) (m : h ∈ s.graphsOf (s.graph g).asid) :
      ((v.setPre (s.graph g).asid .stopped).beginRetrains).graph h = { v.graph h with pre := .stopped } := by
    rw [graph_beginRetrains, State.graph_setPre, if_pos ((ids h).mpr m)]
  have here := pre g member
  have resV : (v.graph g).resident = true := by
    calc (v.graph g).resident = (u.graph g).resident := congrArg (·.1) (cmds.graph g)
      _ = (s.graph g).resident := (congrArg Graph.resident (added.graph g) :)
      _ = true := res
  have savedV : contextOf s c i a w ∈ (v.graph g).saved := by
    have same : (v.graph g).saved = (u.graph g).saved := congrArg (·.2) (cmds.graph g)
    rw [same]
    exact kept
  refine ⟨_, run, ?_, ?_, fun h m => ?_, ?_, ?_⟩
  · rw [here]
  · rw [here]
    unfold Graph.state
    simp [resV]
  · rw [pre h m]
  · rw [slot_beginRetrains, slot_setPre, saveCmds_slot]
    exact free
  · rw [here]
    exact savedV

/-! Resuming. -/

/-- Where a graph stands in a pre-emption, and the contexts saved with it. -/
def standing (y : Graph) : PreState × List Saved := (y.pre, y.saved)

/-- Two states differ in what stands in cores alone. -/
def OnlyCores (s t : State) : Prop := ∃ k, t = { s with cores := k }

namespace OnlyCores

variable {s t u : State}

theorem refl (s : State) : OnlyCores s s := ⟨s.cores, rfl⟩

theorem trans (h : OnlyCores s t) (k : OnlyCores t u) : OnlyCores s u := by
  obtain ⟨_, rfl⟩ := h
  obtain ⟨m, rfl⟩ := k
  exact ⟨m, rfl⟩

theorem foldl {α : Type} {f : State → α → State} (hf : ∀ s a, OnlyCores s (f s a)) (l : List α) (s : State) :
    OnlyCores s (l.foldl f s) := by
  induction l generalizing s with
  | nil => exact refl s
  | cons a l ih => exact (hf s a).trans (ih _)

theorem setCore (s : State) (c : Nat) (k : Core) : OnlyCores s (s.setCore c k) := ⟨_, rfl⟩

theorem graphs (h : OnlyCores s t) : t.graphs = s.graphs := by obtain ⟨_, rfl⟩ := h; rfl

theorem cur (h : OnlyCores s t) : t.cur = s.cur := by obtain ⟨_, rfl⟩ := h; rfl

theorem pollMwait (s : State) (c i : Nat) : OnlyCores s (s.pollMwait c i) := by
  rcases s.pollMwait_cases c i with e | ⟨-, x, e | ⟨n, e⟩⟩ <;> rw [e]
  · exact refl s
  · exact setCore s c _
  · exact (setCore s c _).trans (setCore _ c _)

theorem arm (s : State) (c i line : Nat) : OnlyCores s (s.arm c i line).1 := by
  unfold State.arm
  dsimp only
  split
  · exact setCore s c _
  · split
    · exact setCore s c _
    · split
      · exact refl s
      · exact (setCore s c _).trans ((setCore _ c _).trans (pollMwait _ _ _))

theorem unhaltAll (s : State) (a : Asid) : OnlyCores s (s.unhaltAll a) := by
  refine foldl (fun s p => foldl (fun s q => ?_) _ s) _ s
  split
  · split
    · exact (setCore s _ _).trans (pollMwait _ _ _)
    · exact refl s
  · exact refl s

end OnlyCores

/-- A round that may begin changes matrix units alone. -/
theorem arouse_eq (s t : State) (base : Nat) : ∃ m, s.arouse t base = { t with munits := m } := by
  unfold State.arouse
  split
  · exact ⟨_, rfl⟩
  · exact ⟨t.munits, rfl⟩

/-- Returning commands changes queues and matrix units alone. -/
theorem returnCmds_keeps {β : Type} (proj : State → β) (hm : ∀ (t : State) m, proj { t with munits := m } = proj t)
    (hq : ∀ (t : State) c (f : Core → Core), (∀ k, (f k).slots = k.slots) → proj (t.modCore c f) = proj t) (s : State) (l : List MCmd) :
    proj (s.returnCmds l) = proj s := by
  have aroused (t : State) : proj (l.foldl (fun t m => s.arouse t (octetOf m.core)) t) = proj t := by
    refine foldl_keeps _ proj (fun t m => ?_) l t
    obtain ⟨u, e⟩ := arouse_eq s t (octetOf m.core)
    rw [e]
    exact hm t u
  have returned := foldl_keeps (fun s (m : MCmd) => s.modCore m.core (fun k => { k with mq := insertCmd m k.mq })) proj
    (fun t m => hq t m.core _ (fun _ => rfl)) l s
  exact (aroused _).trans returned

theorem returnCmds_graphs (s : State) (l : List MCmd) : (s.returnCmds l).graphs = s.graphs :=
  returnCmds_keeps State.graphs (fun _ _ => rfl) (fun _ _ _ _ => rfl) s l

theorem returnCmds_slot (s : State) (l : List MCmd) (c i : Nat) : (s.returnCmds l).slot c i = s.slot c i :=
  returnCmds_keeps (fun t => t.slot c i) (fun _ _ => rfl) (fun _ _ _ h => State.slot_modCore _ _ _ _ _ h) s l

theorem returnCmds_cur (s : State) (l : List MCmd) : (s.returnCmds l).cur = s.cur :=
  returnCmds_keeps State.cur (fun _ _ => rfl) (fun _ _ _ _ => rfl) s l

theorem returnEnded_standing (s : State) (a : Asid) : SameGraphs standing s (s.returnEnded a) := by
  refine .foldl (fun s g => ?_) _ s
  refine .trans (.of_graphs _ (returnCmds_graphs s (s.graph g).cmds)) ?_
  exact .modGraph (f := fun y => { y with cmds := [] }) (fun _ => rfl) (fun _ => ⟨rfl, rfl⟩) _ g

/-- A resume is over where nothing is saved any more. -/
theorem settlePre_pre {s : State} {a : Asid} {g : Nat} (m : g ∈ s.graphsOf a) : ((s.settlePre a).graph g).pre =
    if ∀ h ∈ s.graphsOf a, (s.graph h).saved = [] then .none else (s.graph g).pre := by
  have test : (s.graphsOf a).all (fun g => (s.graph g).saved.isEmpty) = true ↔ ∀ h ∈ s.graphsOf a, (s.graph h).saved = [] := by
    simp [List.all_eq_true]
  unfold State.settlePre
  by_cases h : ∀ h ∈ s.graphsOf a, (s.graph h).saved = []
  · rw [if_pos (test.mpr h), if_pos h, State.graph_setPre, if_pos m]
  · rw [if_neg (fun e => h (test.mp e)), if_neg h]

theorem resumes {s : State} {g : Nat} (state : (s.graph g).state = 3) (m : g ∈ s.graphsOf (s.graph g).asid) :
    ((s.resume g).graph g).pre =
      if ∀ h ∈ s.graphsOf (s.graph g).asid, (s.graph h).saved = [] then .none else .resuming := by
  let a := (s.graph g).asid
  let u := (s.setPre a .resuming).unhaltAll a |>.returnEnded a
  have set_ := s.setPre_graphs a .resuming
  have rest : SameGraphs standing (s.setPre a .resuming) u := .trans (.of_graphs _ (OnlyCores.unhaltAll _ a).graphs) (returnEnded_standing _ a)
  have ids (h : Nat) : h ∈ u.graphsOf a ↔ h ∈ s.graphsOf a := (rest.ids a h).trans (set_.ids a h)
  have saved (h : Nat) : (u.graph h).saved = (s.graph h).saved :=
    (congrArg (·.2) (rest.graph h) :).trans (congrArg Graph.saved (set_.graph h) :)
  have pre : (u.graph g).pre = .resuming := by
    refine (congrArg (·.1) (rest.graph g) :).trans ?_
    show ((s.setPre a .resuming).graph g).pre = _
    rw [State.graph_setPre, if_pos m]
  have run : s.resume g = (u.settlePre a).beginRetrains := if_neg (not_not_intro state)
  rw [run, graph_beginRetrains, settlePre_pre ((ids g).mpr m), pre]
  simp only [ids, saved, a]

/-! A context restored. -/

/-- A slot that runs, and whose MWAIT would end at once: a change of watches leaves it. -/
def Settled (x : Slot) : Prop := x.phase = .run ∧ x.act.map (fun a => { a with spurious := true }) = x.act

theorem pollMwait_run {s : State} {c i : Nat} (h : (s.slot c i).phase = .run) : s.pollMwait c i = s := by
  rcases s.pollMwait_cases c i with e | ⟨waits, -⟩
  · exact e
  · rw [h] at waits
    exact nomatch waits

theorem pollMwait_slot_other (s : State) {c i d j : Nat} (h : (d, j) ≠ (c, i)) : (s.pollMwait c i).slot d j = s.slot d j := by
  rcases s.pollMwait_cases c i with e | ⟨-, x, e | ⟨n, e⟩⟩ <;> rw [e]
  · exact State.slot_setSlot_other _ _ h
  · rw [State.slot_setSlot_other _ _ h]
    exact State.slot_modCore _ _ _ _ _ (fun _ => rfl)

theorem setSpurious_settled {s : State} {c i : Nat} (h : Settled (s.slot c i)) (j : Nat) :
    (s.setSpurious c j).slot c i = s.slot c i := by
  unfold State.setSpurious
  by_cases e : i = j
  · subst e
    have same : (s.modSlot c i (fun x => { x with act := x.act.map (fun a => { a with spurious := true }) })).slot c i = s.slot c i := by
      rw [State.slot_modSlot_same, h.2]
    rw [pollMwait_run (by rw [same]; exact h.1), same]
  · have other : (c, i) ≠ (c, j) := fun q => e (congrArg (·.2) q)
    rw [pollMwait_slot_other _ other, State.slot_modSlot_other _ _ other]

/-- Changing a core beside its slots. -/
theorem slot_setCore_slots (s : State) {c : Nat} {k : Core} (h : k.slots = (s.core c).slots) (d i : Nat) :
    (s.setCore c k).slot d i = s.slot d i := by
  unfold State.slot
  by_cases e : d = c
  · subst e
    rw [State.core_setCore_same]
    unfold Core.slot
    rw [h]
  · rw [State.core_setCore_other _ _ e]

theorem arm_slot {s : State} {c i : Nat} (h : Settled (s.slot c i)) (j line : Nat) : (s.arm c j line).1.slot c i = s.slot c i := by
  unfold State.arm
  dsimp only
  split
  · exact slot_setCore_slots _ (by rfl) _ _
  · split
    · exact slot_setCore_slots _ (by rfl) _ _
    · split
      · rfl
      · next w r _ =>
        have same := slot_setCore_slots s (c := c) (k := { s.core c with
          watches := r ++ [{ index := w.index, slot := j, line := line, fired := false }] }) rfl c i
        refine (setSpurious_settled ?_ _).trans same
        rw [same]
        exact h

/-- A watch armed again, fired if it was. -/
def rearmOne (c i : Nat) (s : State) (w : Watch) : State :=
  let r := s.arm c i w.line
  if w.fired then r.1.modCore c (fun k => { k with watches := k.watches.map (fun y => if y.index = r.2 then { y with fired := true } else y) })
  else r.1

theorem rearmOne_slot {s : State} {c i : Nat} (h : Settled (s.slot c i)) (w : Watch) : (rearmOne c i s w).slot c i = s.slot c i := by
  rw [← arm_slot h i w.line]
  unfold rearmOne
  dsimp only
  split
  · exact State.slot_modCore _ _ _ _ _ (fun _ => rfl)
  · rfl

theorem rearm_slot {s : State} {c i : Nat} (h : Settled (s.slot c i)) (l : List Watch) : (s.rearm c i l).slot c i = s.slot c i := by
  have steps (l : List Watch) (t : State) : (t.rearm c i l) = l.foldl (rearmOne c i) t := rfl
  rw [steps]
  induction l generalizing s with
  | nil => rfl
  | cons w l ih =>
    have one := rearmOne_slot h w
    rw [List.foldl_cons, ih (by rw [one]; exact h), one]

/-- The slot of a restored context that waited for nothing. -/
def restoredSlot (x : Slot) (v : Saved) : Slot :=
  { Slot.free with
    ext := x.ext, fetch := { Slot.free.fetch with seen := v.seen }, regs := v.regs.refetch, act := some { v.act with spurious := true },
    bars := v.bars, engine := v.engine, matrix := v.matrix, attempt := v.attempt, under := v.under, acq := v.acq,
    acqEng := v.acqEng, acqOld := v.acqOld, phase := .run }

theorem OnlyCores.rearm (s : State) (c i : Nat) (l : List Watch) : OnlyCores s (s.rearm c i l) := by
  refine OnlyCores.foldl (f := rearmOne c i) (fun s w => ?_) l s
  unfold rearmOne
  dsimp only
  split
  · exact (OnlyCores.arm s c i w.line).trans (.setCore _ c _)
  · exact OnlyCores.arm s c i w.line

/-- A task that runs in a restored slot again. -/
def retask (s : State) (v : Saved) : State :=
  match v.act.task with
  | some t => { s with tasks := s.tasks.map (fun (e : TaskEntry) =>
      if e.key = t.key ∧ e.stamp.asid = v.act.stamp.asid then { e with running := some (v.core, v.slot) } else e) }
  | none => s

theorem restore_eq (s : State) (v : Saved) : s.restore v =
    (retask ((((s.modSlot v.core v.slot (fun x =>
      { Slot.free with
        ext := x.ext, fetch := { Slot.free.fetch with seen := v.seen }, regs := v.regs.refetch, act := some v.act, bars := v.bars
        engine := v.engine, matrix := v.matrix, attempt := v.attempt, under := v.under, acq := v.acq, acqEng := v.acqEng
        acqOld := v.acqOld })).modSlot v.core v.slot (fun x => x.unhalt v.wait)).returnCmds v.cmds).rearm v.core v.slot v.watches) v).pollMwait
      v.core v.slot := rfl

theorem retask_slot (s : State) (v : Saved) (c i : Nat) : (retask s v).slot c i = s.slot c i := by
  unfold retask
  split <;> rfl

theorem restore_slot (s : State) {v : Saved} (free : v.wait = none) :
    (s.restore v).slot v.core v.slot = restoredSlot (s.slot v.core v.slot) v := by
  rw [restore_eq, free]
  generalize e : (s.modSlot v.core v.slot _).modSlot v.core v.slot (fun x => x.unhalt none) = u
  have back : u.slot v.core v.slot = restoredSlot (s.slot v.core v.slot) v := by
    rw [← e, State.slot_modSlot_same, State.slot_modSlot_same]
    rfl
  have settled : Settled ((u.returnCmds v.cmds).slot v.core v.slot) := by
    rw [returnCmds_slot, back]
    exact ⟨rfl, rfl⟩
  have stands : (retask ((u.returnCmds v.cmds).rearm v.core v.slot v.watches) v).slot v.core v.slot =
      restoredSlot (s.slot v.core v.slot) v := by
    rw [retask_slot, rearm_slot settled, returnCmds_slot, back]
  rw [pollMwait_run (by rw [stands]; rfl), stands]

theorem restore_keeps (s : State) (v : Saved) : (s.restore v).graphs = s.graphs ∧ (s.restore v).cur = s.cur := by
  have tasked (u : State) : (retask u v).graphs = u.graphs ∧ (retask u v).cur = u.cur := by
    unfold retask
    split <;> exact ⟨rfl, rfl⟩
  rw [restore_eq]
  generalize e : (s.modSlot v.core v.slot _).modSlot v.core v.slot (fun x => x.unhalt v.wait) = u
  have polled := OnlyCores.pollMwait (retask ((u.returnCmds v.cmds).rearm v.core v.slot v.watches) v) v.core v.slot
  have armed := OnlyCores.rearm (u.returnCmds v.cmds) v.core v.slot v.watches
  rw [polled.graphs, polled.cur, (tasked _).1, (tasked _).2, armed.graphs, armed.cur, returnCmds_graphs, returnCmds_cur, ← e]
  exact ⟨rfl, rfl⟩

/-- The one context saved for a free slot comes back into it. -/
theorem restores {s : State} {g : Nat} {v : Saved} (free : s.me.act = none) (works : (s.core s.cur.core).failing = false)
    (there : s.provided s.cur.core = true) (one : s.graphs = [(g, s.graph g)]) (pre : (s.graph g).pre = .resuming)
    (m : v ∈ (s.graph g).saved) (core : v.core = s.cur.core) (slot : v.slot = s.cur.slot)
    (only : ∀ u ∈ (s.graph g).saved, u.core = s.cur.core → u.slot = s.cur.slot → u = v) : ∃ f : Graph → Graph,
      exec .contextRestore s = .next (((s.modGraph g f).restore v).settlePre (s.graph g).asid) ∧ v ∉ (f (s.graph g)).saved := by
  let here (v : Saved) : Bool := v.core == s.cur.core && v.slot == s.cur.slot
  have hv : here v = true := by simp [here, core, slot]
  have found : (s.graph g).saved.find? here = some v := by
    cases f : (s.graph g).saved.find? here with
    | none => exact absurd hv (List.find?_eq_none.mp f v m)
    | some u =>
      have hu := List.find?_some f
      simp only [here, Bool.and_eq_true, beq_iff_eq] at hu
      rw [only u (List.mem_of_find?_eq_some f) hu.1 hu.2]
  have graph : s.graphs.find? (fun g => g.2.pre == .resuming && g.2.saved.any here) = some (g, s.graph g) := by
    have any : (s.graph g).saved.any here = true := List.any_eq_true.mpr ⟨v, m, hv⟩
    rw [one, List.find?_cons_of_pos]
    simp only [pre, any]
    decide
  refine ⟨fun y => { y with saved := y.saved.filter (fun w => !here w) }, ?_, fun h => ?_⟩
  · show execContextRestore s = _
    have shut : ((s.slot s.cur.core s.cur.slot).act.isSome || s.closed s.cur.core) = false := by
      have none_ : (s.slot s.cur.core s.cur.slot).act = none := free
      simp [none_, State.closed, works, there]
    unfold execContextRestore
    dsimp only
    rw [shut, if_neg Bool.false_ne_true]
    simp only [here] at graph found
    rw [graph]
    simp only [found]
    rfl
  · have := (List.mem_filter.mp h).2
    simp [hv] at this

theorem settlePre_slot (s : State) (a : Asid) (c i : Nat) : (s.settlePre a).slot c i = s.slot c i := by
  unfold State.settlePre
  split
  · exact slot_setPre _ _ _ _ _
  · rfl

theorem settlePre_saved (s : State) (a : Asid) (g : Nat) : ((s.settlePre a).graph g).saved = (s.graph g).saved := by
  unfold State.settlePre
  split
  · exact (congrArg Graph.saved ((s.setPre_graphs a .none).graph g) :)
  · rfl

theorem settlePre_cur (s : State) (a : Asid) : (s.settlePre a).cur = s.cur := by
  unfold State.settlePre
  split
  · obtain ⟨_, e⟩ := s.setPre_eq a .none
    rw [e]
  · rfl

theorem refetch_queue (r : Regs) (n : Fin 16) : r.refetch.q[n].bind = r.q[n].bind ∧ r.refetch.q[n].entries = r.q[n].entries := by
  have q : r.refetch.q[n] = if r.q[n].refetches then { r.q[n] with fetched := [] } else r.q[n] := Vector.getElem_map _ _
  rw [q]
  split <;> exact ⟨rfl, rfl⟩

theorem preemptions : Preemptions := by
  refine ⟨?_, ?_, ?_, ?_⟩
  · intro s g y res runs
    refine ⟨fun area => congrArg Host.Outcome.next (preempt_unsaved res runs area), fun area m => ?_⟩
    have parked : SameGraphs Graph.pre (s.setPre y.asid .stopping) (s.preempt g) := by
      rw [preempt_saved res runs area]
      exact .foldl (fun u c => parkInbox_pre u _ c) _ _
    have stops (h : Nat) (m : h ∈ s.graphsOf y.asid) : ((s.preempt g).graph h).pre = .stopping := by
      rw [parked.graph h, State.graph_setPre, if_pos m]
    refine ⟨_, rfl, stops g m, stops, fun c p hp owner => ?_⟩
    have inbox : ((s.preempt g).core c).inbox = (s.core c).inbox.filter (fun p => !moves y.asid p) := by
      have same : (s.setPre y.asid .stopping).core c = s.core c := by unfold State.core; rw [State.setPre_cores]
      rw [preempt_saved res runs area, parkInboxes_inbox, same]
      split
      · rfl
      · next none_ => rw [core_of_not_mem none_]; rfl
    rw [inbox] at hp
    have stays := (List.mem_filter.mp hp).2
    simpa [moves, owner] using stays
  · intro s g c i a w y res stops area halted m only act phase
    obtain ⟨t, run, stopped, state, all, gone, saved⟩ := completes res stops area halted m only act phase
    exact ⟨t, run, stopped, state, all, gone, _, saved, rfl, rfl, rfl, rfl, rfl⟩
  · intro s g y
    exact ⟨fun h => congrArg Host.Outcome.next (if_pos h), fun state m => ⟨_, rfl, resumes state m⟩⟩
  · intro s g v c i free works there one pre m core slot only wait
    obtain ⟨f, run, gone⟩ := restores free works there one pre m core slot only
    have kept := restore_keeps (s.modGraph g f) v
    have me : (((s.modGraph g f).restore v).settlePre (s.graph g).asid).me = restoredSlot (s.slot c i) v := by
      have cur : (((s.modGraph g f).restore v).settlePre (s.graph g).asid).cur = s.cur := by rw [settlePre_cur, kept.2]; rfl
      unfold State.me
      rw [cur, settlePre_slot]
      show ((s.modGraph g f).restore v).slot c i = _
      rw [← core, ← slot, restore_slot _ wait]
      rfl
    have regs : (((s.modGraph g f).restore v).settlePre (s.graph g).asid).regs = v.regs.refetch := congrArg Slot.regs me
    refine ⟨_, run, ?_⟩
    rw [me, regs]
    refine ⟨rfl, rfl, rfl, rfl, rfl, rfl, rfl, rfl, rfl, rfl, rfl, refetch_queue v.regs, ?_⟩
    have graph : ((s.modGraph g f).restore v).graph g = f (s.graph g) := by
      rw [← State.graph_modGraph_same s g f]
      unfold State.graph
      rw [kept.1]
    rw [settlePre_saved, graph]
    exact gone

/-- Settles O54, command by command. -/
theorem graphLife : Obligations.GraphLife := ⟨graphCommands, residence, preemptions⟩

end Sys2Proof.Claim
end

section
/-! Boundaries and the ends of waits (O50). -/

namespace Sys2Proof.Machine

/-- A core's slots after a change of each, made to free slots without effect. -/
theorem Core.slot_mapSlots {f : Slot → Slot} (hf : f Slot.free = Slot.free) (k : Core) (i : Nat) :
    Tab.get (k.slots.map (fun p => (p.1, f p.2))) i Slot.free = f (k.slot i) := by
  unfold Core.slot Tab.get
  rw [Alike.find_map]
  cases Tab.find k.slots i with
  | none => exact hf.symm
  | some x => rfl

/-- Waking waits leaves who holds the slots. -/
theorem Core.wakeWaiti_act (k : Core) (i : Nat) : (k.wakeWaiti.slot i).act = (k.slot i).act := by
  have woken : k.wakeWaiti.slot i = if (k.slot i).phase = .wait .waiti then { k.slot i with phase := .run } else k.slot i :=
    Core.slot_mapSlots (f := fun x => if x.phase = .wait .waiti then { x with phase := .run } else x) rfl k i
  rw [woken]
  split <;> rfl

/-- A freed slot holds no activation. -/
theorem State.freeSlot_act (s : State) (c i : Nat) : ((s.freeSlot c i).slot c i).act = none := by
  unfold State.freeSlot
  dsimp only
  rw [State.slot_modSlot_same]
  rfl

/-- An activation ended has left its slot. -/
theorem State.endActivation_act (s : State) (c i : Nat) (orphans : Bool) : ((s.endActivation c i orphans).slot c i).act = none := by
  unfold State.endActivation
  dsimp only
  split
  · next none_ => exact none_
  · next a _ =>
    generalize State.rollSlot _ c i = u
    have woken : ((u.freeSlot c i).modCore c Core.wakeWaiti).slot c i = ((u.freeSlot c i).core c).wakeWaiti.slot i := by
      unfold State.slot State.modCore
      rw [State.core_setCore_same]
    rw [woken, Core.wakeWaiti_act]
    exact u.freeSlot_act c i

/-- The pending faults of an activation that ends go into the network; the rest is as without them. -/
theorem State.endActivation_within (s : State) (c i : Nat) (orphans : Bool) :
    ∃ n, Within { s with net := n } (s.endActivation c i orphans) := by
  have split_ : ∃ n, s.endActivation c i orphans = { s with net := n }.endActivation c i false := by
    unfold State.endActivation
    cases act : (s.slot c i).act with
    | none =>
      have same (n : List Message) : (State.slot { s with net := n } c i).act = none := act
      exact ⟨s.net, by simp only [act]⟩
    | some a =>
      have same (n : List Message) : (State.slot { s with net := n } c i).act = some a := act
      cases orphans
      · exact ⟨s.net, rfl⟩
      · exact ⟨s.net ++ (s.slot c i).orphans c, by simp only [act, same]; rfl⟩
  obtain ⟨n, e⟩ := split_
  exact ⟨n, e ▸ (Within.refl _).endActivation⟩

end Sys2Proof.Machine

namespace Sys2Proof.Claim
open Sys2Proof.Machine

/-! Boundaries. -/

/-- Engine faults leave who holds the slots. -/
theorem engineFault_act (s : State) (d j act : Nat) (st : Stamp) (tval k0 k1 : W64) (c i : Nat) :
    ((s.engineFault d j act st tval k0 k1).slot c i).act = (s.slot c i).act := by
  unfold State.engineFault State.modAct
  dsimp only
  split
  · split
    · by_cases e : (c, i) = (d, j)
      · cases e
        rw [State.slot_modSlot_same]
        rfl
      · rw [State.slot_modSlot_other _ _ e]
        rfl
    · rfl
  · rfl

theorem answerEscalated_act (s : State) (x : Slot) (c i : Nat) : ((s.answerEscalated x).slot c i).act = (s.slot c i).act := by
  unfold State.answerEscalated State.ownerFault
  split
  · rfl
  · dsimp only
    split
    · split
      · exact engineFault_act _ _ _ _ _ _ _ _ c i
      · rfl
    · exact engineFault_act _ _ _ _ _ _ _ _ c i

theorem engineFault_cur (s : State) (d j act : Nat) (st : Stamp) (tval k0 k1 : W64) :
    (s.engineFault d j act st tval k0 k1).cur = s.cur := by
  unfold State.engineFault State.modAct
  dsimp only
  split
  · split <;> rfl
  · rfl

theorem answerEscalated_cur (s : State) (x : Slot) : (s.answerEscalated x).cur = s.cur := by
  unfold State.answerEscalated State.ownerFault
  split
  · rfl
  · dsimp only
    split
    · split
      · exact engineFault_cur _ _ _ _ _ _ _ _
      · rfl
    · exact engineFault_cur _ _ _ _ _ _ _ _

theorem escalate_cur (s : State) (c i : Nat) (cause : BitVec 8) : (s.escalate c i cause).cur = s.cur := by
  have recorded (first : BitVec 8) (pc : W64) : (s.recordEscalation c i cause first pc).cur = s.cur := by
    unfold State.recordEscalation
    dsimp only
    split
    · rfl
    · split <;> rfl
  unfold State.escalate
  extract_lets x first u
  obtain ⟨m, e⟩ := ((u.endActivation c i true).answerEscalated x).interrupt_eq 1
  obtain ⟨n, w⟩ := u.endActivation_within c i true
  rw [e]
  exact ((answerEscalated_cur _ x).trans w.cur).trans (recorded _ _)

/-- An escalation ends the activation. -/
theorem escalate_act (s : State) (c i : Nat) (cause : BitVec 8) : ((s.escalate c i cause).slot c i).act = none := by
  unfold State.escalate
  extract_lets x first u
  obtain ⟨m, e⟩ := ((u.endActivation c i true).answerEscalated x).interrupt_eq 1
  rw [e]
  exact (answerEscalated_act (u.endActivation c i true) x c i).trans (u.endActivation_act c i true)

/-- A trap outside a handler, without one, escalates. -/
theorem takeTrap_escalates {s : State} {c i : Nat} (out : (s.slot c i).regs.inHandler = false)
    (free : (s.slot c i).mustWait s = false) (without : (s.slot c i).regs.tvec = 0) {cause : BitVec 8} (known : cause ≠ Cause.labelMiss)
    (tpc : W64) (sub : BitVec 4) (impr : Bool) (val : W64) (k : Option (W64 × W64)) :
    s.takeTrap c i tpc cause sub impr val k = s.escalate c i cause := by
  unfold State.takeTrap
  simp [out, free, without, known]

/-- Without a handler a boundary's trap escalates, whichever is pending. -/
theorem trapEntry_escalates {s : State} (act : s.me.act.isSome = true) (run : s.me.phase = .run) (due : s.me.impreciseDue = true)
    (free : s.me.mustWait s = false) (without : s.me.regs.tvec = 0) :
    ∃ cause, s.trapEntry = s.escalate s.cur.core s.cur.slot cause := by
  obtain ⟨out, pending⟩ : s.me.regs.inHandler = false ∧ s.me.trapPending = true := by simpa [Slot.impreciseDue] using due
  have taken {cause : BitVec 8} (known : cause ≠ Cause.labelMiss) (sub : BitVec 4) (impr : Bool) (val : W64)
      (k : Option (W64 × W64)) : s.takeTrap s.cur.core s.cur.slot s.me.regs.pc cause sub impr val k =
        s.escalate s.cur.core s.cur.slot cause := takeTrap_escalates out free without known _ _ _ _ _
  have open_ : (s.me.act.isNone || s.me.phase != .run || !s.me.impreciseDue || s.me.mustWait s) = false := by
    obtain ⟨a, e⟩ := Option.isSome_iff_exists.mp act
    simp [e, run, due, free]
  unfold State.trapEntry
  dsimp only
  rw [open_, if_neg Bool.false_ne_true, without]
  by_cases records : s.me.regs.sfq = []
  · rw [if_neg (not_not_intro records)]
    split
    · exact ⟨_, taken (by decide) _ _ _ _⟩
    · exact ⟨_, taken (by decide) _ _ _ _⟩
    · next none_ empty =>
      have matrix : s.me.matrix = [] := by
        unfold Slot.matrixPending at none_
        split at none_
        · simp at none_
        · next e => exact List.reverse_eq_nil_iff.mp e
      simp [Slot.trapPending, records, matrix, empty] at pending
  · rw [if_pos records]
    obtain ⟨r, l, e⟩ := List.exists_cons_of_ne_nil records
    refine ⟨Cause.storeFault, ?_⟩
    unfold State.storeFaultTrap
    have here : (s.slot s.cur.core s.cur.slot).regs.sfq = r :: l := e
    dsimp only
    rw [here]
    exact taken (by decide) _ _ _ _

/-- A dword of a record. -/
theorem extract_dword (r : V512) (i : Nat) : r.extractLsb' (64 * i) 64 = BitVec.ofNat 64 (lane 64 r i) := by
  apply BitVec.eq_of_toNat_eq
  rw [BitVec.extractLsb'_toNat, BitVec.toNat_ofNat, lane, Nat.mod_mod, Nat.shiftRight_eq_div_pow]

/-- With a handler, a boundary's trap is that of the first pending. -/
theorem trapEntry_open {s : State} (act : s.me.act.isSome = true) (run : s.me.phase = .run) (due : s.me.impreciseDue = true)
    (free : s.me.mustWait s = false) (handler : s.me.regs.tvec ≠ 0) :
    (∀ r l, s.me.regs.sfq = r :: l → s.trapEntry = s.takeTrap s.cur.core s.cur.slot s.me.regs.pc Cause.storeFault 0 true
      (BitVec.ofNat 64 (lane 64 r 0)) (some (BitVec.ofNat 64 (lane 64 r 2), s.me.sfqstat))) ∧
    (∀ f l, s.me.regs.sfq = [] → s.me.matrixPending = f :: l → s.trapEntry =
      (s.setMe { s.me with matrix := l, entered := f.order }).takeTrap s.cur.core s.cur.slot s.me.regs.pc Cause.matrixFault 0 true
        f.tval (some (f.k0, f.k1))) ∧
    (∀ f l, s.me.regs.sfq = [] → s.me.matrix = [] → s.me.engine = f :: l → s.trapEntry =
      (s.setMe { s.me with engine := l, entered := f.order }).takeTrap s.cur.core s.cur.slot s.me.regs.pc Cause.engineFault 0 true
        f.tval (some (f.k0, f.k1))) := by
  have open_ : (s.me.act.isNone || s.me.phase != .run || !s.me.impreciseDue || s.me.mustWait s) = false := by
    obtain ⟨a, e⟩ := Option.isSome_iff_exists.mp act
    simp [e, run, due, free]
  unfold State.trapEntry
  dsimp only
  rw [open_, if_neg Bool.false_ne_true]
  refine ⟨fun r l e => ?_, fun f l records e => ?_, fun f l records none_ e => ?_⟩
  · have here : (s.slot s.cur.core s.cur.slot).regs.sfq = r :: l := e
    rw [if_pos (by simp [e])]
    unfold State.storeFaultTrap
    dsimp only
    rw [here, ← extract_dword, ← extract_dword]
    rfl
  · rw [if_neg (not_not_intro records), e]
    dsimp only
    rw [if_neg handler]
  · have matrix : s.me.matrixPending = [] := by unfold Slot.matrixPending; rw [none_]; rfl
    rw [if_neg (not_not_intro records), matrix, e]
    dsimp only
    rw [if_neg handler]

/-- A kill of an activation ends it and stops its requests; kills that were under way stand. -/
theorem killActivation_leaves {s : State} {c i : Nat} {a : Act} (act : (s.slot c i).act = some a) :
    ((s.killActivation c i).slot c i).act = none ∧ (s.killActivation c i).cur = s.cur ∧ (s.killActivation c i).kills = s.kills ∧
      ∀ r ∈ (s.killActivation c i).requests, r.act = a.id → r.stopped = true := by
  have counted : ∃ u : State, s.killActivation c i = (u.endActivation c i false).dropRequests a.id ∧
      u.cur = s.cur ∧ u.kills = s.kills := by
    unfold State.killActivation
    simp only [act]
    split
    · exact ⟨_, rfl, rfl, rfl⟩
    · exact ⟨_, rfl, rfl, rfl⟩
  obtain ⟨u, e, cur, kills⟩ := counted
  have w : Within u (u.endActivation c i false) := (Within.refl u).endActivation
  rw [e]
  refine ⟨u.endActivation_act c i false, w.cur.trans cur, w.kills.trans kills, fun r m own => ?_⟩
  obtain ⟨q, -, rfl⟩ := List.mem_map.mp m
  split at own
  · next h => rw [if_pos h]
  · next h => exact absurd own h

/-- The 2,049th instruction of a service activation. -/
theorem overruns {s : State} {a : Act} (act : s.me.act = some a) (cls : a.cls = 1) (executed : 2048 ≤ a.executed)
    (run : s.me.phase = .run) (open_ : ∀ ch, s.me.chunk = some ch → ch.count < 512)
    (late : s.me.impreciseDue = false ∨ s.me.regs.resumed = true) (noOwner : a.owner = none)
    (idle : s.me.ext = [] ∨ ∀ r ∈ s.arrivals, r.act ≠ a.id) :
    ∃ t, exec .serviceOverrun s = .next t ∧ t.me.act = none ∧ (∀ r ∈ t.requests, r.act = a.id → r.stopped = true) ∧
      ∃ k : Kill, t.kills = s.kills ++ [k] ∧ k.asid = a.stamp.asid ∧ k.group = a.stamp.group ∧ k.reached = [] := by
  have free : s.heldBack s.me a = false := by
    unfold State.heldBack
    rcases idle with h | h
    · simp [noOwner, h]
    · simp [noOwner]
      exact fun _ r m => h r m
  have due : s.me.boundary a = some .serviceOverrun := by
    have noTrap : (s.me.impreciseDue && !s.me.regs.resumed) = false := by rcases late with h | h <;> simp [h]
    unfold Slot.boundary
    cases chunk : s.me.chunk with
    | none => simp [noTrap, cls, executed]
    | some ch => simp [noTrap, cls, executed, Nat.not_le.mpr (open_ ch chunk)]
  have step : exec .serviceOverrun s =
      .next (((s.killGroup a.stamp.asid a.stamp.group).killActivation s.cur.core s.cur.slot).interrupt 1) := by
    show execServiceOverrun s = _
    unfold execServiceOverrun
    simp only [act]
    rw [if_pos ⟨run, by rw [free]; decide, due⟩]
  obtain ⟨gone, cur, kills, stopped⟩ :=
    killActivation_leaves (s := s.killGroup a.stamp.asid a.stamp.group) (c := s.cur.core) (i := s.cur.slot) act
  obtain ⟨m, e⟩ := ((s.killGroup a.stamp.asid a.stamp.group).killActivation s.cur.core s.cur.slot).interrupt_eq 1
  rw [e] at step
  refine ⟨_, step, ?_, stopped, _, kills, rfl, rfl, rfl⟩
  unfold State.me
  dsimp only
  rw [cur]
  exact gone

theorem boundaries : Boundaries := by
  refine ⟨?_, ?_, ?_, ?_, ?_⟩
  · intro s ch chunk full run free
    have step : exec .chunkInstructionLimit s = .next (s.setMe { s.me.makeFirm with phase := .commit .go }) := by
      show execChunkInstructionLimit s = _
      unfold execChunkInstructionLimit
      have must : ¬ s.me.mustWait s = true := by rw [free]; decide
      simp only [chunk]
      rw [if_pos ⟨full, run, must⟩]
    refine ⟨_, step, ?_⟩
    unfold State.regs
    rw [State.me_setMe]
    exact ⟨rfl, rfl, rfl, rfl⟩
  · intro s a act run early
    show execServiceOverrun s = _
    unfold execServiceOverrun
    simp only [act]
    rw [if_neg]
    rintro ⟨-, -, overrun⟩
    unfold Slot.boundary at overrun
    rcases early with ⟨ch, chunk, full⟩ | ⟨due, fresh⟩
    · simp [chunk, full] at overrun
    · cases chunk : s.me.chunk with
      | none => simp [chunk, due, fresh] at overrun
      | some ch => by_cases full : 512 ≤ ch.count <;> simp [chunk, full, due, fresh] at overrun
  · intro s a act cls executed run open_ late noOwner idle
    exact overruns act cls executed run open_ late noOwner idle
  · intro s act run due free
    refine ⟨fun handler => ?_, fun without => ?_⟩
    · obtain ⟨store, matrix, engine⟩ := trapEntry_open act run due free handler
      exact ⟨fun r l e => congrArg Host.Outcome.next (store r l e), fun f l r e => congrArg Host.Outcome.next (matrix f l r e),
        fun f l r m e => congrArg Host.Outcome.next (engine f l r m e)⟩
    · obtain ⟨cause, e⟩ := trapEntry_escalates act run due free without
      refine ⟨_, congrArg Host.Outcome.next e, ?_⟩
      unfold State.me
      rw [escalate_cur]
      exact escalate_act s _ _ cause
  · intro x l f e
    unfold Slot.matrixPending
    simp [e]

/-! The ends of waits. -/

/-- A wait that its turn finds ended. -/
theorem slotTurn_awaited {s : State} {c i : Nat} (h : (s.slot c i).awaited = true) :
    s.slotTurn c i = (s.modSlot c i (fun x => { x with phase := .run })).slotTurn c i := by
  have run : ((s.modSlot c i (fun x => { x with phase := .run })).slot c i).awaited = false := by
    rw [State.slot_modSlot_same]
    rfl
  unfold State.slotTurn
  rw [h, run]
  rfl

/-- An entry that fills its home and its core's L1. -/
theorem fill_holds (s : State) (c : Nat) (e : TlbEntry) :
    e ∈ (s.fill c e).l2.get (Id.die c) [] ∧ e ∈ ((s.fill c e).core (tlbCore c)).tlb := by
  refine ⟨?_, ?_⟩
  · show e ∈ Tab.get (s.l2.put (Id.die c) (l2Insert e (s.l2.get (Id.die c) []))) (Id.die c) []
    rw [Tab.get_put_same]
    exact List.mem_cons_self
  · unfold State.fill State.modCore
    dsimp only
    rw [State.core_setCore_same]
    exact List.mem_cons_self

theorem fill_walks (s : State) (c : Nat) (e : TlbEntry) (d : Nat) : ((s.fill c e).core d).walks = (s.core d).walks := by
  unfold State.fill State.modCore
  by_cases h : d = tlbCore c
  · subst h
    rw [State.core_setCore_same]
    rfl
  · rw [State.core_setCore_other _ _ h]
    rfl

/-- A walk that completes. -/
theorem walkCompletes {s : State} {c i : Nat} {w : Walk} (walk : (s.core c).walks[i]? = some w) (pending : w.result = .pending) :
    ∃ t, exec (.walkComplete c i) s = .next t ∧ (t.core c).walks[i]? = some { w with result := s.walk w.asid w.va } ∧
      t.mem = s.mem ∧
      ∀ e, s.walk w.asid w.va = .page e →
        let named : Prop := ∃ g ∈ w.removed, e.hits w.asid g.1.toNat g.2.toNat = true
        (¬ named → e ∈ t.l2.get (Id.die c) [] ∧ e ∈ (t.core (tlbCore c)).tlb) ∧
        (named → t.l2 = s.l2 ∧ ∀ d, (t.core d).tlb = (s.core d).tlb) := by
  obtain ⟨f, cap, walked⟩ := s.walked_eq w.asid w.va
  let r : State := { s with soft := f, capacity := cap }
  let u := r.modCore c (fun k => { k with walks := k.walks.set i { w with result := s.walk w.asid w.va } })
  have step : exec (.walkComplete c i) s = .next (
      match s.walk w.asid w.va with
      | .page e => if w.removed.any (fun g => e.hits w.asid g.1.toNat g.2.toNat) then u else u.fill c e
      | _ => u) := by
    show execWalkComplete c i s = _
    unfold execWalkComplete
    simp only [walk, pending, ne_eq, not_true_eq_false, if_false, walked]
    rfl
  have set_ : (u.core c).walks[i]? = some { w with result := s.walk w.asid w.va } := by
    have core : u.core c = { s.core c with walks := (s.core c).walks.set i { w with result := s.walk w.asid w.va } } :=
      State.core_setCore_same _ _ _
    obtain ⟨bound, -⟩ := List.getElem?_eq_some_iff.mp walk
    rw [core]
    exact List.getElem?_set_self bound
  have tlb (d : Nat) : (u.core d).tlb = (s.core d).tlb := by
    by_cases h : d = c
    · subst h
      show ((r.modCore d _).core d).tlb = _
      rw [State.core_modCore_same]
      rfl
    · exact congrArg Core.tlb (State.core_modCore_other r _ h)
  refine ⟨_, step, ?_, ?_, fun e page => ⟨fun unnamed => ?_, fun named => ?_⟩⟩
  · split
    · split
      · exact set_
      · rw [fill_walks]; exact set_
    · exact set_
  · split
    · split <;> rfl
    · rfl
  · rw [page]
    have none_ : ¬ w.removed.any (fun g => e.hits w.asid g.1.toNat g.2.toNat) = true := fun h => unnamed (List.any_eq_true.mp h)
    dsimp only
    rw [if_neg none_]
    exact fill_holds u c e
  · rw [page]
    dsimp only
    rw [if_pos (List.any_eq_true.mpr named)]
    exact ⟨rfl, tlb⟩

/-- A place removes what a broadcast names. -/
theorem removes {s : State} {i p : Nat} {b : Broadcast} (here : s.broadcasts[i]? = some b) (place : p ∈ s.removalPlaces b.removal)
    (first : p ∉ b.reached) (core : p < 100000) :
    exec (.invalidationComplete i (some p)) s =
      .next ({ s with broadcasts := s.broadcasts.set i { b with reached := p :: b.reached } }.modCore p
        (fun k => k.remove b.removal)) := by
  show execInvalidationComplete i (some p) s = _
  unfold execInvalidationComplete
  simp [here, place, first, core, Nat.not_le.mpr core]

/-- A release at a slot that waits for it. -/
theorem released {s : State} {i j : Nat} {r : Release} {a : Act} {b : Barrier} (here : s.releases[i]? = some r)
    (act : (s.slot r.core j).act = some a) (asid : a.stamp.asid = r.asid) (side : a.stamp.side = .mirror ↔ r.side = .mirror)
    (waits : (s.slot r.core j).phase = .wait (.gbar r.group)) (bar : b ∈ (s.slot r.core j).bars) (group : b.group = r.group)
    (gen : b.gen = some r.gen) :
    ∃ t, exec (.gbarRelease i) s = .next t ∧ (t.slot r.core j).phase = .run ∧ (t.slot r.core j).regs = (s.slot r.core j).regs ∧
      (∀ x ∈ (t.slot r.core j).bars, x.group ≠ r.group) ∧ t.mem = s.mem := by
  let f (x : Slot) : Slot := if x.act.any r.frees then { x with bars := r.mark x.bars }.passBarrier else x
  have step : ∃ t, exec (.gbarRelease i) s = .next t ∧ t.slot r.core j = f (s.slot r.core j) ∧ t.mem = s.mem := by
    show ∃ t, execGbarRelease i s = .next t ∧ _
    unfold execGbarRelease
    simp only [here]
    refine ⟨_, rfl, ?_, rfl⟩
    have slots : (State.modCore { s with releases := s.releases.take i ++ s.releases.drop (i + 1) } r.core
        (fun k => { k with slots := k.slots.map (fun p => (p.1, f p.2)) })).slot r.core j = f (s.slot r.core j) := by
      unfold State.slot State.modCore
      rw [State.core_setCore_same]
      exact Core.slot_mapSlots (f := f) rfl _ j
    exact slots
  obtain ⟨t, step, slot, mem⟩ := step
  have frees : (s.slot r.core j).act.any r.frees = true := by
    simp only [act, Option.any_some, Release.frees, asid, beq_self_eq_true, Bool.true_and]
    rw [beq_iff_eq, Bool.eq_iff_iff, beq_iff_eq, beq_iff_eq]
    exact side
  have marked : (r.mark (s.slot r.core j).bars).any (fun b => b.group == r.group && b.released) = true := by
    refine List.any_eq_true.mpr ⟨{ b with released := true }, List.mem_map.mpr ⟨b, bar, if_pos ⟨group, gen⟩⟩, ?_⟩
    simp [group]
  have passed : f (s.slot r.core j) = { s.slot r.core j with
      phase := .run, bars := (r.mark (s.slot r.core j).bars).filter (fun b => b.group != r.group) } := by
    unfold f
    rw [if_pos frees]
    unfold Slot.passBarrier
    simp only [waits, marked, if_true]
  refine ⟨t, step, ?_⟩
  rw [slot, passed]
  exact ⟨rfl, rfl, fun x m => by simpa using (List.mem_filter.mp m).2, mem⟩

theorem waitEnds : WaitEnds := by
  refine ⟨?_, ?_, ?_, ?_, ?_, ?_, fun s i j r a b => released, fun s c i w => walkCompletes, ?_, ?_⟩
  · intro s waits
    have same : (if s.me.phase = .wait .waiti then { s.me with phase := .run } else s.me) = { s.me with phase := .run } := if_pos waits
    exact congrArg (fun x => Host.Outcome.next (s.setMe x)) same
  · intro s c i waits done_
    exact slotTurn_awaited (by simp [Slot.awaited, waits, done_])
  · intro s c i a act waits busy runs
    have waiting : (s.slot c i).awaited = false := by simp [Slot.awaited, waits, busy]
    unfold State.slotTurn
    simp [waiting, act, runs, waits]
  · intro s waits
    have same : (if s.me.phase = .wait .mwait then s.me.reply (some 2) else s.me) = s.me.reply (some 2) := if_pos waits
    exact congrArg (fun x => Host.Outcome.next (s.setMe x)) same
  · intro s waits done_
    refine congrArg Host.Outcome.next (if_pos ⟨waits, List.all_eq_true.mpr fun w m => ?_⟩)
    by_cases mine : w.slot = s.cur.slot
    · simp [done_ w m mine]
    · simp [mine]
  · intro s i r a reply act id waits
    have step : exec (.amoReply i) s = .next (State.setSlot { s with replies := s.replies.take i ++ s.replies.drop (i + 1) } r.core r.slot
        (({ s.slot r.core r.slot with regs := { (s.slot r.core r.slot).regs with
          fpst := (s.slot r.core r.slot).regs.fpst ||| r.flags } } : Slot).reply (r.old.map (bytesBv 512)))) := by
      show execAmoReply i s = _
      unfold execAmoReply
      simp only [reply]
      exact congrArg Host.Outcome.next (if_pos ⟨by
        have same : (State.slot { s with replies := s.replies.take i ++ s.replies.drop (i + 1) } r.core r.slot).act = some a := act
        simp [same, id], waits⟩)
    refine ⟨_, step, rfl, ?_⟩
    dsimp only
    rw [State.slot_setSlot_same]
    exact ⟨rfl, rfl, rfl, rfl, rfl⟩
  · intro s i p b here place first core
    refine ⟨_, removes here place first core, rfl, fun heddle e => ?_, fun other e => ?_⟩
    · rw [State.core_modCore_same, Core.remove, if_pos heddle]
      simp only [List.mem_filter, Bool.not_eq_true']
      rfl
    · rw [State.core_modCore_same, Core.remove, if_neg (by rw [other]; decide)]
      show e ∈ (Core.tlb (State.core _ p)).filter _ ↔ _
      simp only [List.mem_filter, Bool.not_eq_true']
      rfl
  · intro s i b here all
    show execInvalidationComplete i none s = _
    unfold execInvalidationComplete
    simp only [here]
    rw [if_pos (List.all_eq_true.mpr fun p m => by simpa using all p m)]

/-- Settles O50, boundary by boundary and wait by wait. -/
theorem boundariesAndWaits : Obligations.BoundariesAndWaits := ⟨boundaries, waitEnds⟩

end Sys2Proof.Claim
end

section
/-! Messages (O51): their arrival, the winner of a selection, and the start of its activation. -/

namespace Sys2Proof.Claim
open Sys2Proof.Machine

/-! What may happen at an arrival. -/

section
variable {s : State} {n : Nat} {m : Message}

/-- The address space of a message has exited. -/
def Exited (s : State) (m : Message) : Prop := m.stamp.asid ≠ 0 ∧ s.graphsOf m.stamp.asid = []

/-- An arrival that nothing precedes, by the state of its address space. -/
theorem arrive_eq (h : MayArrive s n m) : s.arrive n =
    let c := m.dst.toNat
    let a := m.stamp.asid
    if a != 0 && (s.graphsOf a).isEmpty then
      if m.owner.isSome then s.takeNet n else (s.takeNet n).dropExited m
    else if m.owner.isSome then
      if (s.core c).inbox.length < inboxPlaces then (s.takeNet n).accept m else s
    else if s.preemptedAt a c then (s.takeNet n).parkMessage m false
    else
      let s := (s.returnParked c).readEntry c a m.typ.toNat
      if s.masked c m then
        if 48 ≤ s.maskedHeld c then (s.takeNet n).parkMessage m true
        else if (s.core c).inbox.length < inboxPlaces then (s.takeNet n).accept m
        else s
      else if s.parkedAhead m || decide (inboxPlaces ≤ (s.core c).inbox.length) then s
      else (s.takeNet n).accept m := by
  obtain ⟨here, ours, first, alive⟩ := h
  have ahead : (m.toPeer || (s.net.take n).any (fun x => x.precedes m)) = false := by
    have notPeer : m.toPeer = false := by
      rcases ours with h | h
      · simp [Message.toPeer, h]
      · simp only [Message.toPeer, Bool.and_eq_false_iff, beq_eq_false_iff_ne]
        exact .inr h
    have none_ : (s.net.take n).any (fun x => x.precedes m) = false := by
      refine List.any_eq_false.mpr fun x mem => ?_
      have free := first x mem
      simp only [Message.precedes, Bool.and_eq_true, Bool.or_eq_true, beq_iff_eq, decide_eq_true_eq]
      rintro ⟨dst, ⟨⟨src, slot⟩, low⟩ | ⟨⟨mark, typ⟩, asid⟩⟩
      · exact (free dst).1 ⟨low, src, slot⟩
      · exact (free dst).2 ⟨mark, typ, asid⟩
    rw [notPeer, none_]
    rfl
  have lives : s.kills.any (fun k => k.hits m.stamp && k.reached.contains m.dst.toNat) = false := by
    refine List.any_eq_false.mpr fun k mem => ?_
    simp only [Bool.and_eq_true, List.contains_iff_mem]
    exact fun ⟨hit, reached⟩ => alive k mem hit reached
  unfold State.arrive
  simp only [here]
  rw [ahead, lives, if_neg Bool.false_ne_true, if_neg Bool.false_ne_true]

theorem exited_iff (s : State) (m : Message) : (m.stamp.asid != 0 && (s.graphsOf m.stamp.asid).isEmpty) = true ↔ Exited s m := by
  simp [Exited]

/-- A message accepted takes its place among those that wait. -/
theorem insertPending_eq (p : Pending) (l : List Pending) : ∃ a b, l = a ++ b ∧ insertPending p l = a ++ p :: b ∧
    ∀ q ∈ b.head?, p.arrival < q.arrival := by
  induction l with
  | nil => exact ⟨[], [], rfl, rfl, by simp⟩
  | cons q r ih =>
    unfold insertPending
    split
    · next h => exact ⟨[], q :: r, rfl, rfl, by simpa using h⟩
    · obtain ⟨a, b, e, f, g⟩ := ih
      exact ⟨q :: a, b, by rw [e]; rfl, by rw [f]; rfl, g⟩

theorem accept_accepts (u : State) (m : Message) : Accepted u (u.accept m) m.dst.toNat m ∧ (u.accept m).net = u.net ∧
    (u.accept m).mem = u.mem ∧ (u.accept m).parked = u.parked := by
  have tasks (t : State) (c : Nat) : ∃ l, t.acceptTask c m = { t with tasks := l } := by
    unfold State.acceptTask
    split
    · exact ⟨t.tasks, rfl⟩
    · exact ⟨_, rfl⟩
  obtain ⟨l, e⟩ := tasks { u with stamp := u.stamp + 1 } m.dst.toNat
  let p : Pending := { msg := m, arrival := u.stamp, contained := 0, undeliv := m.nack, byMask := false }
  have whole : u.accept m = (State.modCore { u with stamp := u.stamp + 1, tasks := l } m.dst.toNat
      (fun k => { k with inbox := insertPending p k.inbox })).modCore m.dst.toNat Core.wakeWaiti := by
    unfold State.accept State.acceptAs
    dsimp only
    rw [e]
  have inbox : ((u.accept m).core m.dst.toNat).inbox = insertPending p (u.core m.dst.toNat).inbox := by
    rw [whole, State.core_modCore_same, State.core_modCore_same]
    rfl
  obtain ⟨a, b, split_, put, later⟩ := insertPending_eq p (u.core m.dst.toNat).inbox
  refine ⟨⟨p, a, b, split_, inbox.trans put, rfl, rfl, rfl, rfl, later⟩, ?_⟩
  rw [whole]
  exact ⟨rfl, rfl, rfl⟩

/-- Nothing of a core's stands in the parking area. -/
def NoneParked (s : State) (c : Nat) : Prop := ∀ p ∈ s.parked.get (Id.die c) [], p.msg.dst.toNat ≠ c

theorem returnParked_none {c : Nat} (h : NoneParked s c) : s.returnParked c = s :=
  if_pos (List.all_eq_true.mpr fun p mem => by simpa using h p mem)

theorem parkedAhead_none (h : NoneParked s m.dst.toNat) : s.parkedAhead m = false := by
  refine List.any_eq_false.mpr fun p mem => ?_
  have other : p.msg.dst ≠ m.dst := fun e => h p mem (congrArg BitVec.toNat e)
  simp [other]

/-- What becomes of one parked message where a core's return. -/
def returnStep (c : Nat) (a : State × List Pending) (p : Pending) : State × List Pending :=
  let m := p.msg
  if m.dst.toNat = c ∧ a.2.all (fun x => !(x.msg.dst == m.dst && x.msg.typ == m.typ && x.msg.stamp.asid == m.stamp.asid)) ∧
      a.1.canReturn p then (a.1.acceptAs p, a.2)
  else
    let late := m.dst.toNat = c ∧ !a.1.preemptedAt m.stamp.asid c ∧ a.1.masked c m ∧ 48 ≤ a.1.maskedHeld c
    (a.1, a.2 ++ [if late then { p with byMask := true } else p])

theorem returnParked_eq (s : State) (c : Nat) : s.returnParked c =
    if (s.parked.get (Id.die c) []).all (fun p => p.msg.dst.toNat != c) then s
    else
      let r := (s.parked.get (Id.die c) []).foldl (returnStep c) (s, [])
      { r.1 with parked := r.1.parked.put (Id.die c) r.2 } := rfl

/-- A message that R28 has parked, of a type still masked, stays, with its mark; so does another core's. -/
theorem returnStep_stays {c : Nat} {p : Pending} (stay : p.msg.dst.toNat = c → p.byMask = true ∧ s.masked c p.msg = true)
    (a : List Pending) : returnStep c (s, a) p = (s, a ++ [p]) := by
  have stays : ¬ (p.msg.dst.toNat = c ∧ a.all (fun x => !(x.msg.dst == p.msg.dst && x.msg.typ == p.msg.typ &&
      x.msg.stamp.asid == p.msg.stamp.asid)) ∧ s.canReturn p) := by
    rintro ⟨dst, -, returns⟩
    obtain ⟨byMask, masked⟩ := stay dst
    simp [State.canReturn, byMask, dst, masked] at returns
  have same (late : Prop) [Decidable late] (h : late → p.byMask = true) : (if late then { p with byMask := true } else p) = p := by
    split
    · next l => rw [← h l]
    · rfl
  unfold returnStep
  dsimp only
  rw [if_neg stays, same _ (fun late => (stay late.1).1)]

theorem returnParked_stay {c : Nat} (stay : ∀ p ∈ s.parked.get (Id.die c) [], p.msg.dst.toNat = c →
    p.byMask = true ∧ s.masked c p.msg = true) : ∃ l, s.returnParked c = { s with parked := l } ∧
      l.get (Id.die c) [] = s.parked.get (Id.die c) [] := by
  have kept (q a : List Pending) (sub : ∀ p ∈ q, p ∈ s.parked.get (Id.die c) []) : q.foldl (returnStep c) (s, a) = (s, a ++ q) := by
    induction q generalizing a with
    | nil => simp
    | cons p q ih =>
      rw [List.foldl_cons, returnStep_stays (stay p (sub p List.mem_cons_self)),
        ih _ (fun x mem => sub x (List.mem_cons_of_mem _ mem)), List.append_assoc]
      rfl
  rw [returnParked_eq, kept _ [] (fun _ mem => mem)]
  split
  · exact ⟨s.parked, rfl, rfl⟩
  · exact ⟨_, rfl, Tab.get_put_same _ _ _ _⟩

/-- An arrival after the entry was read: the message is accepted. -/
theorem accepts {u : State} (h : Counted s u) : let t := (u.takeNet n).accept m
    t.net = netWithout s n ∧ t.mem = s.mem ∧ t.parked = s.parked ∧ Accepted s t m.dst.toNat m := by
  obtain ⟨⟨p, l, r, split_, put, msg, undeliv, arrival, contained, later⟩, net, mem, parked⟩ := accept_accepts (u.takeNet n) m
  have inbox := h.inbox m.dst.toNat
  have stamp : (u.takeNet n).stamp = s.stamp := h.stamp
  refine ⟨?_, mem.trans h.mem, parked.trans h.parked, p, l, r, inbox.symm.trans split_, put, msg, undeliv, arrival.trans stamp,
    contained, ?_⟩
  · rw [net]
    show u.net.take n ++ u.net.drop (n + 1) = _
    rw [h.net]
    rfl
  · rw [← stamp]
    exact later

/-- A message that the network keeps back leaves no other mark than a NACK. -/
theorem nack_net (u : State) (m : Message) (cause : BitVec 4) :
    (u.nack m cause).net = u.net ++ (if m.nackReq = true ∧ m.nack = false then [nackOf m cause] else []) := by
  have same : (m.nackReq && !m.nack) = true ↔ m.nackReq = true ∧ m.nack = false := by simp
  unfold State.nack
  by_cases h : m.nackReq = true ∧ m.nack = false
  · rw [if_pos (same.mpr h), if_pos h]
  · rw [if_neg (fun e => h (same.mp e)), if_neg h, List.append_nil]

theorem nack_eq (u : State) (m : Message) (cause : BitVec 4) : ∃ l, u.nack m cause = { u with net := l } := by
  unfold State.nack
  split
  · exact ⟨_, rfl⟩
  · exact ⟨u.net, rfl⟩

theorem dropKey_eq (u : State) (a : Asid) (k : Option TaskKey) : ∃ l, u.dropKey a k = { u with tasks := l } := by
  unfold State.dropKey
  split
  · exact ⟨u.tasks, rfl⟩
  · exact ⟨_, rfl⟩

/-- A message dropped at a full parking area. -/
theorem dropFull_leaves (u : State) (m : Message) : ∃ g, (u.dropFull m).cores = u.cores ∧ (u.dropFull m).parked = u.parked ∧
    (u.dropFull m).graphs = g ∧
    (u.dropFull m).net = u.net ++ (if m.nackReq = true ∧ m.nack = false then [nackOf m 3] else []) ∧
    (∀ h, u.lowGraph m.stamp.asid = some h → Tab.get g h Graph.absent =
      { u.graph h with parkDrop := min ((u.graph h).parkDrop + 1) (2 ^ 32 - 1) }) := by
  have counted : ∃ g, u.dropFull m = (State.dropKey { u with graphs := g } m.stamp.asid m.taskKey).nack m 3 ∧
      ∀ h, u.lowGraph m.stamp.asid = some h → Tab.get g h Graph.absent =
        { u.graph h with parkDrop := min ((u.graph h).parkDrop + 1) (2 ^ 32 - 1) } := by
    unfold State.dropFull
    cases low : u.lowGraph m.stamp.asid with
    | none => exact ⟨u.graphs, rfl, fun _ e => nomatch e⟩
    | some h =>
      refine ⟨_, rfl, fun k e => ?_⟩
      obtain rfl := Option.some.inj e
      rw [← sat32_eq_min]
      exact Tab.get_put_same _ _ _ _
  obtain ⟨g, e, drop⟩ := counted
  obtain ⟨l, e'⟩ := dropKey_eq { u with graphs := g } m.stamp.asid m.taskKey
  have whole : u.dropFull m = State.nack { u with graphs := g, tasks := l } m 3 := by rw [e, e']
  obtain ⟨q, sent⟩ := nack_eq { u with graphs := g, tasks := l } m 3
  refine ⟨g, ?_, ?_, ?_, ?_, drop⟩
  · rw [whole, sent]
  · rw [whole, sent]
  · rw [whole, sent]
  · rw [whole]
    exact nack_net _ m 3

/-- Parking a message. -/
theorem parks_room {u : State} (h : Counted s u) (byMask : Bool)
    (room : (s.parked.get (Id.die m.dst.toNat) []).length < s.parkPlaces.get (Id.die m.dst.toNat) 0) :
    let t := (u.takeNet n).parkMessage m byMask
    t.net = netWithout s n ∧ (t.core m.dst.toNat).inbox = (s.core m.dst.toNat).inbox ∧
      ∃ p : Pending, t.parked.get (Id.die m.dst.toNat) [] = s.parked.get (Id.die m.dst.toNat) [] ++ [p] ∧ p.msg = m := by
  have here : ((u.takeNet n).parked.get (Id.die m.dst.toNat) []).length < (u.takeNet n).parkPlaces.get (Id.die m.dst.toNat) 0 := by
    show (u.parked.get _ []).length < u.parkPlaces.get _ 0
    rw [h.parked, h.parkPlaces]
    exact room
  have net : (u.takeNet n).net = netWithout s n := by
    show u.net.take n ++ u.net.drop (n + 1) = _
    rw [h.net]
    rfl
  unfold State.parkMessage
  dsimp only
  rw [if_pos here]
  refine ⟨net, h.inbox _, { msg := m, arrival := u.stamp, contained := 0, undeliv := m.nack, byMask := byMask },
    (Tab.get_put_same _ _ _ _).trans ?_, rfl⟩
  exact congrArg (fun l => Tab.get l (Id.die m.dst.toNat) [] ++ _) h.parked

theorem parks_full {u : State} (h : Counted s u) (byMask : Bool)
    (full : s.parkPlaces.get (Id.die m.dst.toNat) 0 ≤ (s.parked.get (Id.die m.dst.toNat) []).length) :
    let t := (u.takeNet n).parkMessage m byMask
    (t.core m.dst.toNat).inbox = (s.core m.dst.toNat).inbox ∧
      t.net = netWithout s n ++ (if m.nackReq = true ∧ m.nack = false then [nackOf m 3] else []) ∧ t.parked = s.parked ∧
      ∀ g, s.lowGraph m.stamp.asid = some g → (t.graph g).parkDrop = min ((s.graph g).parkDrop + 1) (2 ^ 32 - 1) := by
  have here : ¬ ((u.takeNet n).parked.get (Id.die m.dst.toNat) []).length < (u.takeNet n).parkPlaces.get (Id.die m.dst.toNat) 0 := by
    show ¬ (u.parked.get _ []).length < u.parkPlaces.get _ 0
    rw [h.parked, h.parkPlaces]
    exact Nat.not_lt.mpr full
  have net : (u.takeNet n).net = netWithout s n := by
    show u.net.take n ++ u.net.drop (n + 1) = _
    rw [h.net]
    rfl
  obtain ⟨g, cores, parked, graphs, sent, drop⟩ := dropFull_leaves (u.takeNet n) m
  have low : (u.takeNet n).lowGraph m.stamp.asid = s.lowGraph m.stamp.asid := by
    unfold State.lowGraph State.graphsOf
    rw [show (u.takeNet n).graphs = s.graphs from h.graphs]
  have graph (k : Nat) : (u.takeNet n).graph k = s.graph k := by
    unfold State.graph
    rw [show (u.takeNet n).graphs = s.graphs from h.graphs]
  unfold State.parkMessage
  dsimp only
  rw [if_neg here]
  refine ⟨?_, by rw [sent, net], parked.trans h.parked, fun k e => ?_⟩
  · rw [← h.inbox]
    unfold State.core
    rw [cores]
    rfl
  · unfold State.graph
    rw [graphs, drop k (low.trans e), graph]
    rfl

/-- The count of a message whose address space has exited: at its last graph, or at the hub. -/
theorem countExit_eq {u : State} {a : Asid} (none_ : u.graphsOf a = []) :
    (∀ g, u.lastExited a = some g → u.countExit a = u.modGraph g (fun y => { y with exitDrop := sat32 y.exitDrop })) ∧
      (u.lastExited a = none → u.countExit a = { u with hub := { u.hub with xdrop := sat32 u.hub.xdrop } }) := by
  have low : u.lowGraph a = none := by rw [State.lowGraph, none_]; rfl
  unfold State.countExit
  rw [low, Option.none_or]
  exact ⟨fun g e => by rw [e], fun e => by rw [e]⟩

theorem dropExited_leaves (none_ : s.graphsOf m.stamp.asid = []) : let t := s.dropExited m
    t.cores = s.cores ∧ t.net = s.net ++ (if m.nackReq = true ∧ m.nack = false then [nackOf m 2] else []) ∧
      (m.nack = true → t.graphs = s.graphs ∧ t.hub = s.hub) ∧
      (m.nack = false → ∀ k, m.taskKey = some k → ∀ u ∈ t.tasks, ¬(u.key = k ∧ u.stamp.asid = m.stamp.asid)) ∧
      (m.nack = false → s.lastExited m.stamp.asid = none → t.hub.xdrop = min (s.hub.xdrop + 1) (2 ^ 32 - 1)) ∧
      (∀ g, m.nack = false → s.lastExited m.stamp.asid = some g →
        (t.graph g).exitDrop = min ((s.graph g).exitDrop + 1) (2 ^ 32 - 1)) := by
  unfold State.dropExited
  cases nack : m.nack with
  | true => simp
  | false =>
    obtain ⟨l, tasks⟩ := dropKey_eq s m.stamp.asid m.taskKey
    let u : State := { s with tasks := l }
    have noGraph : u.graphsOf m.stamp.asid = [] := none_
    obtain ⟨atGraph, atHub⟩ := countExit_eq noGraph
    have counted : ∃ g h, u.countExit m.stamp.asid = { u with graphs := g, hub := h } ∧
        (s.lastExited m.stamp.asid = none → h.xdrop = min (s.hub.xdrop + 1) (2 ^ 32 - 1)) ∧
        (∀ k, s.lastExited m.stamp.asid = some k →
          (Tab.get g k Graph.absent).exitDrop = min ((s.graph k).exitDrop + 1) (2 ^ 32 - 1)) := by
      cases last : s.lastExited m.stamp.asid with
      | none => exact ⟨u.graphs, _, atHub last, fun _ => sat32_eq_min _, fun _ e => nomatch e⟩
      | some k =>
        refine ⟨_, u.hub, atGraph k last, fun e => (nomatch e), fun k' e => ?_⟩
        obtain rfl := Option.some.inj e
        rw [Tab.get_put_same]
        exact sat32_eq_min _
    obtain ⟨g, h, e, xdrop, exitDrop⟩ := counted
    obtain ⟨q, sent⟩ := nack_eq { u with graphs := g, hub := h } m 2
    have whole : ((s.dropKey m.stamp.asid m.taskKey).countExit m.stamp.asid).nack m 2 =
        State.nack { u with graphs := g, hub := h } m 2 := by
      rw [tasks, ← e]
    rw [if_neg Bool.false_ne_true, whole]
    refine ⟨by rw [sent], ?_, fun c => (nomatch c), fun _ k key v mem => ?_, fun _ e => ?_, fun k _ e => ?_⟩
    · rw [nack_net, nack]
    · rw [sent] at mem
      have gone : v ∈ (s.dropKey m.stamp.asid m.taskKey).tasks := by rw [tasks]; exact mem
      rw [key] at gone
      simpa [imp_iff_not_or] using (List.mem_filter.mp gone).2
    · rw [sent]
      exact xdrop e
    · rw [sent]
      exact exitDrop k e

/-! Arrivals by the state of the address space. -/

theorem alive_test (here : ¬ Exited s m) : ¬ (m.stamp.asid != 0 && (s.graphsOf m.stamp.asid).isEmpty) = true :=
  fun e => here ((exited_iff s m).mp e)

theorem arrive_owner (may : MayArrive s n m) (here : ¬ Exited s m) (owner : m.owner.isSome = true) : s.arrive n =
    if (s.core m.dst.toNat).inbox.length < 64 then (s.takeNet n).accept m else s := by
  rw [arrive_eq may]
  dsimp only
  rw [if_neg (alive_test here), if_pos owner]
  rfl

theorem arrive_preempted (may : MayArrive s n m) (here : ¬ Exited s m) (owner : m.owner = none)
    (pre : s.preemptedAt m.stamp.asid m.dst.toNat = true) : s.arrive n = (s.takeNet n).parkMessage m false := by
  rw [arrive_eq may]
  dsimp only
  rw [if_neg (alive_test here), owner, if_neg (by decide), if_pos pre]

theorem arrive_exited (may : MayArrive s n m) (gone : Exited s m) (owner : m.owner = none) :
    s.arrive n = (s.takeNet n).dropExited m := by
  rw [arrive_eq may]
  dsimp only
  rw [if_pos ((exited_iff s m).mpr gone), owner, if_neg (by decide)]

/-- Where the address space runs, the state `u` after the entry was read decides. -/
theorem arrive_running (may : MayArrive s n m) (here : ¬ Exited s m) (owner : m.owner = none)
    (runs : s.preemptedAt m.stamp.asid m.dst.toNat = false) {l : Tab (List Pending)}
    (returned : s.returnParked m.dst.toNat = { s with parked := l }) :
    let u := State.readEntry { s with parked := l } m.dst.toNat m.stamp.asid m.typ.toNat
    s.arrive n =
      if s.masked m.dst.toNat m then
        if 48 ≤ s.maskedHeld m.dst.toNat then (u.takeNet n).parkMessage m true
        else if (s.core m.dst.toNat).inbox.length < 64 then (u.takeNet n).accept m
        else u
      else if State.parkedAhead { s with parked := l } m || decide (64 ≤ (s.core m.dst.toNat).inbox.length) then u
      else (u.takeNet n).accept m := by
  intro u
  have read : Counted { s with parked := l } u := State.readEntry_counted _ _ _ _
  have masked : u.masked m.dst.toNat m = s.masked m.dst.toNat m := read.masked _ _
  have held : u.maskedHeld m.dst.toNat = s.maskedHeld m.dst.toNat := read.maskedHeld _
  have inbox : (u.core m.dst.toNat).inbox = (s.core m.dst.toNat).inbox := read.inbox _
  have ahead : u.parkedAhead m = State.parkedAhead { s with parked := l } m := by
    unfold State.parkedAhead
    rw [read.parked]
  rw [arrive_eq may]
  dsimp only
  rw [if_neg (alive_test here), owner, if_neg (by decide), runs, if_neg Bool.false_ne_true, returned]
  show (if u.masked _ m then if 48 ≤ u.maskedHeld _ then _ else if (u.core _).inbox.length < inboxPlaces then _ else u
    else if u.parkedAhead m || decide (inboxPlaces ≤ (u.core _).inbox.length) then u else _) = _
  rw [masked, held, inbox, ahead]
  rfl

theorem arrivals : Arrivals := by
  intro s n m may c gone parks
  have read : Counted s (s.readEntry c m.stamp.asid m.typ.toNat) := s.readEntry_counted _ _ _
  have quiet (none_ : NoneParked s c) : s.returnParked m.dst.toNat = { s with parked := s.parked } := returnParked_none none_
  have step : exec (.messageArrival n) s = .next (s.arrive n) := rfl
  rw [step]
  refine ⟨fun here owner => ?_, fun here runs none_ places room => ?_, fun here runs none_ places owner full => ?_,
    fun here owner runs masked held stay => ?_, fun here owner park room => ?_, fun here owner park full => ?_, fun here owner => ?_⟩
  · rw [arrive_owner may here owner]
    refine ⟨fun room => ?_, fun full => by rw [if_neg (Nat.not_lt.mpr full)]⟩
    obtain ⟨net, mem, -, accepted⟩ := accepts (n := n) (m := m) (Counted.refl s)
    exact ⟨_, by rw [if_pos room], net, mem, accepted⟩
  · cases owner : m.owner with
    | some q =>
      obtain ⟨net, mem, -, accepted⟩ := accepts (n := n) (m := m) (Counted.refl s)
      exact ⟨_, by rw [arrive_owner may here (by rw [owner]; rfl), if_pos room], net, mem, accepted⟩
    | none =>
      obtain ⟨net, mem, -, accepted⟩ := accepts (n := n) (m := m) read
      refine ⟨_, ?_, net, mem, accepted⟩
      rw [arrive_running may here owner runs (quiet none_), parkedAhead_none none_]
      rcases places with open_ | held
      · simp [open_, show (s.core m.dst.toNat).inbox.length < 64 from room, c]
      · have held : ¬ 48 ≤ s.maskedHeld m.dst.toNat := Nat.not_le.mpr held
        simp [held, show (s.core m.dst.toNat).inbox.length < 64 from room, c]
  · rw [arrive_running may here owner runs (quiet none_), parkedAhead_none none_]
    have full : ¬ (s.core m.dst.toNat).inbox.length < 64 := Nat.not_lt.mpr full
    rcases places with open_ | held
    · simp [show s.masked m.dst.toNat m = false from open_, full, c]
    · have held : ¬ 48 ≤ s.maskedHeld m.dst.toNat := Nat.not_le.mpr held
      simp [held, full, c]
  · have held : ¬ 48 ≤ s.maskedHeld m.dst.toNat := Nat.not_le.mpr held
    obtain ⟨l, returned, same⟩ := returnParked_stay (s := s) (c := c)
      (fun p mem dst => stay p mem (BitVec.eq_of_toNat_eq dst))
    have read : Counted { s with parked := l } _ := State.readEntry_counted { s with parked := l } c m.stamp.asid m.typ.toNat
    rw [arrive_running may here owner runs returned, if_pos masked, if_neg held]
    refine ⟨fun room => ?_, fun full => ?_⟩
    · obtain ⟨net, mem, parked, accepted⟩ := accepts (n := n) (m := m) read
      rw [if_pos room]
      refine ⟨_, rfl, net, mem.trans (s.readEntry_counted _ _ _).mem.symm, ?_, accepted⟩
      rw [← same]
      exact congrArg (Tab.get · (Id.die c) []) parked
    · rw [if_neg (Nat.not_lt.mpr full)]
      refine ⟨_, rfl, read.net, read.inbox c, ?_⟩
      rw [← same]
      exact congrArg (Tab.get · (Id.die c) []) read.parked
  · by_cases pre : s.preemptedAt m.stamp.asid c = true
    · rw [arrive_preempted may here owner pre]
      exact ⟨_, rfl, parks_room (Counted.refl s) _ room⟩
    · obtain ⟨none_, masked, held⟩ := park.resolve_left pre
      rw [arrive_running may here owner (by simpa using pre) (quiet none_), if_pos masked, if_pos held]
      exact ⟨_, rfl, parks_room read _ room⟩
  · by_cases pre : s.preemptedAt m.stamp.asid c = true
    · rw [arrive_preempted may here owner pre]
      exact ⟨_, rfl, parks_full (Counted.refl s) _ full⟩
    · obtain ⟨none_, masked, held⟩ := park.resolve_left pre
      rw [arrive_running may here owner (by simpa using pre) (quiet none_), if_pos masked, if_pos held]
      exact ⟨_, rfl, parks_full read _ full⟩
  · rw [arrive_exited may here owner]
    obtain ⟨cores, net, nacks, tasks, xdrop, exitDrop⟩ := dropExited_leaves (s := s.takeNet n) (m := m) here.2
    refine ⟨_, rfl, ?_, net, nacks, tasks, xdrop, exitDrop⟩
    unfold State.core
    rw [cores]
    rfl

end

/-! The winner. -/

section
variable (s : State) (c : Nat)

/-- A candidate comes before another: a lower K, or the same and no nearer in the cyclic order. -/
def Yields (q p : Pending) : Prop :=
  s.keyOf c q.msg < s.keyOf c p.msg ∨
    (s.keyOf c q.msg = s.keyOf c p.msg ∧ (s.core c).distance p.msg ≤ (s.core c).distance q.msg)

theorem Yields.trans {s : State} {c : Nat} {x q p : Pending} (h : Yields s c x q) (k : Yields s c q p) : Yields s c x p := by
  unfold Yields at *
  omega

/-- One candidate against the best so far. -/
def against (a : Option Pending) (p : Pending) : Option Pending :=
  match a with
  | none => some p
  | some q =>
    let x := s.keyOf c p.msg
    let y := s.keyOf c q.msg
    if y < x ∨ (x = y ∧ (s.core c).distance p.msg < (s.core c).distance q.msg) then some p else some q

theorem winner_eq : s.winner c = (s.candidates c).foldl (against s c) none := rfl

/-- The best of a list is of it, and every other yields to it. -/
theorem best_of_list (l : List Pending) (q : Pending) : ∃ p, l.foldl (against s c) (some q) = some p ∧ p ∈ q :: l ∧
    ∀ x ∈ q :: l, Yields s c x p := by
  induction l generalizing q with
  | nil => exact ⟨q, rfl, List.mem_singleton_self q, by simp [Yields]⟩
  | cons r l ih =>
    obtain ⟨b, one, who, yq, yr⟩ : ∃ b, against s c (some q) r = some b ∧ (b = q ∨ b = r) ∧
        Yields s c q b ∧ Yields s c r b := by
      unfold against Yields
      dsimp only
      split
      · exact ⟨r, rfl, .inr rfl, by omega, by omega⟩
      · exact ⟨q, rfl, .inl rfl, by omega, by omega⟩
    obtain ⟨p, e, mem, best⟩ := ih b
    rw [List.foldl_cons, one]
    refine ⟨p, e, ?_, fun x m => ?_⟩
    · rcases List.mem_cons.mp mem with h | h
      · rcases who with w | w <;> simp [h, w]
      · exact List.mem_cons_of_mem _ (List.mem_cons_of_mem _ h)
    · have top := best b List.mem_cons_self
      rcases List.mem_cons.mp m with rfl | m
      · exact yq.trans top
      · rcases List.mem_cons.mp m with rfl | m
        · exact yr.trans top
        · exact best x (List.mem_cons_of_mem _ m)

end

theorem winnerRule : WinnerRule := by
  intro s c
  have best (q : Pending) (l : List Pending) (e : s.candidates c = q :: l) : ∃ p, s.winner c = some p ∧ p ∈ s.candidates c ∧
      ∀ x ∈ s.candidates c, Yields s c x p := by
    rw [winner_eq, e]
    exact best_of_list s c l q
  refine ⟨?_, fun p w => ?_, fun m => ?_⟩
  · cases e : s.candidates c with
    | nil => simp [winner_eq, e]
    | cons q l =>
      obtain ⟨p, w, -⟩ := best q l e
      simp [w]
  · cases e : s.candidates c with
    | nil => simp [winner_eq, e] at w
    | cons q l =>
      obtain ⟨p', w', mem, yields⟩ := best q l e
      obtain rfl := Option.some.inj (w.symm.trans w')
      rw [← e]
      exact ⟨mem, yields⟩
  · unfold State.keyOf
    dsimp only
    split <;> omega

/-! The start of an activation. -/

/-- One word of a payload, with its place. -/
def loadWord (r : Regs) (p : W64 × Nat) : Regs := if h : p.2 + 1 < 32 then r.writeG ⟨p.2 + 1, h⟩ p.1 else r

theorem loadWord_eq (r : Regs) (x : W64) {k : Nat} (h : k + 1 < 32) : loadWord r (x, k) = { r with g := r.g.set (k + 1) x } := by
  unfold loadWord Regs.writeG
  rw [dif_pos h, if_neg (by simp [Fin.ext_iff])]

/-- Words from a place on go into the registers from the next number on. -/
theorem foldl_loadWord (q : List W64) (k : Nat) (h : k + q.length < 32) (r : Regs) :
    ∃ g, (q.zipIdx k).foldl loadWord r = { r with g := g } ∧ ∀ n : Fin 32,
      g[n] = if k < n.val ∧ n.val ≤ k + q.length then q.getD (n.val - 1 - k) 0 else r.g[n] := by
  induction q generalizing k r with
  | nil => exact ⟨r.g, rfl, fun n => by rw [if_neg]; simp only [List.length_nil]; omega⟩
  | cons x q ih =>
    rw [List.length_cons] at h
    obtain ⟨g, e, at_⟩ := ih (k + 1) (by omega) { r with g := r.g.set (k + 1) x }
    refine ⟨g, by rw [List.zipIdx_cons, List.foldl_cons, loadWord_eq r x (by omega), e], fun n => ?_⟩
    have here : ({ r with g := r.g.set (k + 1) x } : Regs).g[n] = if k + 1 = n.val then x else r.g[n] :=
      Vector.getElem_set (by omega) n.isLt
    rw [at_ n, here, List.length_cons]
    by_cases first : n.val = k + 1
    · rw [if_neg (by omega), if_pos first.symm, if_pos (by omega), show n.val - 1 - k = 0 by omega]
      rfl
    · rw [if_neg (Ne.symm first)]
      by_cases inside : k + 1 < n.val ∧ n.val ≤ k + 1 + q.length
      · rw [if_pos inside, if_pos (by omega), show n.val - 1 - k = n.val - 1 - (k + 1) + 1 by omega]
        rfl
      · rw [if_neg inside, if_neg (by omega)]

/-- What a scalar payload leaves in the registers: its words in g1 to g7. -/
theorem loadPayload_eq (r : Regs) (l : List W64) : ∃ g, r.loadPayload l = { r with g := g } ∧ ∀ n : Fin 32,
    g[n] = if 1 ≤ n.val ∧ n.val ≤ 7 ∧ n.val ≤ l.length then l.getD (n.val - 1) 0 else r.g[n] := by
  obtain ⟨g, e, at_⟩ := foldl_loadWord (l.take 7) 0 (by rw [List.length_take]; omega) r
  refine ⟨g, e, fun n => ?_⟩
  rw [at_ n, List.length_take]
  by_cases h : 1 ≤ n.val ∧ n.val ≤ 7 ∧ n.val ≤ l.length
  · rw [if_pos h, if_pos (by omega), List.getD_eq_getElem?_getD, List.getElem?_take, if_pos (by omega)]
    rfl
  · rw [if_neg h, if_neg (by omega)]

theorem startWord_fields (m : Message) (ty : BitVec 8) (src : CoreId) :
    let w := startWord m ty src
    fld w 0 16 = src.toNat ∧ fld w 16 8 = ty.toNat ∧ fld w 24 3 = m.stamp.lpri.toNat ∧ fld w 32 8 = m.stamp.group.toNat ∧
    fld w 40 8 = (if ty = 0xFF then m.otype.toNat else 0) ∧ fld w 48 4 = (if ty = 0xFF then m.cause.toNat else 0) := by
  have h1 : src.toNat < 2 ^ 16 := src.isLt
  have h2 : ty.toNat < 2 ^ 8 := ty.isLt
  have h3 : m.stamp.lpri.toNat < 2 ^ 3 := m.stamp.lpri.isLt
  have h4 : m.stamp.group.toNat < 2 ^ 8 := m.stamp.group.isLt
  have h5 : m.otype.toNat < 2 ^ 8 := m.otype.isLt
  have h6 : m.cause.toNat < 2 ^ 4 := m.cause.isLt
  unfold startWord
  simp only [fld_ofNat]
  split
  · refine ⟨?_, ?_, ?_, ?_, ?_, ?_⟩ <;> omega
  · refine ⟨?_, ?_, ?_, ?_, ?_, ?_⟩ <;> omega

/-- The registers a plain message starts its activation with. -/
theorem startRegs_plain (s : State) (c : Nat) {m : Message} (stays : m.portable = none) (noTask : m.task = none) :
    ∃ g, s.startRegs c m = ({ Regs.start with
        g := g, v := Regs.start.v.set 0 (m.vec.getD 0)
        pc := s.handlerPc c m.stamp.asid m.typ.toNat (s.ventry c m.stamp.asid m.typ.toNat) }, none) ∧
      g[8] = startWord m m.typ m.stamp.src ∧ ∀ n : Fin 32, n.val ≠ 8 →
        g[n] = if 1 ≤ n.val ∧ n.val ≤ 7 ∧ n.val ≤ m.payload.length then m.payload.getD (n.val - 1) 0 else 0 := by
  let r : Regs := { Regs.start with pc := s.handlerPc c m.stamp.asid m.typ.toNat (s.ventry c m.stamp.asid m.typ.toNat) }
  obtain ⟨g, e, at_⟩ := loadPayload_eq r m.payload
  have noEntry : s.entryOf m = none := by rw [State.entryOf, noTask]; rfl
  have whole : s.startRegs c m = (((r.loadPayload m.payload).writeV 0 (m.vec.getD 0)).writeG 8 (startWord m m.typ m.stamp.src), none) := by
    unfold State.startRegs
    rw [stays, noEntry]
  refine ⟨g.set 8 (startWord m m.typ m.stamp.src), ?_, Vector.getElem_set_self _, fun n other => ?_⟩
  · rw [whole, e]
    rfl
  · have same : (g.set 8 (startWord m m.typ m.stamp.src))[n] = g[n] := Vector.getElem_set_ne _ _ (Ne.symm other)
    have zero : r.g[n] = 0 := Vector.getElem_replicate _
    rw [same, at_ n, zero]

/-- A chosen message leaves the inbox, and its core goes on from it. -/
def choose (u : State) (c : Nat) (p : Pending) : State :=
  u.modCore c (fun k => { k with
    inbox := k.inbox.filter (fun q => q.arrival != p.arrival), lastType := p.msg.typ, lastAsid := p.msg.stamp.asid
    passed := countPassed k.passed (u.candidates c) p.msg })

/-- What a choice leaves of its core. -/
theorem choose_core (u : State) (c : Nat) (p : Pending) : ((choose u c p).core c).rvtbase = (u.core c).rvtbase ∧
    ((choose u c p).core c).spaces = (u.core c).spaces ∧
    ((choose u c p).core c).inbox = (u.core c).inbox.filter (fun q => q.arrival != p.arrival) := by
  unfold choose
  rw [State.core_modCore_same]
  exact ⟨rfl, rfl, rfl⟩

theorem choose_handlerPc (u : State) (c : Nat) (p : Pending) (ty : Nat) (a : Asid) :
    (choose u c p).handlerPc c a ty ((choose u c p).ventry c a ty) = u.handlerPc c a ty (u.ventry c a ty) := by
  obtain ⟨rvtbase, copies, -⟩ := choose_core u c p
  have mem : (choose u c p).mem = u.mem := State.modCore_mem _ _ _
  have bad : (choose u c p).bad = u.bad := State.modCore_bad _ _ _
  have spaces : (choose u c p).spaces = u.spaces := State.modCore_spaces _ _ _
  have entry : (choose u c p).ventry c a ty = u.ventry c a ty := State.ventry_congr mem bad spaces rvtbase copies a ty
  have same : (choose u c p).spaceRegs c a = u.spaceRegs c a := by
    unfold State.spaceRegs
    rw [copies, spaces]
  rw [entry, State.handlerPc, State.handlerPc, same]

/-- A selection, after what becomes of the parked, the unusable and the heads. -/
theorem select_eq (s : State) (c : Nat) : s.select c =
    if (settled s c).closed c then settled s c else
      match (settled s c).winner c with
      | none => settled s c
      | some p =>
        match (settled s c).freeSlots c ((settled s c).classOf c p.msg).1 with
        | [] => settled s c
        | i :: _ => (choose (settled s c) c p).startIn c i p := rfl

theorem select_closed {s : State} {c : Nat} (h : (settled s c).closed c = true ∨ (settled s c).candidates c = []) :
    s.select c = settled s c := by
  rw [select_eq]
  rcases h with h | h
  · rw [if_pos h]
  · have none_ : (settled s c).winner c = none := ((winnerRule (settled s c) c).1).mpr h
    rw [none_]
    split <;> rfl

theorem select_starts {s : State} {c i : Nat} {r : List Nat} {p : Pending} (open_ : (settled s c).closed c = false)
    (won : (settled s c).winner c = some p) (free : (settled s c).freeSlots c ((settled s c).classOf c p.msg).1 = i :: r) :
    s.select c = (choose (settled s c) c p).startIn c i p := by
  rw [select_eq, open_, won, if_neg Bool.false_ne_true]
  dsimp only
  rw [free]

/-- The registers of a plain message, word by word. -/
structure Plain (m : Message) (pc : W64) (x : Regs) : Prop where
  zero : x.readG 0 = 0
  payload (n : Fin 32) : 1 ≤ n.val → n.val ≤ 7 → n.val ≤ m.payload.length → some x.g[n] = m.payload[n.val - 1]?
  beyond (n : Fin 32) : 1 ≤ n.val → n.val ≤ 7 → m.payload.length < n.val → x.g[n] = 0
  above (n : Fin 32) : 9 ≤ n.val → x.g[n] = 0
  word : x.g[8] = startWord m m.typ m.stamp.src
  vec : x.v[0] = m.vec.getD 0
  vecs (n : Fin 32) : n.val ≠ 0 → x.v[n] = 0
  masks (n : Fin 8) : x.m[n] = 0 ∧ x.k[n] = 0
  queues (n : Fin 16) : x.q[n] = Queue.empty
  pc : x.pc = pc
  rest : x.tvec = 0 ∧ x.fpst = 0 ∧ x.batch = 1 ∧ x.sigcfg = 1 ∧ x.sfq = [] ∧ x.held = []

theorem startRegs_is_plain (s : State) (c : Nat) {m : Message} (stays : m.portable = none) (noTask : m.task = none) :
    Plain m (s.handlerPc c m.stamp.asid m.typ.toNat (s.ventry c m.stamp.asid m.typ.toNat)) (s.startRegs c m).1 ∧
      (s.startRegs c m).2 = none := by
  obtain ⟨g, regs, g8, others⟩ := startRegs_plain s c stays noTask
  rw [regs]
  refine ⟨⟨rfl, fun n low high inside => ?_, fun n low high beyond => ?_, fun n high => ?_, g8, ?_, fun n other => ?_, fun n => ?_,
    fun n => ?_, rfl, rfl, rfl, rfl, rfl, rfl, rfl⟩, rfl⟩
  · rw [others n (by omega), if_pos ⟨low, high, inside⟩, List.getD_eq_getElem?_getD,
      List.getElem?_eq_getElem (show n.val - 1 < m.payload.length by omega)]
    rfl
  · rw [others n (by omega), if_neg (by omega)]
  · rw [others n (by omega), if_neg (by omega)]
  · exact Vector.getElem_set_self _
  · exact (Vector.getElem_set_ne (by decide : 0 < 32) n.isLt (Ne.symm other)).trans (Vector.getElem_replicate _)
  · exact ⟨Vector.getElem_replicate _, Vector.getElem_replicate _⟩
  · exact Vector.getElem_replicate _

theorem inbox_modSlot (s : State) (c i : Nat) (f : Slot → Slot) : ((s.modSlot c i f).core c).inbox = (s.core c).inbox := by
  unfold State.modSlot State.setSlot
  rw [State.core_setCore_same]
  rfl

/-- The activation a plain message makes. -/
def ActOf (i : Nat) (m : Message) (a : Act) : Prop :=
  a.typ = m.typ ∧ a.stamp = m.stamp ∧ a.cls = slotClass i ∧ a.executed = 0 ∧ a.restartable = true ∧ a.owner = m.owner

/-- A plain message starts in its slot, and nothing else becomes of a core. -/
theorem startIn_cores (s : State) (c i : Nat) (p : Pending) (stays : p.msg.portable = none) (noTask : p.msg.task = none) :
    ∃ f, (s.startIn c i p).cores = (s.modSlot c i f).cores ∧ ∀ x,
      (f x).regs = (s.startRegs c p.msg).1 ∧ ∃ a, (f x).act = some a ∧ ActOf i p.msg a := by
  obtain ⟨-, alone⟩ := startRegs_is_plain s c stays noTask
  unfold State.startIn
  dsimp only
  rw [alone, stays]
  exact ⟨_, rfl, fun x => ⟨rfl, _, rfl, rfl, rfl, rfl, rfl, rfl, rfl⟩⟩

theorem startIn_leaves (s : State) (c i : Nat) (p : Pending) (stays : p.msg.portable = none) (noTask : p.msg.task = none) :
    let t := s.startIn c i p
    (t.slot c i).regs = (s.startRegs c p.msg).1 ∧ (t.core c).inbox = (s.core c).inbox ∧
      ∃ a, (t.slot c i).act = some a ∧ ActOf i p.msg a := by
  obtain ⟨f, cores, starts⟩ := startIn_cores s c i p stays noTask
  have core : (s.startIn c i p).core c = (s.modSlot c i f).core c := congrArg (Tab.get · c Core.init) cores
  have slot : (s.startIn c i p).slot c i = f (s.slot c i) :=
    (congrArg (Core.slot · i) core).trans (State.slot_modSlot_same s c i f)
  have inbox : ((s.startIn c i p).core c).inbox = (s.core c).inbox := (congrArg Core.inbox core).trans (inbox_modSlot s c i f)
  obtain ⟨regs, act⟩ := starts (s.slot c i)
  dsimp only
  rw [slot]
  exact ⟨regs, inbox, act⟩

theorem starts : Starts := by
  refine ⟨fun s n => ⟨_, rfl⟩, fun s c => ⟨_, rfl⟩, ?_, ?_, ?_, startWord_fields⟩
  · intro s c p mem owner q parked dst typ asid
    have kept := (List.mem_filter.mp mem).2
    simp only [owner, Option.isSome_none, Bool.false_or, Bool.and_eq_true, Bool.not_eq_true'] at kept
    have behind : s.behindParked c p = false := kept.1.2.2
    by_contra earlier
    have : s.behindParked c p = true := List.any_eq_true.mpr ⟨q, parked, by simp [dst, typ, asid, Nat.not_le.mp earlier]⟩
    rw [behind] at this
    exact Bool.false_ne_true this
  · intro s c i r p u m there works won free stays noTask
    have open_ : u.closed c = false := by
      unfold State.closed
      rcases works with h | h <;> simp [there, h]
    have step : exec (.selection c) s = .next ((choose u c p).startIn c i p) :=
      congrArg Host.Outcome.next (select_starts open_ won free)
    obtain ⟨regs, inbox, act⟩ := startIn_leaves (choose u c p) c i p stays noTask
    obtain ⟨plain, -⟩ := startRegs_is_plain (choose u c p) c stays noTask
    rw [choose_handlerPc] at plain
    obtain ⟨-, -, left⟩ := choose_core u c p
    refine ⟨_, step, act, inbox.trans left, ?_⟩
    rw [regs]
    exact ⟨plain.zero, plain.payload, plain.beyond, plain.above, plain.word, plain.vec, plain.vecs, plain.masks, plain.queues,
      plain.pc, plain.rest⟩
  · intro s c u none_
    refine congrArg Host.Outcome.next (select_closed ?_)
    rcases none_ with h | ⟨h, k⟩ | h
    · exact .inl (by simp [State.closed, u, h])
    · exact .inl (by simp [State.closed, u, h, k])
    · exact .inr h

/-- Settles O51: the arrivals by the branches of the delivery, the winner as the best of a left fold, and the start as one write of
the chosen slot. -/
theorem messagesStartActivations : Obligations.MessagesStartActivations := ⟨arrivals, winnerRule, starts⟩

end Sys2Proof.Claim
end

section
/-! Die links (O59): flits, and the steps of a link whose window ends over budget. -/

namespace Sys2Proof.Machine

theorem Lnk.get_put_same (s : State) (l : Nat) (x : Link) : Lnk.get (Lnk.put s l x) l = x := Tab.get_put_same _ _ _ _

/-- A retrain that begins changes its link alone. -/
theorem State.beginRetrain_leaves (s : State) (l : Nat) : ∃ k, s.beginRetrain l = { s with links := k } ∧
    k.get l Link.init = { Lnk.get s l with
      training := (Lnk.get s l).training || (bit (Lnk.get s l).rate 9 && !(Lnk.get s l).down && !s.stoppingOn l) } := by
  unfold State.beginRetrain
  dsimp only
  split
  · next h =>
    simp only [Bool.and_eq_true, Bool.not_eq_true'] at h
    obtain ⟨⟨⟨asks, -⟩, up⟩, free⟩ := h
    refine ⟨_, rfl, (Tab.get_put_same _ _ _ _).trans ?_⟩
    simp [asks, up, free]
  · next h =>
    refine ⟨s.links, rfl, ?_⟩
    have same : ((Lnk.get s l).training || (bit (Lnk.get s l).rate 9 && !(Lnk.get s l).down && !s.stoppingOn l)) =
        (Lnk.get s l).training := by
      cases on : (Lnk.get s l).training with
      | true => rfl
      | false => simpa [on, Bool.and_eq_true, -Bool.not_eq_true] using h
    rw [same]
    rfl

end Sys2Proof.Machine

namespace Sys2Proof.Claim
open Sys2Proof.Machine

theorem flitsCount : FlitsCount := by
  refine ⟨fun s l atB ok seq lanes die => ?_, fun s l atB ok seq lanes low high => ?_, fun s l atB ok seq lanes die held => ?_⟩
  · intro x up still
    have step : exec (.flitReceive l atB seq ok lanes) s = .next (Lnk.put s l
        (x.flit atB seq ok (lanes.filter (fun l' => decide (l'.1 < Lnk.modules l) && decide (l'.2 < 68))))) := by
      refine congrArg Host.Outcome.next ?_
      rw [if_pos die]
      dsimp only
      rw [if_neg (by simp [show (Lnk.get s l).down = false from up, show (Lnk.get s l).training = false from still])]
    refine ⟨_, step, rfl, rfl, ?_⟩
    dsimp only
    rw [Lnk.get_put_same]
    cases ok with
    | false => exact ⟨rfl, rfl, rfl, fun e => Bool.noConfusion e, fun _ => ⟨rfl, rfl, rfl, rfl, rfl⟩⟩
    | true =>
      cases atB with
      | true => exact ⟨rfl, rfl, rfl, fun _ => ⟨rfl, rfl, rfl, by simp [Link.flit, nextFlit], rfl⟩, fun e => Bool.noConfusion e⟩
      | false => exact ⟨rfl, rfl, rfl, fun _ => ⟨rfl, rfl, rfl, rfl, by simp [Link.flit, nextFlit]⟩, fun e => Bool.noConfusion e⟩
  · intro x
    have step : exec (.flitReceive l atB seq ok lanes) s =
        .next { s with ports := s.ports.put (l - 18) (x.flit atB seq ok) } := by
      refine congrArg Host.Outcome.next ?_
      rw [if_neg (by omega), if_pos high]
    refine ⟨_, step, (Tab.get_put_same _ _ _ _).trans ?_⟩
    cases ok with
    | false => rfl
    | true => cases atB <;> simp [Port.flit, nextFlit]
  · refine congrArg Host.Outcome.next ?_
    rw [if_pos die]
    dsimp only
    rw [if_pos (by simpa using held)]

/-! The steps of a link. -/

/-- An entry of the degrade log names its step, the rate, and the lane it retired. -/
theorem degradeWord_fields {kind rate : Nat} (small : kind < 256) (low : rate < 8) (lane : Option Lane) (o : W64) :
    let e := degradeWord kind lane rate o
    fld e 0 8 = kind ∧ fld e 20 3 = rate ∧
      ∀ v, lane = some v → fld e 8 4 = v.mod % 16 ∧ fld e 12 7 = v.lane % 128 ∧ bit e 19 = v.dir := by
  have b1 := fld_lt o 0 12
  have b2 := fld_lt o 32 32
  unfold degradeWord
  cases lane with
  | none =>
    simp only [fld_ofNat]
    exact ⟨by omega, by omega, fun _ e => nomatch e⟩
  | some v =>
    simp only [fld_ofNat, bit_ofNat _ (show 19 < 64 by decide)]
    refine ⟨?_, ?_, fun w e => ?_⟩
    · split <;> omega
    · split <;> omega
    · obtain rfl := Option.some.inj e
      refine ⟨by split <;> omega, by split <;> omega, ?_⟩
      cases dir : v.dir
      · simp only [Bool.false_eq_true, if_false, decide_eq_false_iff_not]
        omega
      · simp only [if_true, decide_eq_true_eq]
        omega

/-- What a step leaves of its link. -/
def stepped (s : State) (l : Nat) (x : Link) (e : W64) : Link :=
  { x with log := logEntry x.log e, training := x.training || (bit x.rate 9 && !x.down && !s.stoppingOn l) }

/-- The message of a step of a link, where someone hears it. -/
def degradeMessage (l : Nat) (x : Link) (e : W64) : Message :=
  Message.plain (BitVec.ofNat 16 (fld x.trap 0 16)) (BitVec.ofNat 8 (fld x.trap 16 8)) { Stamp.none Id.treadle 0 with lpri := 7 }
    [BitVec.ofNat 64 l, e, Lnk.rateWord x]

/-- A step down logs its entry, begins its retrain, sends its message and its interrupt. -/
theorem degrade_eq (s : State) (l : Nat) (x : Link) (kind : Nat) (lane : Option Lane) :
    let e := degradeWord kind lane (fld x.rate 0 3) (Config.freeWord s.fresh)
    ∃ k n, k.get l Link.init = stepped s l x e ∧
      s.degrade l x kind lane = State.interrupt { s with fresh := s.fresh + 1, links := k, net := n } 2 ∧
      n = if bit x.trap 24 && Id.isCompute (fld x.trap 0 16) && s.provided (fld x.trap 0 16) then
        s.net ++ [degradeMessage l (stepped s l x e) e] else s.net := by
  intro e
  let u : State := Lnk.put { s with fresh := s.fresh + 1 } l { x with log := logEntry x.log e }
  obtain ⟨k, begun, link⟩ := u.beginRetrain_leaves l
  have at_ : Lnk.get u l = { x with log := logEntry x.log e } := Lnk.get_put_same _ _ _
  have link : k.get l Link.init = stepped s l x e := link.trans (by rw [at_]; rfl)
  have here : Lnk.get { u with links := k } l = stepped s l x e := link
  have whole : s.degrade l x kind lane =
      let s := u.beginRetrain l
      let x := Lnk.get s l
      State.interrupt (if bit x.trap 24 && Id.isCompute (fld x.trap 0 16) && s.provided (fld x.trap 0 16) then
        { s with net := s.net ++ [degradeMessage l x e] } else s) 2 := rfl
  refine ⟨k, _, link, ?_, rfl⟩
  rw [whole, begun]
  dsimp only
  rw [here]
  refine congrArg (State.interrupt · 2) ?_
  show (if bit x.trap 24 && Id.isCompute (fld x.trap 0 16) && s.provided (fld x.trap 0 16) then _ else _) = _
  split <;> rfl

/-- A step tells of itself, of its link as it is then. -/
theorem degrade_tells (s : State) (l : Nat) {x : Link} (kind : Nat) (lane : Option Lane) (trap : x.trap = (Lnk.get s l).trap) :
    let e := degradeWord kind lane (fld x.rate 0 3) (Config.freeWord s.fresh)
    let t := s.degrade l x kind lane
    Lnk.get t l = stepped s l x e ∧ t.hub = s.hub ∧ Tells s t l e := by
  intro e t
  obtain ⟨k, n, link, whole, sent⟩ := degrade_eq s l x kind lane
  let u : State := { s with fresh := s.fresh + 1, links := k, net := n }
  have whole : t = u.interrupt 2 := whole
  obtain ⟨m, written⟩ := u.interrupt_eq 2
  have links : Lnk.get t l = stepped s l x e := by rw [whole, written]; exact link
  have net : t.net = n := by rw [whole, written]
  refine ⟨links, by rw [whole, written], ?_⟩
  unfold Tells
  dsimp only
  rw [links, net, ← trap, sent]
  refine ⟨fun heard => ?_, fun unheard => ?_, fun wf _ on low => ?_⟩
  · rw [if_pos (by simpa [and_assoc] using heard)]
    exact ⟨_, rfl, rfl, rfl, rfl, rfl, rfl, rfl, rfl, rfl, rfl, rfl, rfl, rfl, rfl⟩
  · exact if_neg (by simpa [and_assoc] using unheard)
  · have mem : t.mem = _ := (congrArg State.mem whole).trans (State.interrupt_mem (s := u) (n := 2) on low)
    rw [mem]
    exact congrArg bytesNat (Memory.readN_writeAll wf _ (natBytes 2 4))

/-- An event of HEALTH adds nothing to what a step tells: interrupt 0 is another's. -/
theorem Tells.healthEvent {s t : State} {l : Nat} {e : W64} (h : Tells s t l e) (hub : t.hub = s.hub) (kind : Nat)
    (what : Repaired) : Tells s (t.healthEvent kind what) l e := by
  obtain ⟨heard, unheard, interrupt⟩ := h
  obtain ⟨hub', whole, noted⟩ := t.healthEvent_eq kind what
  obtain ⟨m, written⟩ := State.interrupt_eq { t with hub := hub' } 0
  rw [whole]
  refine ⟨fun h => ?_, fun h => ?_, fun wf off on low => ?_⟩
  · rw [written]
    exact heard h
  · rw [written]
    exact unheard h
  · rw [State.interrupt_off (s := { t with hub := hub' }) (n := 0) (by rw [noted.hint, hub]; exact off)]
    exact interrupt wf off on low

/-- The event of a step. -/
theorem HealthEvent.of_event {s t : State} {kind : Nat} (small : kind < 256) (what : Repaired)
    (events : fld t.hub.health 16 16 = fld s.hub.health 16 16) (log : t.hub.repairLog = s.hub.repairLog) :
    HealthEvent s (t.healthEvent kind what) kind what := by
  obtain ⟨h, m, whole, noted⟩ := t.healthEvent_within kind what
  rw [whole]
  exact ⟨noted.replace, noted.service, noted.last.trans (Nat.mod_eq_of_lt small), noted.events.trans (by rw [events]),
    noted.log.trans (by rw [log])⟩

/-- The request for a retrain stands beside the rates. -/
theorem bit_asked (w : W64) (i : Nat) : bit (w ||| 0x200) i = (bit w i || decide (i = 9)) := by
  have one : (0x200 : W64) = BitVec.twoPow 64 9 := rfl
  rw [bit, BitVec.getLsbD_or, one, BitVec.getLsbD_twoPow, ← bit]
  by_cases h : i = 9 <;> simp [h, eq_comm]

theorem fld_asked (w : W64) {lo n : Nat} (h : lo + n ≤ 9 ∨ 10 ≤ lo) : fld (w ||| 0x200) lo n = fld w lo n := by
  refine Nat.eq_of_testBit_eq fun j => ?_
  rw [testBit_fld, testBit_fld, bit_asked]
  by_cases inside : j < n
  · simp [show lo + j ≠ 9 by omega]
  · simp [inside]

/-- What every step of a link leaves: its entry, a new window, a retrain where it asks for one, and what tells of it. -/
def AfterStep (s t : State) (l : Nat) (e : W64) : Prop :=
  let x := Lnk.get s l
  let y := Lnk.get t l
  y.log = logEntry x.log e ∧ y.winFlits = 0 ∧ y.winReplay = 0 ∧
    (bit y.rate 9 = true → x.training = false → y.training = !s.stoppingOn l) ∧ fld e 20 3 = fld y.rate 0 3 ∧ Tells s t l e

theorem AfterStep.healthEvent {s t : State} {l : Nat} {e : W64} (h : AfterStep s t l e) (hub : t.hub = s.hub) (kind : Nat)
    (what : Repaired) : AfterStep s (t.healthEvent kind what) l e := by
  obtain ⟨log, flits, replay, training, rate, tells⟩ := h
  obtain ⟨hub', m, whole, -⟩ := t.healthEvent_within kind what
  have links : Lnk.get (t.healthEvent kind what) l = Lnk.get t l := by rw [whole]; rfl
  unfold AfterStep
  rw [links]
  exact ⟨log, flits, replay, training, rate, tells.healthEvent hub kind what⟩

/-- A link that a window's end changes before its step. -/
structure Renewed (x y : Link) : Prop where
  log : y.log = x.log
  flits : y.winFlits = 0
  replay : y.winReplay = 0
  training : y.training = x.training
  trap : y.trap = x.trap
  up : y.down = false

theorem degrade_afterStep {s : State} {l : Nat} {y : Link} (h : Renewed (Lnk.get s l) y) {kind : Nat} (small : kind < 256)
    (lane : Option Lane) : let e := degradeWord kind lane (fld y.rate 0 3) (Config.freeWord s.fresh)
    let t := s.degrade l y kind lane
    AfterStep s t l e ∧ t.hub = s.hub ∧ (Lnk.get t l).rate = y.rate ∧ (Lnk.get t l).retired = y.retired ∧ fld e 0 8 = kind := by
  intro e t
  obtain ⟨link, hub, tells⟩ := degrade_tells s l kind lane h.trap
  obtain ⟨step, rate, -⟩ := degradeWord_fields small (fld_lt y.rate 0 3) lane (Config.freeWord s.fresh)
  have link : Lnk.get t l = stepped s l y e := link
  unfold AfterStep
  rw [link]
  refine ⟨⟨congrArg (logEntry · e) h.log, h.flits, h.replay, fun asks still => ?_, rate, tells⟩, hub, rfl, rfl, step⟩
  have asks : bit y.rate 9 = true := asks
  simp [stepped, h.training, still, asks, h.up]

/-- The link as a window's end leaves it: the window begins again. -/
def anew (x : Link) : Link := { x with window := [], winReplay := 0, winFlits := 0 }

theorem anew_renewed {x : Link} (up : x.down = false) (retired : List (Lane × Nat)) (rate : W64) :
    Renewed x { anew x with retired := retired, rate := rate } := ⟨rfl, rfl, rfl, rfl, rfl, up⟩

section
variable {s : State} {l : Nat}

/-- A step with an event: what it leaves, the event, and its link. -/
theorem degrade_event {y : Link} (h : Renewed (Lnk.get s l) y) {kind n : Nat} (small : kind < 256) (few : n < 256)
    (lane : Option Lane) (what : Repaired) : let e := degradeWord kind lane (fld y.rate 0 3) (Config.freeWord s.fresh)
    let t := (s.degrade l y kind lane).healthEvent n what
    AfterStep s t l e ∧ HealthEvent s t n what ∧ (Lnk.get t l).rate = y.rate ∧ (Lnk.get t l).retired = y.retired ∧ fld e 0 8 = kind := by
  intro e t
  obtain ⟨after, hub, rate, retired, step⟩ := degrade_afterStep h small lane
  obtain ⟨hub', m, whole, -⟩ := (s.degrade l y kind lane).healthEvent_within n what
  have link : Lnk.get t l = Lnk.get (s.degrade l y kind lane) l := (congrArg (Lnk.get · l) whole).trans rfl
  rw [link]
  exact ⟨after.healthEvent hub n what, .of_event few what (by rw [hub]) (by rw [hub]), rate, retired, step⟩

/-- A link whose window ended over budget. -/
structure Exceeds (s : State) (l : Nat) : Prop where
  die : l < 18
  up : (Lnk.get s l).down = false
  ended : 2 ^ fld (Lnk.get s l).budget 16 5 ≤ (Lnk.get s l).winFlits
  replays : fld (Lnk.get s l).budget 0 16 < (Lnk.get s l).winReplay

/-- The lane that a link retires at a window's end, if one is to go and the link may retire lanes. -/
def laneOut (x : Link) : Option Lane := if bit x.budget 24 then none else x.worst

theorem laneOut_some {x : Link} {v : Lane} : laneOut x = some v ↔ bit x.budget 24 = false ∧ x.worst = some v := by
  unfold laneOut
  cases bit x.budget 24 <;> simp

theorem laneOut_none {x : Link} : laneOut x = none ↔ bit x.budget 24 = true ∨ x.worst = none := by
  unfold laneOut
  cases bit x.budget 24 <;> simp

/-- The link with a lane fewer, at a rate code less. -/
def laneLess (x : Link) (v : Lane) : Link :=
  { anew x with retired := (v, 64 + Lnk.used x v.mod v.dir) :: x.retired, rate := x.rate ||| 0x200 }
def rateLess (x : Link) : Link :=
  { anew x with rate := setFld (setFld x.rate 0 3 (fld x.rate 0 3 - 1)) 4 3 (fld x.rate 0 3 - 1) ||| 0x200 }

/-- The step of a link over budget. -/
theorem windowEnd_over (h : Exceeds s l) : let x := Lnk.get s l
    exec (.linkWindowEnd l) s = .next (match laneOut x with
      | some v => (s.degrade l (laneLess x v) 1 (some v)).healthEvent 6 (.lane l v.mod v.dir v.lane)
      | none =>
        if 0 < fld x.rate 0 3 then
          if fld x.rate 0 3 - 1 < 2 then (s.degrade l (rateLess x) 2 none).healthEvent 7 (.link l)
          else s.degrade l (rateLess x) 2 none
        else (s.degrade l (anew x) 3 none).healthEvent 8 (.link l)) := by
  obtain ⟨die, up, ended, replays⟩ := h
  have turn : ¬ (18 ≤ l ∨ (Lnk.get s l).down = true ∨ (Lnk.get s l).winFlits < 2 ^ fld (Lnk.get s l).budget 16 5) := by
    rw [up]
    simp only [Bool.false_eq_true, false_or, not_or]
    omega
  exact congrArg Host.Outcome.next ((if_neg turn).trans (if_neg (Nat.not_le.mpr replays)))

/-- A lane goes to a spare. -/
theorem windowEnd_lane (h : Exceeds s l) {v : Lane} (goes : laneOut (Lnk.get s l) = some v) :
    ∃ t e, exec (.linkWindowEnd l) s = .next t ∧ AfterStep s t l e ∧ HealthEvent s t 6 (.lane l v.mod v.dir v.lane) ∧
      bit (Lnk.get t l).rate 9 = true ∧ (Lnk.get t l).retired.map (·.1) = v :: (Lnk.get s l).retired.map (·.1) ∧
      fld e 0 8 = 1 ∧ fld e 8 4 = v.mod % 16 ∧ fld e 12 7 = v.lane % 128 ∧ bit e 19 = v.dir := by
  have step := windowEnd_over h
  dsimp only at step
  rw [goes] at step
  have renewed : Renewed (Lnk.get s l) (laneLess (Lnk.get s l) v) := anew_renewed h.up _ _
  obtain ⟨after, event, rate, retired, kind⟩ := degrade_event renewed (kind := 1) (n := 6) (by decide) (by decide) (some v)
    (.lane l v.mod v.dir v.lane)
  obtain ⟨-, -, fields⟩ := degradeWord_fields (kind := 1) (by decide) (fld_lt (laneLess (Lnk.get s l) v).rate 0 3) (some v)
    (Config.freeWord s.fresh)
  refine ⟨_, _, step, after, event, ?_, by rw [retired]; rfl, kind, fields v rfl⟩
  rw [rate]
  exact (bit_asked _ 9).trans (by simp)

theorem rateLess_fields (x : Link) : let r := fld x.rate 0 3 - 1
    fld (rateLess x).rate 0 3 = r ∧ fld (rateLess x).rate 4 3 = r ∧ bit (rateLess x).rate 9 = true := by
  have low := fld_lt x.rate 0 3
  unfold rateLess
  dsimp only
  refine ⟨?_, ?_, (bit_asked _ 9).trans (by simp)⟩
  · rw [fld_asked _ (by decide), fld_setFld_other (by decide) _ _ (by decide), fld_setFld_same (by decide)]
    omega
  · rw [fld_asked _ (by decide), fld_setFld_same (by decide)]
    omega

/-- A rate code less. -/
theorem windowEnd_rate (h : Exceeds s l) (stays : laneOut (Lnk.get s l) = none) (top : 0 < fld (Lnk.get s l).rate 0 3) :
    ∃ t e, exec (.linkWindowEnd l) s = .next t ∧ AfterStep s t l e ∧ fld e 0 8 = 2 ∧
      (Lnk.get t l).rate = (rateLess (Lnk.get s l)).rate ∧
      (fld (Lnk.get s l).rate 0 3 - 1 < 2 → HealthEvent s t 7 (.link l)) ∧
      (2 ≤ fld (Lnk.get s l).rate 0 3 - 1 → t.hub = s.hub) := by
  have step := windowEnd_over h
  dsimp only at step
  rw [stays] at step
  dsimp only at step
  rw [if_pos top] at step
  have renewed : Renewed (Lnk.get s l) (rateLess (Lnk.get s l)) := anew_renewed h.up _ _
  by_cases slow : fld (Lnk.get s l).rate 0 3 - 1 < 2
  · rw [if_pos slow] at step
    obtain ⟨after, event, rate, -, kind⟩ := degrade_event renewed (kind := 2) (n := 7) (by decide) (by decide) none (.link l)
    exact ⟨_, _, step, after, kind, rate, fun _ => event, fun fast => absurd slow (Nat.not_lt.mpr fast)⟩
  · rw [if_neg slow] at step
    obtain ⟨after, hub, rate, -, kind⟩ := degrade_afterStep renewed (kind := 2) (by decide) none
    exact ⟨_, _, step, after, kind, rate, fun low => absurd low slow, fun _ => hub⟩

/-- A link that cannot meet its budget. -/
theorem windowEnd_stuck (h : Exceeds s l) (stays : laneOut (Lnk.get s l) = none) (bottom : fld (Lnk.get s l).rate 0 3 = 0) :
    ∃ t e, exec (.linkWindowEnd l) s = .next t ∧ AfterStep s t l e ∧ fld e 0 8 = 3 ∧
      (Lnk.get t l).rate = (Lnk.get s l).rate ∧ HealthEvent s t 8 (.link l) := by
  have step := windowEnd_over h
  dsimp only at step
  rw [stays] at step
  dsimp only at step
  rw [if_neg (by omega)] at step
  have renewed : Renewed (Lnk.get s l) (anew (Lnk.get s l)) := anew_renewed h.up _ _
  obtain ⟨after, event, rate, -, kind⟩ := degrade_event renewed (kind := 3) (n := 8) (by decide) (by decide) none (.link l)
  exact ⟨_, _, step, after, kind, rate, event⟩

end

/-- A link that came up, at its target. -/
def trained (x : Link) : Link := { x with rate := setFld (setFld x.rate 9 1 0) 0 3 (fld x.rate 4 3), training := false }

/-- One that cannot train. -/
def untrained (x : Link) : Link :=
  { x with rate := setFld (setFld (setFld x.rate 9 1 0) 0 3 0) 4 3 0, training := false, down := true }

theorem trained_fields (x : Link) : bit (trained x).rate 9 = false ∧ fld (trained x).rate 0 3 = fld x.rate 4 3 := by
  have low := fld_lt x.rate 4 3
  unfold trained
  dsimp only
  refine ⟨?_, ?_⟩
  · rw [bit_setFld_other (by decide) _ _ (by decide), bit_setFld_one (by decide)]
    rfl
  · rw [fld_setFld_same (by decide)]
    exact Nat.mod_eq_of_lt low

theorem untrained_fields (x : Link) : bit (untrained x).rate 9 = false ∧ fld (untrained x).rate 0 3 = 0 := by
  unfold untrained
  dsimp only
  refine ⟨?_, ?_⟩
  · rw [bit_setFld_other (by decide) _ _ (by decide), bit_setFld_other (by decide) _ _ (by decide), bit_setFld_one (by decide)]
    rfl
  · rw [fld_setFld_other (by decide) _ _ (by decide), fld_setFld_same (by decide)]
    rfl

/-- The end of a retrain. -/
theorem retrainDone_eq (s : State) (l : Nat) (ok : Bool) (die : l < 18) (up : (Lnk.get s l).down = false)
    (training : (Lnk.get s l).training = true) : let x := Lnk.get s l
    exec (.retrainDone l ok) s = .next (if ok then Lnk.put s l (trained x)
      else (s.degrade l (untrained x) 4 none).healthEvent 9 (.link l)) := by
  have turn : ¬ (18 ≤ l ∨ (Lnk.get s l).down = true ∨ (!(Lnk.get s l).training) = true) := by
    rw [up, training]
    simp only [Bool.false_eq_true, Bool.not_true, or_false]
    omega
  exact congrArg Host.Outcome.next (if_neg turn)

theorem linksDegrade : LinksDegrade := by
  refine ⟨fun s l die => ?_, fun s l die idle => ?_, fun s l ok die => ?_⟩
  · intro x up ended
    refine ⟨fun fits => ?_, fun replays => ?_⟩
    · have turn : ¬ (18 ≤ l ∨ x.down = true ∨ x.winFlits < 2 ^ fld x.budget 16 5) := by
        rw [up]
        simp only [Bool.false_eq_true, false_or, not_or]
        omega
      exact congrArg Host.Outcome.next ((if_neg turn).trans (if_pos fits))
    · have exceeds : Exceeds s l := ⟨die, up, ended, replays⟩
      cases goes : laneOut x with
      | some v =>
        obtain ⟨t, e, step, ⟨log, flits, replay, training, current, tells⟩, event, asks, retired, kind, mod, lane, dir⟩ :=
          windowEnd_lane exceeds goes
        have no : ¬ (bit x.budget 24 = true ∨ x.worst = none) := by rw [← laneOut_none, goes]; simp
        refine ⟨t, e, step, log, flits, replay, training, current, tells, fun w out is => ?_, fun h => absurd h no, fun h => absurd h no⟩
        obtain rfl := Option.some.inj (goes.symm.trans (laneOut_some.mpr ⟨out, is⟩))
        exact ⟨kind, mod, lane, dir, asks, retired, event⟩
      | none =>
        have no (v : Lane) (out : bit x.budget 24 = false) (is : x.worst = some v) : False :=
          nomatch goes.symm.trans (laneOut_some.mpr ⟨out, is⟩)
        by_cases top : 0 < fld x.rate 0 3
        · obtain ⟨t, e, step, ⟨log, flits, replay, training, current, tells⟩, kind, rate, event, same⟩ :=
            windowEnd_rate exceeds goes top
          obtain ⟨now, target, asks⟩ := rateLess_fields x
          refine ⟨t, e, step, log, flits, replay, training, current, tells, fun v out is => (no v out is).elim, fun _ _ => ?_,
            fun _ bottom => absurd top (Nat.not_lt.mpr (le_of_eq bottom))⟩
          rw [rate]
          refine ⟨kind, now, target, asks, fun slow => event (now ▸ slow), fun fast => ?_⟩
          have hub := same (now ▸ fast)
          rw [hub]
          exact ⟨rfl, rfl⟩
        · obtain ⟨t, e, step, ⟨log, flits, replay, training, current, tells⟩, kind, rate, event⟩ :=
            windowEnd_stuck exceeds goes (Nat.eq_zero_of_not_pos top)
          exact ⟨t, e, step, log, flits, replay, training, current, tells, fun v out is => (no v out is).elim,
            fun _ top' => absurd top' top, fun _ _ => ⟨kind, rate, event⟩⟩
  · refine congrArg Host.Outcome.next (if_pos ?_)
    rcases idle with h | h
    · exact .inr (.inr h)
    · exact .inr (.inl h)
  · intro x up training
    have step := retrainDone_eq s l ok die up training
    cases ok with
    | true =>
      obtain ⟨asked, rate⟩ := trained_fields x
      refine ⟨_, step, ?_⟩
      dsimp only
      rw [if_pos rfl, Lnk.get_put_same]
      exact ⟨asked, rfl, fun _ => ⟨rate, up, rfl⟩, fun e => Bool.noConfusion e⟩
    | false =>
      obtain ⟨asked, rate⟩ := untrained_fields x
      obtain ⟨link, hub, tells⟩ := degrade_tells s l (x := untrained x) 4 none rfl
      obtain ⟨kind, low, -⟩ := degradeWord_fields (kind := 4) (by decide) (fld_lt (untrained x).rate 0 3) none (Config.freeWord s.fresh)
      obtain ⟨hub', m, whole, -⟩ := (s.degrade l (untrained x) 4 none).healthEvent_within 9 (.link l)
      have same : Lnk.get ((s.degrade l (untrained x) 4 none).healthEvent 9 (.link l)) l = stepped s l (untrained x)
          (degradeWord 4 none (fld (untrained x).rate 0 3) (Config.freeWord s.fresh)) :=
        (congrArg (Lnk.get · l) whole).trans link
      have event : HealthEvent s ((s.degrade l (untrained x) 4 none).healthEvent 9 (.link l)) 9 (.link l) :=
        .of_event (by decide) _ (by rw [hub]) (by rw [hub])
      refine ⟨_, step, ?_⟩
      dsimp only
      rw [if_neg Bool.false_ne_true, same]
      refine ⟨asked, ?_, fun e => Bool.noConfusion e, fun _ =>
        ⟨rfl, _, rfl, kind, low.trans rate, tells.healthEvent hub 9 (.link l), event⟩⟩
      show (false || (bit (untrained x).rate 9 && !true && !s.stoppingOn l)) = false
      rw [asked]
      rfl

end Sys2Proof.Claim
end

section
/-! Peers (O59): a lost peer, and the writes of one. -/

namespace Sys2Proof.Claim
open Sys2Proof.Machine

/-! An arrival leaves memory. -/

section
variable (s : State) (m : Message)

theorem acceptAs_mem (p : Pending) : (s.acceptAs p).mem = s.mem := by
  have task (c : Nat) : (s.acceptTask c p.msg).mem = s.mem := by
    unfold State.acceptTask
    split <;> rfl
  exact (State.modCore_mem _ _ _).trans ((State.modCore_mem _ _ _).trans (task _))

theorem dropKey_mem (a : Asid) (k : Option TaskKey) : (s.dropKey a k).mem = s.mem := by
  obtain ⟨l, e⟩ := dropKey_eq s a k
  rw [e]

theorem nack_mem (cause : BitVec 4) : (s.nack m cause).mem = s.mem := by
  obtain ⟨l, e⟩ := nack_eq s m cause
  rw [e]

theorem countDropped_mem (st : Stamp) (n : Nat) : (s.countDropped st n).mem = s.mem := by
  unfold State.countDropped
  split <;> rfl

theorem countExit_mem (a : Asid) : (s.countExit a).mem = s.mem := by
  unfold State.countExit
  split <;> rfl

theorem dropExited_mem : (s.dropExited m).mem = s.mem := by
  unfold State.dropExited
  split
  · rfl
  · rw [nack_mem, countExit_mem, dropKey_mem]

theorem dropFull_mem : (s.dropFull m).mem = s.mem := by
  unfold State.dropFull
  rw [nack_mem, dropKey_mem]
  split <;> rfl

theorem parkMessage_mem (byMask : Bool) : (s.parkMessage m byMask).mem = s.mem := by
  unfold State.parkMessage
  dsimp only
  split
  · rfl
  · exact dropFull_mem s m

theorem returnParked_mem (c : Nat) : (s.returnParked c).mem = s.mem := by
  have kept (l : List Pending) (a : State × List Pending) : (l.foldl (returnStep c) a).1.mem = a.1.mem := by
    induction l generalizing a with
    | nil => rfl
    | cons p l ih =>
      refine (ih _).trans ?_
      unfold returnStep
      dsimp only
      split
      · exact acceptAs_mem _ p
      · rfl
  rw [returnParked_eq]
  split
  · rfl
  · exact kept _ (s, [])

theorem arrive_mem (n : Nat) : (s.arrive n).mem = s.mem := by
  have taken (n : Nat) : (s.takeNet n).mem = s.mem := rfl
  unfold State.arrive
  split
  · rfl
  · next m _ =>
    extract_lets c a
    split
    · rfl
    split
    · split
      · rfl
      · rw [countDropped_mem, dropKey_mem, taken]
    split
    · split
      · rfl
      · rw [dropExited_mem, taken]
    split
    · split
      · exact acceptAs_mem _ _
      · rfl
    split
    · rw [parkMessage_mem, taken]
    rename_i u _ _ _ _ _
    have read : u.mem = s.mem := ((s.returnParked c).readEntry_counted c a m.typ.toNat).mem.trans (returnParked_mem s c)
    have took : (u.takeNet n).mem = s.mem := read
    split
    · split
      · rw [parkMessage_mem, took]
      · split
        · exact (acceptAs_mem _ _).trans took
        · exact read
    · split
      · exact read
      · exact (acceptAs_mem _ _).trans took

end

/-! A peer that is lost. -/

/-- Lengths added up are the length of the lists together. -/
theorem foldl_length {α β : Type} (f : α → List β) (l : List α) (n : Nat) :
    l.foldl (fun a x => a + (f x).length) n = n + (l.flatMap f).length := by
  induction l generalizing n with
  | nil => rfl
  | cons x l ih => rw [List.foldl_cons, ih, List.flatMap_cons, List.length_append, Nat.add_assoc]

/-- A slot, and a core, without its writes to a peer. -/
def withoutPeer (p : Nat) (x : Slot) : Slot := { x with ext := x.ext.filter (fun v => !ofPeer p v.key) }
def coreWithoutPeer (p : Nat) (k : Core) : Core := { k with slots := k.slots.map (fun q => (q.1, withoutPeer p q.2)) }

/-- The writes to a peer that the slots still hold. -/
def writesTo (s : State) (p : Nat) : List ExtWrite :=
  s.cores.flatMap (fun k => k.2.slots.flatMap (fun x => x.2.ext.filter (fun v => ofPeer p v.key)))

/-- The port that counts what is lost to a peer. -/
def peerPort (p : Nat) : Nat := Config.portOf p % 12

/-- The state without the writes to a peer, which its port counts. -/
def forgotten (s : State) (p : Nat) : State :=
  let x := s.ports.get (peerPort p) Port.init
  { s with
    ports := s.ports.put (peerPort p) { x with dropped := x.dropped + BitVec.ofNat 64 (writesTo s p).length }
    fresh := s.fresh + 1
    unreachable := s.unreachable ++ [p]
    cores := s.cores.map (fun k => (k.1, coreWithoutPeer p k.2)) }

theorem forgotten_ext (s : State) (p c i : Nat) :
    ((forgotten s p).slot c i).ext = (s.slot c i).ext.filter (fun v => !ofPeer p v.key) := by
  have core : (forgotten s p).core c = coreWithoutPeer p (s.core c) := State.core_mapCores (f := coreWithoutPeer p) rfl s c
  have slot : (coreWithoutPeer p (s.core c)).slot i = withoutPeer p ((s.core c).slot i) :=
    Core.slot_mapSlots (f := withoutPeer p) rfl (s.core c) i
  exact congrArg Slot.ext ((congrArg (Core.slot · i) core).trans slot)

/-- A peer is lost: its writes go, and an interrupt tells the host. -/
theorem peerUnreachable_eq {s : State} {p : Nat} (is : p < 4096) (reached : p ∉ s.unreachable) :
    ∃ n, exec (.peerUnreachable p) s = .next ((forgotten s p).interrupt n) := by
  have lost : s.cores.foldl (fun a k => k.2.slots.foldl (fun a x => a + (x.2.ext.filter (fun v => ofPeer p v.key)).length) a) 0 =
      (writesTo s p).length := by
    simp only [foldl_length, Nat.zero_add]
    rfl
  have turn : ¬ (4096 ≤ p ∨ s.unreachable.contains p = true) := by simpa [is] using reached
  refine ⟨finOf 4 (Config.freeWord s.fresh).toNat (by decide), congrArg Host.Outcome.next ((if_neg turn).trans ?_)⟩
  rw [lost]
  rfl

/-- The message of a peer's write into a TCM. -/
def peerMessage (s : State) (c : CoreId) (off : Nat) (typ : Option (BitVec 8)) (asid : Asid) (lpri : BitVec 3) (group : BitVec 8)
    (lseq : BitVec 48) (node tx ty tz : BitVec 16) (n : Nat) : Message :=
  Message.plain c (typ.getD 0xF9) (s.peerStamp asid lpri group lseq node tx ty tz) [BitVec.ofNat 64 off, BitVec.ofNat 64 n]

theorem peerStamp_asid (s : State) (asid : Asid) (lpri : BitVec 3) (group : BitVec 8) (lseq : BitVec 48) (node tx ty tz : BitVec 16) :
    (s.peerStamp asid lpri group lseq node tx ty tz).asid = asid := by
  unfold State.peerStamp
  split <;> rfl

theorem peersWrite : PeersWrite := by
  refine ⟨fun s p is reached => ?_, fun s pa l wf device => ?_, fun s c off typ asid lpri group lseq node tx ty tz l wf there fits => ?_⟩
  · obtain ⟨n, step⟩ := peerUnreachable_eq is reached
    obtain ⟨m, e⟩ := (forgotten s p).interrupt_eq n
    rw [step, e]
    refine ⟨_, rfl, rfl, ⟨peerPort p, Nat.mod_lt _ (by decide), ?_, fun k other => Tab.get_put_other _ _ _ other⟩, forgotten_ext s p⟩
    exact congrArg Port.dropped (Tab.get_put_same _ _ _ _)
  · have all : (List.range l.length).all (fun i => (isHbm (pa + i) || isSram (pa + i) || isScratch (pa + i)) &&
        s.populated (pa + i) && !s.hubCutAt (pa + i)) = true := by
      refine List.all_eq_true.mpr fun i mem => ?_
      obtain ⟨here, serves, reached⟩ := device i (List.mem_range.mp mem)
      simp [here, serves, reached]
    have step : exec (.peerWrite (.mem pa) l) s = .next (s.commitBytes pa l) := congrArg Host.Outcome.next (if_pos all)
    exact ⟨_, step, read_written wf (s.commitBytes_rewrites pa l).mem⟩
  · refine ⟨fun cut => congrArg Host.Outcome.next (if_neg (by simp [cut])), fun reached => ?_⟩
    let u := s.commitBytes (tcmKey c.toNat off) l
    let m := peerMessage u c off typ asid lpri group lseq node tx ty tz l.length
    have step : exec (.peerWrite (.tcm c off typ asid lpri group lseq node tx ty tz) l) s = .next (u.written m) :=
      congrArg Host.Outcome.next (if_pos (by simp [there, fits, reached]))
    have written : Rewrites s u (Memory.writeAll s.mem (tcmKey c.toNat off) l) := s.commitBytes_rewrites _ l
    have mem : (u.written m).mem = Memory.writeAll s.mem (tcmKey c.toNat off) l := (arrive_mem _ _).trans written.mem
    obtain ⟨_, _, _, _, -, within⟩ := written
    refine ⟨_, step, (read_written wf mem).1, m, ⟨{ u with net := u.net ++ [{ m with fromSlot := writtenMark }] }, ?_, within.parked,
      within.inbox, ?_⟩, rfl, rfl, peerStamp_asid u asid lpri group lseq node tx ty tz, rfl⟩
    · exact congrArg (· ++ _) within.net
    · have length : s.net.length = u.net.length := congrArg List.length within.net.symm
      rw [length]
      rfl

end Sys2Proof.Claim
end

section
/-! Repair at a quiesce (O59): rows and cores. -/

namespace Sys2Proof.Claim
open Sys2Proof.Machine

/-- An event depends on the hub alone. -/
theorem HealthEvent.of_hub {s t u : State} {kind : Nat} {what : Repaired} (h : HealthEvent s t kind what) (hub : u.hub = t.hub) :
    HealthEvent s u kind what := by
  unfold HealthEvent at *
  rw [hub]
  exact h

theorem HealthEvent.from_hub {s t u : State} {kind : Nat} {what : Repaired} (h : HealthEvent s t kind what) (hub : s.hub = u.hub) :
    HealthEvent u t kind what := by
  unfold HealthEvent at *
  rw [← hub]
  exact h

/-! Rows. -/

theorem spareRows_useSpare (p : Capacity) (b : Bank) : (p.useSpare b).spareRows b = p.spareRows b + 1 := by
  unfold Capacity.useSpare
  generalize p.spareRows b + 1 = n
  simp [Capacity.spareRows]

/-- A scheduled row goes to a spare. -/
theorem repairRow_spare {s : State} {row : Row} (due : row ∈ s.capacity.scheduled) (open_ : row ∉ s.capacity.noSpare)
    (free : s.capacity.spareRows row.bank < 8) : let t := s.repairRow row
    row ∉ t.capacity.scheduled ∧ t.capacity.spareRows row.bank = s.capacity.spareRows row.bank + 1 ∧
      HealthEvent s t 1 (.row row) := by
  let p : Capacity := { s.capacity.useSpare row.bank with
    scheduled := s.capacity.scheduled.filter (· != row), sramRows := s.capacity.sramRows.filter (fun e => e.1 != row) }
  have turn : ¬ (!s.capacity.scheduled.contains row || s.capacity.noSpare.contains row) = true := by simp [due, open_]
  have whole : s.repairRow row = State.healthEvent { s with capacity := p } 1 (.row row) := (if_neg turn).trans (if_pos free)
  have event : HealthEvent s (State.healthEvent { s with capacity := p } 1 (.row row)) 1 (.row row) :=
    .of_event (by decide) _ rfl rfl
  obtain ⟨h, m, e, -⟩ := State.healthEvent_within { s with capacity := p } 1 (.row row)
  dsimp only
  rw [whole]
  refine ⟨?_, ?_, event⟩
  · rw [e]
    simp [p]
  · rw [e]
    exact spareRows_useSpare s.capacity row.bank

theorem failTcm_leaves (s : State) (b : Bank) : (s.failTcm b).hub = s.hub ∧ (s.failTcm b).capacity = s.capacity ∧
    ∀ c k, b = .tcm c k → ((s.failTcm b).core c).failing = true := by
  unfold State.failTcm
  cases b with
  | tcm c k =>
    refine ⟨rfl, rfl, fun d j e => ?_⟩
    cases e
    dsimp only
    rw [State.core_modCore_same]
  | scratch cl k => exact ⟨rfl, rfl, fun _ _ e => nomatch e⟩
  | sram d sl k => exact ⟨rfl, rfl, fun _ _ e => nomatch e⟩

/-- One that finds no spare stays in service. -/
theorem repairRow_full {s : State} {row : Row} (due : row ∈ s.capacity.scheduled) (open_ : row ∉ s.capacity.noSpare)
    (full : 8 ≤ s.capacity.spareRows row.bank) : let t := s.repairRow row
    row ∈ t.capacity.noSpare ∧ row ∈ t.capacity.scheduled ∧ HealthEvent s t 2 (.row row) ∧
      ∀ c b, row.bank = .tcm c b → (t.core c).failing = true := by
  let u := State.healthEvent { s with capacity := { s.capacity with noSpare := row :: s.capacity.noSpare } } 2 (.row row)
  have turn : ¬ (!s.capacity.scheduled.contains row || s.capacity.noSpare.contains row) = true := by simp [due, open_]
  have whole : s.repairRow row = u.failTcm row.bank := (if_neg turn).trans (if_neg (Nat.not_lt.mpr full))
  have event : HealthEvent s u 2 (.row row) := .of_event (by decide) _ rfl rfl
  obtain ⟨h, m, e, -⟩ := State.healthEvent_within { s with capacity := { s.capacity with noSpare := row :: s.capacity.noSpare } } 2
    (.row row)
  have capacity : u.capacity = { s.capacity with noSpare := row :: s.capacity.noSpare } := (congrArg State.capacity e).trans rfl
  obtain ⟨hub, same, failing⟩ := failTcm_leaves u row.bank
  dsimp only
  rw [whole]
  refine ⟨?_, ?_, event.of_hub hub, failing⟩
  · rw [same, capacity]
    exact List.mem_cons_self
  · rw [same, capacity]
    exact due

/-! Cores. -/

theorem not_isBank_of_isCompute {c : Nat} (h : Id.isCompute c = true) : Id.isBank c = false := by
  simp only [Id.isCompute, Bool.and_eq_true, beq_iff_eq] at h
  simp [Id.isBank, h.1.1]

/-- A failing core goes to a spare of its cluster. -/
theorem retireCore_spare {s : State} {c : Nat} (compute : Id.isCompute c = true) (there : s.provided c = true)
    (free : s.capacity.spares.get (Id.clusterNo c) 0 < 2) : ∃ p h,
      s.retireCore c = State.healthEvent { s with capacity := p, hub := h } 3 (.core c) ∧
      p.lostCores = s.capacity.lostCores ∧ p.lostBankCores = s.capacity.lostBankCores ∧ p.gen = s.capacity.gen ∧
      p.spares.get (Id.clusterNo c) 0 = s.capacity.spares.get (Id.clusterNo c) 0 + 1 ∧
      fld h.health 16 16 = fld s.hub.health 16 16 ∧ h.repairLog = s.hub.repairLog := by
  have whole : s.retireCore c = s.retireCompute c := by
    unfold State.retireCore
    rw [there, compute]
    rfl
  refine ⟨_, _, whole.trans (if_pos free), rfl, rfl, rfl, Tab.get_put_same _ _ _ _, ?_, rfl⟩
  exact fld_setFld_other (by decide) _ _ (by decide)

theorem repairCore_spare {s : State} {c : Nat} (compute : Id.isCompute c = true) (failing : (s.core c).failing = true)
    (there : s.provided c = true) (free : s.capacity.spares.get (Id.clusterNo c) 0 < 2) : let t := s.repairCore c
    t.provided c = true ∧ (t.core c).failing = false ∧
      t.capacity.spares.get (Id.clusterNo c) 0 = s.capacity.spares.get (Id.clusterNo c) 0 + 1 ∧
      t.capacity.gen = s.capacity.gen + 1 ∧ HealthEvent s t 3 (.core c) ∧
      (Memory.wf s.mem = true → ∀ a, isExt a = false → Memory.read t.mem a = Memory.read s.mem a) := by
  obtain ⟨p, h, retired, cores, banks, gen, spares, events, log⟩ := retireCore_spare compute there free
  let u := State.healthEvent { s with capacity := p, hub := h } 3 (.core c)
  obtain ⟨h', m, e, -⟩ := State.healthEvent_within { s with capacity := p, hub := h } 3 (.core c)
  have capacity : u.capacity = p := (congrArg State.capacity e).trans rfl
  have stays : u.provided c = true := by
    rw [← there]
    unfold State.provided
    rw [capacity, cores, banks]
  have turn : ¬ (!s.coreFails c || !s.provided c) = true := by simp [State.coreFails, failing, there]
  have whole : s.repairCore c = (u.modCore c (fun y => { y with failing := false, consumed := 0 })).rewriteMap := by
    refine (if_neg turn).trans ?_
    dsimp only
    rw [retired]
    exact if_pos stays
  have event : HealthEvent s u 3 (.core c) := .of_event (by decide) _ events log
  dsimp only
  rw [whole]
  refine ⟨stays, ?_, ?_, ?_, event.of_hub rfl, fun wf a device => ?_⟩
  · exact congrArg Core.failing (State.core_modCore_same u c (fun y => { y with failing := false, consumed := 0 }))
  · rw [← spares, ← capacity]
    rfl
  · rw [← gen, ← capacity]
    rfl
  · exact State.healthEvent_device { s with capacity := p, hub := h } 3 (.core c) wf device

/-! Cores that no spare replaces. -/

/-- A table looked up after a change of its values. -/
theorem get_map {α : Type} (f : α → α) {d : α} (hf : f d = d) (l : Tab α) (i : Nat) :
    Tab.get (l.map (fun p => (p.1, f p.2))) i d = f (Tab.get l i d) := by
  unfold Tab.get
  rw [Alike.find_map]
  cases Tab.find l i with
  | none => exact hf.symm
  | some x => rfl

/-- What the loss of contexts keeps: the hub, the capacity, the kills, and the cores of the contexts saved with a graph. -/
def lossView (s : State) (g : Nat) : Hub × Capacity × List Kill × List Nat :=
  (s.hub, s.capacity, s.kills, (s.graph g).saved.map (·.core))

theorem lossView_modRegsOf (s : State) (c i : Nat) (a : Asid) (f : Regs → Regs) (g : Nat) : lossView (s.modRegsOf c i a f) g = lossView s g := by
  let edit (v : Saved) : Saved := if v.core = c ∧ v.slot = i ∧ v.act.stamp.asid = a then { v with regs := f v.regs } else v
  have same (v : Saved) : (edit v).core = v.core := by
    show (if _ then _ else _ : Saved).core = _
    split <;> rfl
  have within : Within s (s.modRegsOf c i a f) := (Within.refl s).modRegsOf
  have graphs : (s.modRegsOf c i a f).graphs = s.graphs.map (fun p => (p.1, { p.2 with saved := p.2.saved.map edit })) := by
    unfold State.modRegsOf
    dsimp only
    split <;> rfl
  have graph : ((s.modRegsOf c i a f).graph g).saved = (s.graph g).saved.map edit := by
    unfold State.graph
    rw [graphs]
    exact congrArg Graph.saved (get_map (fun y : Graph => { y with saved := y.saved.map edit }) (d := Graph.absent) rfl s.graphs g)
  have cores : ((s.graph g).saved.map edit).map (·.core) = (s.graph g).saved.map (·.core) := by
    rw [List.map_map]
    exact List.map_congr_left fun v _ => same v
  have capacity : (s.modRegsOf c i a f).capacity = s.capacity := (congrArg State.capacity within.shell :)
  unfold lossView
  rw [graph, cores, within.hub, within.kills, capacity]

theorem lossView_closeEnds (s : State) (c i : Nat) (a : Asid) (r : Regs) (g : Nat) :
    lossView (s.closeEnds c i a r) g = lossView s g :=
  foldl_keeps (fun s p => s.closeEnd c i a p) (lossView · g)
    (fun s p => lossView_modRegsOf s c p.1 a (fun r => r.closeBack i p.2.1 p.2.2.1) g) r.partners s

theorem lossView_dropKey (s : State) (a : Asid) (k : Option TaskKey) (g : Nat) : lossView (s.dropKey a k) g = lossView s g := by
  obtain ⟨l, e⟩ := dropKey_eq s a k
  rw [e]
  rfl

theorem lossView_settlePre (s : State) (a : Asid) (g : Nat) : lossView (s.settlePre a) g = lossView s g := by
  have rest : ∃ l, s.settlePre a = { s with graphs := l } := by
    unfold State.settlePre
    split
    · exact s.setPre_eq a .none
    · exact ⟨s.graphs, rfl⟩
  obtain ⟨l, e⟩ := rest
  unfold lossView
  rw [settlePre_saved]
  rw [e]

/-- A saved context goes, as an activation ends. -/
def dropContext (s : State) (v : Saved) : State :=
  ((s.dropKey v.act.stamp.asid (v.act.task.map (·.key))).closeEnds v.core v.slot v.act.stamp.asid v.regs).dropRequests v.act.id

/-- The contexts of a core are dropped. -/
theorem lossView_dropSaved (s : State) (hit : Saved → Bool) (g : Nat) : lossView (s.dropSaved hit) g =
    (s.hub, s.capacity, s.kills, ((s.graph g).saved.filter (fun v => !hit v)).map (·.core)) := by
  let drop (y : Graph) : Graph := { y with
    saved := y.saved.filter (fun v => !hit v)
    ended := satAdd y.ended (y.saved.filter hit).length (2 ^ 32 - 1) }
  let u : State := { s with graphs := s.graphs.map (fun p => (p.1, drop p.2)) }
  have graph : (u.graph g).saved = (s.graph g).saved.filter (fun v => !hit v) :=
    congrArg Graph.saved (get_map drop (d := Graph.absent) rfl s.graphs g)
  have start : lossView u g = (s.hub, s.capacity, s.kills, ((s.graph g).saved.filter (fun v => !hit v)).map (·.core)) := by
    rw [← graph]
    rfl
  have ended (t : State) (v : Saved) : lossView (dropContext t v) g = lossView t g :=
    (lossView_closeEnds (t.dropKey v.act.stamp.asid (v.act.task.map TaskInfo.key)) v.core v.slot v.act.stamp.asid v.regs g).trans
      (lossView_dropKey t _ _ g)
  have all := foldl_keeps dropContext (lossView · g) ended (s.graphs.flatMap (fun p => p.2.saved.filter hit)) u
  have settled (t : State) : lossView t.settleResumes g = lossView t g :=
    foldl_keeps (fun t (p : Nat × Graph) => t.settlePre p.2.asid) (lossView · g) (fun t p => lossView_settlePre t p.2.asid g) _ t
  rw [← start]
  unfold State.dropSaved
  dsimp only
  split
  · exact all
  · exact (settled _).trans all

/-- An element of a list is among its elements once each. -/
theorem mem_once {α : Type} [BEq α] [LawfulBEq α] {l : List α} {x : α} (h : x ∈ l) : x ∈ once l := by
  have kept (r a : List α) (x : α) (m : x ∈ a ∨ x ∈ r) : x ∈ r.foldl (fun a x => if a.contains x then a else a ++ [x]) a := by
    induction r generalizing a with
    | nil => simpa using m
    | cons y r ih =>
      refine ih _ ?_
      rcases m with m | m
      · left
        dsimp only
        split <;> simp [m]
      · rcases List.mem_cons.mp m with rfl | m
        · left
          dsimp only
          split
          · next h => exact List.contains_iff_mem.mp h
          · simp
        · exact .inr m
  exact kept l [] x (.inr h)

/-- The kill of a group by the hardware itself. -/
def groupKill (e : Asid × BitVec 8) : Kill := { core := 0, slot := 8, asid := e.1, group := e.2, side := .none, reached := [] }

theorem foldl_killGroup (l : List (Asid × BitVec 8)) (s : State) :
    l.foldl (fun s e => s.killGroup e.1 e.2) s = { s with kills := s.kills ++ l.map groupKill } := by
  induction l generalizing s with
  | nil => simp
  | cons e l ih =>
    rw [List.foldl_cons, ih]
    simp [State.killGroup, groupKill]

/-- A core's saved contexts go, and their groups are killed. -/
theorem loseContexts_leaves (s : State) (c : Nat) : let t := s.loseContexts c
    t.hub = s.hub ∧ t.capacity = s.capacity ∧ (∀ g, ∀ v ∈ (t.graph g).saved, v.core ≠ c) ∧
      ∀ g, ∀ v ∈ (s.graph g).saved, v.core = c →
        ∃ k ∈ t.kills, k.asid = v.act.stamp.asid ∧ k.group = v.act.stamp.group ∧ k.side = .none := by
  let here (v : Saved) : Bool := v.core == c
  let groups := once (s.graphs.flatMap (fun g => (g.2.saved.filter here).map (fun v => (v.act.stamp.asid, v.act.stamp.group))))
  have whole : s.loseContexts c = { s.dropSaved here with kills := (s.dropSaved here).kills ++ groups.map groupKill } :=
    foldl_killGroup groups (s.dropSaved here)
  have hub : (s.dropSaved here).hub = s.hub := congrArg (·.1) (lossView_dropSaved s here 0)
  have capacity : (s.dropSaved here).capacity = s.capacity := congrArg (·.2.1) (lossView_dropSaved s here 0)
  have left (g : Nat) : ((s.dropSaved here).graph g).saved.map (·.core) = ((s.graph g).saved.filter (fun v => !here v)).map (·.core) :=
    congrArg (·.2.2.2) (lossView_dropSaved s here g)
  dsimp only
  rw [whole]
  refine ⟨hub, capacity, fun g v mem => ?_, fun g v mem is => ?_⟩
  · have core : v.core ∈ ((s.graph g).saved.filter (fun v => !here v)).map (·.core) := by
      rw [← left g]
      exact List.mem_map_of_mem mem
    obtain ⟨w, stays, same⟩ := List.mem_map.mp core
    rw [← same]
    simpa [here] using (List.mem_filter.mp stays).2
  · cases found : Tab.find s.graphs g with
    | none =>
      have absent : s.graph g = Graph.absent := by rw [State.graph, Tab.get, found]; rfl
      rw [absent] at mem
      exact nomatch mem
    | some y =>
      have graph : s.graph g = y := by rw [State.graph, Tab.get, found]; rfl
      rw [graph] at mem
      refine ⟨groupKill (v.act.stamp.asid, v.act.stamp.group), List.mem_append_right _ (List.mem_map_of_mem (mem_once ?_)), rfl, rfl, rfl⟩
      exact List.mem_flatMap.mpr ⟨(g, y), Tab.mem_of_find found, List.mem_map_of_mem (List.mem_filter.mpr ⟨mem, by simp [here, is]⟩)⟩

/-- A core that no spare replaces is no longer provided. -/
theorem retireCore_lost {s : State} {c : Nat} (there : s.provided c = true)
    (none_ : Id.isCompute c = true → 2 ≤ s.capacity.spares.get (Id.clusterNo c) 0) : ∃ p,
    s.retireCore c = State.healthEvent { s with capacity := p } 4 (.core c) ∧ p.gen = s.capacity.gen ∧
      ∀ t : State, t.capacity.lostCores = p.lostCores → t.capacity.lostBankCores = p.lostBankCores → t.provided c = false := by
  have added (l : List Nat) : (addCore l c).contains c = true := by
    unfold addCore
    split
    · assumption
    · simp
  have start : s.retireCore c = if Id.isCompute c then s.retireCompute c else s.retireBank c := if_neg (by simp [there])
  cases compute : Id.isCompute c with
  | true =>
    have full : ¬ s.capacity.spares.get (Id.clusterNo c) 0 < 2 := Nat.not_lt.mpr (none_ compute)
    refine ⟨{ s.capacity with lostCores := addCore s.capacity.lostCores c }, ?_, rfl, fun t cores _ => ?_⟩
    · exact start.trans ((if_pos compute).trans (if_neg full))
    · simp [State.provided, cores, not_isBank_of_isCompute compute, -List.contains_eq_mem, added]
  | false =>
    refine ⟨{ s.capacity with lostBankCores := addCore s.capacity.lostBankCores c }, ?_, rfl, fun t _ banks => ?_⟩
    · exact start.trans (if_neg (by simp [compute]))
    · simp [State.provided, banks, compute, -List.contains_eq_mem, added]

/-- The runtime's check of the tables leaves everything else. -/
theorem markAll_saved (s : State) (g : Nat) : (s.markAll.graph g).saved = (s.graph g).saved := by
  let mark (y : Graph) : Graph := if y.resident then { y with marked := s.tableBeyond y.asid } else y
  have graph : s.markAll.graph g = mark (s.graph g) := get_map mark (d := Graph.absent) rfl s.graphs g
  rw [graph]
  show (if _ then _ else _ : Graph).saved = _
  split <;> rfl

/-- A change of capacity, once the map and the marks show it. -/
theorem remapped_leaves (s : State) : let t := s.rewriteMap.markAll
    t.hub = s.hub ∧ t.kills = s.kills ∧ t.mem = s.mem ∧ t.l2 = s.l2 ∧ t.cores = s.cores ∧
      t.capacity = { s.capacity with gen := s.capacity.gen + 1 } ∧ ∀ g, (t.graph g).saved = (s.graph g).saved :=
  ⟨rfl, rfl, rfl, rfl, rfl, rfl, markAll_saved s.rewriteMap⟩

theorem repairCore_lost {s : State} {c : Nat} (there : s.provided c = true)
    (fails : (s.core c).failing = true ∨ (Id.isBank c = true ∧ (Lnk.get s (6 + Id.stack c)).down = true))
    (none_ : Id.isCompute c = true → 2 ≤ s.capacity.spares.get (Id.clusterNo c) 0) : let t := s.repairCore c
    t.provided c = false ∧ t.capacity.gen = s.capacity.gen + 1 ∧ HealthEvent s t 4 (.core c) ∧
      (∀ g, ∀ v ∈ (t.graph g).saved, v.core ≠ c) ∧
      ∀ g, ∀ v ∈ (s.graph g).saved, v.core = c →
        ∃ k ∈ t.kills, k.asid = v.act.stamp.asid ∧ k.group = v.act.stamp.group ∧ k.side = .none := by
  obtain ⟨p, retired, gen, lost⟩ := retireCore_lost there none_
  let u := State.healthEvent { s with capacity := p } 4 (.core c)
  obtain ⟨h, m, e, -⟩ := State.healthEvent_within { s with capacity := p } 4 (.core c)
  have capacity : u.capacity = p := (congrArg State.capacity e).trans rfl
  have graph (g : Nat) : u.graph g = s.graph g := (congrArg (State.graph · g) e).trans rfl
  have turn : ¬ (!s.coreFails c || !s.provided c) = true := by
    rcases fails with h | ⟨bank, cut⟩
    · simp [State.coreFails, h, there]
    · simp [State.coreFails, State.baseCut, bank, cut, there]
  have whole : s.repairCore c = (u.loseContexts c).rewriteMap.markAll := by
    refine (if_neg turn).trans ?_
    dsimp only
    rw [retired]
    exact if_neg (Bool.eq_false_iff.mp (lost u (by rw [capacity]) (by rw [capacity])))
  have event : HealthEvent s u 4 (.core c) := .of_event (by decide) _ rfl rfl
  obtain ⟨hub, same, gone, killed⟩ := loseContexts_leaves u c
  obtain ⟨hub', kills, -, -, -, map, saved⟩ := remapped_leaves (u.loseContexts c)
  dsimp only
  rw [whole]
  refine ⟨lost _ ?_ ?_, ?_, event.of_hub (hub'.trans hub), fun g v mem => ?_, fun g v mem => ?_⟩
  · rw [map, same, capacity]
  · rw [map, same, capacity]
  · rw [map, same, capacity, gen]
  · rw [saved] at mem
    exact gone g v mem
  · rw [← graph g] at mem
    rw [kills]
    exact killed g v mem

end Sys2Proof.Claim
end

section
/-! Repair at a quiesce (O59): pseudo-channels. -/

namespace Sys2Proof.Claim
open Sys2Proof.Machine

/-! Pages moved in memory. -/

/-- Two pages of n bytes have no byte in common. -/
def PagesApart (n a b : Nat) : Prop := a + n ≤ b ∨ b + n ≤ a

theorem pagesApart_of_aligned {n a b : Nat} (ha : a % n = 0) (hb : b % n = 0) (ne : a ≠ b) : PagesApart n a b := by
  obtain ⟨x, rfl⟩ := Nat.dvd_of_mod_eq_zero ha
  obtain ⟨y, rfl⟩ := Nat.dvd_of_mod_eq_zero hb
  unfold PagesApart
  rcases Nat.lt_or_gt_of_ne (fun e : x = y => ne (congrArg (n * ·) e)) with h | h
  · exact .inl (Nat.mul_le_mul_left n h)
  · exact .inr (Nat.mul_le_mul_left n h)

section
variable {n : Nat}

/-- Memory after moves of n bytes, one after the other. -/
def movedMem (n : Nat) (m : List Host.Cell) (l : List (Nat × Nat)) : List Host.Cell :=
  l.foldl (fun m x => Memory.writeAll m x.2 (Memory.readN m x.1 n)) m

theorem wf_movedMem {m : List Host.Cell} (w : Memory.wf m = true) (l : List (Nat × Nat)) : Memory.wf (movedMem n m l) = true := by
  induction l generalizing m with
  | nil => exact w
  | cons x l ih => exact ih (Memory.wf_writeAll w _ _)

/-- One move: its page, and every other byte. -/
theorem read_move {m : List Host.Cell} (w : Memory.wf m = true) (x : Nat × Nat) :
    let m' := Memory.writeAll m x.2 (Memory.readN m x.1 n)
    (∀ i, i < n → Memory.read m' (x.2 + i) = Memory.read m (x.1 + i)) ∧
      ∀ a, (a < x.2 ∨ x.2 + n ≤ a) → Memory.read m' a = Memory.read m a := by
  refine ⟨fun i h => ?_, fun a out => ?_⟩
  · rw [Memory.read_writeAll_inside w _ (by rw [Memory.length_readN]; exact h), Memory.getElem_readN]
  · exact Memory.read_writeAll_outside w _ (by rw [Memory.length_readN]; exact out)

/-- Moves between pages of which no target is a source or another target. -/
theorem read_movedMem {l : List (Nat × Nat)} (sources : ∀ x ∈ l, ∀ y ∈ l, PagesApart n x.1 y.2)
    (targets : l.Pairwise (fun x y => PagesApart n x.2 y.2)) {m : List Host.Cell} (w : Memory.wf m = true) :
    (∀ x ∈ l, ∀ i, i < n → Memory.read (movedMem n m l) (x.2 + i) = Memory.read m (x.1 + i)) ∧
      ∀ a, (∀ x ∈ l, a < x.2 ∨ x.2 + n ≤ a) → Memory.read (movedMem n m l) a = Memory.read m a := by
  induction l generalizing m with
  | nil => exact ⟨fun _ h => (nomatch h), fun _ _ => rfl⟩
  | cons x l ih =>
    obtain ⟨apart, rest⟩ := List.pairwise_cons.mp targets
    obtain ⟨page, others⟩ := read_move (n := n) w x
    obtain ⟨later, outside⟩ := ih (fun y hy z hz => sources y (List.mem_cons_of_mem _ hy) z (List.mem_cons_of_mem _ hz)) rest
      (Memory.wf_writeAll w x.2 (Memory.readN m x.1 n))
    refine ⟨fun y mem i h => ?_, fun a out => ?_⟩
    · rcases List.mem_cons.mp mem with rfl | mem
      · refine (outside _ fun z hz => ?_).trans (page i h)
        have := apart z hz
        unfold PagesApart at this
        omega
      · refine (later y mem i h).trans (others _ ?_)
        have := sources y (List.mem_cons_of_mem _ mem) x List.mem_cons_self
        unfold PagesApart at this
        omega
    · exact (outside a fun z hz => out z (List.mem_cons_of_mem _ hz)).trans (others a (out x List.mem_cons_self))

end

/-- Memory after edits. -/
def editedMem (m : List Host.Cell) (l : List Placement) : List Host.Cell := l.foldl (fun m p => Memory.writeAll m p.addr p.bytes) m

theorem read_editedMem {l : List Placement} {a : Nat} (out : ∀ p ∈ l, ¬ (p.addr ≤ a ∧ a < p.addr + p.bytes.length))
    {m : List Host.Cell} (w : Memory.wf m = true) :
    Memory.wf (editedMem m l) = true ∧ Memory.read (editedMem m l) a = Memory.read m a := by
  induction l generalizing m with
  | nil => exact ⟨w, rfl⟩
  | cons p l ih =>
    obtain ⟨wf, same⟩ := ih (fun q h => out q (List.mem_cons_of_mem _ h)) (Memory.wf_writeAll w p.addr p.bytes)
    refine ⟨wf, same.trans (Memory.read_writeAll_outside w p.bytes ?_)⟩
    have := out p List.mem_cons_self
    omega

/-! The state after moves and edits. -/

/-- The hub, and what a repair changes of the capacity. -/
def channelView (s : State) : Hub × BitVec 32 × List (Nat × Nat) := (s.hub, s.capacity.gen, s.capacity.lostChannels)

theorem channelView_correctRange (s : State) (k n : Nat) : channelView (s.correctRange k n) = channelView s := by
  have one (s : State) (k : Nat) : channelView (s.correct k) = channelView s := by
    unfold State.correct
    split
    · unfold channelView
      dsimp only
      split <;> rfl
    · rfl
  unfold State.correctRange
  split
  · rfl
  · exact foldl_keeps _ channelView (fun s i => one s (k / 8 + i)) _ s

theorem channelView_commitBytes (s : State) (k : Nat) (b : List Byte) : channelView (s.commitBytes k b) = channelView s := by
  obtain ⟨_, _, _, _, -, within⟩ := s.commitBytes_rewrites k b
  have capacity : (s.commitBytes k b).capacity = s.capacity := (congrArg State.capacity within.shell :)
  unfold channelView
  rw [within.hub, capacity]
  rfl

/-- A copy puts the bytes of one location at another. -/
theorem copyBytes_leaves (s : State) (a b n : Nat) : channelView (s.copyBytes a b n) = channelView s ∧
    (s.copyBytes a b n).mem = Memory.writeAll s.mem b (Memory.readN s.mem a n) := by
  let u := (s.correctRange a n).commitBytes b (Memory.readN (s.correctRange a n).mem a n)
  have start : channelView u = channelView s := (channelView_commitBytes _ _ _).trans (channelView_correctRange s a n)
  have read : (s.correctRange a n).mem = s.mem := by
    obtain ⟨_, _, e⟩ := s.correctRange_eq a n
    rw [e]
  have mem : u.mem = Memory.writeAll s.mem b (Memory.readN s.mem a n) := by
    rw [← read]
    exact (State.commitBytes_rewrites _ _ _).mem
  unfold State.copyBytes
  dsimp only
  split
  · exact ⟨start, mem⟩
  · exact ⟨start, mem⟩

/-- The state after the moves, and after the edits too. -/
def movedTo (n : Nat) (s : State) (moved : List (Nat × Nat)) : State := moved.foldl (fun s m => s.copyBytes m.1 m.2 n) s
def editedTo (s : State) (edits : List Placement) : State := edits.foldl State.placeBytes s

theorem movedTo_leaves (n : Nat) (s : State) (moved : List (Nat × Nat)) : channelView (movedTo n s moved) = channelView s ∧
    (movedTo n s moved).mem = movedMem n s.mem moved := by
  induction moved generalizing s with
  | nil => exact ⟨rfl, rfl⟩
  | cons x l ih =>
    obtain ⟨view, mem⟩ := copyBytes_leaves s x.1 x.2 n
    obtain ⟨view', mem'⟩ := ih (s.copyBytes x.1 x.2 n)
    exact ⟨view'.trans view, mem'.trans (congrArg (movedMem n · l) mem)⟩

theorem editedTo_leaves (s : State) (edits : List Placement) : channelView (editedTo s edits) = channelView s ∧
    (editedTo s edits).mem = editedMem s.mem edits := by
  induction edits generalizing s with
  | nil => exact ⟨rfl, rfl⟩
  | cons p l ih =>
    have mem : (s.placeBytes p).mem = Memory.writeAll s.mem p.addr p.bytes := (State.commitBytes_rewrites _ _ _).mem
    obtain ⟨view', mem'⟩ := ih (s.placeBytes p)
    exact ⟨view'.trans (channelView_commitBytes s p.addr p.bytes), mem'.trans (congrArg (editedMem · l) mem)⟩

theorem nodup_of_distinct {l : List Nat} (h : distinct l = true) : l.Nodup := by
  induction l with
  | nil => exact List.nodup_nil
  | cons x l ih =>
    simp only [distinct, Bool.and_eq_true, Bool.not_eq_true', List.contains_eq_mem, decide_eq_false_iff_not] at h
    exact List.nodup_cons.mpr ⟨h.1, ih h.2⟩

/-- The moves of R337 are between pages apart, to device memory. -/
theorem movesOk_apart {s : State} {st ch : Nat} {moved : List (Nat × Nat)} (ok : s.movesOk st ch moved = true) :
    (∀ x ∈ moved, ∀ y ∈ moved, PagesApart 4096 x.1 y.2) ∧ moved.Pairwise (fun x y => PagesApart 4096 x.2 y.2) ∧
      ∀ x ∈ moved, x.2 < 2 ^ 46 := by
  unfold State.movesOk at ok
  simp only [Bool.and_eq_true, List.all_eq_true, beq_iff_eq, Bool.or_eq_true, Bool.not_eq_true'] at ok
  obtain ⟨⟨each, once_⟩, -⟩ := ok
  refine ⟨fun x hx y hy => ?_, ?_, fun x hx => ?_⟩
  · obtain ⟨⟨⟨⟨⟨src, -⟩, on⟩, -⟩, -⟩, -⟩ := each x hx
    obtain ⟨⟨⟨⟨⟨-, dst⟩, -⟩, -⟩, -⟩, off⟩ := each y hy
    refine pagesApart_of_aligned src dst fun e => ?_
    rw [e, off] at on
    exact Bool.noConfusion on
  · refine (List.pairwise_map.mp (nodup_of_distinct once_)).imp_of_mem fun hx hy ne => ?_
    obtain ⟨⟨⟨⟨⟨-, dx⟩, -⟩, -⟩, -⟩, -⟩ := each _ hx
    obtain ⟨⟨⟨⟨⟨-, dy⟩, -⟩, -⟩, -⟩, -⟩ := each _ hy
    exact pagesApart_of_aligned dx dy ne
  · obtain ⟨⟨⟨-, device⟩, -⟩, -⟩ := each x hx
    simp only [isHbm, isSram, isScratch, Bool.and_eq_true, decide_eq_true_eq] at device
    simp only [hbmEnd, sramBase, scratchBase] at device
    omega

/-! The retirement of a pseudo-channel. -/

/-- What a core holds once every translation has been invalidated. -/
def withoutTlb (k : Core) : Core :=
  { (once (k.walks.map (·.asid))).foldl (fun k a => k.discardFills { heddle := false, asid := a, lo := 0, hi := BitVec.allOnes 64 }) k with
    tlb := [] }

theorem flushXlat_leaves (s : State) : channelView s.flushXlat = channelView s ∧ s.flushXlat.mem = s.mem ∧ s.flushXlat.l2 = [] ∧
    ∀ c, (s.flushXlat.core c).tlb = [] := by
  refine ⟨rfl, rfl, rfl, fun c => ?_⟩
  have core : s.flushXlat.core c = withoutTlb (s.core c) := State.core_mapCores (f := withoutTlb) rfl s c
  rw [core]
  rfl

/-- Nothing that lies on a retired pseudo-channel serves. -/
theorem populated_retired {s : State} {st ch k : Nat} (lost : (st, ch) ∈ s.capacity.lostChannels) (on : onChannel st ch k = true) :
    s.populated k = false := by
  simp only [onChannel, Bool.and_eq_true, beq_iff_eq] at on
  obtain ⟨⟨hbm, stack⟩, channel⟩ := on
  have below : k < 2 ^ 39 := of_decide_eq_true hbm
  have notTcm : isTcm k = false := by simp only [isTcm, decide_eq_false_iff_not]; omega
  have notExt : isExt k = false := by simp only [isExt, Bool.and_eq_false_iff, decide_eq_false_iff_not]; omega
  unfold State.populated
  rw [notTcm, notExt, hbm, stack, channel]
  simpa using lost

/-- A pseudo-channel is retired. -/
theorem retired_leaves (u : State) {st ch : Nat} (new : (st, ch) ∉ u.capacity.lostChannels) :
    let t := (u.flushXlat.retireChannel (st, ch)).rewriteMap.markAll
    t.capacity.lostChannels = (st, ch) :: u.capacity.lostChannels ∧ t.capacity.gen = u.capacity.gen + 1 ∧
      HealthEvent u t 5 (.channel st ch) ∧ (∀ k, onChannel st ch k = true → t.populated k = false) ∧ (∀ c, (t.core c).tlb = []) ∧
      t.l2 = [] ∧ (Memory.wf u.mem = true → ∀ a, isExt a = false → Memory.read t.mem a = Memory.read u.mem a) := by
  let f := u.flushXlat
  let p : Capacity := { f.capacity with lostChannels := (st, ch) :: f.capacity.lostChannels }
  let r := State.healthEvent { f with capacity := p } 5 (.channel st ch)
  obtain ⟨-, -, l2, tlb⟩ := flushXlat_leaves u
  obtain ⟨h, m, e, -⟩ := State.healthEvent_within { f with capacity := p } 5 (.channel st ch)
  have retired : u.flushXlat.retireChannel (st, ch) = r := if_neg fun h => new (List.contains_iff_mem.mp h)
  have event : HealthEvent u r 5 (.channel st ch) := .of_event (by decide) _ rfl rfl
  have capacity : r.capacity = p := (congrArg State.capacity e).trans rfl
  obtain ⟨hub, -, same, l2', cores, map, -⟩ := remapped_leaves r
  have core (c : Nat) : r.rewriteMap.markAll.core c = r.core c := congrArg (Tab.get · c Core.init) cores
  dsimp only
  rw [retired, map, capacity, l2', same]
  refine ⟨rfl, rfl, event.of_hub hub, fun k on => populated_retired ?_ on, fun c => ?_, ?_, fun wf a device => ?_⟩
  · rw [map, capacity]
    exact List.mem_cons_self
  · rw [core]
    exact (congrArg (fun t => (State.core t c).tlb) e).trans (tlb c)
  · exact (congrArg State.l2 e).trans l2
  · exact State.healthEvent_device { f with capacity := p } 5 (.channel st ch) wf device

/-- The state after firmware's moves and edits. -/
def rearranged (s : State) (moved : List (Nat × Nat)) (edits : List Placement) : State := editedTo (movedTo 4096 s moved) edits

/-- They are those of R337. -/
def Proper (s : State) (st ch : Nat) (moved : List (Nat × Nat)) (edits : List Placement) : Prop :=
  s.movesOk st ch moved = true ∧ (rearranged s moved edits).editsOk st ch (s.mappedOn st ch) moved = true

section
variable {s : State} {st ch : Nat} (moved : List (Nat × Nat)) (edits : List Placement)

theorem repairChannel_eq (hst : st < 8) (hch : ch < 64) (new : (st, ch) ∉ s.capacity.lostChannels)
    (fails : 3 ≤ (s.capacity.channelRows.filter (fun e => e.1 == st * 64 + ch)).length ∨ (Lnk.get s (6 + st)).down = true) :
    (Proper s st ch moved edits → s.repairChannel st ch moved edits =
      ((rearranged s moved edits).flushXlat.retireChannel (st, ch)).rewriteMap.markAll) ∧
    (¬ Proper s st ch moved edits → s.repairChannel st ch moved edits = s) := by
  have failing : s.channelFails st ch = true := by
    rcases fails with h | h
    · simp [State.channelFails, h]
    · simp [State.channelFails, State.baseCut, h]
  have turn : (8 ≤ st ∨ 64 ≤ ch ∨ s.capacity.lostChannels.contains (st, ch) = true ∨ (!s.channelFails st ch) = true ∨
      (!s.movesOk st ch moved) = true) ↔ s.movesOk st ch moved = false := by
    simp [failing, new, Nat.not_le.mpr hst, Nat.not_le.mpr hch]
  unfold State.repairChannel
  refine ⟨fun ⟨moves, tables⟩ => ?_, fun improper => ?_⟩
  · rw [if_neg (fun h => Bool.false_ne_true ((turn.mp h).symm.trans moves))]
    exact if_pos tables
  · by_cases moves : s.movesOk st ch moved = true
    · rw [if_neg (fun h => Bool.false_ne_true ((turn.mp h).symm.trans moves))]
      exact if_neg fun tables => improper ⟨moves, tables⟩
    · exact if_pos (turn.mpr (Bool.eq_false_iff.mpr moves))

/-- What the moves and edits leave of the hub, the capacity and memory. -/
theorem rearranged_leaves (ok : s.movesOk st ch moved = true) (wf : Memory.wf s.mem = true) :
    let u := rearranged s moved edits
    let edited (a : Nat) : Prop := ∃ p ∈ edits, p.addr ≤ a ∧ a < p.addr + p.bytes.length
    channelView u = channelView s ∧ Memory.wf u.mem = true ∧
      (∀ m ∈ moved, ∀ i, i < 4096 → ¬ edited (m.2 + i) → Memory.read u.mem (m.2 + i) = Memory.read s.mem (m.1 + i)) ∧
      ∀ a, ¬ edited a → (∀ m ∈ moved, a < m.2 ∨ m.2 + 4096 ≤ a) → Memory.read u.mem a = Memory.read s.mem a := by
  obtain ⟨view, mem⟩ := movedTo_leaves 4096 s moved
  obtain ⟨view', mem'⟩ := editedTo_leaves (movedTo 4096 s moved) edits
  obtain ⟨sources, targets, -⟩ := movesOk_apart ok
  obtain ⟨pages, others⟩ := read_movedMem sources targets wf
  have wf' : Memory.wf (movedTo 4096 s moved).mem = true := by rw [mem]; exact wf_movedMem wf moved
  have kept {a : Nat} (out : ¬ ∃ p ∈ edits, p.addr ≤ a ∧ a < p.addr + p.bytes.length) :
      Memory.read (rearranged s moved edits).mem a = Memory.read (movedMem 4096 s.mem moved) a := by
    rw [← mem]
    exact (congrArg (Memory.read · a) mem').trans (read_editedMem (fun p h e => out ⟨p, h, e⟩) wf').2
  have wfEdits (l : List Placement) {m : List Host.Cell} (w : Memory.wf m = true) : Memory.wf (editedMem m l) = true := by
    induction l generalizing m with
    | nil => exact w
    | cons p l ih => exact ih (Memory.wf_writeAll w _ _)
  refine ⟨view'.trans view, ?_, fun m hm i h out => (kept out).trans (pages m hm i h), fun a out away => (kept out).trans (others a away)⟩
  exact (congrArg Memory.wf mem').trans (wfEdits edits wf')

end

/-! What takes place at a quiesce. -/

theorem quiesce_row (s : State) (d : Nat) (r : Row) : exec (.quiesceRepair d (.row r)) s =
    .next (if dieOfBank r.bank = d ∧ d < 4 ∧ s.quiet d then s.repairRow r else s) := rfl

theorem quiesce_core (s : State) (d : Nat) (c : CoreId) : exec (.quiesceRepair d (.core c)) s =
    .next (if Id.die c.toNat = d ∧ d < 4 ∧ s.quiet d then s.repairCore c.toNat else s) := rfl

theorem quiesce_channel (s : State) (d st ch : Nat) (moved : List (Nat × Nat)) (edits : List Placement) :
    exec (.quiesceRepair d (.channel st ch moved edits)) s =
      .next (if st / 2 = d ∧ d < 4 ∧ s.quiet d then s.repairChannel st ch moved edits else s) := rfl

theorem quiesceRepairs : QuiesceRepairs := by
  refine ⟨fun s d item part loud => ?_, fun s d row other => ?_, fun s d g res => ?_, ?_, ?_, ?_, ?_⟩
  · have none_ (P : Prop) : ¬ (P ∧ d < 4 ∧ s.quiet d = true) := by
      rintro ⟨-, die, quiet⟩
      rcases loud with h | h
      · omega
      · exact Bool.false_ne_true (h.symm.trans quiet)
    cases item with
    | row r => rw [quiesce_row, if_neg (none_ _)]
    | core c => rw [quiesce_core, if_neg (none_ _)]
    | channel st ch moved edits => rw [quiesce_channel, if_neg (none_ _)]
    | recheck g => exact absurd rfl (part g)
  · rw [quiesce_row, if_neg (fun h => other h.1.symm)]
  · exact congrArg Host.Outcome.next (if_pos res)
  · intro s row d die quiet due open_
    rw [quiesce_row, if_pos ⟨rfl, die, quiet⟩]
    refine ⟨fun free => ?_, fun full => ?_⟩
    · obtain ⟨gone, spares, b0, b1, last, events, -⟩ := repairRow_spare due open_ free
      exact ⟨_, rfl, gone, spares, last, b0, b1, events⟩
    · obtain ⟨noSpare, stays, ⟨-, -, last, -, -⟩, failing⟩ := repairRow_full due open_ full
      exact ⟨_, rfl, noSpare, stays, last, failing⟩
  · intro s d c wf die quiet at_ compute failing there free
    obtain ⟨stays, sound, spares, gen, event, mem⟩ := repairCore_spare compute failing there free
    rw [quiesce_core, if_pos ⟨at_, die, quiet⟩]
    exact ⟨_, rfl, stays, sound, spares, gen, event, mem wf⟩
  · intro s c d die quiet there fails none_
    rw [quiesce_core, if_pos ⟨rfl, die, quiet⟩]
    exact ⟨_, rfl, repairCore_lost there fails none_⟩
  · intro s st ch moved edits d hst hch quiet new fails u good
    obtain ⟨retires, stands⟩ := repairChannel_eq moved edits hst hch new fails
    rw [quiesce_channel, if_pos ⟨rfl, show st / 2 < 4 by omega, quiet⟩]
    refine ⟨fun improper => congrArg Host.Outcome.next (stands improper), fun proper wf => ?_⟩
    obtain ⟨view, wf', pages, others⟩ := rearranged_leaves moved edits proper.1 wf
    have lost : u.capacity.lostChannels = s.capacity.lostChannels := congrArg (·.2.2) view
    have gen : u.capacity.gen = s.capacity.gen := congrArg (·.2.1) view
    have hub : u.hub = s.hub := congrArg (·.1) view
    obtain ⟨lost', gen', event, empty, tlb, l2, mem⟩ := retired_leaves (rearranged s moved edits) (st := st) (ch := ch)
      (fun h => new (lost ▸ h))
    refine ⟨_, congrArg Host.Outcome.next (retires proper), lost'.trans (congrArg _ lost), gen'.trans (congrArg (· + 1) gen),
      event.from_hub hub, empty, tlb, l2, fun m hm i h out => ?_, fun a device out away => ?_⟩
    · have low := (movesOk_apart proper.1).2.2 m hm
      refine (mem wf' _ ?_).trans (pages m hm i h out)
      simp only [isExt, Bool.and_eq_false_iff, decide_eq_false_iff_not]
      omega
    · exact (mem wf' a device).trans (others a out away)

/-- Settles O59: flits and link steps case by case, a peer's writes as commits, and repairs as changes of the capacity; the moves of a
pseudo-channel's pages do not disturb each other, as no page moved to is one moved from or moved to again. -/
theorem linksAndRepair : Obligations.LinksAndRepair := ⟨flitsCount, linksDegrade, peersWrite, quiesceRepairs⟩

end Sys2Proof.Claim
end

section
/-! Fields in halfwords: what a format packs it unpacks, and what the fields of an operand read as once encoded (R55, R63, R68, R73). -/

namespace Sys2Proof

/-- A register's field names it (R63). -/
@[simp] theorem Reg.dec_enc (r : Reg) : Reg.dec r.enc = some r := by
  cases r with
  | g n => revert n; decide
  | v n => revert n; decide
  | q n => revert n; decide
  | m n => revert n; decide
  | k n => revert n; decide

/-- The fields of an instruction under a format: those the format has no place for are zero (R68). -/
def Fields.under (f : Fmt) (x : Fields) : Fields :=
  match f with
  | .H => { major := x.major, d := x.d }
  | .HA => { major := x.major, d := x.d, s1 := x.s1, s2 := x.s2, x := x.x }
  | .HB => { major := x.major, d := x.d, s1 := x.s1, s2 := x.s2, x := x.x, i16 := x.i16 }
  | .HC => { major := x.major, d := x.d, s1 := x.s1, s2 := x.s2, x := x.x, s3 := x.s3, fn := x.fn, mf := x.mf }
  | .HD => { major := x.major, d := x.d, s1 := x.s1, s2 := x.s2, x := x.x, i32 := x.i32 }

/-- What lies above the lower of two parts put side by side. -/
theorem extract_above {v w l : Nat} (k : Nat) (x : BitVec v) (y : BitVec w) : (x ++ y).extractLsb' (w + k) l = x.extractLsb' k l := by
  rw [BitVec.extractLsb'_append_eq_of_le (Nat.le_add_right w k), Nat.add_sub_cancel_left]

/-- The highest of three parts put side by side. -/
theorem extract_high {a b c : Nat} (x : BitVec a) (y : BitVec b) (z : BitVec c) : (x ++ y ++ z).extractLsb' (c + b) a = x := by
  rw [extract_above, BitVec.extractLsb'_append_eq_left]

/-- The middle one. -/
theorem extract_mid {a b c : Nat} (x : BitVec a) (y : BitVec b) (z : BitVec c) : (x ++ y ++ z).extractLsb' c b = y := by
  exact (extract_above 0 _ z).trans BitVec.extractLsb'_append_eq_right

/-- The lowest one. -/
theorem extract_low {a b c : Nat} (x : BitVec a) (y : BitVec b) (z : BitVec c) : (x ++ y ++ z).extractLsb' 0 c = z :=
  BitVec.extractLsb'_append_eq_right

theorem unpackAs_packAs (f : Fmt) (x : Fields) : unpackAs f (packAs f x) = x.under f := by
  have head (t : BitVec 2) : headMajor (t ++ x.major ++ x.d) = x.major ∧ headD (t ++ x.major ++ x.d) = x.d :=
    ⟨extract_mid _ _ _, extract_low _ _ _⟩
  have t1 : (x.s1 ++ x.s2 ++ x.x).extractLsb' 9 7 = x.s1 ∧ (x.s1 ++ x.s2 ++ x.x).extractLsb' 2 7 = x.s2 ∧
    (x.s1 ++ x.s2 ++ x.x).extractLsb' 0 2 = x.x := ⟨extract_high _ _ _, extract_mid _ _ _, extract_low _ _ _⟩
  have t2 : (x.s3 ++ x.fn ++ x.mf).extractLsb' 9 7 = x.s3 ∧ (x.s3 ++ x.fn ++ x.mf).extractLsb' 3 6 = x.fn ∧
    (x.s3 ++ x.fn ++ x.mf).extractLsb' 0 3 = x.mf := ⟨extract_high _ _ _, extract_mid _ _ _, extract_low _ _ _⟩
  have i32 : x.i32.extractLsb' 16 16 ++ x.i32.extractLsb' 0 16 = x.i32 := BitVec.extractLsb'_append_extractLsb' (w := 16) (len := 16)
  cases f <;> simp only [unpackAs, packAs, Fields.under, head, t1, t2, i32]

theorem unpack_pack {x : Fields} {f : Fmt} (h : fmtOf x.major = some f) : unpack (pack x) = .ok (x.under f) := by
  have major : headMajor (packAs f x).head = x.major := by cases f <;> exact extract_mid _ _ _
  have tl : headTl (packAs f x).head = f.tl := by cases f <;> exact extract_high _ _ _
  unfold unpack pack
  simp only [h, Option.getD_some, major, tl, if_true, unpackAs_packAs]

/-- A packed row decodes as its fields do. -/
theorem decode_pack {x : Fields} {f : Fmt} (h : fmtOf x.major = some f) : decode (pack x) = decodeFields (x.under f) := by
  rw [decode, unpack_pack h]

namespace Dec

@[simp] theorem reg_enc (r : Reg) : reg r.enc = .ok r := by simp [reg]

@[simp] theorem zero_zero {w : Nat} : zero (0#w) = .ok () := if_pos rfl

@[simp] theorem ok_bind {α β : Type} (a : α) (f : α → Except DecodeErr β) : ((.ok a : Except DecodeErr α) >>= f) = f a := rfl

@[simp] theorem ok_map {α β : Type} (f : α → β) (a : α) : (f <$> (.ok a : Except DecodeErr α)) = .ok (f a) := rfl

@[simp] theorem size_enc (z : Size) : size (Enc.size z) = z := by cases z <;> rfl
@[simp] theorem width_enc (w : Width) : width (Enc.width w) = .ok w := by cases w <;> rfl
@[simp] theorem flt_enc (f : FltTy) : flt (Enc.flt f) = .ok f := by cases f <;> rfl
@[simp] theorem arith_enc (t : Arith) : arith (Enc.arith t) = t := by cases t <;> rfl
@[simp] theorem rnd_enc (r : Rnd) : rnd (Enc.rnd r) = r := by cases r <;> rfl
@[simp] theorem cvt_enc (t : CvtTy) : cvt (Enc.cvt t) = .ok t := by cases t <;> rfl
@[simp] theorem fcond_enc (c : FCond) : fcond (Enc.fcond c) = .ok c := by cases c <;> rfl
@[simp] theorem icond_enc (c : ICond) : icond (Enc.icond c) = .ok c := by cases c <;> rfl
@[simp] theorem amoOp_enc (op : AmoOp) : amoOp (Enc.amoOp op).toNat = .ok op := by cases op <;> rfl

/-- The mask field read back. -/
@[simp] theorem toFin_mask (mk : Fin 8) : (Enc.mask mk).toFin = mk := rfl

/-- A flag read back from its bit. -/
@[simp] theorem bit_eq_one (b : Bool) : (Enc.bit b = 1#1) = (b = true) := by cases b <;> simp [Enc.bit]

/-- A control register number that no row of its own takes for CRRD stays with the general row (log 5). -/
theorem crrd_general {r : BitVec 12} (h : crrdOwnRow r = false) (d : Reg) : crrd d r = .crrd d r := by
  have other : r ≠ 0x880 := by rintro rfl; exact absurd h (by decide)
  rw [crrd, if_neg other, h, if_neg Bool.false_ne_true]

theorem crwr_general {r : BitVec 12} (h : crwrOwnRow r = false) (a : Reg) : crwr r a = .crwr r a := by
  have first : r ≠ 0x031 := by rintro rfl; exact absurd h (by decide)
  have second : r ≠ 0x025 := by rintro rfl; exact absurd h (by decide)
  rw [crwr, if_neg first, if_neg second, h, if_neg Bool.false_ne_true]

/-- The registers of a link name it (R353). -/
theorem crrd_link (l : Fin 18) (d : Reg) : crrd d (Enc.link l 5) = .lnkDegradeRead l d := by
  have own : ∀ l, Enc.link l 5 ≠ 0x880 ∧ crrdOwnRow (Enc.link l 5) = true ∧ linkOf (Enc.link l 5) = l := by decide
  obtain ⟨other, row, back⟩ := own l
  rw [crrd, if_neg other, if_pos row, back]

theorem crwr_link_rate (l : Fin 18) (a : Reg) : crwr (Enc.link l 0) a = .lnkRateWrite l a := by
  have own : ∀ l, Enc.link l 0 ≠ 0x031 ∧ Enc.link l 0 ≠ 0x025 ∧ crwrOwnRow (Enc.link l 0) = true ∧ (Enc.link l 0).toNat % 16 = 0 ∧
    linkOf (Enc.link l 0) = l := by decide
  obtain ⟨first, second, row, low, back⟩ := own l
  rw [crwr, if_neg first, if_neg second, if_pos row, if_pos low, back]

theorem crwr_link_trap (l : Fin 18) (a : Reg) : crwr (Enc.link l 9) a = .lnkTrapWrite l a := by
  have own : ∀ l, Enc.link l 9 ≠ 0x031 ∧ Enc.link l 9 ≠ 0x025 ∧ crwrOwnRow (Enc.link l 9) = true ∧ (Enc.link l 9).toNat % 16 ≠ 0 ∧
    linkOf (Enc.link l 9) = l := by decide
  obtain ⟨first, second, row, low, back⟩ := own l
  rw [crwr, if_neg first, if_neg second, if_pos row, if_neg low, back]

end Dec

end Sys2Proof
end

section
/-! Decoding what was encoded (O3): the shapes that several rows share, then every row of the opcode table. -/

namespace Sys2Proof

namespace Dec

/-! Shapes of rows. -/

theorem immRow_imm (m : BitVec 7) (d a : Reg) (i : Half) (k : Reg → Reg → Half → Instr) :
    immRow ((Enc.imm m d a i).under .HB) k = .ok (k d a i) := by simp [immRow, Enc.imm, Fields.under]

/-- The amount of a shift, read back from IMM16 (R77). -/
theorem shift_parts (n : BitVec 6) : ((0#10) ++ n).extractLsb' 6 10 = (0#10) ∧ ((0#10) ++ n).extractLsb' 0 6 = n :=
  ⟨BitVec.extractLsb'_append_eq_left, BitVec.extractLsb'_append_eq_right⟩

theorem shiftRow_imm (m : BitVec 7) (d a : Reg) (n : BitVec 6) (k : Reg → Reg → BitVec 6 → Instr) :
    shiftRow ((Enc.imm m d a ((0 : BitVec 10) ++ n)).under .HB) k = .ok (k d a n) := by
  simp [shiftRow, Enc.imm, Fields.under, shift_parts]

theorem wideRow_wide (m : BitVec 7) (d : Reg) (i : BitVec 32) (k : Reg → BitVec 32 → Instr) :
    wideRow ((Enc.wide m d i).under .HD) k = .ok (k d i) := by simp [wideRow, Enc.wide, Fields.under]

theorem branch_br (m : BitVec 7) (a b : Reg) (i : Half) (k : Reg → Reg → Half → Instr) :
    branch ((Enc.br m a b i).under .HB) k = .ok (k a b i) := by simp [branch, Enc.br, Fields.under]

theorem loadRow_imm (m : BitVec 7) (z : Size) (d a : Reg) (i : Half) (k : Size → Reg → Reg → Half → Instr) :
    loadRow (Fields.under .HB { Enc.imm m d a i with x := Enc.size z }) k = .ok (k z d a i) := by
  simp [loadRow, Enc.imm, Fields.under]

theorem haS1_of (m : BitVec 7) (a : Reg) (k : Reg → Instr) :
    haS1 (Fields.under .HA { major := m, d := 0, s1 := a.enc }) k = .ok (k a) := by simp [haS1, Fields.under]

theorem destOnly_of (m : BitVec 7) (d : Reg) (k : Reg → Instr) :
    destOnly (Fields.under .H { major := m, d := d.enc }) k = .ok (k d) := by simp [destOnly, Fields.under]

theorem plain_of (m : BitVec 7) (i : Instr) : plain (Fields.under .H { major := m, d := 0 }) i = .ok i := by
  simp [plain, Fields.under]

theorem immOnly_of (m : BitVec 7) (i : Half) (k : Half → Instr) :
    immOnly (Fields.under .HB { major := m, d := 0, i16 := i }) k = .ok (k i) := by simp [immOnly, Fields.under]

theorem hc4_r3 (m : BitVec 7) (d a b c : Reg) (k : Reg → Reg → Reg → Reg → Instr) :
    hc4 (Fields.under .HC { Enc.r3 m 0 d a b with s3 := c.enc }) k = .ok (k d a b c) := by
  simp [hc4, zeroXM, Enc.r3, Fields.under]

theorem scat_of (m : BitVec 7) (x : BitVec 2) (a b c : Reg) (mk : Fin 8) (k : Reg → Reg → Reg → Fin 8 → Instr) :
    scat (Fields.under .HC { major := m, d := 0, s1 := a.enc, s2 := b.enc, s3 := c.enc, x := x, mf := Enc.mask mk }) k =
      .ok (k a b c mk) := by simp [scat, Dec.mask, Fields.under]

theorem vred_m2 (m : BitVec 7) (op : RedOp) (t : Arith) (d a : Reg) (mk : Fin 8) (k : RedOp → Arith → Reg → Reg → Fin 8 → Instr) :
    vred ((Enc.m2 m (Enc.redOp op) (Enc.arith t) d a mk).under .HC) k = .ok (k op t d a mk) := by
  cases op <;> simp [vred, Enc.m2, Enc.redOp, Dec.mask, Fields.under]

/-- The parts of a send's immediate (R88). -/
theorem sendImm_parts (t : BitVec 8) (n : BitVec 3) (nk nw : Bool) : let i := Enc.sendImm t n nk nw
    i.extractLsb' 13 19 = 0#19 ∧ i.extractLsb' 12 1 = Enc.bit nw ∧ i.extractLsb' 11 1 = Enc.bit nk ∧ i.extractLsb' 8 3 = n ∧
      i.extractLsb' 0 8 = t :=
  ⟨(extract_above 5 _ t).trans <| (extract_above 2 _ n).trans <| (extract_above 1 _ (Enc.bit nk)).trans <|
      extract_above 0 _ (Enc.bit nw) |>.trans BitVec.extractLsb'_eq_self,
   (extract_above 4 _ t).trans <| (extract_above 1 _ n).trans <| extract_mid _ _ _,
   (extract_above 3 _ t).trans <| extract_mid _ _ _, extract_mid _ _ _, BitVec.extractLsb'_append_eq_right⟩

/-- A send that names no register operand has D zero (R88). -/
theorem send_named {n : BitVec 3} {d : Reg} (h : (n != 0 || d == .g 0) = true) : ¬ (n = 0 ∧ d.enc ≠ 0) := by
  rintro ⟨rfl, other⟩
  have zero : d = .g 0 := by simpa using h
  exact other (by rw [zero]; rfl)

theorem send_of (m : BitVec 7) (d a : Reg) (t : BitVec 8) (n : BitVec 3) (nk nw : Bool)
    (k : Reg → Reg → BitVec 8 → BitVec 3 → Bool → Bool → Instr) (h : (n != 0 || d == .g 0) = true) :
    send (Fields.under .HD { Enc.wide m d (Enc.sendImm t n nk nw) with s1 := a.enc }) k = .ok (k d a t n nk nw) := by
  obtain ⟨high, now, nack, number, typ⟩ := sendImm_parts t n nk nw
  have named := send_named h
  simp only [send, Enc.wide, Fields.under, high, now, nack, number, typ, ok_bind, reg_enc, if_neg named]
  simp

/-- The number of a control register, read back from IMM16 (R93). -/
theorem cr_parts (r : BitVec 12) : ((0#4) ++ r).extractLsb' 12 4 = (0#4) ∧ ((0#4) ++ r).extractLsb' 0 12 = r :=
  ⟨BitVec.extractLsb'_append_eq_left, BitVec.extractLsb'_append_eq_right⟩

theorem controlReg_read (d : Reg) (r : BitVec 12) : controlReg ((Enc.cr 0 d.enc 0 r).under .HB) = .ok (crrd d r) := by
  simp [controlReg, Enc.cr, Fields.under, cr_parts]

theorem controlReg_write (a : Reg) (r : BitVec 12) : controlReg ((Enc.cr 1 0 a.enc r).under .HB) = .ok (crwr r a) := by
  simp [controlReg, Enc.cr, Fields.under, cr_parts]

/-- The parts of QBIND's immediate (R197). -/
theorem qbind_parts (hi : BitVec 8) (prod : BitVec 1) (ps : BitVec 3) (pq : BitVec 4) : let i : Half := hi ++ prod ++ ps ++ pq
    i.extractLsb' 0 4 = pq ∧ i.extractLsb' 4 3 = ps ∧ i.extractLsb' 7 1 = prod ∧ i.extractLsb' 8 8 = hi :=
  ⟨BitVec.extractLsb'_append_eq_right, extract_mid _ _ _, (extract_above 3 _ pq).trans (extract_mid _ _ _),
    (extract_above 4 _ pq).trans (extract_high _ _ _)⟩

/-- MIGRATE's immediate (R288). -/
theorem migrate_parts (hi : BitVec 15) (near : BitVec 1) : (hi ++ near).extractLsb' 1 15 = hi ∧ (hi ++ near).extractLsb' 0 1 = near :=
  ⟨BitVec.extractLsb'_append_eq_left, BitVec.extractLsb'_append_eq_right⟩

/-- The flag of a gather, read back from FN (R216). -/
theorem gath_parts (t : Bool) : ((0#5) ++ Enc.bit t).extractLsb' 1 5 = (0#5) ∧ ((0#5) ++ Enc.bit t).extractLsb' 0 1 = Enc.bit t :=
  ⟨BitVec.extractLsb'_append_eq_left, BitVec.extractLsb'_append_eq_right⟩

/-- The id of a group barrier, read back from IMM16 (R240). -/
theorem gbar_parts (id : BitVec 8) : ((0#8) ++ id).extractLsb' 8 8 = (0#8) ∧ ((0#8) ++ id).extractLsb' 0 8 = id :=
  ⟨BitVec.extractLsb'_append_eq_left, BitVec.extractLsb'_append_eq_right⟩

/-- VCVT's source type, read back from S3 (R160). -/
theorem vcvt_source (c : BitVec 4) : ((0#3) ++ c).extractLsb' 4 3 = (0#3) ∧ ((0#3) ++ c).extractLsb' 0 4 = c :=
  ⟨BitVec.extractLsb'_append_eq_left, BitVec.extractLsb'_append_eq_right⟩

/-- Its rounding and its destination type, read back from FN. -/
theorem vcvt_dest (m : BitVec 2) (c : BitVec 4) : (m ++ c).extractLsb' 4 2 = m ∧ (m ++ c).extractLsb' 0 4 = c :=
  ⟨BitVec.extractLsb'_append_eq_left, BitVec.extractLsb'_append_eq_right⟩

/-- Its flags, read back from X. -/
theorem vcvt_flags (m sat : BitVec 1) : (m ++ sat).extractLsb' 1 1 = m ∧ (m ++ sat).extractLsb' 0 1 = sat :=
  ⟨BitVec.extractLsb'_append_eq_left, BitVec.extractLsb'_append_eq_right⟩

theorem fence_of (c : Scope) (k : FenceKind) (eng xl : Bool) :
    fence (Fields.under .HA { major := 0x3F, d := Enc.bit xl ++ Enc.bit eng ++ Enc.fenceKind k ++ Enc.scope c }) =
      .ok (.fence c k eng xl) := by
  cases c <;> cases k <;> cases eng <;> cases xl <;> rfl

end Dec

end Sys2Proof
end

section
/-! Decoding what was encoded, group by group (O3). -/

namespace Sys2Proof

/-- The rows of a head alone. -/
theorem decode_plain_rows : ∀ k ∈ [Instr.nop, .waiti, .eret, .chkpt], decode (encode (k)) = .ok (k) := by
  intro k hk
  fin_cases hk <;> exact (decode_pack (f := .H) rfl).trans (Dec.plain_of _ _)

/-! The ALU group (R76). -/

theorem decode_alu {x : Fields} (h : x.major = 0x02) : decode (pack x) = Dec.alu (x.under .HC) := by
  have major : (x.under .HC).major = 0x02 := h
  rw [decode_pack (h ▸ rfl : fmtOf x.major = some .HC), decodeFields, major]
  rfl

/-- The rows of two sources. -/
theorem decode_alu_two (d a b : Reg) :
    ∀ k ∈ [Instr.add, .sub, .mul, .mulh, .mulhu, .div, .divu, .rem, .remu, .and, .or, .xor, .shl, .shr, .sra, .slt, .sltu,
      .min, .max, .minu, .maxu],
    decode (encode (k d a b)) = .ok (k d a b) := by
  intro k hk
  fin_cases hk <;>
  · refine (decode_alu rfl).trans ?_
    unfold encodeFields
    simp [Dec.alu, Dec.zeroXM, Enc.r3, Fields.under]

/-- The rows of one source. -/
theorem decode_alu_one (d a : Reg) : ∀ k ∈ [Instr.clz, .ctz, .popc, .mov],
    decode (encode (k d a)) = .ok (k d a) := by
  intro k hk
  fin_cases hk <;>
  · refine (decode_alu rfl).trans ?_
    unfold encodeFields
    simp [Dec.alu, Dec.zeroXM, Enc.r2, Fields.under]

/-! Immediates, constants and branches (R77, R78, R80). -/

/-- D, S1 and IMM16. -/
theorem decode_imm_rows (d a : Reg) (i : Half) :
    ∀ k ∈ [Instr.addi, .andi, .ori, .xori, .slti, .jalr, .mon, .mwait], decode (encode (k d a i)) = .ok (k d a i) := by
  intro k hk
  fin_cases hk <;> exact (decode_pack (f := .HB) rfl).trans (Dec.immRow_imm _ _ _ _ _)

/-- The shifts. -/
theorem decode_shift_rows (d a : Reg) (n : BitVec 6) : ∀ k ∈ [Instr.shli, .shri, .srai], decode (encode (k d a n)) = .ok (k d a n) := by
  intro k hk
  fin_cases hk <;> exact (decode_pack (f := .HB) rfl).trans (Dec.shiftRow_imm _ _ _ _ _)

/-- D and IMM32. -/
theorem decode_wide_rows (d : Reg) (i : BitVec 32) : ∀ k ∈ [Instr.li, .lih, .addpc, .jal], decode (encode (k d i)) = .ok (k d i) := by
  intro k hk
  fin_cases hk <;> exact (decode_pack (f := .HD) rfl).trans (Dec.wideRow_wide _ _ _ _)

/-- S1, S2 and IMM16. -/
theorem decode_branch_rows (a b : Reg) (i : Half) :
    ∀ k ∈ [Instr.beq, .bne, .blt, .bge, .bltu, .bgeu], decode (encode (k a b i)) = .ok (k a b i) := by
  intro k hk
  fin_cases hk <;> exact (decode_pack (f := .HB) rfl).trans (Dec.branch_br _ _ _ _ _)

/-! Bit fields (R79). -/

theorem decode_bitField {x : Fields} (h : x.major = 0x0E) : decode (pack x) = Dec.bitField (x.under .HB) := by
  have major : (x.under .HB).major = 0x0E := h
  rw [decode_pack (h ▸ rfl : fmtOf x.major = some .HB), decodeFields, major]
  rfl

/-- The parts of a bit-field row's immediate. -/
theorem bits_parts (lo w1 : BitVec 6) : ((0#4) ++ w1 ++ lo).extractLsb' 12 4 = 0#4 ∧ ((0#4) ++ w1 ++ lo).extractLsb' 6 6 = w1 ∧
    ((0#4) ++ w1 ++ lo).extractLsb' 0 6 = lo := ⟨extract_high _ _ _, extract_mid _ _ _, extract_low _ _ _⟩

/-! Loads and stores (R84). -/

/-- The loads with an immediate. -/
theorem decode_load_rows (z : Size) (d a : Reg) (i : Half) : ∀ k ∈ [Instr.ld, .ldu], decode (encode (k z d a i)) = .ok (k z d a i) := by
  intro k hk
  fin_cases hk <;> exact (decode_pack (f := .HB) rfl).trans (Dec.loadRow_imm _ _ _ _ _ _)

/-! Queues and streams (R196, R197, R200). -/

/-- The bindings. -/
theorem decode_bind_rows (d : Reg) (pq : BitVec 4) (ps : BitVec 3) (hi : BitVec 8) : ∀ k ∈ [Instr.qbind, .qbindProd],
    decode (encode (k d pq ps hi)) = .ok (k d pq ps hi) := by
  intro k hk
  fin_cases hk <;>
  · refine (decode_pack (f := .HB) rfl).trans (show Dec.qbind _ = _ from ?_)
    unfold encodeFields
    simp [Dec.qbind, Dec.qbind_parts, Fields.under]

/-- The streams. -/
theorem decode_stream_rows (w : StreamW) (d a : Reg) : ∀ k ∈ [Instr.qstream, .qstreamWr],
    decode (encode (k w d a)) = .ok (k w d a) := by
  intro k hk
  fin_cases hk <;>
  · refine (decode_pack (f := .HB) rfl).trans (show Dec.qstream _ = _ from ?_)
    unfold encodeFields
    cases w <;> simp [Dec.qstream, Enc.imm, Enc.streamW, Fields.under]

theorem decode_queueCtl {x : Fields} (h : x.major = 0x32) : decode (pack x) = Dec.queueCtl (x.under .HC) := by
  have major : (x.under .HC).major = 0x32 := h
  rw [decode_pack (h ▸ rfl : fmtOf x.major = some .HC), decodeFields, major]
  rfl

/-! Atomics (R221). -/

theorem decode_amo {x : Fields} (h : x.major = 0x3C) : decode (pack x) = Dec.amo (x.under .HC) := by
  have major : (x.under .HC).major = 0x3C := h
  rw [decode_pack (h ▸ rfl : fmtOf x.major = some .HC), decodeFields, major]
  rfl

/-- The rows of two sources. -/
theorem decode_amo_rows (z : Size) (d a b : Reg) :
    ∀ k ∈ [Instr.amoAdd, .amoAnd, .amoOr, .amoXor, .amoMin, .amoMax, .amoMinu, .amoMaxu, .amoSwap],
    decode (encode (k z d a b)) = .ok (k z d a b) := by
  intro k hk
  fin_cases hk <;>
  · refine (decode_amo rfl).trans ?_
    unfold encodeFields
    simp [Dec.amo, Enc.r3, Fields.under]

/-! Barriers, messages and scatters (R88, R218, R240, R288). -/

/-- The group barriers. -/
theorem decode_gbar_rows (id : BitVec 8) : ∀ k ∈ [Instr.gbar, .gbarArrive, .gbarWait],
    decode (encode (k id)) = .ok (k id) := by
  intro k hk
  fin_cases hk <;>
  · refine (decode_pack (f := .HB) rfl).trans (show Dec.gbar _ = _ from ?_)
    unfold encodeFields
    simp [Dec.gbar, Dec.gbar_parts, Fields.under]

/-- The migrations. -/
theorem decode_migrate_rows (a : Reg) (hi : BitVec 15) : ∀ k ∈ [Instr.migrate, .migrateNear],
    decode (encode (k a hi)) = .ok (k a hi) := by
  intro k hk
  fin_cases hk <;>
  · refine (decode_pack (f := .HB) rfl).trans (show Dec.migrate _ = _ from ?_)
    unfold encodeFields
    simp [Dec.migrate, Dec.migrate_parts, Fields.under]

/-- D, S1, S2 and S3. -/
theorem decode_hc4_rows (d a b c : Reg) :
    ∀ k ∈ [Instr.spawn, .vrope, .vsmax, .tkmerge, .mma, .mmas], decode (encode (k d a b c)) = .ok (k d a b c) := by
  intro k hk
  fin_cases hk <;> exact (decode_pack (f := .HC) rfl).trans (Dec.hc4_r3 _ _ _ _ _ _)

/-- The scatters. -/
theorem decode_scat_rows (a b c : Reg) (mk : Fin 8) : ∀ k ∈ [Instr.scat, .scata false, .scata true],
    decode (encode (k a b c mk)) = .ok (k a b c mk) := by
  intro k hk
  fin_cases hk <;> exact (decode_pack (f := .HC) rfl).trans (Dec.scat_of _ _ _ _ _ _ _)

/-! Labels (R121). -/

theorem decode_label {x : Fields} (h : x.major = 0x50) : decode (pack x) = Dec.label (x.under .HC) := by
  have major : (x.under .HC).major = 0x50 := h
  rw [decode_pack (h ▸ rfl : fmtOf x.major = some .HC), decodeFields, major]
  rfl

/-- D and two sources. -/
theorem decode_label_two (d a b : Reg) : ∀ k ∈ [Instr.lmake, .lanc, .lcmp],
    decode (encode (k d a b)) = .ok (k d a b) := by
  intro k hk
  fin_cases hk <;>
  · refine (decode_label rfl).trans ?_
    unfold encodeFields
    simp [Dec.label, Dec.zeroXM, Enc.r3, Fields.under]

/-- D and one source. -/
theorem decode_label_one (d a : Reg) : ∀ k ∈ [Instr.lpar, .ldep, .lrange, .lcanon, .lxlook],
    decode (encode (k d a)) = .ok (k d a) := by
  intro k hk
  fin_cases hk <;>
  · refine (decode_label rfl).trans ?_
    unfold encodeFields
    simp [Dec.label, Dec.zeroXM, Enc.r2, Fields.under]

/-- Two sources. -/
theorem decode_label_sources (a b : Reg) : ∀ k ∈ [Instr.lxinv, .lxfill],
    decode (encode (k a b)) = .ok (k a b) := by
  intro k hk
  fin_cases hk <;>
  · refine (decode_label rfl).trans ?_
    unfold encodeFields
    simp [Dec.label, Dec.zeroXM, Fields.under]

/-! Wide accumulators (R165). -/

theorem decode_wacc_row {x : Fields} (h : x.major = 0x54) : decode (pack x) = Dec.wacc (x.under .HC) := by
  have major : (x.under .HC).major = 0x54 := h
  rw [decode_pack (h ▸ rfl : fmtOf x.major = some .HC), decodeFields, major]
  rfl

/-! The vector float group (R156). -/

theorem decode_vfloat {x : Fields} (h : x.major = 0x60) : decode (pack x) = Dec.vfloat (x.under .HC) := by
  have major : (x.under .HC).major = 0x60 := h
  rw [decode_pack (h ▸ rfl : fmtOf x.major = some .HC), decodeFields, major]
  rfl

/-- The rows of two sources. -/
theorem decode_vfloat_two (f : FltTy) (d a b : Reg) (mk : Fin 8) : ∀ k ∈ [Instr.vadd, .vsub, .vmul, .vmin, .vmax, .vdiv, .vsel],
    decode (encode (k f d a b mk)) = .ok (k f d a b mk) := by
  intro k hk
  fin_cases hk <;>
  · refine (decode_vfloat rfl).trans ?_
    unfold encodeFields
    simp [Dec.vfloat, Dec.mask, Enc.m3, Fields.under]

/-- The rows of one source. -/
theorem decode_vfloat_one (f : FltTy) (d a : Reg) (mk : Fin 8) : ∀ k ∈ [Instr.vabs, .vneg, .vrcp, .vrsq, .vsqrt, .vexp2, .vlog2],
    decode (encode (k f d a mk)) = .ok (k f d a mk) := by
  intro k hk
  fin_cases hk <;>
  · refine (decode_vfloat rfl).trans ?_
    unfold encodeFields
    simp [Dec.vfloat, Dec.mask, Enc.m2, Fields.under]

/-- The rows of three sources. -/
theorem decode_vfloat_three (f : FltTy) (d a b c : Reg) (mk : Fin 8) : ∀ k ∈ [Instr.vfma, .vfms],
    decode (encode (k f d a b c mk)) = .ok (k f d a b c mk) := by
  intro k hk
  fin_cases hk <;>
  · refine (decode_vfloat rfl).trans ?_
    unfold encodeFields
    simp [Dec.vfloat, Dec.mask, Enc.m3, Fields.under]

/-! The vector integer group (R159). -/

theorem decode_vint {x : Fields} (h : x.major = 0x61) : decode (pack x) = Dec.vint (x.under .HC) := by
  have major : (x.under .HC).major = 0x61 := h
  rw [decode_pack (h ▸ rfl : fmtOf x.major = some .HC), decodeFields, major]
  rfl

/-- The rows of two sources. -/
theorem decode_vint_two (w : Width) (d a b : Reg) (mk : Fin 8) :
    ∀ k ∈ [Instr.viadd, .visub, .vimul, .vimin, .vimax, .viminu, .vimaxu, .vand, .vor, .vxor, .vshl, .vshr, .vsra],
    decode (encode (k w d a b mk)) = .ok (k w d a b mk) := by
  intro k hk
  fin_cases hk <;>
  · refine (decode_vint rfl).trans ?_
    unfold encodeFields
    simp [Dec.vint, Dec.mask, Enc.m3, Fields.under]

/-! The vector move group (R162), reductions (R163). -/

theorem decode_vmove {x : Fields} (h : x.major = 0x63) : decode (pack x) = Dec.vmove (x.under .HC) := by
  have major : (x.under .HC).major = 0x63 := h
  rw [decode_pack (h ▸ rfl : fmtOf x.major = some .HC), decodeFields, major]
  rfl

/-- One source under a mask. -/
theorem decode_vmove_one (w : Width) (d a : Reg) (mk : Fin 8) : ∀ k ∈ [Instr.vbcast, .vcomp, .vexpnd, .vmov],
    decode (encode (k w d a mk)) = .ok (k w d a mk) := by
  intro k hk
  fin_cases hk <;>
  · refine (decode_vmove rfl).trans ?_
    unfold encodeFields
    simp [Dec.vmove, Dec.mask, Enc.m2, Fields.under]

/-- Two sources under a mask. -/
theorem decode_vmove_two (w : Width) (d a b : Reg) (mk : Fin 8) : ∀ k ∈ [Instr.vperm, .vslide],
    decode (encode (k w d a b mk)) = .ok (k w d a b mk) := by
  intro k hk
  fin_cases hk <;>
  · refine (decode_vmove rfl).trans ?_
    unfold encodeFields
    simp [Dec.vmove, Dec.mask, Enc.m3, Fields.under]

/-- One lane named by S2. -/
theorem decode_vmove_lane (w : Width) (d a b : Reg) : ∀ k ∈ [Instr.vextr, .vins],
    decode (encode (k w d a b)) = .ok (k w d a b) := by
  intro k hk
  fin_cases hk <;>
  · refine (decode_vmove rfl).trans ?_
    unfold encodeFields
    simp [Dec.vmove, Enc.r3, Fields.under]

/-- Reductions and scans. -/
theorem decode_vred_rows (op : RedOp) (t : Arith) (d a : Reg) (mk : Fin 8) :
    ∀ k ∈ [Instr.vred, .vscan], decode (encode (k op t d a mk)) = .ok (k op t d a mk) := by
  intro k hk
  fin_cases hk <;> exact (decode_pack (f := .HC) rfl).trans (Dec.vred_m2 _ _ _ _ _ _ _)

/-! The mask group (R164). -/

theorem decode_maskGroup {x : Fields} (h : x.major = 0x66) : decode (pack x) = Dec.maskGroup (x.under .HC) := by
  have major : (x.under .HC).major = 0x66 := h
  rw [decode_pack (h ▸ rfl : fmtOf x.major = some .HC), decodeFields, major]
  rfl

/-- Two sources. -/
theorem decode_mask_two (d a b : Reg) : ∀ k ∈ [Instr.mand, .mor, .mxor],
    decode (encode (k d a b)) = .ok (k d a b) := by
  intro k hk
  fin_cases hk <;>
  · refine (decode_maskGroup rfl).trans ?_
    unfold encodeFields
    simp [Dec.maskGroup, Dec.zeroXM, Enc.r3, Fields.under]

/-- One source. -/
theorem decode_mask_one (d a : Reg) : ∀ k ∈ [Instr.mnot, .mpop, .mfirst, .mset, .mget],
    decode (encode (k d a)) = .ok (k d a) := by
  intro k hk
  fin_cases hk <;>
  · refine (decode_maskGroup rfl).trans ?_
    unfold encodeFields
    simp [Dec.maskGroup, Dec.zeroXM, Enc.r2, Fields.under]

/-! The system group (R190, R322, R326) and control registers (R93). -/

theorem decode_system {x : Fields} (h : x.major = 0x1F) : decode (pack x) = Dec.system (x.under .HC) := by
  have major : (x.under .HC).major = 0x1F := h
  rw [decode_pack (h ▸ rfl : fmtOf x.major = some .HC), decodeFields, major]
  rfl

theorem decode_controlReg {x : Fields} (h : x.major = 0x1B) : decode (pack x) = Dec.controlReg (x.under .HB) := by
  have major : (x.under .HB).major = 0x1B := h
  rw [decode_pack (h ▸ rfl : fmtOf x.major = some .HB), decodeFields, major]
  rfl

/-! Every row. -/

/-- Decoding the encoding of a well-formed instruction gives it back. -/
theorem decode_encode (i : Instr) (wf : i.wf = true) : decode (encode i) = .ok i := by
  cases i
  case nop | waiti | eret | chkpt => exact decode_plain_rows _ (by simp)
  case add | sub | mul | mulh | mulhu | div | divu | rem | remu | and | or | xor | shl | shr | sra | slt | sltu | min | max | minu | maxu =>
    exact decode_alu_two _ _ _ _ (by simp)
  case clz | ctz | popc | mov => exact decode_alu_one _ _ _ (by simp)
  case sel =>
    refine (decode_alu rfl).trans ?_
    unfold encodeFields
    simp [Dec.alu, Dec.zeroXM, Enc.r3, Fields.under]
  case addi | andi | ori | xori | slti | jalr | mon | mwait => exact decode_imm_rows _ _ _ _ (by simp)
  case shli | shri | srai => exact decode_shift_rows _ _ _ _ (by simp)
  case li | lih | addpc | jal => exact decode_wide_rows _ _ _ (by simp)
  case beq | bne | blt | bge | bltu | bgeu => exact decode_branch_rows _ _ _ _ (by simp)
  case bext d a lo w1 | bexts d a lo w1 | bins d a b lo w1 =>
    have range : fieldOk lo w1 = true := wf
    refine (decode_bitField rfl).trans ?_
    unfold encodeFields
    simp [Dec.bitField, Enc.bits, Fields.under, bits_parts, range]
  case ld | ldu => exact decode_load_rows _ _ _ _ _ (by simp)
  case ldx =>
    refine (decode_pack (f := .HC) rfl).trans (show Dec.ldx _ = _ from ?_)
    unfold encodeFields
    simp [Dec.ldx, Enc.r3, Fields.under]
  case stx =>
    refine (decode_pack (f := .HC) rfl).trans (show Dec.stx _ = _ from ?_)
    unfold encodeFields
    simp [Dec.stx, Fields.under]
  case qbind | qbindProd => exact decode_bind_rows _ _ _ _ _ (by simp)
  case qstream | qstreamWr => exact decode_stream_rows _ _ _ _ (by simp)
  case qunbind | qstat | qflush =>
    refine (decode_queueCtl rfl).trans ?_
    unfold encodeFields
    simp [Dec.queueCtl, Dec.zeroXM, Enc.r2, Fields.under]
  case amoAdd | amoAnd | amoOr | amoXor | amoMin | amoMax | amoMinu | amoMaxu | amoSwap => exact decode_amo_rows _ _ _ _ _ (by simp)
  case amoCas =>
    refine (decode_amo rfl).trans ?_
    unfold encodeFields
    simp [Dec.amo, Enc.r3, Fields.under]
  case amoFadd =>
    refine (decode_amo rfl).trans ?_
    unfold encodeFields
    simp [Dec.amo, Dec.size, Enc.r3, Fields.under]
  case gbar | gbarArrive | gbarWait => exact decode_gbar_rows _ _ (by simp)
  case migrate | migrateNear => exact decode_migrate_rows _ _ _ (by simp)
  case spawn | vrope | vsmax | tkmerge | mma | mmas => exact decode_hc4_rows _ _ _ _ _ (by simp)
  case scat => exact decode_scat_rows _ _ _ _ _ (by simp)
  case scata int _ _ _ _ => cases int <;> exact decode_scat_rows _ _ _ _ _ (by simp)
  case send | sendg => exact (decode_pack (f := .HD) rfl).trans (Dec.send_of _ _ _ _ _ _ _ _ wf)
  case lmake | lanc | lcmp => exact decode_label_two _ _ _ _ (by simp)
  case lpar | ldep | lrange | lcanon | lxlook => exact decode_label_one _ _ _ (by simp)
  case lxinv | lxfill => exact decode_label_sources _ _ _ (by simp)
  case lscan =>
    refine (decode_label rfl).trans ?_
    unfold encodeFields
    simp [Dec.label, Dec.zeroXM, Enc.r3, Fields.under]
  case wacc | waccMul | waccWin | waccS =>
    refine (decode_wacc_row rfl).trans ?_
    unfold encodeFields
    simp [Dec.wacc, Dec.mask, Fields.under]
  case vadd | vsub | vmul | vmin | vmax | vdiv | vsel => exact decode_vfloat_two _ _ _ _ _ _ (by simp)
  case vabs | vneg | vrcp | vrsq | vsqrt | vexp2 | vlog2 => exact decode_vfloat_one _ _ _ _ _ (by simp)
  case vfma | vfms => exact decode_vfloat_three _ _ _ _ _ _ _ (by simp)
  case vcmp =>
    refine (decode_vfloat rfl).trans ?_
    unfold encodeFields
    simp [Dec.vfloat, Dec.mask, Enc.m3, Fields.under]
  case viadd | visub | vimul | vimin | vimax | viminu | vimaxu | vand | vor | vxor | vshl | vshr | vsra =>
    exact decode_vint_two _ _ _ _ _ _ (by simp)
  case vicmp =>
    refine (decode_vint rfl).trans ?_
    unfold encodeFields
    simp [Dec.vint, Dec.mask, Enc.m3, Fields.under]
  case vbcast | vcomp | vexpnd | vmov => exact decode_vmove_one _ _ _ _ _ (by simp)
  case vperm | vslide => exact decode_vmove_two _ _ _ _ _ _ (by simp)
  case vextr | vins => exact decode_vmove_lane _ _ _ _ _ (by simp)
  case vidx =>
    refine (decode_vmove rfl).trans ?_
    unfold encodeFields
    simp [Dec.vmove, Dec.mask, Fields.under]
  case vred | vscan => exact decode_vred_rows _ _ _ _ _ _ (by simp)
  case mand | mor | mxor => exact decode_mask_two _ _ _ _ (by simp)
  case mnot | mpop | mfirst | mset | mget => exact decode_mask_one _ _ _ (by simp)
  case sdrain | sfqpop | tlbinv | gkill =>
    refine (decode_system rfl).trans ?_
    unfold encodeFields
    simp [Dec.system, Dec.zeroXM, Fields.under]
  case crset | crclr =>
    refine (decode_controlReg rfl).trans ?_
    unfold encodeFields
    simp [Dec.controlReg, Dec.cr_parts, Enc.cr, Fields.under]
  case loop =>
    refine (decode_pack (f := .HB) rfl).trans (show Dec.loop _ = _ from ?_)
    unfold encodeFields
    simp [Dec.loop, Fields.under]
  case jmp =>
    refine (decode_pack (f := .HD) rfl).trans (show Dec.jmp _ = _ from ?_)
    unfold encodeFields
    simp [Dec.jmp, Fields.under]
  case enda | endaT => rfl
  case trap c => exact decode_pack (f := .H) rfl
  case crrd d r =>
    have general : crrdOwnRow r = false := by simpa [Instr.wf] using wf
    exact (decode_controlReg rfl).trans ((Dec.controlReg_read d r).trans (congrArg _ (Dec.crrd_general general d)))
  case crwr r a =>
    have general : crwrOwnRow r = false := by simpa [Instr.wf] using wf
    exact (decode_controlReg rfl).trans ((Dec.controlReg_write a r).trans (congrArg _ (Dec.crwr_general general a)))
  case healthRead d => exact (decode_controlReg rfl).trans (Dec.controlReg_read d 0x880)
  case cpydoneWrite a => exact (decode_controlReg rfl).trans (Dec.controlReg_write a 0x031)
  case mwgtWrite a => exact (decode_controlReg rfl).trans (Dec.controlReg_write a 0x025)
  case lnkDegradeRead l d =>
    exact (decode_controlReg rfl).trans ((Dec.controlReg_read d _).trans (congrArg _ (Dec.crrd_link l d)))
  case lnkRateWrite l a =>
    exact (decode_controlReg rfl).trans ((Dec.controlReg_write a _).trans (congrArg _ (Dec.crwr_link_rate l a)))
  case lnkTrapWrite l a =>
    exact (decode_controlReg rfl).trans ((Dec.controlReg_write a _).trans (congrArg _ (Dec.crwr_link_trap l a)))
  case st =>
    refine (decode_pack (f := .HB) rfl).trans (show Dec.st _ = _ from ?_)
    unfold encodeFields
    simp [Dec.st, Enc.br, Fields.under]
  case vld =>
    refine (decode_pack (f := .HB) rfl).trans (show Dec.vld _ = _ from ?_)
    unfold encodeFields
    simp [Dec.vld, Enc.imm, Fields.under]
  case vst =>
    refine (decode_pack (f := .HB) rfl).trans (show Dec.vst _ = _ from ?_)
    unfold encodeFields
    simp [Dec.vst, Enc.br, Fields.under]
  case vlds =>
    refine (decode_pack (f := .HC) rfl).trans (show Dec.vlds _ = _ from ?_)
    unfold encodeFields
    simp [Dec.vlds, Enc.m3, Dec.mask, Fields.under]
  case vsts =>
    refine (decode_pack (f := .HC) rfl).trans (show Dec.vsts _ = _ from ?_)
    unfold encodeFields
    simp [Dec.vsts, Dec.mask, Fields.under]
  case cpy | wclr => exact (decode_pack (f := .HA) rfl).trans (Dec.haS1_of _ _ _)
  case cpyseal | tskts => exact (decode_pack (f := .H) rfl).trans (Dec.destOnly_of _ _ _)
  case cpywait =>
    refine (decode_pack (f := .HB) rfl).trans (show Dec.cpywait _ = _ from ?_)
    unfold encodeFields
    simp [Dec.cpywait, Fields.under]
  case deal =>
    refine (decode_pack (f := .HA) rfl).trans (show Dec.deal _ = _ from ?_)
    unfold encodeFields
    simp [Dec.deal, Fields.under]
  case mdisarm | mdisarmAll =>
    refine (decode_pack (f := .HA) rfl).trans (show Dec.mdisarm _ = _ from ?_)
    unfold encodeFields
    simp [Dec.mdisarm, Fields.under]
  case amov op t d a b mk =>
    have pairing : amovOk op t = true := wf
    refine (decode_pack (f := .HC) rfl).trans (show Dec.amov _ = _ from ?_)
    unfold encodeFields
    simp [Dec.amov, Enc.m3, Dec.mask, Fields.under, pairing]
  case ared =>
    refine (decode_pack (f := .HC) rfl).trans (show Dec.ared _ = _ from ?_)
    unfold encodeFields
    simp [Dec.ared, Dec.mask, Fields.under]
  case fence c k eng xl => exact (decode_pack (f := .HA) rfl).trans (Dec.fence_of c k eng xl)
  case sendv d a b t n nk nw =>
    obtain ⟨high, now, nack, number, typ⟩ := Dec.sendImm_parts t n nk nw
    have named := Dec.send_named (d := d) (n := n) wf
    refine (decode_pack (f := .HD) rfl).trans (show Dec.sendv _ = _ from ?_)
    unfold encodeFields
    simp only [Dec.sendv, Enc.wide, Fields.under, high, now, nack, number, typ, Dec.ok_bind, Dec.reg_enc, if_neg named]
    simp
  case gath =>
    refine (decode_pack (f := .HC) rfl).trans (show Dec.gath _ = _ from ?_)
    unfold encodeFields
    simp [Dec.gath, Enc.m3, Dec.gath_parts, Dec.mask, Fields.under]
  case gathq =>
    refine (decode_pack (f := .HC) rfl).trans (show Dec.gathq _ = _ from ?_)
    unfold encodeFields
    simp [Dec.gathq, Enc.m3, Dec.gath_parts, Dec.mask, Fields.under]
  case wrd =>
    refine (decode_pack (f := .HA) rfl).trans (show Dec.wrd _ = _ from ?_)
    unfold encodeFields
    simp [Dec.wrd, Fields.under]
  case vcvt dst src r sat d a mk =>
    have pair : vcvtOk dst src sat = true := wf
    refine (decode_pack (f := .HC) rfl).trans (show Dec.vcvt _ = _ from ?_)
    unfold encodeFields
    cases r <;> simp [Dec.vcvt, Dec.vcvt_source, Dec.vcvt_dest, Dec.vcvt_flags, Dec.mask, Fields.under, pair]
  case kvscan =>
    refine (decode_pack (f := .HB) rfl).trans (show Dec.kvscan _ = _ from ?_)
    unfold encodeFields
    simp [Dec.kvscan, Enc.imm, Fields.under]
  case posadd =>
    refine (decode_pack (f := .HA) rfl).trans (show Dec.posadd _ = _ from ?_)
    unfold encodeFields
    simp [Dec.posadd, Enc.r3, Fields.under]
  case vthrc =>
    refine (decode_pack (f := .HC) rfl).trans (show Dec.vthrc _ = _ from ?_)
    unfold encodeFields
    simp [Dec.vthrc, Enc.m3, Dec.mask, Fields.under]
  case vargmx =>
    refine (decode_pack (f := .HA) rfl).trans (show Dec.vargmx _ = _ from ?_)
    unfold encodeFields
    simp [Dec.vargmx, Enc.r2, Fields.under]
  case spdec p _ _ _ _ =>
    refine (decode_pack (f := .HC) rfl).trans (show Dec.spdec _ = _ from ?_)
    unfold encodeFields
    cases p <;> simp [Dec.spdec, Enc.r3, Enc.spPat, Fields.under]
  case mmsync | sigchk => exact (decode_pack (f := .HB) rfl).trans (Dec.immOnly_of _ _ _)
  case mqstat d => exact (decode_pack (f := .HA) rfl).trans (Dec.destOnly_of 0x74 d .mqstat)
  all_goals exact absurd wf Bool.false_ne_true

/-- Settles O3, row by row. -/
theorem decodeEncode : Obligations.DecodeEncode := decode_encode

end Sys2Proof
end

section
/-! What decodes is well-formed (O4): each decoder of a major gives well-formed instructions only. -/

namespace Sys2Proof

namespace Dec

/-- A decoder's answer is well-formed where it has one. -/
def Sound (x : Except DecodeErr Instr) : Prop := ∀ i, x = .ok i → i.wf = true

@[simp] theorem sound_error (e : DecodeErr) : Sound (.error e) ↔ True := ⟨fun _ => trivial, fun _ _ h => nomatch h⟩

@[simp] theorem sound_ok (i : Instr) : Sound (.ok i) ↔ i.wf = true :=
  ⟨fun h => h i rfl, fun h _ e => Except.ok.inj e ▸ h⟩

@[simp] theorem sound_pure (i : Instr) : Sound (pure i) ↔ i.wf = true := sound_ok i

/-- A sequence is sound where its last part is, for every value the parts before answer. -/
@[simp] theorem sound_bind {α : Type} (x : Except DecodeErr α) (f : α → Except DecodeErr Instr) :
    Sound (x >>= f) ↔ ∀ a, x = .ok a → Sound (f a) := by
  cases x with
  | error e => exact ⟨fun _ _ h => (nomatch h), fun _ _ h => (nomatch h)⟩
  | ok a => exact ⟨fun h b e => Except.ok.inj e ▸ h, fun h => h a rfl⟩

variable {f : Fields}

/-! Rows of a shape, for every instruction of the shape. -/

theorem sound_plain {i : Instr} (h : i.wf = true) : Sound (plain f i) := by
  simp only [plain, sound_bind, sound_pure]
  exact fun _ _ => h

theorem sound_destOnly {k : Reg → Instr} (h : ∀ d, (k d).wf = true) : Sound (destOnly f k) := by
  simp only [destOnly, sound_bind, sound_pure]
  exact fun d _ => h d

theorem sound_immOnly {k : Half → Instr} (h : ∀ i, (k i).wf = true) : Sound (immOnly f k) := by
  simp only [immOnly, sound_bind, sound_pure]
  exact fun _ _ _ _ _ _ _ _ => h _

theorem sound_haS1 {k : Reg → Instr} (h : ∀ a, (k a).wf = true) : Sound (haS1 f k) := by
  simp only [haS1, sound_bind, sound_pure]
  exact fun _ _ _ _ _ _ a _ => h a

theorem sound_immRow {k : Reg → Reg → Half → Instr} (h : ∀ d a i, (k d a i).wf = true) : Sound (immRow f k) := by
  simp only [immRow, sound_bind, sound_pure]
  exact fun _ _ _ _ _ _ _ _ => h _ _ _

theorem sound_shiftRow {k : Reg → Reg → BitVec 6 → Instr} (h : ∀ d a n, (k d a n).wf = true) : Sound (shiftRow f k) := by
  simp only [shiftRow, sound_bind, sound_pure]
  exact fun _ _ _ _ _ _ _ _ _ _ => h _ _ _

theorem sound_wideRow {k : Reg → BitVec 32 → Instr} (h : ∀ d i, (k d i).wf = true) : Sound (wideRow f k) := by
  simp only [wideRow, sound_bind, sound_pure]
  exact fun _ _ _ _ _ _ _ _ => h _ _

theorem sound_branch {k : Reg → Reg → Half → Instr} (h : ∀ a b i, (k a b i).wf = true) : Sound (branch f k) := by
  simp only [branch, sound_bind, sound_pure]
  exact fun _ _ _ _ _ _ _ _ => h _ _ _

theorem sound_loadRow {k : Size → Reg → Reg → Half → Instr} (h : ∀ z d a i, (k z d a i).wf = true) : Sound (loadRow f k) := by
  simp only [loadRow, sound_bind, sound_pure]
  exact fun _ _ _ _ _ _ => h _ _ _ _

theorem sound_hc4 {k : Reg → Reg → Reg → Reg → Instr} (h : ∀ d a b c, (k d a b c).wf = true) : Sound (hc4 f k) := by
  simp only [hc4, sound_bind, sound_pure]
  exact fun _ _ _ _ _ _ _ _ _ _ _ _ => h _ _ _ _

theorem sound_scat {k : Reg → Reg → Reg → Fin 8 → Instr} (h : ∀ a b c m, (k a b c m).wf = true) : Sound (scat f k) := by
  simp only [scat, sound_bind, sound_pure]
  exact fun _ _ _ _ _ _ _ _ _ _ => h _ _ _ _

theorem sound_vred {k : RedOp → Arith → Reg → Reg → Fin 8 → Instr} (h : ∀ o t d a m, (k o t d a m).wf = true) :
    Sound (vred f k) := by
  simp only [vred, sound_bind]
  intros
  split <;> simp only [sound_pure, sound_error, h]

/-- SEND and SENDG: a wait number of zero leaves D zero, so D names g0. -/
theorem named_of_zeroCheck {n : BitVec 3} {d : Reg} {b : BitVec 7} (hd : reg b = .ok d) (hn : ¬(n = 0 ∧ b ≠ 0)) :
    (n != 0 || d == .g 0) = true := by
  by_cases h0 : n = 0
  · have hb : b = 0 := by simpa [h0] using hn
    subst hb
    have : d = .g 0 := (Except.ok.inj hd).symm
    simp [this]
  · exact Bool.or_eq_true_iff.2 (.inl (bne_iff_ne.2 h0))

theorem sound_send {k : Reg → Reg → BitVec 8 → BitVec 3 → Bool → Bool → Instr}
    (h : ∀ d a t n x y, (n != 0 || d == .g 0) = true → (k d a t n x y).wf = true) : Sound (send f k) := by
  simp only [send, sound_bind]
  intro _ _ _ _ _ _ d hd a _
  split
  · simp only [sound_error]
  · rename_i hn
    exact (sound_pure _).2 (h _ _ _ _ _ _ (named_of_zeroCheck hd hn))

theorem sound_sendv : Sound (sendv f) := by
  simp only [sendv, sound_bind]
  intro _ _ _ _ d hd a _ b _
  split
  · simp only [sound_error]
  · rename_i hn
    exact (sound_pure _).2 (named_of_zeroCheck hd hn)

/-! Rows with a check of their own. -/

theorem sound_bitField : Sound (bitField f) := by
  simp only [bitField, sound_bind]
  intro d _ a _ _ _
  split
  · simp only [sound_error]
  · rename_i hr
    have ok : fieldOk (f.i16.extractLsb' 0 6) (f.i16.extractLsb' 6 6) = true := by simpa using hr
    split <;> simp only [sound_bind, sound_pure, sound_error] <;> intros <;> exact ok

theorem wf_crwr (r : BitVec 12) (a : Reg) : (crwr r a).wf = true := by
  unfold crwr
  split_ifs with h1 h2 h3 h4
  · rfl
  · rfl
  · rfl
  · rfl
  · simpa [Instr.wf] using h3

theorem wf_crrd (d : Reg) (r : BitVec 12) : (crrd d r).wf = true := by
  unfold crrd
  split_ifs with h1 h2
  · rfl
  · rfl
  · simpa [Instr.wf] using h2

theorem sound_controlReg : Sound (controlReg f) := by
  simp only [controlReg, sound_bind]
  intros
  split <;> simp only [sound_bind, sound_pure, wf_crwr, wf_crrd, implies_true] <;> intros <;> rfl

theorem sound_amov : Sound (amov f) := by
  simp only [amov, sound_bind]
  intro _ _ d _ a _ b _ op _
  split
  · rename_i ok
    exact (sound_pure _).2 ok
  · simp only [sound_error]

theorem sound_vcvt : Sound (vcvt f) := by
  simp only [vcvt, sound_bind]
  intro _ _ _ _ d _ a _ src _ dst _
  split
  · simp only [sound_error]
  · rename_i hc
    have ok : vcvtOk dst src (f.x.extractLsb' 0 1 = 1) = true := by simpa using hc
    split <;> simp only [sound_bind, sound_pure]
    · exact fun _ _ => ok
    · exact ok

/-! Rows of a major whose every instruction is well-formed. -/

theorem sound_amo : Sound (amo f) := by
  simp only [amo, sound_bind]
  intros
  split
  case h_11 =>
    rw [sound_bind]
    intros
    split_ifs
    · exact (sound_pure _).2 rfl
    · exact (sound_error _).2 trivial
  all_goals simp only [sound_bind, sound_pure, sound_error]
  all_goals intros; rfl

theorem sound_qstream : Sound (qstream f) := by
  have wf : ∀ (p : Prop) [Decidable p] (w d a), (if p then Instr.qstreamWr w d a else .qstream w d a).wf = true := by
    intro p _ w d a
    split_ifs <;> rfl
  simp only [qstream, sound_bind]
  intros
  split <;> simp only [sound_pure, sound_error, wf]

/-- Majors whose FN or X picks the row. -/
theorem sound_groups : ∀ x ∈ [alu f, system f, queueCtl f, mdisarm f, gbar f, label f, wacc f, vfloat f, vint f, vmove f,
    maskGroup f], Sound x := by
  simp only [List.forall_mem_cons, List.not_mem_nil, false_implies, implies_true, and_true, alu, system, queueCtl, mdisarm,
    gbar, label, wacc, vfloat, vint, vmove, maskGroup, sound_bind]
  refine ⟨?_, ?_, ?_, ?_, ?_, ?_, ?_, ?_, ?_, ?_, ?_⟩ <;> intros <;> split <;>
    simp only [sound_bind, sound_pure, sound_error] <;> intros <;> rfl

/-- Majors of one row. -/
theorem sound_rows : ∀ x ∈ [loop f, jmp f, st f, ldx f, stx f, vld f, vst f, vlds f, vsts f, cpywait f, deal f, ared f,
    wrd f, kvscan f, posadd f, vthrc f, vargmx f, spdec f], Sound x := by
  simp only [List.forall_mem_cons, List.not_mem_nil, false_implies, implies_true, and_true, loop, jmp, st, ldx, stx, vld, vst,
    vlds, vsts, cpywait, deal, ared, wrd, kvscan, posadd, vthrc, vargmx, spdec, sound_bind, sound_pure]
  refine ⟨?_, ?_, ?_, ?_, ?_, ?_, ?_, ?_, ?_, ?_, ?_, ?_, ?_, ?_, ?_, ?_, ?_, ?_⟩ <;> intros <;> rfl

/-- Rows whose last part picks between two instructions of the major. -/
theorem sound_choices : ∀ x ∈ [enda f, qbind f, migrate f, gath f, gathq f], Sound x := by
  simp only [List.forall_mem_cons, List.not_mem_nil, false_implies, implies_true, and_true, enda, qbind, migrate, gath, gathq,
    sound_bind]
  refine ⟨?_, ?_, ?_, ?_, ?_⟩ <;> intros <;> split_ifs <;> simp only [sound_pure, sound_error] <;> rfl

theorem sound_fence : Sound (fence f) := by
  simp only [fence, sound_bind]
  intros
  split <;> rw [sound_bind] <;> intros <;> split <;> rw [sound_bind] <;> intros <;> exact (sound_pure _).2 rfl

theorem sound_scatRow : Sound (if f.x = 0 then scat f .scat else .error .reservedCode) := by
  split_ifs
  · exact sound_scat (fun _ _ _ _ => rfl)
  · exact (sound_error _).2 trivial

theorem sound_scataRow :
    Sound (match f.x with | 0 => scat f (.scata false) | 1 => scat f (.scata true) | _ => .error .reservedCode) := by
  split
  · exact sound_scat (fun _ _ _ _ => rfl)
  · exact sound_scat (fun _ _ _ _ => rfl)
  · exact (sound_error _).2 trivial

theorem sound_mqstat : Sound (do zero f.x; zero f.s1; zero f.s2; destOnly f .mqstat) := by
  simp only [sound_bind]
  intros
  exact sound_destOnly (fun _ => rfl)

/-- Every row of the opcode map (R72) gives well-formed instructions only. -/
theorem sound_decodeFields : Sound (decodeFields f) := by
  unfold decodeFields
  split
  exacts [sound_plain (rfl), sound_groups (f := f) _ (by simp), sound_immRow (fun _ _ _ => rfl),
    sound_immRow (fun _ _ _ => rfl), sound_immRow (fun _ _ _ => rfl), sound_immRow (fun _ _ _ => rfl),
    sound_shiftRow (fun _ _ _ => rfl), sound_shiftRow (fun _ _ _ => rfl), sound_shiftRow (fun _ _ _ => rfl),
    sound_immRow (fun _ _ _ => rfl), sound_wideRow (fun _ _ => rfl), sound_wideRow (fun _ _ => rfl),
    sound_wideRow (fun _ _ => rfl), sound_bitField, sound_branch (fun _ _ _ => rfl), sound_branch (fun _ _ _ => rfl),
    sound_branch (fun _ _ _ => rfl), sound_branch (fun _ _ _ => rfl), sound_branch (fun _ _ _ => rfl),
    sound_branch (fun _ _ _ => rfl), sound_rows (f := f) _ (by simp), sound_rows (f := f) _ (by simp),
    sound_wideRow (fun _ _ => rfl), sound_immRow (fun _ _ _ => rfl), sound_choices (f := f) _ (by simp),
    sound_controlReg, (sound_ok _).2 rfl, sound_plain (rfl), sound_plain (rfl), sound_groups (f := f) _ (by simp),
    sound_loadRow (fun _ _ _ _ => rfl), sound_loadRow (fun _ _ _ _ => rfl), sound_rows (f := f) _ (by simp),
    sound_rows (f := f) _ (by simp), sound_rows (f := f) _ (by simp), sound_rows (f := f) _ (by simp),
    sound_rows (f := f) _ (by simp), sound_rows (f := f) _ (by simp), sound_rows (f := f) _ (by simp),
    sound_choices (f := f) _ (by simp), sound_qstream, sound_groups (f := f) _ (by simp), sound_haS1 (fun _ => rfl),
    sound_destOnly (fun _ => rfl), sound_rows (f := f) _ (by simp), sound_rows (f := f) _ (by simp),
    sound_immRow (fun _ _ _ => rfl), sound_immRow (fun _ _ _ => rfl), sound_groups (f := f) _ (by simp), sound_amo,
    sound_amov, sound_rows (f := f) _ (by simp), sound_fence, sound_plain (rfl), sound_groups (f := f) _ (by simp),
    sound_send (fun _ _ _ _ _ _ h => h), sound_sendv, sound_send (fun _ _ _ _ _ _ h => h),
    sound_choices (f := f) _ (by simp), sound_hc4 (fun _ _ _ _ => rfl), sound_destOnly (fun _ => rfl),
    sound_choices (f := f) _ (by simp), sound_choices (f := f) _ (by simp), sound_scatRow, sound_scataRow,
    sound_groups (f := f) _ (by simp), sound_groups (f := f) _ (by simp), sound_rows (f := f) _ (by simp),
    sound_haS1 (fun _ => rfl), sound_groups (f := f) _ (by simp), sound_groups (f := f) _ (by simp), sound_vcvt,
    sound_groups (f := f) _ (by simp), sound_vred (fun _ _ _ _ _ => rfl), sound_vred (fun _ _ _ _ _ => rfl),
    sound_groups (f := f) _ (by simp), sound_hc4 (fun _ _ _ _ => rfl), sound_hc4 (fun _ _ _ _ => rfl),
    sound_rows (f := f) _ (by simp), sound_rows (f := f) _ (by simp), sound_rows (f := f) _ (by simp),
    sound_rows (f := f) _ (by simp), sound_hc4 (fun _ _ _ _ => rfl), sound_hc4 (fun _ _ _ _ => rfl),
    sound_hc4 (fun _ _ _ _ => rfl), sound_rows (f := f) _ (by simp), sound_immOnly (fun _ => rfl), sound_mqstat,
    sound_immOnly (fun _ => rfl), (sound_error _).2 trivial]

end Dec

/-- What decodes is well-formed. -/
theorem wf_of_decode : Claim.DecodedWellFormed := by
  intro e i h
  unfold decode at h
  split at h
  · cases h
  · exact Dec.sound_decodeFields i h

/-- A head of a major the opcode map has no format for is refused (R70, R74). -/
theorem decode_of_no_format {e : Enc} (h : fmtOf (headMajor e.head) = none) : decode e = .error .reservedMajor := by
  simp only [decode, unpack, h]

/-- R74's majors, and 0x00, have no format. -/
theorem fmtOf_reserved : ∀ m : BitVec 7, m.toNat ∈
    [0x00, 0x0F, 0x25, 0x26, 0x27, 0x2C, 0x2D, 0x2E, 0x2F, 0x33, 0x3B, 0x42, 0x43, 0x4E, 0x4F, 0x51, 0x52, 0x53, 0x57, 0x58,
     0x59, 0x5A, 0x5B, 0x5C, 0x5D, 0x5E, 0x5F, 0x67, 0x6F, 0x75, 0x76, 0x77, 0x79, 0x7A, 0x7B, 0x7C, 0x7D, 0x7E, 0x7F] →
    fmtOf m = none := by
  decide

end Sys2Proof

namespace Sys2Proof.Machine

/-! What a slot does with the head its PC names in a line it holds (R56, R58, R61, R70, R71). -/

section

variable {s : State} {c i : Nat} {line : W64}

/-- A PC names a head of its line: it is even and its halfword is one of the line's heads (R58). -/
def Line.Named (l : Line) (pc : W64) : Prop :=
  pc.toNat % 2 = 0 ∧ 1 ≤ pc.toNat / 2 % 32 ∧ pc.toNat / 2 % 32 ≤ Line.heads l

theorem State.readyHead_illegalLine (hl : Line.legal (s.slot c i).fetch.slots = false) :
    s.readyHead c i line = .stay (s.fetchTrap c i Cause.illegalLine 0 line) := by
  simp only [State.readyHead, hl, Bool.not_false, if_true]

theorem State.readyHead_illegalTarget (hl : Line.legal (s.slot c i).fetch.slots = true)
    (hn : ¬Line.Named (s.slot c i).fetch.slots (s.slot c i).regs.pc) :
    s.readyHead c i line = .stay (s.fetchTrap c i Cause.illegalTarget 0 (s.slot c i).regs.pc) := by
  have off : (s.slot c i).regs.pc.toNat % 2 = 1 ∨ (s.slot c i).regs.pc.toNat / 2 % 32 = 0 ∨
      Line.heads (s.slot c i).fetch.slots < (s.slot c i).regs.pc.toNat / 2 % 32 := by
    unfold Line.Named at hn
    omega
  simp only [State.readyHead, hl, Bool.not_true, Bool.false_eq_true, if_false, off, if_true]

theorem Line.last_iff {l : Line} {n : Nat} : Line.last l n = true ↔ Line.heads l = n := by
  rw [Line.last, beq_iff_eq, eq_comm]

theorem Line.Named.not_off {l : Line} {pc : W64} (hn : Line.Named l pc) :
    ¬(pc.toNat % 2 = 1 ∨ pc.toNat / 2 % 32 = 0 ∨ Line.heads l < pc.toNat / 2 % 32) := by
  unfold Line.Named at hn
  omega

theorem State.readyHead_refused {x : DecodeErr} (hl : Line.legal (s.slot c i).fetch.slots = true)
    (hn : Line.Named (s.slot c i).fetch.slots (s.slot c i).regs.pc)
    (hd : decode (Line.enc (s.slot c i).fetch.slots ((s.slot c i).regs.pc.toNat / 2 % 32)) = .error x) :
    s.readyHead c i line = .stay (s.fetchTrap c i Cause.illegalInstruction 0
      (encVal (Line.enc (s.slot c i).fetch.slots ((s.slot c i).regs.pc.toNat / 2 % 32)))) := by
  simp only [State.readyHead, hl, Bool.not_true, Bool.false_eq_true, if_false, hn.not_off, hd]

theorem State.readyHead_decoded {ins : Instr} (hl : Line.legal (s.slot c i).fetch.slots = true)
    (hn : Line.Named (s.slot c i).fetch.slots (s.slot c i).regs.pc)
    (hd : decode (Line.enc (s.slot c i).fetch.slots ((s.slot c i).regs.pc.toNat / 2 % 32)) = .ok ins) :
    s.readyHead c i line = .go { (s.openChunk c i) with
      cur := { core := c, slot := i, enc := Line.enc (s.slot c i).fetch.slots ((s.slot c i).regs.pc.toNat / 2 % 32),
               line := line,
               next := if Line.heads (s.slot c i).fetch.slots = (s.slot c i).regs.pc.toNat / 2 % 32 then line + 66
                 else (s.slot c i).regs.pc + 2 } } ins := by
  simp only [State.readyHead, hl, Bool.not_true, Bool.false_eq_true, if_false, hn.not_off, hd, Line.last_iff]

end

end Sys2Proof.Machine

namespace Sys2Proof.Claim

open Sys2Proof.Machine

/-- A head that does not decode raises illegal-instruction, with nothing of it executed (R70). -/
theorem illegalHead_of_error {e : Enc} {x : DecodeErr} (h : decode e = .error x) : IllegalHead e := by
  refine ⟨⟨x, h⟩, ?_⟩
  intro s c i line y n hl h2 h1 hn he
  subst he
  exact State.readyHead_refused hl ⟨h2, h1, hn⟩ h

/-- Settles O4: each decoder of a major answers well-formed instructions only, and a reserved major has no format. -/
theorem decodeRefuses : Obligations.DecodeRefuses :=
  ⟨wf_of_decode, fun _ h => illegalHead_of_error (decode_of_no_format (fmtOf_reserved _ h))⟩

end Sys2Proof.Claim
end

section
/-! The turn of a slot at an instruction boundary where nothing is due (O1). -/

namespace Sys2Proof.Machine

section

variable {s : State} {c i : Nat} {a : Act}

/-- A slot that runs an activation of its own at an instruction boundary where nothing is due before its next head: no pre-emption,
no wait for its host writes, no end of its chunk, no imprecise trap and no overrun. -/
structure AtBoundary (s : State) (c i : Nat) (a : Act) : Prop where
  act : (s.slot c i).act = some a
  runs : (s.slot c i).phase = .run
  own : a.owner = none
  stays : ¬(a.cls = 0 ∧ s.halting a.stamp.asid = true)
  arrived : (s.slot c i).ext = [] ∨ ∀ y ∈ s.arrivals, y.act ≠ a.id
  roomy : ∀ ch, (s.slot c i).chunk = some ch → ch.count < 512
  within : ¬(a.cls = 1 ∧ 2048 ≤ a.executed)
  quiet : (s.slot c i).impreciseDue = false ∨ (s.slot c i).regs.resumed = true

theorem AtBoundary.not_heldBack (b : AtBoundary s c i a) : s.heldBack (s.slot c i) a = false := by
  have waits : ((s.slot c i).ext != [] && s.arrivals.any (fun r => r.act == a.id)) = false := by
    rcases b.arrived with he | ha
    · simp [he]
    · have none_ : s.arrivals.any (fun r => r.act == a.id) = false := by simpa using ha
      simp [none_]
  simp only [State.heldBack, b.own, Option.isSome_none, waits, Bool.or_false]

theorem AtBoundary.boundary (b : AtBoundary s c i a) : (s.slot c i).boundary a = none := by
  have due : ((s.slot c i).impreciseDue && !(s.slot c i).regs.resumed) = false := by
    rcases b.quiet with h | h <;> simp [h]
  have paced : (a.cls == 1 && decide (2048 ≤ a.executed)) = false := by
    simpa using b.within
  cases h : (s.slot c i).chunk with
  | none => simp only [Slot.boundary, h, due, paced, Bool.false_eq_true, if_false]
  | some ch =>
    have room : decide (512 ≤ ch.count) = false := by simpa using b.roomy ch h
    simp only [Slot.boundary, h, room, due, paced, Bool.false_eq_true, if_false]

/-- Such a slot goes on to the head its PC names. -/
theorem AtBoundary.slotTurn (b : AtBoundary s c i a) : s.slotTurn c i = s.fetchHead c i := by
  have awaits : (s.slot c i).awaited = false := by simp only [Slot.awaited, b.runs]
  have halts : (some a).any (fun a => a.cls == 0 && s.halting a.stamp.asid) = false := by
    rw [Option.any_some, Bool.and_eq_false_iff]
    by_cases h0 : a.cls = 0
    · exact .inr (Bool.eq_false_iff.2 (fun h => b.stays ⟨h0, h⟩))
    · exact .inl (beq_eq_false_iff_ne.2 h0)
  simp only [State.slotTurn, awaits, halts, b.act, b.runs, b.not_heldBack, b.boundary, Bool.false_and, Bool.false_eq_true, if_false]

end

/-- Where a slot is does not bear on the opening of its chunk. -/
theorem State.openChunk_at (s : State) (k k' : Cur) (c i : Nat) :
    { (State.openChunk { s with cur := k } c i) with cur := k' } = { (s.openChunk c i) with cur := k' } := by
  have same : (State.slot { s with cur := k } c i) = s.slot c i := rfl
  simp only [State.openChunk, same]
  cases (s.slot c i).chunk <;> rfl

/-- A slot whose PC lies in the line it executes from reads that line's head. -/
theorem State.fetchHead_held {s : State} {c i : Nat} (low : (s.slot c i).regs.pc.toNat < 2 ^ 57)
    (holds : (s.slot c i).fetch.line = some ((s.slot c i).regs.pc &&& 0xFFFFFFFFFFFFFFC0)) :
    s.fetchHead c i = s.readyHead c i ((s.slot c i).regs.pc &&& 0xFFFFFFFFFFFFFFC0) := by
  unfold State.fetchHead
  rw [if_neg (Nat.not_le.2 low), if_pos holds]

theorem runTurn_slot {s u : State} {c i : Nat} {ins : Instr} (turn : s.slotTurn c i = .go u ins) :
    runTurn (.slot c i) s = exec ins u := by
  simp only [runTurn, turn]

/-- A slot whose turn goes on to an instruction executes it. -/
theorem step_slot {s u : State} {r : List Turn} {c i : Nat} {ins : Instr} (hag : s.agenda = .slot c i :: r)
    (turn : State.slotTurn { s with agenda := r } c i = .go u ins) : step s = exec ins u := by
  unfold step
  rw [hag]
  exact runTurn_slot turn

end Sys2Proof.Machine

namespace Sys2Proof.Claim

open Sys2Proof.Machine

/-- Settles O1: the turn of a slot at a quiet boundary is the fetch of its head, and a held legal line gives that head decoded. -/
theorem stepRunsDecoded : Obligations.StepRunsDecoded := by
  intro s r c i a ins x n hag ha hr ho hh harr hch hov himp hpc hline hl h2 h1 hn hd
  have b : AtBoundary { s with agenda := r } c i a := ⟨ha, hr, ho, hh, harr, hch, hov, himp⟩
  have turn := (b.slotTurn.trans (State.fetchHead_held hpc hline)).trans (State.readyHead_decoded hl ⟨h2, h1, hn⟩ hd)
  exact (step_slot hag turn).trans (congrArg (exec ins) (State.openChunk_at _ _ _ c i).symm)

/-- What stops a slot before the instruction at its PC (R56, R61, R70, R71): the part of O2 about lines already fetched. -/
theorem fetchFaults : FetchFaults := by
  intro s c i line x l n
  refine ⟨State.readyHead_illegalLine, fun legal off => State.readyHead_illegalTarget legal fun named => named.not_off off, ?_⟩
  exact fun e legal even first last refused => State.readyHead_refused legal ⟨even, first, last⟩ refused

end Sys2Proof.Claim
end

section
/-! What reading and writing an operand does (O11). -/

namespace Sys2Proof.Machine

/-- An unbound queue can be popped: it is the slot's own FIFO (R66). -/
theorem takesPop_unbound {x : Queue} (b : x.bind = .unbound) : takesPop x.kind = true := by
  simp [Queue.kind, b, takesPop]

/-- An instruction whose one queue operand is a source that can be popped pops it and nothing else. -/
theorem operands_queue {i : Fin 16} {s : State} (k : takesPop (s.regs.q[i]).kind = true) :
    operands [.q i] none s = (popQ i >>= fun e => pure [(i, e)]) s := by
  have q : queuesOf [.q i] = [i] := by simp [queuesOf]
  have ok : kindsOk [i] none s = .ok () s := by
    simp only [Fin.getElem_fin] at k
    simp [kindsOk, run_bind, k]
  have pops : popList [i] = (popQ i >>= fun e => pure [(i, e)]) := by simp [popList]
  show ((do kindsOk (queuesOf [.q i]) none; popList (queuesOf [.q i])) : M Pops) s = _
  rw [q, run_bind_of_ok ok, pops]

end Sys2Proof.Machine

namespace Sys2Proof.Claim

open Sys2Proof.Machine

/-- g0, m0 and the k registers (R62, R64). -/
theorem fixedRegisters : FixedRegisters := by
  intro s p x n
  refine ⟨?_, ⟨_, writeG_g 0 x s, ?_, rfl⟩, ?_, ⟨_, writeM_m 0 x s, ?_, rfl⟩, ?_, ?_⟩
  · rw [readG_g, Regs.readG_zero]
  · rw [State.regs_modRegs, Regs.writeG_zero]
  · rw [readM_m, Regs.readM_zero]
  · rw [State.regs_modRegs, Regs.writeM_zero]
  · intro h
    rw [okG_k, h]
    rfl
  · intro h
    rw [okG_k, h]
    rfl

/-- A queue bound to nothing as the slot's own FIFO (R66, R67). -/
theorem privateQueues : PrivateQueues := by
  intro s i e l x b
  have pop := operands_queue (i := i) (takesPop_unbound b)
  refine ⟨fun h => ?_, fun h => ⟨s, ?_⟩, fun h => ⟨_, pushQ_unbound b h, ?_⟩, fun h => ⟨s, pushQ_full b h⟩⟩
  · refine ⟨_, pop.trans (run_bind_of_ok (popQ_unbound b h)), ?_, ?_, ?_⟩
    · simp [popped]
    · rw [State.regs_modRegs, Regs.writeQ_same]
    · rw [State.regs_modRegs, Regs.writeQ_same]
      exact b
  · rw [pop, run_bind, popQ_empty b h]
    rfl
  · rw [State.regs_modRegs, Regs.writeQ_same]

/-- Settles O11: the fixed registers by their accessors, the unbound queues by the rules of a pop and a push. -/
theorem registerFiles : Obligations.RegisterFiles := ⟨fixedRegisters, privateQueues⟩

end Sys2Proof.Claim
end

section
/-! A line of host memory on a die whose hub link is retired: the clause of R58 that refutes O2. -/

namespace Sys2Proof.Claim

open Sys2Proof.Machine

/-- A page of host memory at address 0x10000 that may be executed: a leaf with V, L, R and X set, its frame at 2^47. -/
def hostPage : TlbEntry := { corrupt := false, asid := 0, page := 0x10000, log2 := 12, leaf := 0x0000800000000017 }

/-- A slot at the first head of that page's first line, which it does not hold, with a handler at 0x40. -/
def hostFetcher : Slot := { Slot.free with act := some placedAct, regs := { Regs.start with pc := 0x10002, tvec := 0x40 } }

/-- A module in which that slot has its turn, its core's buffer holds the page, and the die's hub link is retired (R354). -/
def cutOff : State :=
  { State.reset with
    cores := [(0, { Core.init with slots := [(0, hostFetcher)], tlb := [hostPage] })]
    links := [(14, { Link.init with down := true })]
    agenda := [.slot 0 0] }

/-- The fetch the statement describes: the slot holds the line as memory has it. -/
def cutOffFetched : State :=
  (cutOff.touch 0 hostPage).setSlot 0 0
    { hostFetcher with fetch := { line := some 0x10000, slots := List.replicate 32 0, seen := [(2 ^ 47, 1)] } }

/-- The line slot 0 of core 0 executes from after a step. -/
def lineAfter (o : Host.Outcome State Fault Refusal) : Option W64 :=
  match o with
  | .next u => (u.slot 0 0).fetch.line
  | _ => none

/-- With the link retired the slot waits: it has fetched no line (R354). -/
theorem lineAfter_cutOff : lineAfter (step cutOff) = none := by decide +kernel

theorem lineAfter_cutOffFetched : lineAfter (step cutOffFetched) = some 0x10000 := by decide +kernel

theorem lookup_cutOff : cutOff.lookup 0 0 (cutOff.slot 0 0).asid ((cutOff.slot 0 0).regs.pc &&& 0xFFFFFFFFFFFFFFC0) =
    .page hostPage := by decide +kernel

theorem access_cutOff : cutOff.access 0 (cutOff.slot 0 0).side ((0 : Nat) == 7) .fetch hostPage
    ((cutOff.slot 0 0).regs.pc &&& 0xFFFFFFFFFFFFFFC0) = .ok (2 ^ 47) := by decide +kernel

/-- Refutes O2: a page in host memory that grants execution does not give its line where the die's hub link is retired; the slot
waits for the link (R354), and the statement has no such condition. -/
theorem not_lineFetch : ¬ Obligations.LineFetch := by
  intro ⟨_, mapped, _⟩
  have quiet : ∀ ch, (cutOff.slot 0 0).chunk = some ch → ch.count < 512 := fun _ h => nomatch h
  have page := mapped cutOff [] 0 0 placedAct rfl rfl rfl rfl (by decide +kernel) (.inl rfl) quiet (by decide)
    (.inl (by decide +kernel))
  obtain ⟨granted, _⟩ := page.2 (by decide +kernel) (by decide +kernel) (by decide +kernel)
  obtain ⟨v, f, _, newest, fetched⟩ := granted hostPage (2 ^ 47) lookup_cutOff access_cutOff (by decide +kernel) rfl rfl
  obtain ⟨hv, hf⟩ := newest (fun _ h => nomatch h)
  subst hv hf
  have same : lineAfter (step cutOff) = lineAfter (step cutOffFetched) := by
    rw [fetched]
    decide +kernel
  rw [lineAfter_cutOff, lineAfter_cutOffFetched] at same
  exact nomatch same

end Sys2Proof.Claim
end

section
/-! A stream write by the head of an ordered space (R305): it sends back a speculative task that holds the lines the write needs, and the
task's end closes the queue of the head that consumed from it (R198). Refutes O16 and O17: that queue is none of the instruction's. -/

namespace Sys2Proof.Claim

open Sys2Proof.Machine

/-- An activation of address space 0 that runs a task. -/
def taskAct (seq : BitVec 48) (state : TaskState) : Act :=
  { placedAct with task := some { key := { ts := 0, spawner := 0, seq := seq }, typ := 0, arg := 0, state := state } }

/-- An open chunk that began at some registers and holds lines of the store buffer. -/
def chunkOf (saved : Regs) (lines : Nat) : Chunk :=
  { saved := saved, stores := [], reads := [], fills := [], fillLines := lines, acts := [], count := 0, squashes := 0, order := 1,
    issued := [], later := [], matched := 0, last := [], region := false }

/-- The head's registers: q1 writes a stream to its own TCM, q2 consumes from queue q3 of slot 1. -/
def headRegs : Regs :=
  { Regs.start with
    q := (Regs.start.q.set 1 { Queue.empty with
        bind := .stream true { base := 0x100, n0 := 4, n1 := 1, n2 := 1, st0 := 4, st1 := 0, st2 := 0, w := 4 } 0, count := 4 }).set 2
      { Queue.empty with bind := .consumer 1 3 } }

/-- The task's registers: q3 produces for queue q2 of slot 0. -/
def taskRegs : Regs := { Regs.start with q := Regs.start.q.set 3 { Queue.empty with bind := .producer 0 2 } }

/-- The head of address space 0 in slot 0, and a speculative task of it in slot 1 that holds the 8 lines of its own and 65 shared ones. -/
def ordered : State :=
  { State.reset with
    cores := [(0, { Core.init with
      slots := [(0, { Slot.free with act := some (taskAct 1 .firm), regs := headRegs, chunk := some (chunkOf headRegs 8) }),
        (1, { Slot.free with act := some (taskAct 2 .speculative), regs := taskRegs, chunk := some (chunkOf taskRegs 73) })] })]
    tasks := [{ cluster := 0, spilled := false, key := { ts := 0, spawner := 0, seq := 2 }, typ := 0, arg := 0,
                stamp := Stamp.none 0 0, parent := none, running := some (0, 1), contained := 0 }] }

/-- An instruction has completed, and q2 of the slot that executed it is CLOSED. -/
def closedAfter (o : Host.Outcome State Fault Refusal) : Bool :=
  match o with
  | .next v => v.regs.q[(2 : Fin 16)].closed
  | _ => false

theorem closed_of_next {o : Host.Outcome State Fault Refusal} {v : State} (h : closedAfter o = true) (e : o = .next v) :
    v.regs.q[(2 : Fin 16)].closed = true := by
  subst e
  exact h

theorem next_of_closed {o : Host.Outcome State Fault Refusal} (h : closedAfter o = true) : ∃ v, o = .next v := by
  cases o with
  | next v => exact ⟨v, rfl⟩
  | fault f => exact absurd h Bool.false_ne_true
  | refused r => exact absurd h Bool.false_ne_true

/-- The stream element is written. -/
theorem pushed_ordered : ∃ u, Gives (writeG (.q 1) 0) ordered () u := by
  have ok : (match writeG (.q 1) 0 ordered with | .ok .. => true | .error .. => false) = true := by decide +kernel
  unfold Gives
  cases h : writeG (.q 1) 0 ordered with
  | ok a u => exact ⟨u, rfl⟩
  | error e u =>
    rw [h] at ok
    exact absurd ok Bool.false_ne_true

/-- A stream write queue takes the push, and there is nothing to pop. -/
theorem reads_ordered : Reads [okG (.q 1)] [] (some (.q 1)) ordered [] ordered :=
  ⟨by simp, rfl⟩

/-- q2 of the head is open before the instruction, so none that keeps every queue but q1 leaves it CLOSED. -/
theorem not_kept_of_closed {v : State} (h : v.regs.q[(2 : Fin 16)].closed = true) : ¬Kept ordered v [.q 1] := by
  intro kept
  rw [kept.q 2 (by decide)] at h
  exact absurd h (by decide +kernel)

/-- Refutes O16: LI of a stream write queue at the head of an ordered space leaves another queue of the slot CLOSED. -/
theorem not_scalarFrame : ¬ Obligations.ScalarFrame := by
  intro ⟨_, _, _, _, _, _, _, constants⟩
  have closes : closedAfter (exec (.li (.q 1) 0) ordered) = true := by decide +kernel
  obtain ⟨u, written⟩ := pushed_ordered
  obtain ⟨v, completes⟩ := next_of_closed closes
  obtain ⟨li, _⟩ := constants ordered ordered u v [] (.q 1) 0 reads_ordered
  exact not_kept_of_closed (closed_of_next closes completes) (li written completes).1

/-- Refutes O17: JAL whose link goes to a stream write queue does so too. -/
theorem not_controlFlow : ¬ Obligations.ControlFlow := by
  intro ⟨_, _, _, jal, _⟩
  have closes : closedAfter (exec (.jal (.q 1) 0) ordered) = true := by decide +kernel
  obtain ⟨u, written⟩ := pushed_ordered
  obtain ⟨v, completes, _, _, _, _, kept, _⟩ := jal ordered ordered u [] (.q 1) 0 reads_ordered written
  exact not_kept_of_closed (closed_of_next closes completes) kept

end Sys2Proof.Claim
end

section
/-! What a computation of an instruction's meaning may change: a relation between states that composes, and the rules of `M` for it.
The frames of O44 and O25 are assembled from it. -/

namespace Sys2Proof.Claim

open Sys2Proof.Machine

/-- What a computation may change of its slot: registers, LXSTAT, the flags of FPST, the store buffer. -/
structure Allow where
  regs : List Reg
  lx : Bool := false
  flags : Bool := false
  buffer : Bool := false

/-- One allowance is within another. -/
structure Allow.Le (A B : Allow) : Prop where
  regs : ∀ r ∈ A.regs, r ∈ B.regs
  lx : B.lx = false → A.lx = false
  flags : B.flags = false → A.flags = false
  buffer : B.buffer = false → A.buffer = false

/-- The special registers of a slot but LXSTAT. -/
def specialButLx (r : Regs) : List W64 := special { r with lxstat := 0 }

theorem special_of_fixed {r r' : Regs} (h : specialButLx r' = specialButLx r) (l : r'.lxstat = r.lxstat) : special r' = special r := by
  simp only [specialButLx, special, List.cons.injEq, and_true, true_and] at h ⊢
  simp only [h, l, and_self]

/-- Registers before and after a computation that changes no more than is allowed; the flags of FPST only rise. -/
structure RegsLeave (A : Allow) (r r' : Regs) : Prop where
  g : ∀ n, Reg.g n ∉ A.regs → r'.readG n = r.readG n
  v : ∀ n, Reg.v n ∉ A.regs → r'.readV n = r.readV n
  m : ∀ n, Reg.m n ∉ A.regs → r'.readM n = r.readM n
  k : ∀ n, Reg.k n ∉ A.regs → r'.k[n] = r.k[n]
  q : ∀ n, Reg.q n ∉ A.regs → r'.q[n] = r.q[n]
  fixed : specialButLx r' = specialButLx r
  sfq : r'.sfq = r.sfq
  held : r'.held = r.held
  lx : A.lx = false → r'.lxstat = r.lxstat
  high : r'.fpst >>> 8 = r.fpst >>> 8
  raised : r.fpst &&& r'.fpst = r.fpst
  flags : A.flags = false → r'.fpst = r.fpst

theorem RegsLeave.refl (A : Allow) (r : Regs) : RegsLeave A r r :=
  ⟨fun _ _ => rfl, fun _ _ => rfl, fun _ _ => rfl, fun _ _ => rfl, fun _ _ => rfl, rfl, rfl, rfl, fun _ => rfl, rfl,
    BitVec.and_self, fun _ => rfl⟩

theorem RegsLeave.trans {A : Allow} {r r' r'' : Regs} (a : RegsLeave A r r') (b : RegsLeave A r' r'') : RegsLeave A r r'' where
  g n h := (b.g n h).trans (a.g n h)
  v n h := (b.v n h).trans (a.v n h)
  m n h := (b.m n h).trans (a.m n h)
  k n h := (b.k n h).trans (a.k n h)
  q n h := (b.q n h).trans (a.q n h)
  fixed := b.fixed.trans a.fixed
  sfq := b.sfq.trans a.sfq
  held := b.held.trans a.held
  lx h := (b.lx h).trans (a.lx h)
  high := b.high.trans a.high
  raised := by
    calc r.fpst &&& r''.fpst = r.fpst &&& r'.fpst &&& r''.fpst := by rw [a.raised]
      _ = r.fpst &&& (r'.fpst &&& r''.fpst) := BitVec.and_assoc ..
      _ = r.fpst := by rw [b.raised, a.raised]
  flags h := (b.flags h).trans (a.flags h)

theorem RegsLeave.mono {A B : Allow} {r r' : Regs} (h : A.Le B) (a : RegsLeave A r r') : RegsLeave B r r' where
  g n hn := a.g n (fun m => hn (h.regs _ m))
  v n hn := a.v n (fun m => hn (h.regs _ m))
  m n hn := a.m n (fun m => hn (h.regs _ m))
  k n hn := a.k n (fun m => hn (h.regs _ m))
  q n hn := a.q n (fun m => hn (h.regs _ m))
  fixed := a.fixed
  sfq := a.sfq
  held := a.held
  lx hl := a.lx (h.lx hl)
  high := a.high
  raised := a.raised
  flags hf := a.flags (h.flags hf)

/-! Writes of registers. -/

section

variable {A : Allow} (r : Regs)

theorem regsLeave_writeG {n : Fin 32} (x : W64) (h : Reg.g n ∈ A.regs) : RegsLeave A r (r.writeG n x) := by
  have other : ∀ i, Reg.g i ∉ A.regs → (r.writeG n x).readG i = r.readG i :=
    fun i hi => r.readG_writeG_other x (fun e => hi (e ▸ h))
  by_cases zero : n = 0
  · rw [zero, Regs.writeG_zero]
    exact .refl A r
  · have set : r.writeG n x = { r with g := r.g.set n x } := if_neg zero
    rw [set] at other ⊢
    exact { RegsLeave.refl A r with g := other }

theorem regsLeave_writeV {n : Fin 32} (x : V512) (h : Reg.v n ∈ A.regs) : RegsLeave A r (r.writeV n x) :=
  { RegsLeave.refl A r with v := fun _ hi => r.readV_writeV_other x (fun e => hi (e ▸ h)) }

theorem regsLeave_writeM {n : Fin 8} (x : W64) (h : Reg.m n ∈ A.regs) : RegsLeave A r (r.writeM n x) := by
  have other : ∀ i, Reg.m i ∉ A.regs → (r.writeM n x).readM i = r.readM i :=
    fun i hi => r.readM_writeM_other x (fun e => hi (e ▸ h))
  by_cases zero : n = 0
  · rw [zero, Regs.writeM_zero]
    exact .refl A r
  · have set : r.writeM n x = { r with m := r.m.set n x } := if_neg zero
    rw [set] at other ⊢
    exact { RegsLeave.refl A r with m := other }

theorem regsLeave_writeK {n : Fin 8} (x : W64) (h : Reg.k n ∈ A.regs) : RegsLeave A r (r.writeK n x) :=
  { RegsLeave.refl A r with k := fun _ hi => r.writeK_other x (fun e => hi (e ▸ h)) }

theorem regsLeave_writeQ {n : Fin 16} (x : Queue) (h : Reg.q n ∈ A.regs) : RegsLeave A r (r.writeQ n x) :=
  { RegsLeave.refl A r with q := fun _ hi => r.writeQ_other x (fun e => hi (e ▸ h)) }

theorem regsLeave_lxstat (x : W64) (h : A.lx = true) : RegsLeave A r { r with lxstat := x } :=
  { RegsLeave.refl A r with lx := fun e => absurd (h.symm.trans e) (by decide) }

end

/-! States. -/

/-- A state before and after a computation that changes no more of its slot than is allowed, and of the rest of the module only the
translation buffers, the walks, the heddle's order and what is counted of corrected errors. -/
structure Leaves (A : Allow) (s t : State) : Prop where
  cur : t.cur = s.cur
  mem : t.mem = s.mem
  graphs : t.graphs = s.graphs
  spaces : t.spaces = s.spaces
  net : t.net = s.net
  hub : t.hub = s.hub
  others : ∀ c i, (c, i) ≠ (s.cur.core, s.cur.slot) → t.slot c i = s.slot c i
  regs : RegsLeave A s.regs t.regs
  ext : t.me.ext = s.me.ext
  stores : A.buffer = false → t.me.stores = s.me.stores

namespace Leaves

theorem refl (A : Allow) (s : State) : Leaves A s s :=
  ⟨rfl, rfl, rfl, rfl, rfl, rfl, fun _ _ _ => rfl, .refl A _, rfl, fun _ => rfl⟩

theorem trans {A : Allow} {s t u : State} (a : Leaves A s t) (b : Leaves A t u) : Leaves A s u where
  cur := b.cur.trans a.cur
  mem := b.mem.trans a.mem
  graphs := b.graphs.trans a.graphs
  spaces := b.spaces.trans a.spaces
  net := b.net.trans a.net
  hub := b.hub.trans a.hub
  others c i h := (b.others c i (a.cur.symm ▸ h)).trans (a.others c i h)
  regs := a.regs.trans b.regs
  ext := b.ext.trans a.ext
  stores h := (b.stores h).trans (a.stores h)

theorem mono {A B : Allow} {s t : State} (h : A.Le B) (a : Leaves A s t) : Leaves B s t :=
  { a with regs := a.regs.mono h, stores := fun hb => a.stores (h.buffer hb) }

variable {A : Allow}

/-- A change of the slot being executed. -/
theorem setMe {s : State} {x : Slot} (regs : RegsLeave A s.me.regs x.regs) (ext : x.ext = s.me.ext)
    (stores : A.buffer = false → x.stores = s.me.stores) : Leaves A s (s.setMe x) where
  cur := rfl
  mem := rfl
  graphs := rfl
  spaces := rfl
  net := rfl
  hub := rfl
  others _ _ h := s.slot_setMe_other x h
  regs := by simpa only [State.regs, State.me_setMe] using regs
  ext := by simpa only [State.me_setMe] using ext
  stores := by simpa only [State.me_setMe] using stores

/-- A change of the registers of the slot being executed. -/
theorem modRegs {s : State} {f : Regs → Regs} (regs : RegsLeave A s.regs (f s.regs)) : Leaves A s (s.modRegs f) :=
  setMe (x := { s.me with regs := f s.regs }) regs rfl (fun _ => rfl)

/-- A change that leaves every slot, and of the rest what `Leaves` names. -/
theorem of_slots {s t : State} (slots : ∀ c i, t.slot c i = s.slot c i) (cur : t.cur = s.cur) (mem : t.mem = s.mem)
    (graphs : t.graphs = s.graphs) (spaces : t.spaces = s.spaces) (net : t.net = s.net) (hub : t.hub = s.hub) : Leaves A s t := by
  have me : t.me = s.me := State.me_of_slot cur slots
  refine ⟨cur, mem, graphs, spaces, net, hub, fun c i _ => slots c i, ?_, by rw [me], fun _ => by rw [me]⟩
  rw [State.regs, State.regs, me]
  exact .refl A _

/-- A change of a core that leaves its slots. -/
theorem modCore {s : State} {c : Nat} {f : Core → Core} (h : ∀ k, (f k).slots = k.slots) : Leaves A s (s.modCore c f) :=
  of_slots (fun d i => s.slot_modCore c d i f h) rfl rfl rfl rfl rfl rfl

theorem l2 (s : State) (l : Tab (List TlbEntry)) : Leaves A s { s with l2 := l } :=
  of_slots (fun _ _ => rfl) rfl rfl rfl rfl rfl rfl

theorem touch (s : State) (c : Nat) (e : TlbEntry) : Leaves A s (s.touch c e) := by
  unfold State.touch
  dsimp only
  split_ifs
  · exact modCore (fun _ => rfl)
  · exact (l2 s _).trans (modCore (fun _ => rfl))
  · exact refl A s

theorem correctRange (s : State) (k n : Nat) : Leaves A s (s.correctRange k n) := by
  obtain ⟨f, c, e⟩ := s.correctRange_eq k n
  rw [e]
  exact of_slots (fun _ _ => rfl) rfl rfl rfl rfl rfl rfl

/-- The instruction completes: of its slot PC, SIGACC and the counts move. -/
theorem retire (s : State) (pc : W64) (jump : Bool) (taken : Option Bool) : Leaves A s (s.retire pc jump taken) := by
  have stores : s.me.count.stores = s.me.stores := by
    unfold Slot.count Slot.stores
    cases s.me.chunk <;> rfl
  have count : Leaves A s (s.modMe (fun x =>
      { x.count with regs := { x.regs with pc := pc, sigacc := sigAfter x.regs.sigacc s.cur.enc jump taken } })) :=
    setMe { RegsLeave.refl A s.me.regs with } rfl (fun _ => stores)
  unfold State.retire
  dsimp only
  split
  · exact count
  · exact count.trans (modCore (fun _ => rfl))

theorem advance (s : State) : Leaves A s s.advance := retire s _ _ _

/-- Where LXSTAT may not move, what a computation leaves is kept. -/
theorem kept {s t : State} (a : Leaves A s t) (h : A.lx = false) : Kept s t A.regs where
  g := a.regs.g
  v := a.regs.v
  m := a.regs.m
  k := a.regs.k
  q := a.regs.q
  special := special_of_fixed a.regs.fixed (a.regs.lx h)
  sfq := a.regs.sfq
  held := a.regs.held
  mem k := by rw [a.mem]
  others _ c i n := by rw [a.others c i n]
  graphs := a.graphs
  spaces := a.spaces
  net := a.net
  hub := a.hub

/-- But for LXSTAT, what a computation leaves is kept. -/
theorem kept_lx {s t : State} (a : Leaves A s t) : Kept (lx s t) t A.regs := by
  have me : (lx s t).me = { s.me with regs := { s.regs with lxstat := t.regs.lxstat } } := State.me_setMe _ _
  have aligned : Leaves { A with lx := false } (lx s t) t :=
    { a with
      others := fun c i n => (a.others c i n).trans (s.slot_setMe_other _ n).symm
      regs := by
        rw [State.regs, me]
        exact { a.regs with lx := fun _ => rfl }
      ext := a.ext.trans (by rw [me])
      stores := fun h => (a.stores h).trans (by rw [me]; rfl) }
  exact aligned.kept rfl

/-- The slot's own view of memory stands where its buffer does. -/
theorem ownByte {s t : State} (a : Leaves A s t) (h : A.buffer = false) (k : Nat) : t.ownByte t.me k = s.ownByte s.me k := by
  unfold State.ownByte
  rw [a.stores h, a.ext, a.mem]

end Leaves

end Sys2Proof.Claim
end

section
/-! The frames of the parts of a meaning: translations, loads, label lookups, pops. -/

namespace Sys2Proof.Claim

open Sys2Proof.Machine

/-- A computation that answers in a state changes no more than is allowed. -/
def FramesAt {α : Type} (A : Allow) (m : M α) (s : State) : Prop := ∀ a t, m s = .ok a t → Leaves A s t

/-- A computation changes no more than is allowed, wherever it answers. -/
def Frames {α : Type} (A : Allow) (m : M α) : Prop := ∀ s, FramesAt A m s

section

variable {α β : Type} {A : Allow}

theorem frames_pure (a : α) : Frames A (pure a : M α) := by
  intro s b t e
  cases e
  exact .refl A s

theorem frames_get : Frames A (get : M State) := by
  intro s b t e
  cases e
  exact .refl A s

theorem frames_throw (e : Stop) : Frames A (throw e : M α) := fun _ _ _ h => nomatch h

theorem frames_stopTrap (c : BitVec 8) (v : W64) : Frames A (stopTrap c v : M α) := fun _ _ _ h => nomatch h

theorem frames_illegalOperand : Frames A (illegalOperand : M α) := fun _ _ _ h => nomatch h

theorem frames_modify {f : State → State} (h : ∀ s, Leaves A s (f s)) : Frames A (modify f : M Unit) := by
  intro s a t e
  cases e
  exact h s

theorem frames_bind {m : M α} {f : α → M β} (hm : Frames A m) (hf : ∀ a, Frames A (f a)) : Frames A (m >>= f) := by
  intro s b u e
  obtain ⟨a, t, h1, h2⟩ := run_bind_ok_iff.1 e
  exact (hm s a t h1).trans (hf a t b u h2)

/-- A computation that looks at the state it begins in. -/
theorem frames_get_bind {f : State → M β} (h : ∀ s, FramesAt A (f s) s) : Frames A (get >>= f) := fun s b t e => h s b t e

theorem frames_ite {p : Prop} [Decidable p] {m n : M α} (hm : Frames A m) (hn : Frames A n) : Frames A (if p then m else n) := by
  split
  · exact hm
  · exact hn

theorem frames_mapM {f : α → M β} (h : ∀ a, Frames A (f a)) (l : List α) : Frames A (l.mapM f) := by
  induction l with
  | nil => simpa only [List.mapM_nil] using frames_pure []
  | cons a l ih =>
    rw [List.mapM_cons]
    exact frames_bind (h a) (fun _ => frames_bind ih (fun _ => frames_pure _))

theorem frames_refuseIf (b : Bool) : Frames A (refuseIf b) := by
  intro s a t e
  rw [run_refuseIf] at e
  split at e
  · cases e
  · cases e
    exact .refl A s

theorem frames_modRegs {f : Regs → Regs} (h : ∀ r, RegsLeave A r (f r)) : Frames A (modify (fun s => s.modRegs f) : M Unit) :=
  frames_modify (fun s => .modRegs (h s.regs))

theorem frames_setQueue (i : Fin 16) (x : Queue) (h : Reg.q i ∈ A.regs) : Frames A (setQueue i x) :=
  frames_modRegs (fun r => regsLeave_writeQ r x h)

/-! Translation and loads. -/

theorem frames_xlate (va : W64) (acc : Acc) : Frames A (xlate va acc) := by
  refine frames_bind frames_get fun s => frames_ite (frames_pure _) ?_
  dsimp only
  split
  · exact frames_bind (frames_modify fun t => .touch t _ _) fun _ => frames_pure _
  · exact frames_pure _
  · exact frames_throw _
  · exact frames_throw _

theorem frames_dataFault (code : Nat) (va : W64) : Frames A (dataFault code va : M α) := by
  refine frames_bind frames_get fun s => frames_ite (frames_ite (frames_throw _) (frames_throw _)) (frames_throw _)

/-- A read enters the lines it reads in the signature of the open chunk, if at all (R228). -/
theorem noteRead_cases (x : Slot) (k n : Nat) :
    x.noteRead k n = x ∨ ∃ c r, x.chunk = some c ∧ x.noteRead k n = { x with chunk := some { c with reads := r } } := by
  unfold Slot.noteRead
  split
  · exact .inl rfl
  · split
    · exact .inl rfl
    · rename_i c e
      exact .inr ⟨c, _, e, rfl⟩

theorem noteRead_leaves (s : State) (k n : Nat) : Leaves A s (s.setMe (s.me.noteRead k n)) := by
  rcases noteRead_cases s.me k n with e | ⟨c, r, chunk, e⟩
  · rw [e]
    exact .setMe (.refl A _) rfl (fun _ => rfl)
  · rw [e]
    refine .setMe (.refl A _) rfl (fun _ => ?_)
    unfold Slot.stores
    rw [chunk]

theorem frames_loadAt (k n : Nat) : Frames A (loadAt k n) := by
  refine frames_get_bind fun s => ?_
  dsimp only
  split
  · split
    · exact frames_pure _ s
    · exact frames_throw _ s
  · split_ifs
    · exact frames_throw _ s
    · exact frames_throw _ s
    · intro b t e
      cases e
      exact (noteRead_leaves s k n).trans (.correctRange _ k n)

theorem frames_memLoad (va : W64) (n : Nat) : Frames A (memLoad va n) := by
  refine frames_bind (frames_xlate va .load) fun r => ?_
  split
  · exact frames_loadAt _ n
  · exact frames_dataFault _ va

theorem frames_flatOk (va : W64) : Frames A (flatOk va) := frames_ite (frames_pure _) (frames_stopTrap _ _)

theorem frames_loadDword (va : W64) : Frames A (loadDword va) :=
  frames_bind (frames_flatOk va) fun _ => frames_bind (frames_memLoad va 8) fun _ => frames_pure _

/-! Pops. -/

theorem frames_scanNext (lo hi table : W64) (i n : Nat) : Frames A (scanNext lo hi table i n) := by
  induction n generalizing i with
  | zero => exact frames_pure _
  | succ n ih =>
    refine frames_bind (frames_loadDword _) fun k => frames_ite (frames_ite (frames_pure _) (frames_ite ?_ (ih _))) (ih _)
    exact frames_bind (frames_loadDword _) fun _ => frames_pure _

theorem frames_popFault (code : Nat) (va : W64) : Frames A (popFault code va : M α) := by
  unfold popFault
  refine frames_ite (frames_stopTrap _ _) (frames_ite (frames_stopTrap _ _) (frames_ite ?_ (frames_throw _)))
  exact frames_bind frames_get fun _ => frames_throw _

theorem frames_popQ (i : Fin 16) (h : Reg.q i ∈ A.regs) : Frames A (popQ i) := by
  have set : ∀ x, Frames A (setQueue i x) := fun x => frames_setQueue i x h
  refine frames_bind frames_get fun s => ?_
  dsimp only
  split
  · split
    · exact frames_stopTrap _ _
    · exact frames_bind (set _) fun _ => frames_pure _
  · split
    · exact frames_ite (frames_stopTrap _ _) (frames_throw _)
    · exact frames_bind (set _) fun _ => frames_pure _
  · exact frames_illegalOperand
  · exact frames_illegalOperand
  · refine frames_ite (frames_stopTrap _ _) ?_
    split
    · exact frames_bind (set _) fun _ => frames_bind (frames_loadAt _ _) fun _ => frames_pure _
    · exact frames_popFault _ _
    · exact frames_throw _
  · refine frames_ite (frames_stopTrap _ _) (frames_bind (frames_scanNext _ _ _ _ _) fun r => ?_)
    split
    · exact frames_bind (set _) fun _ => frames_pure _
    · exact frames_bind (set _) fun _ => frames_pure _
  · refine frames_ite (frames_stopTrap _ _) ?_
    split
    · exact frames_popFault _ _
    · exact frames_bind (set _) fun _ => frames_bind (frames_loadAt _ _) fun _ => frames_pure _
    · exact frames_bind (set _) fun _ => frames_bind (frames_loadAt _ _) fun _ =>
        frames_bind (frames_loadAt _ _) fun _ => frames_pure _
    · exact frames_throw _

theorem frames_popList {l : List (Fin 16)} (h : ∀ i ∈ l, Reg.q i ∈ A.regs) : Frames A (popList l) := by
  induction l with
  | nil => exact frames_pure _
  | cons i l ih =>
    obtain ⟨hi, hl⟩ := List.forall_mem_cons.1 h
    exact frames_bind (frames_popQ i hi) fun _ => frames_bind (ih hl) fun _ => frames_pure _

theorem frames_kindsOk (l : List (Fin 16)) (dst : Option Reg) : Frames A (kindsOk l dst) := by
  refine frames_bind frames_get fun s => frames_bind (frames_refuseIf _) fun _ => ?_
  split
  · exact frames_refuseIf _
  · exact frames_pure _

/-- A source's queue joins those named before it. -/
def addQueue (a : List (Fin 16)) (r : Reg) : List (Fin 16) :=
  match r with
  | .q n => if a.contains n then a else a ++ [n]
  | _ => a

theorem mem_of_addQueue {a : List (Fin 16)} {r : Reg} {i : Fin 16} (h : i ∈ addQueue a r) : i ∈ a ∨ r = .q i := by
  unfold addQueue at h
  split at h
  · split at h
    · exact .inl h
    · exact (List.mem_append.1 h).imp id (fun e => by rw [List.mem_singleton.1 e])
  · exact .inl h

theorem mem_of_foldl_addQueue {l : List Reg} {a : List (Fin 16)} {i : Fin 16} (h : i ∈ l.foldl addQueue a) :
    i ∈ a ∨ Reg.q i ∈ l := by
  induction l generalizing a with
  | nil => exact .inl h
  | cons r l ih =>
    rcases ih h with h | h
    · rcases mem_of_addQueue h with h | rfl
      · exact .inl h
      · exact .inr List.mem_cons_self
    · exact .inr (List.mem_cons_of_mem _ h)

/-- The queues of an instruction's sources are among them. -/
theorem mem_of_queuesOf {l : List Reg} {i : Fin 16} (h : i ∈ queuesOf l) : Reg.q i ∈ l :=
  (mem_of_foldl_addQueue (a := []) h).resolve_left List.not_mem_nil

/-- An instruction's pops change the queues they pop. -/
theorem frames_operands {srcs : List Reg} (dst : Option Reg) (h : ∀ r ∈ srcs.filter isQ, r ∈ A.regs) :
    Frames A (operands srcs dst) := by
  unfold operands
  refine frames_ite (frames_bind (frames_kindsOk _ dst) fun _ => frames_popList fun i hi => ?_) (frames_pure _)
  exact h _ (List.mem_filter.2 ⟨mem_of_queuesOf hi, rfl⟩)

/-! Addresses. -/

theorem frames_wellFormedLabel (l : W64) : Frames A (wellFormedLabel l) := by
  refine frames_bind frames_get fun s => frames_ite (frames_stopTrap _ _) ?_
  refine frames_bind (frames_flatOk _) fun _ => frames_bind (frames_loadDword _) fun w0 => frames_bind (frames_loadDword _) fun w1 => ?_
  split
  · exact frames_stopTrap _ _
  · exact frames_ite (frames_pure _) (frames_stopTrap _ _)

theorem frames_lookupLoop (k : Skein) (h : W64) (src n : Nat) (l : W64) (r : Nat) (fwd nofwd : Bool) :
    Frames A (lookupLoop k h src n l r fwd nofwd) := by
  induction n generalizing l r fwd nofwd with
  | zero => exact frames_stopTrap _ _
  | succ n ih =>
    refine frames_bind frames_get fun s => ?_
    dsimp only
    split
    · exact frames_throw _
    · refine frames_bind (frames_modify fun t => .modCore fun _ => rfl) fun _ => ?_
      split
      · exact frames_pure _
      · exact frames_pure _
      · refine frames_ite (frames_stopTrap _ _) ?_
        split
        · exact frames_stopTrap _ _
        · exact ih _ _ _ _

/-- A label's translation writes LXSTAT (R112). -/
theorem frames_labelTranslate (k : Skein) (h : W64) (src : Nat) (l : A.lx = true) : Frames A (labelTranslate k h src) := by
  refine frames_bind (frames_lookupLoop k h src 3 h 0 false false) fun r => frames_ite (frames_stopTrap _ _) ?_
  exact frames_bind (frames_modRegs fun x => regsLeave_lxstat x _ l) fun _ => frames_pure _

theorem frames_handleAddr {h : W64} (off : W64) (size src : Nat) (l : bit h 63 = true → A.lx = true) :
    Frames A (handleAddr h off size src) := by
  unfold handleAddr
  split
  · rename_i label
    refine frames_bind (frames_wellFormedLabel h) fun k => frames_ite (frames_stopTrap _ _) ?_
    exact frames_bind (frames_labelTranslate k h src (l label)) fun _ => frames_pure _
  · exact frames_bind (frames_flatOk _) fun _ => frames_pure _

theorem frames_accessAddr {h : W64} (off : W64) (size src : Nat) (l : bit h 63 = true → A.lx = true) :
    Frames A (accessAddr h off size src) := by
  refine frames_bind (frames_handleAddr off size src l) fun a => ?_
  exact frames_ite (frames_stopTrap _ _) (frames_pure _)

theorem frames_element (h base off : W64) (node : Option Nat) (bytes : Nat) : Frames A (element h base off node bytes) := by
  have aligned : Frames A (if (base + off).toNat % bytes ≠ 0 then stopTrap Cause.misaligned (base + off) else pure (base + off)) :=
    frames_ite (frames_stopTrap _ _) (frames_pure _)
  unfold element
  dsimp only
  split
  · split
    · exact frames_bind (frames_stopTrap _ _) fun _ => aligned
    · exact aligned
  · exact frames_bind (frames_flatOk _) fun _ => aligned

theorem frames_elements {h : W64} (st : W64) (bytes : Nat) (lanes : List Nat) (src : Nat) (l : bit h 63 = true → A.lx = true) :
    Frames A (elements h st bytes lanes src) := by
  unfold elements elementsAt elementsWith
  split
  · rename_i label
    refine frames_bind (frames_wellFormedLabel h) fun k => frames_bind (frames_labelTranslate k h src (l label)) fun base => ?_
    exact frames_mapM (fun i => frames_bind (frames_element _ _ _ _ _) fun _ => frames_pure _) lanes
  · exact frames_mapM (fun i => frames_bind (frames_element _ _ _ _ _) fun _ => frames_pure _) lanes

/-- Finding the place of a store touches its translation. -/
theorem frames_storePart (lane : Nat) (va : W64) (bytes : List Byte) (stream : Bool) : Frames A (storePart lane va bytes stream) := by
  refine frames_bind (frames_xlate va .store) fun r => frames_bind frames_get fun s => ?_
  dsimp only
  split
  · exact frames_ite (frames_throw _) (frames_ite (frames_pure _) (frames_pure _))
  · exact frames_ite (frames_ite (frames_pure _) (frames_throw _)) (frames_pure _)

end

end Sys2Proof.Claim
end

section
/-! An instruction that completes, part by part: each part answers and changes no more than is allowed. What the vector instructions
leave (O44). -/

namespace Sys2Proof.Claim

open Sys2Proof.Machine

/-- A computation completes an instruction, changes no more than is allowed, and the next head follows. -/
def Ends (A : Allow) (m : M Unit) (s : State) : Prop :=
  ∃ v, m s = .ok () v ∧ Leaves A s v ∧ v.regs.pc = s.cur.next

section

variable {α : Type} {A : Allow} {s t : State}

theorem ends_step {x : M α} {f : α → M Unit} {a : α} (h : x s = .ok a t) (l : Leaves A s t) (k : Ends A (f a) t) :
    Ends A (x >>= f) s := by
  obtain ⟨v, hv, lv, pc⟩ := k
  exact ⟨v, (run_bind_of_ok h).trans hv, l.trans lv, pc.trans (congrArg Cur.next l.cur)⟩

/-- A part that only reads. -/
theorem ends_read {x : M α} {f : α → M Unit} (h : ∃ a, x s = .ok a s) (k : ∀ a, Ends A (f a) s) : Ends A (x >>= f) s := by
  obtain ⟨a, h⟩ := h
  exact ends_step h (.refl A s) (k a)

/-- A part that only writes. -/
theorem ends_write {x : M Unit} {f : Unit → M Unit} (h : ∃ u, x s = .ok () u ∧ Leaves A s u) (k : ∀ u, Ends A (f ()) u) :
    Ends A (x >>= f) s := by
  obtain ⟨u, h, l⟩ := h
  exact ends_step h l (k u)

theorem ends_done : Ends A done s := ⟨s.advance, rfl, .advance s, s.advance_pc⟩

/-- The pops of an instruction that answer. -/
theorem ends_pops {fields : List (M Unit)} {srcs : List Reg} {dst : Option Reg} {p : Pops} {f : Pops → M Unit}
    (r : Reads fields srcs dst s p t) (sub : ∀ q ∈ srcs.filter isQ, q ∈ A.regs) (k : Ends A (f p) t) :
    Ends A (operands srcs dst >>= f) s :=
  ends_step r.pops (frames_operands dst sub s p t r.pops) k

/-- What an instruction whose computation ends leaves, once it has completed. -/
theorem Ends.completed {m : M Unit} {v : State} (h : Ends A m s) (e : insn m s = .next v) :
    Leaves A s v ∧ v.regs.pc = s.cur.next := by
  obtain ⟨u, hu, l, pc⟩ := h
  rw [insn_of_ok hu] at e
  cases e
  exact ⟨l, pc⟩

/-! Reads of the registers a field accepts. -/

theorem get_answers : ∃ a, (get : M State) s = .ok a s := ⟨s, rfl⟩

theorem maskOf_answers (mk : Fin 8) : ∃ a, maskOf mk s = .ok a s := ⟨s.regs.readM mk, rfl⟩

theorem readV_answers {a : Reg} (h : okV a s = .ok () s) (p : Pops) (t : State) : ∃ x, readV p a t = .ok x t := by
  cases a with
  | v n => exact ⟨_, readV_v p n t⟩
  | q i => exact ⟨_, readV_q p i t⟩
  | g n | m n | k n => exact nomatch h

theorem readG_answers {a : Reg} (h : okG a s = .ok () s) (p : Pops) (t : State) : ∃ x, readG p a t = .ok x t := by
  cases a with
  | g n => exact ⟨_, readG_g p n t⟩
  | q i => exact ⟨_, readG_q p i t⟩
  | k n => exact ⟨_, readG_k p n t⟩
  | v n | m n => exact nomatch h

theorem readM_answers {a : Reg} (h : okM a s = .ok () s) (t : State) : ∃ x, readM a t = .ok x t := by
  cases a with
  | m n => exact ⟨_, readM_m n t⟩
  | g n | v n | q n | k n => exact nomatch h

theorem oldV_answers {d : Reg} (h : okV d s = .ok () s) (nq : NotQ d) (t : State) : ∃ x, oldV d t = .ok x t := by
  cases d with
  | v n => exact ⟨_, oldV_v n t⟩
  | q i => exact nomatch nq
  | g n | m n | k n => exact nomatch h

/-! Writes of the registers a field accepts, no queue among them. -/

theorem writeV_answers {d : Reg} (h : okV d s = .ok () s) (nq : NotQ d) (w : d ∈ A.regs) (x : V512) (t : State) :
    ∃ u, writeV d x t = .ok () u ∧ Leaves A t u := by
  cases d with
  | v n => exact ⟨_, writeV_v n x t, .modRegs (regsLeave_writeV _ x w)⟩
  | q i => exact nomatch nq
  | g n | m n | k n => exact nomatch h

theorem writeG_answers {d : Reg} (h : okG d s = .ok () s) (nq : NotQ d) (w : d ∈ A.regs) (x : W64) (t : State) :
    ∃ u, writeG d x t = .ok () u ∧ Leaves A t u := by
  cases d with
  | g n => exact ⟨_, writeG_g n x t, .modRegs (regsLeave_writeG _ x w)⟩
  | k n => exact ⟨_, writeG_k n x t, .modRegs (regsLeave_writeK _ x w)⟩
  | q i => exact nomatch nq
  | v n | m n => exact nomatch h

theorem writeM_answers {d : Reg} (h : okM d s = .ok () s) (w : d ∈ A.regs) (x : W64) (t : State) :
    ∃ u, writeM d x t = .ok () u ∧ Leaves A t u := by
  cases d with
  | m n => exact ⟨_, writeM_m n x t, .modRegs (regsLeave_writeM _ x w)⟩
  | g n | v n | q n | k n => exact nomatch h

/-! Flags. -/

/-- Flags raised leave FPST above them, and what was set stays set; no flag raised leaves it all. -/
theorem regsLeave_flags (r : Regs) (f : Flags) (h : A.flags = false → f = 0) :
    RegsLeave A r { r with fpst := r.fpst ||| f.setWidth 64 } :=
  { RegsLeave.refl A r with
    high := by
      refine BitVec.eq_of_getLsbD_eq fun i _ => ?_
      simp
    raised := by
      refine BitVec.eq_of_getLsbD_eq fun i _ => ?_
      rw [BitVec.getLsbD_and, BitVec.getLsbD_or]
      cases r.fpst.getLsbD i <;> rfl
    flags := fun e => by
      rw [h e]
      exact BitVec.or_zero }

theorem raiseFlags_answers (f : Flags) (h : A.flags = false → f = 0) (t : State) :
    ∃ u, raiseFlags f t = .ok () u ∧ Leaves A t u := ⟨_, rfl, .modRegs (regsLeave_flags _ f h)⟩

/-- Lanes that raise no flag raise none together. -/
theorem foldl_flags_zero {β : Type} (l : List β) (f : β → Flags) (h : ∀ x ∈ l, f x = 0) : l.foldl (fun a x => a ||| f x) 0 = 0 := by
  induction l with
  | nil => rfl
  | cons x l ih =>
    obtain ⟨hx, hl⟩ := List.forall_mem_cons.1 h
    rw [List.foldl_cons, hx]
    exact ih hl

theorem mapLanes_flags_zero {w : Nat} {mask : W64} {old : V512} {f : Nat → Nat × Flags} (h : ∀ i, (f i).2 = 0) :
    (mapLanes w mask old f).2 = 0 := by
  refine foldl_flags_zero _ _ fun x hx => ?_
  obtain ⟨i, -, rfl⟩ := List.mem_map.1 hx
  split
  · exact h i
  · rfl

theorem maskLanes_flags_zero {w : Nat} {mask : W64} {f : Nat → Bool × Flags} (h : ∀ i, (f i).2 = 0) :
    (maskLanes w mask f).2 = 0 := by
  refine foldl_flags_zero _ _ fun x hx => ?_
  obtain ⟨i, -, rfl⟩ := List.mem_map.1 hx
  split
  · exact h i
  · rfl

end

/-! The shapes of vector instructions. -/

/-- What an instruction with a destination and sources writes: the destination and the queues it pops, and the flags of FPST if any. -/
def writing (d : Reg) (l : List Reg) (flags : Bool) : Allow := { regs := d :: l.filter isQ, flags := flags }

section

variable {s t : State} {p : Pops} {d a b c : Reg} {mk : Fin 8} {w : Nat} {flags : Bool}

/-- The queues popped are among what is written. -/
theorem popped_mem_writing {l : List Reg} : ∀ q ∈ l.filter isQ, q ∈ (writing d l flags).regs := fun _ h => List.mem_cons_of_mem _ h

theorem dest_mem_writing {l : List Reg} : d ∈ (writing d l flags).regs := List.mem_cons_self

/-- Where flags may rise no lane need raise none. -/
theorem flags_may_rise {q : Prop} (h : true = false) : q := nomatch h

theorem ends_notOnHart {A : Allow} {f : Unit → M Unit} (h : NotOnHart s) (k : Ends A (f ()) s) : Ends A (notOnHart >>= f) s := by
  have runs : notOnHart s = .ok () s := by
    unfold notOnHart
    rw [run_bind, run_get]
    dsimp only
    rw [if_neg h, run_pure]
  exact ends_step runs (.refl A s) k

theorem vector1_ends {f : Rnd → Nat → Nat × Flags} (nq : NotQ d) (r : Reads [okV d, okV a] [a] (some d) s p t)
    (zero : flags = false → ∀ m x, (f m x).2 = 0) : Ends (writing d [a] flags) (vector1 w d a mk f) s := by
  have hd := r.fields (okV d) (by simp)
  have ha := r.fields (okV a) (by simp)
  refine ends_read ⟨_, hd⟩ fun _ => ends_read ⟨_, ha⟩ fun _ => ends_pops r popped_mem_writing ?_
  refine ends_read get_answers fun _ => ends_read (readV_answers ha p t) fun x => ends_read (maskOf_answers mk) fun m => ?_
  refine ends_read (oldV_answers hd nq t) fun o => ends_write (raiseFlags_answers _ (fun e => ?_) t) fun u => ?_
  · exact mapLanes_flags_zero fun i => zero e _ _
  · exact ends_write (writeV_answers hd nq dest_mem_writing _ u) fun _ => ends_done

theorem vector2_ends {f : Rnd → Nat → Nat → Nat × Flags} (nq : NotQ d) (r : Reads [okV d, okV a, okV b] [a, b] (some d) s p t)
    (zero : flags = false → ∀ m x y, (f m x y).2 = 0) : Ends (writing d [a, b] flags) (vector2 w d a b mk f) s := by
  have hd := r.fields (okV d) (by simp)
  have ha := r.fields (okV a) (by simp)
  have hb := r.fields (okV b) (by simp)
  refine ends_read ⟨_, hd⟩ fun _ => ends_read ⟨_, ha⟩ fun _ => ends_read ⟨_, hb⟩ fun _ => ends_pops r popped_mem_writing ?_
  refine ends_read get_answers fun _ => ends_read (readV_answers ha p t) fun x => ends_read (readV_answers hb p t) fun y => ?_
  refine ends_read (maskOf_answers mk) fun m => ends_read (oldV_answers hd nq t) fun o => ?_
  refine ends_write (raiseFlags_answers _ (fun e => ?_) t) fun u => ?_
  · exact mapLanes_flags_zero fun i => zero e _ _ _
  · exact ends_write (writeV_answers hd nq dest_mem_writing _ u) fun _ => ends_done

theorem vector3_ends {f : Rnd → Nat → Nat → Nat → Nat × Flags} (nq : NotQ d)
    (r : Reads [okV d, okV a, okV b, okV c] [a, b, c] (some d) s p t) : Ends (writing d [a, b, c] true) (vector3 w d a b c mk f) s := by
  have hd := r.fields (okV d) (by simp)
  have ha := r.fields (okV a) (by simp)
  have hb := r.fields (okV b) (by simp)
  have hc := r.fields (okV c) (by simp)
  refine ends_read ⟨_, hd⟩ fun _ => ends_read ⟨_, ha⟩ fun _ => ends_read ⟨_, hb⟩ fun _ => ends_read ⟨_, hc⟩ fun _ => ?_
  refine ends_pops r popped_mem_writing (ends_read get_answers fun _ => ?_)
  refine ends_read (readV_answers ha p t) fun x => ends_read (readV_answers hb p t) fun y => ends_read (readV_answers hc p t) fun z => ?_
  refine ends_read (maskOf_answers mk) fun m => ends_read (oldV_answers hd nq t) fun o => ?_
  refine ends_write (raiseFlags_answers _ flags_may_rise t) fun u => ?_
  exact ends_write (writeV_answers hd nq dest_mem_writing _ u) fun _ => ends_done

theorem compare2_ends {f : Nat → Nat → Bool × Flags} (r : Reads [okM d, okV a, okV b] [a, b] none s p t)
    (zero : flags = false → ∀ x y, (f x y).2 = 0) : Ends (writing d [a, b] flags) (compare2 w d a b mk f) s := by
  have hd := r.fields (okM d) (by simp)
  have ha := r.fields (okV a) (by simp)
  have hb := r.fields (okV b) (by simp)
  refine ends_read ⟨_, hd⟩ fun _ => ends_read ⟨_, ha⟩ fun _ => ends_read ⟨_, hb⟩ fun _ => ends_pops r popped_mem_writing ?_
  refine ends_read (readV_answers ha p t) fun x => ends_read (readV_answers hb p t) fun y => ends_read (maskOf_answers mk) fun m => ?_
  refine ends_write (raiseFlags_answers _ (fun e => ?_) t) fun u => ?_
  · exact maskLanes_flags_zero fun i => zero e _ _
  · exact ends_write (writeM_answers hd dest_mem_writing _ u) fun _ => ends_done

theorem moveLanes_ends {A : Allow} {f : Nat → Nat} (nq : NotQ d) (hd : okV d s = .ok () s) (m : d ∈ A.regs) :
    Ends A (moveLanes w d mk f) t :=
  ends_read (maskOf_answers mk) fun _ => ends_read (oldV_answers hd nq t) fun _ =>
    ends_write (writeV_answers hd nq m _ t) fun _ => ends_done

theorem mask2_ends {f : W64 → W64 → W64} (r : Reads [okM d, okM a, okM b] [] none s p t) :
    Ends (writing d [] false) (mask2 d a b f) s := by
  have hd := r.fields (okM d) (by simp)
  have ha := r.fields (okM a) (by simp)
  have hb := r.fields (okM b) (by simp)
  refine ends_read ⟨_, hd⟩ fun _ => ends_read ⟨_, ha⟩ fun _ => ends_read ⟨_, hb⟩ fun _ => ?_
  refine ends_read (readM_answers ha s) fun x => ends_read (readM_answers hb s) fun y => ?_
  exact ends_write (writeM_answers hd dest_mem_writing _ s) fun _ => ends_done

theorem maskToG_ends {f : W64 → W64} (nq : NotQ d) (r : Reads [okG d, okM a] [] (some d) s p t) :
    Ends (writing d [] false) (maskToG d a f) s := by
  have hd := r.fields (okG d) (by simp)
  have ha := r.fields (okM a) (by simp)
  refine ends_read ⟨_, hd⟩ fun _ => ends_read ⟨_, ha⟩ fun _ => ends_pops r popped_mem_writing ?_
  exact ends_read (readM_answers ha t) fun x => ends_write (writeG_answers hd nq dest_mem_writing _ t) fun _ => ends_done

end

end Sys2Proof.Claim
end

section
/-! What the vector instructions leave (O44), instruction by instruction. -/

namespace Sys2Proof.Claim

open Sys2Proof.Machine

/-- An instruction that writes a destination and pops its source queues leaves the rest, every bit of FPST above the flags, and every flag
already set. -/
def VectorKeeps (s v : State) (d : Reg) (l : List Reg) : Prop :=
  Kept s v (d :: l.filter isQ) ∧ v.regs.pc = s.cur.next ∧ v.regs.fpst >>> 8 = s.regs.fpst >>> 8 ∧
    s.regs.fpst &&& v.regs.fpst = s.regs.fpst

section

variable {s t v : State} {p : Pops} {d a b c : Reg} {mk : Fin 8} {z : Width} {l : List Reg} {flags : Bool} {m : M Unit}

theorem Ends.keeps (h : Ends (writing d l flags) m s) (e : insn m s = .next v) : VectorKeeps s v d l := by
  obtain ⟨leaves, pc⟩ := h.completed e
  exact ⟨leaves.kept rfl, pc, leaves.regs.high, leaves.regs.raised⟩

/-- With no flag raised FPST stands. -/
theorem Ends.still (h : Ends (writing d l false) m s) (e : insn m s = .next v) :
    VectorKeeps s v d l ∧ v.regs.fpst = s.regs.fpst := by
  obtain ⟨leaves, -⟩ := h.completed e
  exact ⟨h.keeps e, leaves.regs.flags rfl⟩

/-! The members of the groups have one shape each. -/

theorem exec_floatOne : ∀ e ∈ floatOne, ∃ op, ∀ f d a mk s, exec (e.1 f d a mk) s = insn (vf1 f d a mk op) s := by
  simp only [floatOne, List.forall_mem_cons, List.not_mem_nil, false_implies, implies_true, and_true]
  refine ⟨?_, ?_, ?_, ?_, ?_, ?_, ?_⟩ <;> exact ⟨_, fun _ _ _ _ _ => rfl⟩

theorem exec_floatTwo : ∀ e ∈ floatTwo, ∃ op, ∀ f d a b mk s, exec (e.1 f d a b mk) s = insn (vf2 f d a b mk op) s := by
  simp only [floatTwo, List.forall_mem_cons, List.not_mem_nil, false_implies, implies_true, and_true]
  refine ⟨?_, ?_, ?_, ?_, ?_, ?_⟩ <;> exact ⟨_, fun _ _ _ _ _ _ => rfl⟩

theorem exec_intTwo : ∀ e ∈ intTwo, ∃ op, ∀ z d a b mk s, exec (e.1 z d a b mk) s = insn (vi2 z d a b mk op) s := by
  simp only [intTwo, List.forall_mem_cons, List.not_mem_nil, false_implies, implies_true, and_true]
  refine ⟨?_, ?_, ?_, ?_, ?_, ?_, ?_, ?_, ?_, ?_, ?_, ?_, ?_⟩ <;> exact ⟨_, fun _ _ _ _ _ _ => rfl⟩

/-! Instructions of no such shape: their computations as the model writes them, each read and write in turn. -/

theorem vcvt_keeps {c1 c2 : CvtTy} {m : Option Rnd} {sat : Bool} (nq : NotQ d) (r : Reads [okV d, okV a] [a] (some d) s p t)
    (host : NotOnHart s) (e : exec (.vcvt c1 c2 m sat d a mk) s = .next v) : VectorKeeps s v d [a] := by
  have hd := r.fields (okV d) (by simp)
  have ha := r.fields (okV a) (by simp)
  refine Ends.keeps (flags := true) (ends_notOnHart host ?_) e
  refine ends_read ⟨_, hd⟩ fun _ => ends_read ⟨_, ha⟩ fun _ => ends_pops r popped_mem_writing ?_
  refine ends_read get_answers fun _ => ends_read (readV_answers ha p t) fun x => ends_read (oldV_answers hd nq t) fun o => ?_
  refine ends_read (maskOf_answers mk) fun m => ends_write (raiseFlags_answers _ flags_may_rise t) fun u => ?_
  exact ends_write (writeV_answers hd nq dest_mem_writing _ u) fun _ => ends_done

theorem vsel_still {f : FltTy} (nq : NotQ d) (r : Reads [okV d, okV a, okV b] [a, b] (some d) s p t) (host : NotOnHart s)
    (e : exec (.vsel f d a b mk) s = .next v) : VectorKeeps s v d [a, b] ∧ v.regs.fpst = s.regs.fpst := by
  have hd := r.fields (okV d) (by simp)
  have ha := r.fields (okV a) (by simp)
  have hb := r.fields (okV b) (by simp)
  refine Ends.still (ends_notOnHart host ?_) e
  refine ends_read ⟨_, hd⟩ fun _ => ends_read ⟨_, ha⟩ fun _ => ends_read ⟨_, hb⟩ fun _ => ends_pops r popped_mem_writing ?_
  refine ends_read (readV_answers ha p t) fun x => ends_read (maskOf_answers mk) fun m => ends_read (readV_answers hb p t) fun y => ?_
  exact ends_write (writeV_answers hd nq dest_mem_writing _ t) fun _ => ends_done

theorem vred_keeps {op : RedOp} {ty : Arith} (nq : NotQ d) (r : Reads [okG d, okV a] [a] (some d) s p t) (host : NotOnHart s)
    (e : exec (.vred op ty d a mk) s = .next v) : VectorKeeps s v d [a] := by
  have hd := r.fields (okG d) (by simp)
  have ha := r.fields (okV a) (by simp)
  refine Ends.keeps (flags := true) (ends_notOnHart host ?_) e
  refine ends_read ⟨_, hd⟩ fun _ => ends_read ⟨_, ha⟩ fun _ => ends_pops r popped_mem_writing (ends_read get_answers fun _ => ?_)
  refine ends_read (maskOf_answers mk) fun m => ends_read (readV_answers ha p t) fun x => ?_
  refine ends_write (raiseFlags_answers _ flags_may_rise t) fun u => ?_
  exact ends_write (writeG_answers hd nq dest_mem_writing _ u) fun _ => ends_done

theorem vscan_keeps {op : RedOp} {ty : Arith} (nq : NotQ d) (r : Reads [okV d, okV a] [a] (some d) s p t) (host : NotOnHart s)
    (e : exec (.vscan op ty d a mk) s = .next v) : VectorKeeps s v d [a] := by
  have hd := r.fields (okV d) (by simp)
  have ha := r.fields (okV a) (by simp)
  refine Ends.keeps (flags := true) (ends_notOnHart host ?_) e
  refine ends_read ⟨_, hd⟩ fun _ => ends_read ⟨_, ha⟩ fun _ => ends_pops r popped_mem_writing (ends_read get_answers fun _ => ?_)
  refine ends_read (maskOf_answers mk) fun m => ends_read (readV_answers ha p t) fun x => ?_
  refine ends_write (raiseFlags_answers _ flags_may_rise t) fun u => ?_
  exact ends_write (writeV_answers hd nq dest_mem_writing _ u) fun _ => ends_done

/-! Moves. -/

theorem vperm_still (nq : NotQ d) (r : Reads [okV d, okV a, okV b] [a, b] (some d) s p t)
    (e : exec (.vperm z d a b mk) s = .next v) : VectorKeeps s v d [a, b] ∧ v.regs.fpst = s.regs.fpst := by
  have hd := r.fields (okV d) (by simp)
  have ha := r.fields (okV a) (by simp)
  have hb := r.fields (okV b) (by simp)
  refine Ends.still ?_ e
  refine ends_read ⟨_, hd⟩ fun _ => ends_read ⟨_, ha⟩ fun _ => ends_read ⟨_, hb⟩ fun _ => ends_pops r popped_mem_writing ?_
  exact ends_read (readV_answers ha p t) fun x => ends_read (readV_answers hb p t) fun y => moveLanes_ends nq hd dest_mem_writing

theorem vslide_still (nq : NotQ d) (r : Reads [okV d, okV a, okG b] [a, b] (some d) s p t)
    (e : exec (.vslide z d a b mk) s = .next v) : VectorKeeps s v d [a, b] ∧ v.regs.fpst = s.regs.fpst := by
  have hd := r.fields (okV d) (by simp)
  have ha := r.fields (okV a) (by simp)
  have hb := r.fields (okG b) (by simp)
  refine Ends.still ?_ e
  refine ends_read ⟨_, hd⟩ fun _ => ends_read ⟨_, ha⟩ fun _ => ends_read ⟨_, hb⟩ fun _ => ends_pops r popped_mem_writing ?_
  exact ends_read (readV_answers ha p t) fun x => ends_read (readG_answers hb p t) fun y => moveLanes_ends nq hd dest_mem_writing

theorem vbcast_still (nq : NotQ d) (r : Reads [okV d, okG a] [a] (some d) s p t) (e : exec (.vbcast z d a mk) s = .next v) :
    VectorKeeps s v d [a] ∧ v.regs.fpst = s.regs.fpst := by
  have hd := r.fields (okV d) (by simp)
  have ha := r.fields (okG a) (by simp)
  refine Ends.still (ends_read ⟨_, hd⟩ fun _ => ends_read ⟨_, ha⟩ fun _ => ends_pops r popped_mem_writing ?_) e
  exact ends_read (readG_answers ha p t) fun x => moveLanes_ends nq hd dest_mem_writing

theorem vmov_still (nq : NotQ d) (r : Reads [okV d, okV a] [a] (some d) s p t) (e : exec (.vmov z d a mk) s = .next v) :
    VectorKeeps s v d [a] ∧ v.regs.fpst = s.regs.fpst := by
  have hd := r.fields (okV d) (by simp)
  have ha := r.fields (okV a) (by simp)
  refine Ends.still (ends_read ⟨_, hd⟩ fun _ => ends_read ⟨_, ha⟩ fun _ => ends_pops r popped_mem_writing ?_) e
  exact ends_read (readV_answers ha p t) fun x => moveLanes_ends nq hd dest_mem_writing

theorem vidx_still (nq : NotQ d) (r : Reads [okV d] [] (some d) s p t) (e : exec (.vidx z d mk) s = .next v) :
    VectorKeeps s v d [] ∧ v.regs.fpst = s.regs.fpst := by
  have hd := r.fields (okV d) (by simp)
  exact Ends.still (ends_read ⟨_, hd⟩ fun _ => ends_pops r popped_mem_writing (moveLanes_ends nq hd dest_mem_writing)) e

theorem vcomp_still (nq : NotQ d) (r : Reads [okV d, okV a] [a] (some d) s p t) (e : exec (.vcomp z d a mk) s = .next v) :
    VectorKeeps s v d [a] ∧ v.regs.fpst = s.regs.fpst := by
  have hd := r.fields (okV d) (by simp)
  have ha := r.fields (okV a) (by simp)
  refine Ends.still (ends_read ⟨_, hd⟩ fun _ => ends_read ⟨_, ha⟩ fun _ => ends_pops r popped_mem_writing ?_) e
  refine ends_read (readV_answers ha p t) fun x => ends_read (maskOf_answers mk) fun m => ?_
  exact ends_write (writeV_answers hd nq dest_mem_writing _ t) fun _ => ends_done

theorem vexpnd_still (nq : NotQ d) (r : Reads [okV d, okV a] [a] (some d) s p t) (e : exec (.vexpnd z d a mk) s = .next v) :
    VectorKeeps s v d [a] ∧ v.regs.fpst = s.regs.fpst := by
  have hd := r.fields (okV d) (by simp)
  have ha := r.fields (okV a) (by simp)
  refine Ends.still (ends_read ⟨_, hd⟩ fun _ => ends_read ⟨_, ha⟩ fun _ => ends_pops r popped_mem_writing ?_) e
  refine ends_read (readV_answers ha p t) fun x => ends_read (maskOf_answers mk) fun m => ?_
  exact ends_write (writeV_answers hd nq dest_mem_writing _ t) fun _ => ends_done

theorem vextr_still (nq : NotQ d) (r : Reads [okG d, okV a, okG b] [a, b] (some d) s p t) (e : exec (.vextr z d a b) s = .next v) :
    VectorKeeps s v d [a, b] ∧ v.regs.fpst = s.regs.fpst := by
  have hd := r.fields (okG d) (by simp)
  have ha := r.fields (okV a) (by simp)
  have hb := r.fields (okG b) (by simp)
  refine Ends.still ?_ e
  refine ends_read ⟨_, hd⟩ fun _ => ends_read ⟨_, ha⟩ fun _ => ends_read ⟨_, hb⟩ fun _ => ends_pops r popped_mem_writing ?_
  refine ends_read (readG_answers hb p t) fun y => ends_read (readV_answers ha p t) fun x => ?_
  exact ends_write (writeG_answers hd nq dest_mem_writing _ t) fun _ => ends_done

theorem vins_still {n : Fin 32} (r : Reads [okG a, okG b] [a, b] none s p t) (e : exec (.vins z (.v n) a b) s = .next v) :
    VectorKeeps s v (.v n) [a, b] ∧ v.regs.fpst = s.regs.fpst := by
  have ha := r.fields (okG a) (by simp)
  have hb := r.fields (okG b) (by simp)
  have hd : okV (.v n) s = .ok () s := okV_v n s
  refine Ends.still (ends_read ⟨(), rfl⟩ fun _ => ?_) e
  refine ends_read ⟨_, ha⟩ fun _ => ends_read ⟨_, hb⟩ fun _ => ends_pops r popped_mem_writing ?_
  refine ends_read (readG_answers hb p t) fun y => ends_read (readG_answers ha p t) fun x => ends_read (readV_answers hd [] t) fun o => ?_
  exact ends_write (writeV_answers hd rfl dest_mem_writing _ t) fun _ => ends_done

/-! Masks. -/

theorem mnot_still (r : Reads [okM d, okM a] [] none s p t) (e : exec (.mnot d a) s = .next v) :
    VectorKeeps s v d [] ∧ v.regs.fpst = s.regs.fpst := by
  have hd := r.fields (okM d) (by simp)
  have ha := r.fields (okM a) (by simp)
  refine Ends.still (ends_read ⟨_, hd⟩ fun _ => ends_read ⟨_, ha⟩ fun _ => ends_read (readM_answers ha s) fun x => ?_) e
  exact ends_write (writeM_answers hd dest_mem_writing _ s) fun _ => ends_done

theorem mset_still (r : Reads [okM d, okG a] [a] none s p t) (e : exec (.mset d a) s = .next v) :
    VectorKeeps s v d [a] ∧ v.regs.fpst = s.regs.fpst := by
  have hd := r.fields (okM d) (by simp)
  have ha := r.fields (okG a) (by simp)
  refine Ends.still (ends_read ⟨_, hd⟩ fun _ => ends_read ⟨_, ha⟩ fun _ => ends_pops r popped_mem_writing ?_) e
  exact ends_read (readG_answers ha p t) fun x => ends_write (writeM_answers hd dest_mem_writing _ t) fun _ => ends_done

end

/-- Settles O44: each instruction reads what its fields accept, raises flags, writes its destination and completes. -/
theorem vectorFrame : Obligations.VectorFrame := by
  unfold Obligations.VectorFrame
  intro keeps
  refine ⟨?_, ?_, ?_, ?_, ?_, ?_⟩
  · intro e he s v f d a mk nq ⟨p, t, r⟩ host run
    obtain ⟨op, shape⟩ := exec_floatOne e he
    exact (ends_notOnHart host (vector1_ends nq r flags_may_rise)).keeps ((shape f d a mk s).symm.trans run)
  · intro e he s v f d a b mk nq ⟨p, t, r⟩ host run
    obtain ⟨op, shape⟩ := exec_floatTwo e he
    exact (ends_notOnHart host (vector2_ends nq r flags_may_rise)).keeps ((shape f d a b mk s).symm.trans run)
  · intro e he s v z d a b mk nq ⟨p, t, r⟩ host run
    obtain ⟨op, shape⟩ := exec_intTwo e he
    exact (ends_notOnHart host (vector2_ends nq r (fun _ _ _ _ => rfl))).still ((shape z d a b mk s).symm.trans run)
  · exact fun s v z d a b mk nq ⟨p, t, r⟩ run => vperm_still nq r run
  · exact fun s v c1 c2 m sat d a mk nq ⟨p, t, r⟩ host run => vcvt_keeps nq r host run
  · intro s v d frame still nq f z a b c mk
    refine ⟨fun host => ⟨?_, ?_, ?_, ?_, ?_, ?_⟩, ?_, ?_, ?_, ?_, ?_, ?_, ?_, ?_, ?_, ?_, ?_, ?_, ?_, ?_, ?_, ?_⟩
    · exact fun ⟨p, t, r⟩ run => (ends_notOnHart host (vector3_ends nq r)).keeps run
    · exact fun ⟨p, t, r⟩ run => (ends_notOnHart host (vector3_ends nq r)).keeps run
    · exact fun x ⟨p, t, r⟩ run => (ends_notOnHart host (compare2_ends r flags_may_rise)).keeps run
    · exact fun x ⟨p, t, r⟩ run => (ends_notOnHart host (compare2_ends r (fun _ _ _ => rfl))).still run
    · exact fun ⟨p, t, r⟩ run => vsel_still nq r host run
    · exact fun op ty => ⟨fun ⟨p, t, r⟩ run => vred_keeps nq r host run, fun ⟨p, t, r⟩ run => vscan_keeps nq r host run⟩
    · exact fun ⟨p, t, r⟩ run => vbcast_still nq r run
    · exact fun ⟨p, t, r⟩ run => vidx_still nq r run
    · exact fun ⟨p, t, r⟩ run => vmov_still nq r run
    · exact fun ⟨p, t, r⟩ run => vslide_still nq r run
    · exact fun ⟨p, t, r⟩ run => vcomp_still nq r run
    · exact fun ⟨p, t, r⟩ run => vexpnd_still nq r run
    · exact fun ⟨p, t, r⟩ run => vextr_still nq r run
    · rintro n rfl ⟨p, t, r⟩ run
      exact vins_still r run
    · exact fun ⟨p, t, r⟩ run => (mask2_ends r).still run
    · exact fun ⟨p, t, r⟩ run => (mask2_ends r).still run
    · exact fun ⟨p, t, r⟩ run => (mask2_ends r).still run
    · exact fun ⟨p, t, r⟩ run => mnot_still r run
    · exact fun ⟨p, t, r⟩ run => (maskToG_ends nq r).still run
    · exact fun ⟨p, t, r⟩ run => (maskToG_ends nq r).still run
    · exact fun ⟨p, t, r⟩ run => (maskToG_ends nq r).still run
    · exact fun ⟨p, t, r⟩ run => mset_still r run

end Sys2Proof.Claim
end

section
/-! Where the bytes of a store go, and what loads and stores leave (O25). -/

namespace Sys2Proof.Claim

open Sys2Proof.Machine

/-! A store in the buffer. -/

section

variable {s : State} {c : Chunk} {st : Store}

theorem me_buffered (chunk : s.me.chunk = some c) (st : Store) :
    (buffered s st).me = { s.me with chunk := some { c with stores := c.stores ++ [st] } } := by
  unfold buffered State.modChunk
  rw [State.me_modMe, chunk]
  rfl

/-- A store that enters the buffer comes after those in it. -/
theorem stores_buffered (chunk : s.me.chunk = some c) (st : Store) : (buffered s st).me.stores = s.me.stores ++ [st] := by
  rw [me_buffered chunk]
  unfold Slot.stores
  rw [chunk, List.append_assoc]

/-- It is the one thing that a buffered store changes. -/
theorem buffered_leaves {A : Allow} (chunk : s.me.chunk = some c) (st : Store) (h : A.buffer = true) : Leaves A s (buffered s st) := by
  have set : buffered s st = s.setMe (buffered s st).me := by
    rw [me_buffered chunk]
    show s.setMe { s.me with chunk := s.me.chunk.map _ } = _
    rw [chunk]
    rfl
  rw [set]
  refine .setMe ?_ ?_ (fun e => absurd (h.symm.trans e) (by decide))
  · rw [me_buffered chunk]
    exact .refl A _
  · rw [me_buffered chunk]

/-- The slot's byte at a location: the last its stores put there, over its writes in flight and the committed byte. -/
theorem ownByte_eq (s : State) (x : Slot) (k : Nat) : s.ownByte x k =
    (storesByte x.stores k (if isExt k then flightByte x.ext k else none)).getD (Memory.read s.mem k) := by
  unfold State.ownByte
  cases storesByte x.stores k (if isExt k then flightByte x.ext k else none) <;> rfl

theorem storesByte_append (l : List Store) (st : Store) (k : Nat) (old : Option Byte) :
    storesByte (l ++ [st]) k old = storesByte [st] k (storesByte l k old) := by
  unfold storesByte
  rw [List.foldl_append]

/-- An unchecked store of one part puts that part's bytes over what was there. -/
theorem storesByte_part (q : Part) (src size wide : Nat) (k : Nat) (old : Option Byte) :
    storesByte [oneStore s src size wide [q]] k old = (q.byteAt k).or old := rfl

/-- A store no part of which reaches a location leaves its byte. -/
theorem storesByte_outside (h : ∀ q ∈ st.parts, q.byteAt k = none) (old : Option Byte) : storesByte [st] k old = old := by
  have parts : ∀ (l : List Part), (∀ q ∈ l, q.byteAt k = none) → ∀ a, l.foldl (fun a p => (p.byteAt k).or a) a = a := by
    intro l
    induction l with
    | nil => exact fun _ _ => rfl
    | cons q l ih =>
      intro hl a
      obtain ⟨hq, hl⟩ := List.forall_mem_cons.1 hl
      rw [List.foldl_cons, hq, Option.none_or]
      exact ih hl a
  unfold storesByte
  rw [List.foldl_cons, List.foldl_nil]
  split
  · rfl
  · exact parts _ h _

/-- Once a store is buffered and its instruction complete, the slot's byte at a location is the store's over the bytes before. -/
theorem ownByte_buffered (chunk : s.me.chunk = some c) (st : Store) (k : Nat) :
    (buffered s st).advance.ownByte (buffered s st).advance.me k =
      (storesByte [st] k (storesByte s.me.stores k (if isExt k then flightByte s.me.ext k else none))).getD (Memory.read s.mem k) := by
  have leaves := buffered_leaves (A := { regs := [], buffer := true }) chunk st rfl
  rw [(Leaves.advance (A := { regs := [] }) _).ownByte rfl k, ownByte_eq, stores_buffered chunk, storesByte_append, leaves.ext,
    leaves.mem]

theorem ownByte_outside (chunk : s.me.chunk = some c) (st : Store) {k : Nat} (h : ∀ q ∈ st.parts, q.byteAt k = none) :
    (buffered s st).advance.ownByte (buffered s st).advance.me k = s.ownByte s.me k := by
  rw [ownByte_buffered chunk, storesByte_outside h, ← ownByte_eq]

theorem ownByte_part (chunk : s.me.chunk = some c) (q : Part) (src size wide k : Nat) :
    (buffered s (oneStore s src size wide [q])).advance.ownByte (buffered s (oneStore s src size wide [q])).advance.me k =
      (q.byteAt k).getD (s.ownByte s.me k) := by
  rw [ownByte_buffered chunk, storesByte_part, ownByte_eq]
  cases q.byteAt k <;> rfl

/-! The bytes of a part. -/

theorem byteAt_outside {q : Part} {k n : Nat} (len : q.bytes.length = n) (h : ∀ a, q.key = some a → k < a ∨ a + n ≤ k) :
    q.byteAt k = none := by
  unfold Part.byteAt
  split
  · rfl
  · rename_i a key
    have := h a key
    rw [if_neg (by omega)]

theorem byteAt_inside {q : Part} {a j : Nat} (key : q.key = some a) (h : j < q.bytes.length) : q.byteAt (a + j) = some q.bytes[j] := by
  unfold Part.byteAt
  rw [key]
  dsimp only
  rw [if_pos (by omega), Nat.add_sub_cancel_left, List.getElem?_eq_getElem h]

theorem unchecked_buffered (chunk : s.me.chunk = some c) (open_ : st.checked = false) :
    (buffered s st).advance.me.unchecked = s.me.unchecked + 1 := by
  have stores : (buffered s st).advance.me.stores = s.me.stores ++ [st] :=
    ((Leaves.advance (A := { regs := [] }) _).stores rfl).trans (stores_buffered chunk st)
  unfold Slot.unchecked
  rw [stores, List.filter_append, List.length_append]
  simp [open_]

/-! The place of a store in own TCM. -/

theorem xlate_own {va : W64} (own : va.toNat < tcmSize s.cur.core) (acc : Machine.Acc) :
    xlate va acc s = .ok (.ok (tcmKey s.cur.core va.toNat)) s := by
  unfold xlate
  rw [run_bind, run_get]
  dsimp only
  rw [if_pos own, run_pure]

theorem tcmKey_not_config (c off : Nat) : isConfig (tcmKey c off) = false ∧ isExt (tcmKey c off) = false := by
  have tcm : 2 ^ 61 ≤ tcmKey c off := Nat.le_trans (Nat.le_add_right _ _) (Nat.le_add_right _ _)
  have config : configBase + 0x100000000 ≤ 2 ^ 61 := by decide
  exact ⟨Bool.and_eq_false_iff.2 (.inr (decide_eq_false (Nat.not_lt.2 (config.trans tcm)))),
    Bool.and_eq_false_iff.2 (.inr (decide_eq_false (Nat.not_lt.2 tcm)))⟩

theorem storePart_own {l : Nat} {va : W64} {b : List Byte} (own : va.toNat < tcmSize s.cur.core) (side : s.me.side = .none) :
    storePart l va b false s =
      .ok { lane := l, va := va, bytes := b, key := some (tcmKey s.cur.core va.toNat), live := tcmKey s.cur.core va.toNat,
            fail := 0 } s := by
  obtain ⟨config, ext⟩ := tcmKey_not_config s.cur.core va.toNat
  have live : s.live va (tcmKey s.cur.core va.toNat) = tcmKey s.cur.core va.toNat := by
    unfold State.live
    rw [if_pos side]
  unfold storePart
  rw [run_bind_of_ok (xlate_own own .store), run_bind, run_get]
  simp only [config, ext, live, Bool.false_and, Bool.false_eq_true, if_false, run_pure]

end

/-- Where the bytes of a store go. -/
theorem storedBytes : StoredBytes := by
  refine ⟨fun s l va b own side => storePart_own own side, ?_⟩
  intro s q src size wide c chunk t
  have leaves : Leaves { regs := [], buffer := true } s t := (buffered_leaves chunk _ rfl).trans (.advance _)
  have byte := ownByte_part chunk q src size wide
  refine ⟨byte, fun a key k out => ?_, fun a j key h => ?_, leaves.mem, unchecked_buffered chunk rfl⟩
  · refine (byte k).trans ?_
    rw [byteAt_outside rfl (fun b e => by cases key.symm.trans e; exact out), Option.getD_none]
  · refine (byte _).trans ?_
    rw [byteAt_inside key h, Option.getD_some]

end Sys2Proof.Claim
end

section
/-! Loads and stores, part by part (O25). -/

namespace Sys2Proof.Claim

open Sys2Proof.Machine

/-! How the model's terms read in the statement. -/

theorem sizeBytes_eq (z : Size) : sizeBytes z = 2 ^ sizeCode z := by cases z <;> rfl

theorem scaled_eq (y : W64) (z : Size) : y * BitVec.ofNat 64 (sizeBytes z) = BitVec.ofNat 64 (y.toNat * 2 ^ sizeCode z) := by
  rw [sizeBytes_eq, BitVec.ofNat_mul, BitVec.ofNat_toNat, BitVec.setWidth_eq]

/-- What a load writes: its destination and the queues it pops, and LXSTAT where its base is a label. -/
def loading (d : Reg) (l : List Reg) (base : W64) : Allow := { regs := d :: l.filter isQ, lx := bit base 63 }

/-- What a store writes but for the store buffer. -/
def storing (l : List Reg) (base : W64) : Allow := { regs := l.filter isQ, lx := bit base 63 }

/-- What a load that completes leaves: every register but those it writes and LXSTAT, LXSTAT too where its base is no label, and the
slot's own view of memory. -/
def LoadKeeps (s o : State) (d : Reg) (l : List Reg) (base : W64) : Prop :=
  Kept (lx s o) o (d :: l.filter isQ) ∧ (bit base 63 = false → o.regs.lxstat = s.regs.lxstat) ∧
    o.regs.fpst = s.regs.fpst ∧ o.regs.pc = s.cur.next ∧ ∀ k, o.ownByte o.me k = s.ownByte s.me k

/-- What a store that completes leaves: so too, but for the bytes that a part of it reaches. -/
def StoreKeeps (s o : State) (l : List Reg) (base : W64) (ps : List Part) : Prop :=
  Kept (lx s o) o (l.filter isQ) ∧ (bit base 63 = false → o.regs.lxstat = s.regs.lxstat) ∧
    o.regs.fpst = s.regs.fpst ∧ o.regs.pc = s.cur.next ∧
    ∀ k, (∀ q ∈ ps, q.byteAt k = none) → o.ownByte o.me k = s.ownByte s.me k

section

variable {α : Type} {A : Allow} {s t u v o : State} {p : Pops} {d a b c : Reg} {x y f va : W64} {l : List Reg} {m : M Unit}

/-- A load's fault handling is no part of a load that completes (R86). -/
theorem ends_keepBase (r : Reg) (h : Ends A m s) : Ends A (keepBase r m) s := by
  obtain ⟨w, hw, l⟩ := h
  refine ⟨w, ?_, l⟩
  cases r with
  | q i =>
    show EStateM.tryCatch m _ s = _
    unfold EStateM.tryCatch
    rw [hw]
  | g n | v n | m n | k n => exact hw

/-- A part that answers, with its frame. -/
theorem ends_frame {q : M α} {k : α → M Unit} {r : α} (h : q s = .ok r t) (fr : Frames A q) (n : Ends A (k r) t) :
    Ends A (q >>= k) s := ends_step h (fr s r t h) n

/-- What an instruction that completes leaves, if it raises no flag and buffers no store. -/
theorem Ends.frame (h : Ends A m s) (noFlags : A.flags = false) (noStore : A.buffer = false) (e : insn m s = .next o) :
    Kept (lx s o) o A.regs ∧ (A.lx = false → o.regs.lxstat = s.regs.lxstat) ∧
      o.regs.fpst = s.regs.fpst ∧ o.regs.pc = s.cur.next ∧ ∀ k, o.ownByte o.me k = s.ownByte s.me k := by
  obtain ⟨leaves, pc⟩ := h.completed e
  exact ⟨leaves.kept_lx, leaves.regs.lx, leaves.regs.flags noFlags, pc, leaves.ownByte noStore⟩

theorem Ends.loaded (h : Ends (loading d l x) m s) (e : insn m s = .next o) :
    LoadKeeps s o d l x := h.frame rfl rfl e

theorem popped_mem_loading : ∀ q ∈ l.filter isQ, q ∈ (loading d l x).regs := fun _ h => List.mem_cons_of_mem _ h

theorem dest_mem_loading : d ∈ (loading d l x).regs := List.mem_cons_self

/-! Loads. -/

variable {z : Size} {w : Width} {mk : Fin 8} {i : Half} {bytes : List Byte} {off : W64}

theorem loadScalar_ends {signed : Bool} (nq : NotQ d) (hd : okG d s = .ok () s)
    (addr : Gives (accessAddr x off (2 ^ sizeCode z) 0) t va u) (load : Gives (memLoad va (2 ^ sizeCode z)) u bytes v) :
    Ends (loading d l x) (loadScalar signed z d x off) t := by
  unfold loadScalar
  rw [sizeBytes_eq]
  refine ends_frame addr (frames_accessAddr _ _ _ id) (ends_frame load (frames_memLoad _ _) ?_)
  exact ends_write (writeG_answers hd nq dest_mem_loading _ v) fun _ => ends_done

theorem loadImm_ends {signed : Bool} (nq : NotQ d) (r : Reads [okG d, okG a] [a] (some d) s p t) (base : G p a t x)
    (addr : Gives (accessAddr x (BitVec.ofInt 64 i.toInt) (2 ^ sizeCode z) 0) t va u)
    (load : Gives (memLoad va (2 ^ sizeCode z)) u bytes v) : Ends (loading d [a] x) (loadImm signed z d a i) s := by
  have hd := r.fields (okG d) (by simp)
  have ha := r.fields (okG a) (by simp)
  refine ends_read ⟨_, hd⟩ fun _ => ends_read ⟨_, ha⟩ fun _ => ends_pops r popped_mem_loading (ends_keepBase a ?_)
  exact ends_step base (.refl _ t) (loadScalar_ends nq hd addr load)

theorem ldx_loaded (nq : NotQ d) (r : Reads [okG d, okG a, okG c] [a, c] (some d) s p t) (base : G p a t x) (index : G p c t y)
    (addr : Gives (accessAddr x (BitVec.ofNat 64 (y.toNat * 2 ^ sizeCode z)) (2 ^ sizeCode z) 0) t va u)
    (load : Gives (memLoad va (2 ^ sizeCode z)) u bytes v) (e : exec (.ldx z d a c) s = .next o) :
    LoadKeeps s o d [a, c] x := by
  have hd := r.fields (okG d) (by simp)
  have ha := r.fields (okG a) (by simp)
  have hc := r.fields (okG c) (by simp)
  rw [← scaled_eq] at addr
  refine Ends.loaded ?_ e
  refine ends_read ⟨_, hd⟩ fun _ => ends_read ⟨_, ha⟩ fun _ => ends_read ⟨_, hc⟩ fun _ => ?_
  refine ends_pops r popped_mem_loading (ends_keepBase a ?_)
  exact ends_step base (.refl _ t) (ends_step index (.refl _ t) (loadScalar_ends nq hd addr load))

theorem vld_loaded (nq : NotQ d) (r : Reads [okV d, okG a] [a] (some d) s p t) (base : G p a t x)
    (addr : Gives (accessAddr x (BitVec.ofInt 64 i.toInt) 64 0) t va u) (load : Gives (memLoad va 64) u bytes v)
    (e : exec (.vld d a i) s = .next o) :
    LoadKeeps s o d [a] x := by
  have hd := r.fields (okV d) (by simp)
  have ha := r.fields (okG a) (by simp)
  refine Ends.loaded ?_ e
  refine ends_read ⟨_, hd⟩ fun _ => ends_read ⟨_, ha⟩ fun _ => ends_pops r popped_mem_loading (ends_keepBase a ?_)
  refine ends_step base (.refl _ t) (ends_frame addr (frames_accessAddr _ _ _ id) (ends_frame load (frames_memLoad _ _) ?_))
  exact ends_write (writeV_answers hd nq dest_mem_loading _ v) fun _ => ends_done

theorem vlds_loaded {es : List (Nat × W64)} {xs : List (Nat × Nat)} (nq : NotQ d)
    (r : Reads [okV d, okG a, okG c] [a, c] (some d) s p t) (base : G p a t x) (stride : G p c t y)
    (addrs : Gives (elements x y (widthBits w / 8) (activeLanes (512 / widthBits w) (t.regs.readM mk)) 0) t es u)
    (loads : Gives (es.mapM (fun e => do pure (e.1, bytesNat (← memLoad e.2 (widthBits w / 8))))) u xs v)
    (e : exec (.vlds w d a c mk) s = .next o) :
    LoadKeeps s o d [a, c] x := by
  have hd := r.fields (okV d) (by simp)
  have ha := r.fields (okG a) (by simp)
  have hc := r.fields (okG c) (by simp)
  refine Ends.loaded ?_ e
  refine ends_read ⟨_, hd⟩ fun _ => ends_read ⟨_, ha⟩ fun _ => ends_read ⟨_, hc⟩ fun _ => ?_
  refine ends_pops r popped_mem_loading (ends_keepBase a ?_)
  refine ends_step base (.refl _ t) (ends_step stride (.refl _ t) (ends_step (t := t) rfl (.refl _ t) ?_))
  refine ends_frame addrs (frames_elements _ _ _ _ id) (ends_frame loads (frames_mapM (fun e => ?_) es) ?_)
  · exact frames_bind (frames_memLoad _ _) fun _ => frames_pure _
  · refine ends_read (oldV_answers hd nq v) fun o => ?_
    exact ends_write (writeV_answers hd nq dest_mem_loading _ v) fun _ => ends_done

/-! Stores. -/

variable {st : Store} {q : Part}

/-- A computation completes an instruction that puts one store in the buffer; `v` is the state before it enters. -/
def Stores (A : Allow) (st : Store) (m : M Unit) (s v : State) : Prop :=
  m s = .ok () (buffered v st).advance ∧ Leaves A s v

theorem stores_step {k : α → M Unit} {n : M α} {r : α} (h : n s = .ok r t) (l : Leaves A s t) (next : Stores A st (k r) t v) :
    Stores A st (n >>= k) s v := ⟨(run_bind_of_ok h).trans next.1, l.trans next.2⟩

theorem stores_frame {k : α → M Unit} {n : M α} {r : α} (h : n s = .ok r t) (fr : Frames A n) (next : Stores A st (k r) t v) :
    Stores A st (n >>= k) s v := stores_step h (fr s r t h) next

theorem stores_read {k : α → M Unit} {n : M α} {r : α} (h : n s = .ok r s) (next : Stores A st (k r) s v) :
    Stores A st (n >>= k) s v := stores_step h (.refl A s) next

theorem stores_pops {fields : List (M Unit)} {srcs : List Reg} {dst : Option Reg} {k : Pops → M Unit}
    (r : Reads fields srcs dst s p t) (sub : ∀ q ∈ srcs.filter isQ, q ∈ A.regs) (next : Stores A st (k p) t v) :
    Stores A st (operands srcs dst >>= k) s v := stores_frame r.pops (frames_operands dst sub) next

theorem Stores.stored (h : Stores (storing l x) st m s v) (room : StoreRoom v st) (e : insn m s = .next o) :
    StoreKeeps s o l x st.parts := by
  obtain ⟨-, ch, chunk, -⟩ := room
  obtain ⟨runs, before⟩ := h
  rw [insn_of_ok runs] at e
  cases e
  have wide : (storing l x).Le { storing l x with buffer := true } := ⟨fun _ h => h, id, id, fun h => nomatch h⟩
  have stored : Leaves { storing l x with buffer := true } v (buffered v st) := buffered_leaves chunk st rfl
  have leaves := ((before.mono wide).trans stored).trans (.advance _)
  have next : (buffered v st).advance.regs.pc = s.cur.next :=
    (State.advance_pc _).trans (congrArg Cur.next (stored.cur.trans before.cur))
  exact ⟨leaves.kept_lx, leaves.regs.lx, leaves.regs.flags rfl, next,
    fun k out => (ownByte_outside chunk st out).trans (before.ownByte rfl k)⟩

/-- A store that has room enters the buffer. -/
theorem putStore_room (room : StoreRoom v st) (some_ : st.parts ≠ []) (va : W64) : putStore st va v = .ok () (buffered v st) := by
  obtain ⟨queue, c, chunk, lines⟩ := room
  have needs : needLines (v.me.lineCount + ((partLines st.parts c.lines).length - c.lines.length)) v = .ok () v := by
    unfold needLines
    rw [run_bind, run_get]
    dsimp only
    rw [if_pos lines, run_pure]
  have sfq : v.me.regs.sfq = v.regs.sfq := rfl
  unfold putStore
  rw [if_neg some_, run_bind, run_get]
  dsimp only
  rw [sfq, if_neg (by omega), if_neg (by omega), chunk]
  exact run_bind_of_ok needs

theorem memStore_stores {bytes : List Byte} {src size wide : Nat} (place : storePart 0 va bytes (src == 4) u = .ok q v)
    (room : StoreRoom v (oneStore v src size wide [q])) (l : Leaves A u v) :
    Stores A (oneStore v src size wide [q]) (do memStore va bytes src size wide; done) u v := by
  have put := putStore_room room (List.cons_ne_nil q []) va
  have mem : memStore va bytes src size wide u = .ok () (buffered v (oneStore v src size wide [q])) := by
    unfold memStore
    rw [run_bind_of_ok place]
    exact put
  exact ⟨run_bind_of_ok mem, l⟩

/-- The part of a store has the bytes it was given. -/
theorem storePart_bytes {lane : Nat} {bytes : List Byte} {stream : Bool} (h : storePart lane va bytes stream u = .ok q v) :
    q.bytes = bytes := by
  unfold storePart at h
  obtain ⟨r, w, -, h⟩ := run_bind_ok_iff.1 h
  rw [run_bind, run_get] at h
  dsimp only at h
  split at h
  · split_ifs at h
    · cases h
    · cases h
      rfl
    · cases h
      rfl
  · split_ifs at h
    · cases h
      rfl
    · cases h
    · cases h
      rfl

theorem natBytes_length (x n : Nat) : (natBytes x n).length = n := by
  induction n generalizing x with
  | zero => rfl
  | succ n ih => rw [natBytes, List.length_cons, ih]

/-- A store of one address reaches no byte outside those it was given. -/
theorem byteAt_storePart {lane n k : Nat} {y : Nat} {stream : Bool} (h : storePart lane va (natBytes y n) stream u = .ok q v)
    (out : ∀ a, q.key = some a → k < a ∨ a + n ≤ k) : q.byteAt k = none := by
  refine byteAt_outside ?_ out
  rw [storePart_bytes h, natBytes_length]

end

end Sys2Proof.Claim
end

section
/-! The stores, and the frames of loads and stores together (O25). -/

namespace Sys2Proof.Claim

open Sys2Proof.Machine

section

variable {s t u v o : State} {p : Pops} {a b c : Reg} {x f va : W64} {z : Size} {w : Width} {mk : Fin 8} {i : Half} {q : Part}

theorem storing_regs {l : List Reg} {x : W64} : ∀ q ∈ l.filter isQ, q ∈ (storing l x).regs := fun _ h => h

theorem storeScalar_stores {l : List Reg} {y off : W64} (addr : Gives (accessAddr x off (2 ^ sizeCode z) 1) t va u)
    (place : Gives (storePart 0 va (natBytes y.toNat (2 ^ sizeCode z))) u q v)
    (room : StoreRoom v (oneStore v 0 (sizeCode z) 0 [q])) :
    Stores (storing l x) (oneStore v 0 (sizeCode z) 0 [q]) (storeScalar z x off y) t v := by
  unfold storeScalar
  rw [sizeBytes_eq]
  exact stores_frame addr (frames_accessAddr _ _ _ id) (memStore_stores place room (frames_storePart _ _ _ _ _ _ _ place))

theorem st_stored {y : W64} (r : Reads [okG a, okG c] [a, c] none s p t) (base : G p a t x) (data : G p c t y)
    (addr : Gives (accessAddr x (BitVec.ofInt 64 i.toInt) (2 ^ sizeCode z) 1) t va u)
    (place : Gives (storePart 0 va (natBytes y.toNat (2 ^ sizeCode z))) u q v)
    (room : StoreRoom v (oneStore v 0 (sizeCode z) 0 [q])) (e : exec (.st z a c i) s = .next o) : StoreKeeps s o [a, c] x [q] := by
  have ha := r.fields (okG a) (by simp)
  have hc := r.fields (okG c) (by simp)
  refine Stores.stored (stores_read ha (stores_read hc (stores_pops r storing_regs ?_))) room e
  exact stores_read base (stores_read data (storeScalar_stores addr place room))

theorem stx_stored {y : W64} (r : Reads [okG a, okG b, okG c] [a, b, c] none s p t) (base : G p a t x) (index : G p b t f)
    (data : G p c t y) (addr : Gives (accessAddr x (BitVec.ofNat 64 (f.toNat * 2 ^ sizeCode z)) (2 ^ sizeCode z) 1) t va u)
    (place : Gives (storePart 0 va (natBytes y.toNat (2 ^ sizeCode z))) u q v)
    (room : StoreRoom v (oneStore v 0 (sizeCode z) 0 [q])) (e : exec (.stx z a b c) s = .next o) :
    StoreKeeps s o [a, b, c] x [q] := by
  have ha := r.fields (okG a) (by simp)
  have hb := r.fields (okG b) (by simp)
  have hc := r.fields (okG c) (by simp)
  rw [← scaled_eq] at addr
  refine Stores.stored (stores_read ha (stores_read hb (stores_read hc (stores_pops r storing_regs ?_)))) room e
  exact stores_read base (stores_read index (stores_read data (storeScalar_stores addr place room)))

theorem vst_stored {y : V512} (r : Reads [okG a, okV c] [a, c] none s p t) (base : G p a t x) (data : V p c u y)
    (addr : Gives (accessAddr x (BitVec.ofInt 64 i.toInt) 64 1) t va u)
    (place : Gives (storePart 0 va (natBytes y.toNat 64)) u q v) (room : StoreRoom v (oneStore v 1 0 2 [q]))
    (e : exec (.vst a c i) s = .next o) : StoreKeeps s o [a, c] x [q] := by
  have ha := r.fields (okG a) (by simp)
  have hc := r.fields (okV c) (by simp)
  refine Stores.stored (stores_read ha (stores_read hc (stores_pops r storing_regs (stores_read base ?_)))) room e
  refine stores_frame addr (frames_accessAddr _ _ _ id) (stores_read data ?_)
  exact memStore_stores place room (frames_storePart _ _ _ _ _ _ _ place)

/-- A store that has stored nothing. -/
theorem Ends.storedNothing {l : List Reg} {m : M Unit} {ps : List Part} (h : Ends (storing l x) m s) (e : insn m s = .next o) :
    StoreKeeps s o l x ps := by
  obtain ⟨kept, lxstat, fpst, pc, view⟩ := h.frame rfl rfl e
  exact ⟨kept, lxstat, fpst, pc, fun k _ => view k⟩

/-! The strided store. -/

variable {es : List (Nat × W64)} {ps : List Part} {y : V512}

/-- The parts of a strided store, one for each active element. -/
abbrev partsOf (n : Nat) (y : V512) (es : List (Nat × W64)) : M (List Part) :=
  es.mapM (fun e => storePart e.1 e.2 (natBytes (lane n y e.1) (n / 8)))

theorem frames_partsOf {A : Allow} (n : Nat) (y : V512) (es : List (Nat × W64)) : Frames A (partsOf n y es) :=
  frames_mapM (fun _ => frames_storePart _ _ _ _) es

/-- A part of a strided store reaches no byte outside its element. -/
theorem byteAt_partsOf {n k : Nat} (h : partsOf n y es u = .ok ps v)
    (out : ∀ q ∈ ps, ∀ a, q.key = some a → k < a ∨ a + n / 8 ≤ k) : ∀ q ∈ ps, q.byteAt k = none := by
  induction es generalizing u ps with
  | nil =>
    cases h
    exact fun _ hq => nomatch hq
  | cons _ es ih =>
    unfold partsOf at h
    rw [List.mapM_cons] at h
    obtain ⟨q, w, hq, h⟩ := run_bind_ok_iff.1 h
    obtain ⟨qs, w', hqs, h⟩ := run_bind_ok_iff.1 h
    cases h
    obtain ⟨here, later⟩ := List.forall_mem_cons.1 out
    exact List.forall_mem_cons.2 ⟨byteAt_storePart hq here, ih hqs later⟩

/-- Some element gives some part. -/
theorem partsOf_ne_nil {n : Nat} {e : Nat × W64} (h : partsOf n y (e :: es) u = .ok ps v) : ps ≠ [] := by
  unfold partsOf at h
  rw [List.mapM_cons] at h
  obtain ⟨q, w, -, h⟩ := run_bind_ok_iff.1 h
  obtain ⟨qs, w', -, h⟩ := run_bind_ok_iff.1 h
  cases h
  exact List.cons_ne_nil q qs

/-- With no active element the store stores nothing. -/
theorem storeElements_nil (n src size : Nat) (y : V512) (u : State) : storeElements [] n y src size u = .ok () u := rfl

theorem storeElements_room {e : Nat × W64} {n src size : Nat} (parts : partsOf n y (e :: es) u = .ok ps v)
    (room : StoreRoom v (oneStore v src size 0 ps)) :
    storeElements (e :: es) n y src size u = .ok () (buffered v (oneStore v src size 0 ps)) := by
  unfold storeElements
  rw [run_bind_of_ok parts]
  exact putStore_room room (partsOf_ne_nil parts) e.2

theorem vsts_stored (r : Reads [okG a, okG b, okV c] [a, b, c] none s p t) (base : G p a t x) (stride : G p b t f) (data : V p c u y)
    (addrs : Gives (elements x f (widthBits w / 8) (activeLanes (512 / widthBits w) (t.regs.readM mk)) 1) t es u)
    (parts : partsOf (widthBits w) y es u = .ok ps v) (room : es = [] ∨ StoreRoom v (oneStore v 2 (widthSize w) 0 ps))
    (e : exec (.vsts w a b c mk) s = .next o) : StoreKeeps s o [a, b, c] x ps := by
  have ha := r.fields (okG a) (by simp)
  have hb := r.fields (okG b) (by simp)
  have hc := r.fields (okV c) (by simp)
  cases es with
  | nil =>
    cases parts
    refine Ends.storedNothing ?_ e
    refine ends_read ⟨_, ha⟩ fun _ => ends_read ⟨_, hb⟩ fun _ => ends_read ⟨_, hc⟩ fun _ => ends_pops r storing_regs ?_
    refine ends_step base (.refl _ t) (ends_step stride (.refl _ t) (ends_step (t := t) rfl (.refl _ t) ?_))
    refine ends_frame addrs (frames_elements _ _ _ _ id) (ends_step data (.refl _ u) ?_)
    exact ends_step (storeElements_nil (widthBits w) 2 (widthSize w) y u) (.refl _ u) ends_done
  | cons n es =>
    have room := room.resolve_left (List.cons_ne_nil n es)
    refine Stores.stored (st := oneStore v 2 (widthSize w) 0 ps) ?_ room e
    refine stores_read ha (stores_read hb (stores_read hc (stores_pops r storing_regs (stores_read base (stores_read stride ?_)))))
    refine stores_step (t := t) rfl (.refl _ t) (stores_frame addrs (frames_elements _ _ _ _ id) (stores_read data ?_))
    exact ⟨run_bind_of_ok (storeElements_room parts room), frames_partsOf _ _ _ _ _ _ parts⟩

/-- A store of one part leaves the bytes outside it. -/
theorem StoreKeeps.outside {l : List Reg} {n lane : Nat} {y : Nat} (h : StoreKeeps s o l x [q])
    (place : storePart lane va (natBytes y n) false u = .ok q v) :
    Kept (lx s o) o (l.filter isQ) ∧ (bit x 63 = false → o.regs.lxstat = s.regs.lxstat) ∧
      o.regs.fpst = s.regs.fpst ∧ o.regs.pc = s.cur.next ∧
      ∀ k, (∀ b, q.key = some b → (k < b ∨ b + n ≤ k)) → o.ownByte o.me k = s.ownByte s.me k := by
  obtain ⟨kept, lxstat, fpst, pc, view⟩ := h
  exact ⟨kept, lxstat, fpst, pc, fun k out => view k (List.forall_mem_singleton.2 (byteAt_storePart place out))⟩

end

/-- What loads and stores leave. -/
theorem memoryFrame : MemoryFrame := by
  refine ⟨?_, ?_, ?_, ?_, ?_, ?_, ?_, ?_⟩
  · rintro s t u v o p d a z i x va b r base nq addr load (e | e)
    · exact (loadImm_ends nq r base addr load).loaded e
    · exact (loadImm_ends nq r base addr load).loaded e
  · exact fun s t u v o p d a c z x y va b r base index nq addr load e => ldx_loaded nq r base index addr load e
  · exact fun s t u v o p d a i x va b r base nq addr load e => vld_loaded nq r base addr load e
  · exact fun s t u v o p a c z i x y va q r base data addr place room e => (st_stored r base data addr place room e).outside place
  · exact fun s t u v o p a b c z x f y va q r base index data addr place room e =>
      (stx_stored r base index data addr place room e).outside place
  · exact fun s t u v o p a c i x va y q r base data addr place room e => (vst_stored r base data addr place room e).outside place
  · intro s t u v v' o p d a c z mk x y es xs old w r base stride nq addrs loads _ e
    exact vlds_loaded nq r base stride addrs loads e
  · intro s t u v o p a b c z mk x f y es ps w r base stride data addrs parts room e
    obtain ⟨kept, lxstat, fpst, pc, view⟩ := vsts_stored r base stride data addrs parts room e
    exact ⟨kept, lxstat, fpst, pc, fun k out => view k (byteAt_partsOf parts out)⟩

/-- Settles O25: where a store's bytes go, and the frame of each load and store from those of its parts. -/
theorem memoryFrames : Obligations.MemoryFrames := ⟨storedBytes, memoryFrame⟩

end Sys2Proof.Claim
end

section
/-! Words the spec writes out (O5). -/

namespace Sys2Proof.Claim

/-- Settles O5, word by word. -/
theorem decodeWrittenWords : Obligations.DecodeWrittenWords := ⟨rfl, rfl, rfl, rfl, rfl, rfl, rfl⟩

end Sys2Proof.Claim
end

section
/-! The words of the scalar rows, and the results of R76, R77 and R79 as the numbers their rules name (O12-O15). -/

namespace Sys2Proof.Claim

open Sys2Proof.Machine

/-! Words. -/

/-- Two parts put side by side, as a number. -/
theorem toNat_append_add {v w : Nat} (x : BitVec v) (y : BitVec w) : (x ++ y).toNat = x.toNat * 2 ^ w + y.toNat := by
  rw [BitVec.toNat_append, ← Nat.shiftLeft_add_eq_or_of_lt y.isLt, Nat.shiftLeft_eq]

/-- Two parts of 16 bits, as the halfword of their number. -/
theorem append_eq_ofNat {v w n : Nat} (x : BitVec v) (y : BitVec w) (h : v + w = n) :
    (x ++ y).cast h = BitVec.ofNat n (x.toNat * 2 ^ w + y.toNat) := by
  refine BitVec.eq_of_toNat_eq ?_
  rw [BitVec.toNat_cast, toNat_append_add, BitVec.toNat_ofNat, Nat.mod_eq_of_lt]
  rw [← toNat_append_add, ← h]
  exact (x ++ y).isLt

/-- Three parts of a halfword, as the number they make. -/
theorem half_of_parts {a b c : Nat} (x : BitVec a) (y : BitVec b) (z : BitVec c) (h : a + b + c = 16) :
    (x ++ y ++ z).cast h = BitVec.ofNat 16 ((x.toNat * 2 ^ b + y.toNat) * 2 ^ c + z.toNat) := by
  rw [append_eq_ofNat, toNat_append_add]

/-- The words of an HC row (R68). -/
theorem pack_HC {x : Fields} (h : fmtOf x.major = some .HC) (hx : x.x = 0) (hm : x.mf = 0) :
    pack x = wordHC x.major.toNat x.fn.toNat x.d x.s1 x.s2 x.s3 := by
  have head := half_of_parts (2#2) x.major x.d rfl
  have t1 := half_of_parts x.s1 x.s2 (0#2) rfl
  have t2 := half_of_parts x.s3 x.fn (0#3) rfl
  simp only [BitVec.cast_eq] at head t1 t2
  simp only [pack, h, Option.getD_some, packAs, Fmt.tl, hx, hm, wordHC, Enc.mk.injEq, and_true]
  refine ⟨head.trans (congrArg _ ?_), t1.trans (congrArg _ ?_), t2.trans (congrArg _ ?_)⟩ <;> simp <;> omega

/-- The words of an HB row (R68). -/
theorem pack_HB {x : Fields} (h : fmtOf x.major = some .HB) :
    pack x = wordHB x.major.toNat x.x.toNat x.d x.s1 x.s2 x.i16.toNat := by
  have head := half_of_parts (2#2) x.major x.d rfl
  have t1 := half_of_parts x.s1 x.s2 x.x rfl
  simp only [BitVec.cast_eq] at head t1
  simp only [pack, h, Option.getD_some, packAs, Fmt.tl, wordHB, BitVec.ofNat_toNat, BitVec.setWidth_eq, Enc.mk.injEq, and_true]
  refine ⟨head.trans (congrArg _ ?_), t1.trans (congrArg _ ?_)⟩ <;> simp <;> omega

/-! Integer arithmetic (R76). -/

section

variable (a b : W64)

theorem add_eq_ofInt : a + b = BitVec.ofInt 64 (a.toInt + b.toInt) := by
  rw [BitVec.ofInt_add, BitVec.ofInt_toInt, BitVec.ofInt_toInt]

theorem sub_eq_ofInt : a - b = BitVec.ofInt 64 (a.toInt - b.toInt) := by
  rw [Int.sub_eq_add_neg, BitVec.ofInt_add, BitVec.ofInt_neg, BitVec.ofInt_toInt, BitVec.ofInt_toInt, BitVec.sub_eq_add_neg]

theorem mul_eq_ofNat : a * b = BitVec.ofNat 64 (a.toNat * b.toNat) := by
  rw [BitVec.ofNat_mul, BitVec.ofNat_toNat, BitVec.ofNat_toNat, BitVec.setWidth_eq, BitVec.setWidth_eq]

/-- The high half of a product of 128 bits. -/
theorem high_ofInt (z : Int) : ((BitVec.ofInt 128 z) >>> 64).setWidth 64 = BitVec.ofInt 64 (z / 2 ^ 64) := by
  refine BitVec.eq_of_toNat_eq ?_
  rw [BitVec.toNat_setWidth, BitVec.toNat_ushiftRight, BitVec.toNat_ofInt, BitVec.toNat_ofInt, Nat.shiftRight_eq_div_pow]
  omega

theorem mulh_eq : Alu.mulh a b = BitVec.ofInt 64 (a.toInt * b.toInt / 2 ^ 64) := by
  rw [← high_ofInt, BitVec.ofInt_mul]
  rfl

theorem mulhu_eq : Alu.mulhu a b = BitVec.ofNat 64 (a.toNat * b.toNat / 2 ^ 64) := by
  have wide : a.setWidth 128 * b.setWidth 128 = BitVec.ofInt 128 (a.toNat * b.toNat : Nat) := by
    rw [BitVec.ofInt_natCast, BitVec.ofNat_mul, BitVec.ofNat_toNat, BitVec.ofNat_toNat]
  rw [Alu.mulhu, wide, high_ofInt, ← BitVec.ofInt_natCast]
  rfl

theorem divu_eq : Alu.divu a b = if b = 0 then BitVec.allOnes 64 else BitVec.ofNat 64 (a.toNat / b.toNat) := by
  rw [← BitVec.toNat_udiv, BitVec.ofNat_toNat, BitVec.setWidth_eq]
  rfl

theorem rem_eq : Alu.rem a b = if b = 0 then a else BitVec.ofInt 64 (a.toInt.tmod b.toInt) := by
  unfold Alu.rem Alu.div
  split
  · rfl
  · have prod : b * BitVec.ofInt 64 (a.toInt.tdiv b.toInt) = BitVec.ofInt 64 (b.toInt * a.toInt.tdiv b.toInt) := by
      rw [BitVec.ofInt_mul, BitVec.ofInt_toInt]
    rw [prod, Int.tmod_def, Int.sub_eq_add_neg, BitVec.ofInt_add, BitVec.ofInt_neg, BitVec.ofInt_toInt, BitVec.sub_eq_add_neg]

theorem remu_eq : Alu.remu a b = if b = 0 then a else BitVec.ofNat 64 (a.toNat % b.toNat) := by
  rw [← BitVec.toNat_umod, BitVec.ofNat_toNat, BitVec.setWidth_eq]
  rfl

theorem shiftLeft_eq_ofNat (n : Nat) : a <<< n = BitVec.ofNat 64 (a.toNat * 2 ^ n) := by
  refine BitVec.eq_of_toNat_eq ?_
  rw [BitVec.toNat_shiftLeft, BitVec.toNat_ofNat, Nat.shiftLeft_eq]

theorem shiftRight_eq_ofNat (n : Nat) : a >>> n = BitVec.ofNat 64 (a.toNat / 2 ^ n) := by
  rw [← Nat.shiftRight_eq_div_pow, ← BitVec.toNat_ushiftRight, BitVec.ofNat_toNat, BitVec.setWidth_eq]

theorem sshiftRight_eq_ofInt (n : Nat) : a.sshiftRight n = BitVec.ofInt 64 (a.toInt / 2 ^ n) := by
  rw [BitVec.sshiftRight_eq, Int.shiftRight_eq_div_pow]
  norm_cast

theorem flag_eq (p : Prop) [Decidable p] : Alu.flag (decide p) = one p := by
  simp only [Alu.flag, one, decide_eq_true_eq]

theorem slt_eq : Alu.slt a b = one (a.toInt < b.toInt) := by
  rw [Alu.slt, BitVec.slt_eq_decide, flag_eq]

theorem sltu_eq : Alu.sltu a b = one (a.toNat < b.toNat) := by
  rw [Alu.sltu, BitVec.ult_eq_decide, flag_eq]

theorem min_eq : Alu.min a b = if a.toInt ≤ b.toInt then a else b := by
  simp only [Alu.min, BitVec.slt_eq_decide, decide_eq_true_eq, ← not_le, ite_not]

theorem minu_eq : Alu.minu a b = if a.toNat ≤ b.toNat then a else b := by
  simp only [Alu.minu, BitVec.ult_eq_decide, decide_eq_true_eq, ← not_le, ite_not]

/-- Two words of the same signed value are one. -/
theorem max_eq : Alu.max a b = if a.toInt ≤ b.toInt then b else a := by
  rw [Alu.max, BitVec.slt_eq_decide]
  rcases lt_trichotomy a.toInt b.toInt with h | h | h
  · simp [h, h.le]
  · simp [BitVec.toInt_inj.1 h]
  · simp [not_le.2 h, not_lt.2 h.le]

theorem maxu_eq : Alu.maxu a b = if a.toNat ≤ b.toNat then b else a := by
  rw [Alu.maxu, BitVec.ult_eq_decide]
  rcases lt_trichotomy a.toNat b.toNat with h | h | h
  · simp [h, h.le]
  · simp [BitVec.toNat_inj.1 h]
  · simp [not_le.2 h, not_lt.2 h.le]

end

/-! Counts of bits (R76). -/

/-- Where the bits from n on are zero, those above the highest one are counted from its logarithm. -/
theorem clzFrom_eq (a : W64) (n : Nat) (h : a.toNat < 2 ^ n) :
    Alu.clzFrom a n = if a = 0 then n else n - 1 - a.toNat.log2 := by
  induction n with
  | zero =>
    have zero : a = 0 := BitVec.eq_of_toNat_eq (by simp; omega)
    rw [if_pos zero, Alu.clzFrom]
  | succ n ih =>
    rw [Alu.clzFrom, ← BitVec.testBit_toNat]
    by_cases top : a.toNat < 2 ^ n
    · rw [Nat.testBit_lt_two_pow top, ih top, if_neg Bool.false_ne_true]
      split
      · omega
      · rename_i nonzero
        have pos : a.toNat ≠ 0 := fun e => nonzero (BitVec.eq_of_toNat_eq (by simpa using e))
        have := (Nat.log2_lt pos).2 top
        omega
    · have pos : a.toNat ≠ 0 := by have := Nat.two_pow_pos n; omega
      have log : a.toNat.log2 = n := (Nat.log2_eq_iff pos).2 ⟨by omega, h⟩
      have nonzero : a ≠ 0 := by rintro rfl; exact pos rfl
      have high : a.toNat.testBit n = true := by
        rw [Nat.testBit_eq_decide_div_mod_eq, Nat.div_eq_of_lt_le (k := 1) (by omega) (by rw [Nat.pow_succ] at h; omega)]
        rfl
      rw [high, if_pos rfl, if_neg nonzero, log]
      omega

theorem clz_eq (a : W64) : Alu.clz a = if a = 0 then 64 else BitVec.ofNat 64 (63 - a.toNat.log2) := by
  rw [Alu.clz, clzFrom_eq a 64 a.isLt]
  split <;> rfl

/-- The zero bits below the lowest one, from bit i on, lead up to it. -/
theorem ctzFrom_eq (a : W64) (i n : Nat) :
    i + Alu.ctzFrom a i n = ((List.range' i n).find? (fun j => a.toNat.testBit j)).getD (i + n) := by
  induction n generalizing i with
  | zero => rfl
  | succ n ih =>
    rw [Alu.ctzFrom, ← BitVec.testBit_toNat, List.range'_succ, List.find?_cons]
    cases a.toNat.testBit i with
    | true => rfl
    | false =>
      have next := ih (i + 1)
      rw [show i + (n + 1) = i + 1 + n by omega]
      simp only [Bool.false_eq_true, if_false]
      omega

theorem ctz_eq (a : W64) :
    Alu.ctz a = BitVec.ofNat 64 (((List.range 64).find? (fun i => a.toNat.testBit i)).getD 64) := by
  have below := ctzFrom_eq a 0 64
  rw [Nat.zero_add, Nat.zero_add, ← List.range_eq_range'] at below
  rw [Alu.ctz, below]

theorem ones_eq (a : W64) (n : Nat) : Alu.ones a n = ((List.range n).filter (fun i => a.toNat.testBit i)).length := by
  induction n with
  | zero => rfl
  | succ n ih =>
    rw [Alu.ones, ih, ← BitVec.testBit_toNat, List.range_succ, List.filter_append, List.length_append, Nat.add_comm]
    cases h : a.toNat.testBit n <;> simp [h]

theorem popc_eq (a : W64) : Alu.popc a = BitVec.ofNat 64 ((List.range 64).filter (fun i => a.toNat.testBit i)).length := by
  rw [Alu.popc, ones_eq]

/-! Fields and immediates (R60, R77-R79). -/

/-- A number of n bits as a word, its top bit repeated above it. -/
theorem extended_eq_bmod {v n : Nat} (n0 : 0 < n) (n64 : n ≤ 64) (h : v < 2 ^ n) :
    (if (BitVec.ofNat 64 v).getLsbD (n - 1) then BitVec.ofNat 64 (v + 2 ^ 64 - 2 ^ n) else BitVec.ofNat 64 v) =
      BitVec.ofInt 64 ((v : Int).bmod (2 ^ n)) := by
  obtain ⟨k, rfl⟩ : ∃ k, n = k + 1 := ⟨n - 1, by omega⟩
  have fits : 2 ^ (k + 1) ≤ 2 ^ 64 := Nat.pow_le_pow_right (by decide) n64
  have double : 2 ^ (k + 1) = 2 * 2 ^ k := by rw [Nat.pow_succ, Nat.mul_comm]
  have top : (BitVec.ofNat 64 v).getLsbD k = decide (2 ^ k ≤ v) := by
    rw [BitVec.getLsbD_ofNat, decide_eq_true (show k < 64 by omega), Bool.true_and]
    by_cases low : v < 2 ^ k
    · rw [Nat.testBit_lt_two_pow low, decide_eq_false (by omega)]
    · rw [Nat.testBit_eq_decide_div_mod_eq, Nat.div_eq_of_lt_le (k := 1) (by omega) (by omega), decide_eq_true (not_lt.1 low)]
      rfl
  have whole : (v : Int) % (2 ^ (k + 1) : Nat) = v := by
    rw [← Int.natCast_mod, Nat.mod_eq_of_lt h]
  rw [Nat.add_sub_cancel, top, Int.bmod, whole]
  by_cases low : v < 2 ^ k
  · rw [decide_eq_false (by omega), if_neg Bool.false_ne_true, if_pos (by omega), BitVec.ofInt_natCast]
  · rw [decide_eq_true (by omega), if_pos rfl, if_neg (by omega)]
    refine BitVec.eq_of_toNat_eq ?_
    rw [BitVec.toNat_ofNat, BitVec.toNat_ofInt]
    omega

/-- A field that lies within a word ends at bit 63 or below. -/
theorem fieldOk_iff {lo w1 : BitVec 6} : fieldOk lo w1 = true ↔ lo.toNat + w1.toNat + 1 ≤ 64 := by
  rw [fieldOk, decide_eq_true_eq]

theorem bexts_eq (a : W64) {lo w1 : BitVec 6} :
    Alu.bexts a lo w1 = BitVec.ofInt 64 (((a.toNat / 2 ^ lo.toNat : Nat) : Int).bmod (2 ^ (w1.toNat + 1))) := by
  have low : a.toNat / 2 ^ lo.toNat % 2 ^ (w1.toNat + 1) < 2 ^ (w1.toNat + 1) := Nat.mod_lt _ (Nat.two_pow_pos _)
  have width : w1.toNat + 1 ≤ 64 := w1.isLt
  have fits : 2 ^ (w1.toNat + 1) ≤ 2 ^ 64 := Nat.pow_le_pow_right (by decide) width
  have field : (Alu.bext a lo w1).toNat = a.toNat / 2 ^ lo.toNat % 2 ^ (w1.toNat + 1) :=
    (BitVec.toNat_ofNat ..).trans (Nat.mod_eq_of_lt (low.trans_le fits))
  have ext := extended_eq_bmod w1.toNat.succ_pos width low
  rw [Int.natCast_mod, Int.emod_bmod] at ext
  rw [← ext, Alu.bexts, field]
  rfl

theorem bins_eq {x y r : W64} {lo w1 : BitVec 6} (ok : fieldOk lo w1 = true) (h : ∀ i, i < 64 → r.getLsbD i =
      if lo.toNat ≤ i ∧ i ≤ lo.toNat + w1.toNat then y.getLsbD (i - lo.toNat) else x.getLsbD i) :
    Alu.bins x y lo w1 = r := by
  refine BitVec.eq_of_getLsbD_eq fun i hi => ?_
  have field := bit_setFld (lo := lo.toNat) (n := w1.toNat + 1) (fieldOk_iff.1 ok) x y.toNat i
  rw [BitVec.testBit_toNat] at field
  rw [h i hi]
  refine field.trans (if_congr ?_ rfl rfl)
  omega

theorem rel32_eq (line : W64) (i : BitVec 32) :
    rel32 line i = BitVec.ofInt 64 (line.toInt + i.toInt / 32 * 64 + i.toInt % 32 * 2) := by
  have above : (i.extractLsb' 5 27).toInt = i.toInt / 32 := by
    rw [BitVec.toInt_eq_toNat_cond, BitVec.toInt_eq_toNat_cond, BitVec.extractLsb'_toNat, Nat.shiftRight_eq_div_pow]
    omega
  have slot : ((2 * (i.toNat % 32) : Nat) : Int) = i.toInt % 32 * 2 := by
    rw [BitVec.toInt_eq_toNat_cond]
    omega
  rw [BitVec.ofInt_add, BitVec.ofInt_add, BitVec.ofInt_mul, BitVec.ofInt_toInt, ← above, ← slot, BitVec.ofInt_natCast]
  rfl

end Sys2Proof.Claim
end

section
/-! The scalar groups (O12-O15): each instruction completes with its result, as its shape does. -/

namespace Sys2Proof.Claim

open Sys2Proof.Machine

section

variable {s t u : State} {p : Pops} {d a b c : Reg} {x y z : W64}

/-! Shapes: with its fields accepted, its sources read and its result written, an instruction completes. -/

theorem scalar0_completes {f : W64} (r : Reads [okG d] [] (some d) s p t) (w : Gives (writeG d f) t () u) :
    insn (scalar0 d f) s = .next u.advance := by
  have hd := r.fields (okG d) (by simp)
  refine insn_of_ok ((run_bind_of_ok hd).trans ((run_bind_of_ok r.pops).trans ?_))
  exact run_bind_of_ok w

theorem scalar1_completes {f : W64 → W64} (r : Reads [okG d, okG a] [a] (some d) s p t) (ha : G p a t x)
    (w : Gives (writeG d (f x)) t () u) : insn (scalar1 d a f) s = .next u.advance := by
  have fd := r.fields (okG d) (by simp)
  have fa := r.fields (okG a) (by simp)
  refine insn_of_ok ((run_bind_of_ok fd).trans ((run_bind_of_ok fa).trans ((run_bind_of_ok r.pops).trans ?_)))
  exact (run_bind_of_ok ha).trans (run_bind_of_ok w)

theorem scalar2_completes {f : W64 → W64 → W64} (r : Reads [okG d, okG a, okG b] [a, b] (some d) s p t) (ha : G p a t x)
    (hb : G p b t y) (w : Gives (writeG d (f x y)) t () u) : insn (scalar2 d a b f) s = .next u.advance := by
  have fd := r.fields (okG d) (by simp)
  have fa := r.fields (okG a) (by simp)
  have fb := r.fields (okG b) (by simp)
  refine insn_of_ok ((run_bind_of_ok fd).trans ((run_bind_of_ok fa).trans ((run_bind_of_ok fb).trans ?_)))
  refine (run_bind_of_ok r.pops).trans ((run_bind_of_ok ha).trans ((run_bind_of_ok hb).trans ?_))
  exact run_bind_of_ok w

theorem scalar3_completes {f : W64 → W64 → W64 → W64} (r : Reads [okG d, okG a, okG b, okG c] [a, b, c] (some d) s p t)
    (ha : G p a t x) (hb : G p b t y) (hc : G p c t z) (w : Gives (writeG d (f x y z)) t () u) :
    insn (scalar3 d a b c f) s = .next u.advance := by
  have fd := r.fields (okG d) (by simp)
  have fa := r.fields (okG a) (by simp)
  have fb := r.fields (okG b) (by simp)
  have fc := r.fields (okG c) (by simp)
  refine insn_of_ok ((run_bind_of_ok fd).trans ((run_bind_of_ok fa).trans ((run_bind_of_ok fb).trans ?_)))
  refine (run_bind_of_ok fc).trans ((run_bind_of_ok r.pops).trans ((run_bind_of_ok ha).trans ?_))
  exact (run_bind_of_ok hb).trans ((run_bind_of_ok hc).trans (run_bind_of_ok w))

end

/-! The members of each group: their words, and the shape and result of each. -/

/-- An instruction of two scalar sources whose result a function gives. -/
def Binary (k : Reg → Reg → Reg → Instr) (f : W64 → W64 → W64) : Prop :=
  ∃ g : W64 → W64 → W64, (∀ d a b s, exec (k d a b) s = insn (scalar2 d a b g) s) ∧ ∀ x y, g x y = f x y

/-- An instruction of one scalar source and an immediate whose result a function gives. -/
def Unary {α : Type} (k : Reg → Reg → α → Instr) (f : W64 → α → W64) : Prop :=
  ∃ g : W64 → α → W64, (∀ d a i s, exec (k d a i) s = insn (scalar1 d a (fun x => g x i)) s) ∧ ∀ x i, g x i = f x i

theorem aluTwo_binary : ∀ e ∈ aluTwo, Binary e.1 e.2 := by
  simp only [aluTwo, List.forall_mem_cons, List.not_mem_nil, false_implies, implies_true, and_true]
  refine ⟨?add, ?sub, ?mul, ?mulh, ?mulhu, ?div, ?divu, ?rem, ?remu, ?and, ?or, ?xor, ?shl, ?shr, ?sra, ?slt, ?sltu, ?min, ?max,
    ?minu, ?maxu⟩
  case add => exact ⟨_, fun _ _ _ _ => rfl, add_eq_ofInt⟩
  case sub => exact ⟨_, fun _ _ _ _ => rfl, sub_eq_ofInt⟩
  case mul => exact ⟨_, fun _ _ _ _ => rfl, mul_eq_ofNat⟩
  case mulh => exact ⟨_, fun _ _ _ _ => rfl, mulh_eq⟩
  case mulhu => exact ⟨_, fun _ _ _ _ => rfl, mulhu_eq⟩
  case div => exact ⟨_, fun _ _ _ _ => rfl, fun _ _ => rfl⟩
  case divu => exact ⟨_, fun _ _ _ _ => rfl, divu_eq⟩
  case rem => exact ⟨_, fun _ _ _ _ => rfl, rem_eq⟩
  case remu => exact ⟨_, fun _ _ _ _ => rfl, remu_eq⟩
  case and => exact ⟨_, fun _ _ _ _ => rfl, fun _ _ => rfl⟩
  case or => exact ⟨_, fun _ _ _ _ => rfl, fun _ _ => rfl⟩
  case xor => exact ⟨_, fun _ _ _ _ => rfl, fun _ _ => rfl⟩
  case shl => exact ⟨_, fun _ _ _ _ => rfl, fun x y => shiftLeft_eq_ofNat x (y.toNat % 64)⟩
  case shr => exact ⟨_, fun _ _ _ _ => rfl, fun x y => shiftRight_eq_ofNat x (y.toNat % 64)⟩
  case sra => exact ⟨_, fun _ _ _ _ => rfl, fun x y => sshiftRight_eq_ofInt x (y.toNat % 64)⟩
  case slt => exact ⟨_, fun _ _ _ _ => rfl, slt_eq⟩
  case sltu => exact ⟨_, fun _ _ _ _ => rfl, sltu_eq⟩
  case min => exact ⟨_, fun _ _ _ _ => rfl, min_eq⟩
  case max => exact ⟨_, fun _ _ _ _ => rfl, max_eq⟩
  case minu => exact ⟨_, fun _ _ _ _ => rfl, minu_eq⟩
  case maxu => exact ⟨_, fun _ _ _ _ => rfl, maxu_eq⟩

/-- The members of one source, each with an immediate it does not have. -/
theorem aluOne_unary : ∀ e ∈ aluOne, Unary (fun d a (_ : Unit) => e.1 d a) (fun x _ => e.2 x) := by
  simp only [aluOne, List.forall_mem_cons, List.not_mem_nil, false_implies, implies_true, and_true]
  refine ⟨?clz, ?ctz, ?popc, ?mov⟩
  case clz => exact ⟨fun x _ => Alu.clz x, fun _ _ _ _ => rfl, fun x _ => clz_eq x⟩
  case ctz => exact ⟨fun x _ => Alu.ctz x, fun _ _ _ _ => rfl, fun x _ => ctz_eq x⟩
  case popc => exact ⟨fun x _ => Alu.popc x, fun _ _ _ _ => rfl, fun x _ => popc_eq x⟩
  case mov => exact ⟨fun x _ => id x, fun _ _ _ _ => rfl, fun _ _ => rfl⟩

theorem aluImm_unary : ∀ e ∈ aluImm, Unary e.1 e.2 := by
  simp only [aluImm, List.forall_mem_cons, List.not_mem_nil, false_implies, implies_true, and_true]
  have unsigned (i : Half) : i.setWidth 64 = BitVec.ofNat 64 i.toNat := (BitVec.ofNat_toNat ..).symm
  refine ⟨?addi, ?andi, ?ori, ?xori, ?slti⟩
  case addi =>
    refine ⟨fun x i => x + i.signExtend 64, fun _ _ _ _ => rfl, fun x i => ?_⟩
    exact (add_eq_ofInt x _).trans (by rw [BitVec.toInt_signExtend_of_le (by decide)])
  case andi => exact ⟨fun x i => x &&& i.signExtend 64, fun _ _ _ _ => rfl, fun _ _ => rfl⟩
  case ori => exact ⟨fun x i => x ||| i.setWidth 64, fun _ _ _ _ => rfl, fun x i => congrArg (x ||| ·) (unsigned i)⟩
  case xori => exact ⟨fun x i => x ^^^ i.setWidth 64, fun _ _ _ _ => rfl, fun x i => congrArg (x ^^^ ·) (unsigned i)⟩
  case slti =>
    refine ⟨fun x i => Alu.slt x (i.signExtend 64), fun _ _ _ _ => rfl, fun x i => ?_⟩
    exact (slt_eq x _).trans (by rw [BitVec.toInt_signExtend_of_le (by decide)])

theorem shiftImm_unary : ∀ e ∈ shiftImm, Unary e.1 (fun x n => e.2 x n.toNat) := by
  simp only [shiftImm, List.forall_mem_cons, List.not_mem_nil, false_implies, implies_true, and_true]
  refine ⟨?shli, ?shri, ?srai⟩
  case shli => exact ⟨fun x n => x <<< n.toNat, fun _ _ _ _ => rfl, fun x n => shiftLeft_eq_ofNat x n.toNat⟩
  case shri => exact ⟨fun x n => x >>> n.toNat, fun _ _ _ _ => rfl, fun x n => shiftRight_eq_ofNat x n.toNat⟩
  case srai => exact ⟨fun x n => x.sshiftRight n.toNat, fun _ _ _ _ => rfl, fun x n => sshiftRight_eq_ofInt x n.toNat⟩

theorem Binary.completes {k : Reg → Reg → Reg → Instr} {f : W64 → W64 → W64} (h : Binary k f) {s t u : State} {p : Pops}
    {d a b : Reg} {x y : W64} (r : Reads [okG d, okG a, okG b] [a, b] (some d) s p t) (ha : G p a t x) (hb : G p b t y)
    (w : Gives (writeG d (f x y)) t () u) : exec (k d a b) s = .next u.advance := by
  obtain ⟨g, shape, value⟩ := h
  rw [← value] at w
  rw [shape]
  exact scalar2_completes r ha hb w

theorem Unary.completes {α : Type} {k : Reg → Reg → α → Instr} {f : W64 → α → W64} (h : Unary k f) {s t u : State} {p : Pops}
    {d a : Reg} {i : α} {x : W64} (r : Reads [okG d, okG a] [a] (some d) s p t) (ha : G p a t x)
    (w : Gives (writeG d (f x i)) t () u) : exec (k d a i) s = .next u.advance := by
  obtain ⟨g, shape, value⟩ := h
  rw [← value] at w
  rw [shape]
  exact scalar1_completes (f := fun x => g x i) r ha w

/-- The member of each FN has its row (R76). -/
theorem aluTwo_fields (k : Nat) (e : (Reg → Reg → Reg → Instr) × (W64 → W64 → W64)) (h : aluTwo[k]? = some e) (d a b : Reg) :
    k < 21 ∧ encodeFields (e.1 d a b) = Enc.r3 0x02 (BitVec.ofNat 6 k) d a b := by
  obtain ⟨lt, rfl⟩ := List.getElem?_eq_some_iff.1 h
  have lt : k < 21 := lt
  refine ⟨lt, ?_⟩
  interval_cases k <;> rfl

theorem aluOne_fields (k : Nat) (e : (Reg → Reg → Instr) × (W64 → W64)) (h : aluOne[k]? = some e) (d a : Reg) :
    k < 4 ∧ encodeFields (e.1 d a) = Enc.r2 0x02 (BitVec.ofNat 6 (22 + k)) d a := by
  obtain ⟨lt, rfl⟩ := List.getElem?_eq_some_iff.1 h
  have lt : k < 4 := lt
  refine ⟨lt, ?_⟩
  interval_cases k <;> rfl

/-- Settles O12: the words row by row, the results by the shape of their members. -/
theorem aluGroup : Obligations.AluGroup := by
  refine ⟨fun k e h d a b => ?_, fun k e h d a => ?_, fun d a b c => pack_HC rfl rfl rfl, ?_, ?_, ?_⟩
  · obtain ⟨lt, fields⟩ := aluTwo_fields k e h d a b
    rw [encode, fields, pack_HC rfl rfl rfl]
    exact congrArg (wordHC 2 · d.enc a.enc b.enc 0) (Nat.mod_eq_of_lt (by omega))
  · obtain ⟨lt, fields⟩ := aluOne_fields k e h d a
    rw [encode, fields, pack_HC rfl rfl rfl]
    exact congrArg (wordHC 2 · d.enc a.enc 0 0) (Nat.mod_eq_of_lt (by omega))
  · exact fun e he s t u p d a b x y r ha hb w => (aluTwo_binary e he).completes r ha hb w
  · exact fun e he s t u p d a x r ha w => (aluOne_unary e he).completes (i := ()) r ha w
  · exact fun s t u p d a b c x y z r ha hb hc w => scalar3_completes r ha hb hc w

/-! Immediates. -/

theorem aluImm_fields (k : Nat) (e : (Reg → Reg → Half → Instr) × (W64 → Half → W64)) (m : Nat) (h : aluImm[k]? = some e)
    (hm : [0x03, 0x04, 0x05, 0x06, 0x0A][k]? = some m) (d a : Reg) (i : Half) :
    fmtOf (BitVec.ofNat 7 m) = some .HB ∧ m < 128 ∧ encodeFields (e.1 d a i) = Enc.imm (BitVec.ofNat 7 m) d a i := by
  obtain ⟨lt, rfl⟩ := List.getElem?_eq_some_iff.1 h
  obtain ⟨_, rfl⟩ := List.getElem?_eq_some_iff.1 hm
  have lt : k < 5 := lt
  interval_cases k <;> exact ⟨rfl, of_decide_eq_true rfl, rfl⟩

theorem shiftImm_fields (k : Nat) (e : (Reg → Reg → BitVec 6 → Instr) × (W64 → Nat → W64)) (h : shiftImm[k]? = some e)
    (d a : Reg) (n : BitVec 6) : k < 3 ∧ fmtOf (BitVec.ofNat 7 (7 + k)) = some .HB ∧
      encodeFields (e.1 d a n) = Enc.imm (BitVec.ofNat 7 (7 + k)) d a ((0 : BitVec 10) ++ n) := by
  obtain ⟨lt, rfl⟩ := List.getElem?_eq_some_iff.1 h
  have lt : k < 3 := lt
  interval_cases k <;> exact ⟨by decide, rfl, rfl⟩

/-- A row of an immediate has the words of its major. -/
theorem pack_imm {m : Nat} (h : fmtOf (BitVec.ofNat 7 m) = some .HB) (lt : m < 128) (d a : Reg) (i : Half) :
    pack (Enc.imm (BitVec.ofNat 7 m) d a i) = wordHB m 0 d.enc a.enc 0 i.toNat :=
  (pack_HB h).trans (congrArg (wordHB · 0 d.enc a.enc 0 i.toNat) (Nat.mod_eq_of_lt lt))

/-- The immediate shifts have format HB (R72). -/
theorem fmtOf_shift : ∀ m : BitVec 7, m.toNat ∈ [0x07, 0x08, 0x09] → fmtOf m = some .HB := by decide

namespace Refusal

open Dec

/-- A decoder's answer is a refusal. -/
def Refuses {α : Type} (x : Except DecodeErr α) : Prop := ∃ e, x = .error e

theorem refuses_bind {α β : Type} {x : Except DecodeErr α} {f : α → Except DecodeErr β} (h : ∀ a, x = .ok a → Refuses (f a)) :
    Refuses (x >>= f) := by
  cases x with
  | error e => exact ⟨e, rfl⟩
  | ok a => exact h a rfl

theorem refuses_zero {w : Nat} {b : BitVec w} (h : b ≠ 0) {β : Type} (f : Unit → Except DecodeErr β) :
    Refuses (zero b >>= f) := by
  rw [zero, if_neg h]
  exact ⟨_, rfl⟩

theorem refuses_shiftRow {f : Fields} (h : f.i16.extractLsb' 6 10 ≠ 0) (k : Reg → Reg → BitVec 6 → Instr) :
    Refuses (shiftRow f k) :=
  refuses_bind fun _ _ => refuses_bind fun _ _ => refuses_bind fun _ _ => refuses_bind fun _ _ => refuses_zero h _

theorem refuses_bitField {f : Fields} (h : f.i16.extractLsb' 12 4 = 0 → fieldOk (f.i16.extractLsb' 0 6) (f.i16.extractLsb' 6 6) = false) :
    Refuses (bitField f) := by
  refine refuses_bind fun _ _ => refuses_bind fun _ _ => refuses_bind fun _ hz => ?_
  have zeros : f.i16.extractLsb' 12 4 = 0 := by
    by_contra nonzero
    rw [zero, if_neg nonzero] at hz
    cases hz
  dsimp only
  rw [h zeros]
  exact ⟨_, rfl⟩

/-- A head of an HB major whose fields are refused raises illegal-instruction (R70). -/
theorem illegalHead {e : Enc} (h : fmtOf (headMajor e.head) = some .HB) (r : Refuses (decodeFields (unpackAs .HB e))) :
    IllegalHead e := by
  obtain ⟨x, hx⟩ := r
  by_cases tl : headTl e.head = Fmt.tl .HB
  · exact illegalHead_of_error (x := x) (by simp only [decode, unpack, h, tl, if_true, hx])
  · exact illegalHead_of_error (x := .tailLength) (by simp only [decode, unpack, h, tl, if_false])

end Refusal

open Refusal

/-- Settles O13: the words row by row, the results by the shape of their members, and the refusal by the row's check of IMM16. -/
theorem immediateForms : Obligations.ImmediateForms := by
  refine ⟨fun k e m h hm d a i => ?_, fun k e h d a n => ?_, ?_, ?_, ?_⟩
  · obtain ⟨fmt, lt, fields⟩ := aluImm_fields k e m h hm d a i
    rw [encode, fields, pack_imm fmt lt]
  · obtain ⟨lt, fmt, fields⟩ := shiftImm_fields k e h d a n
    have amount : ((0 : BitVec 10) ++ n).toNat = n.toNat := by
      rw [toNat_append_add]
      simp
    rw [encode, fields, pack_imm fmt (by omega), amount]
  · exact fun e he s t u p d a i x r ha w => (aluImm_unary e he).completes r ha w
  · exact fun e he s t u p d a n x r ha w => (shiftImm_unary e he).completes r ha w
  · intro e major high
    have above : (unpackAs .HB e).i16.extractLsb' 6 10 ≠ 0 := by
      show e.t2.extractLsb' 6 10 ≠ 0
      intro zero
      have := congrArg BitVec.toNat zero
      rw [BitVec.extractLsb'_toNat, Nat.shiftRight_eq_div_pow, BitVec.ofNat_eq_ofNat, BitVec.toNat_zero] at this
      have := e.t2.isLt
      omega
    have same : (unpackAs .HB e).major = headMajor e.head := rfl
    simp only [List.mem_cons, List.not_mem_nil, or_false] at major
    rcases major with m | m | m
    all_goals
      refine illegalHead (fmtOf_shift _ (by simp [m])) ?_
      rw [decodeFields, same, m]
      exact refuses_shiftRow above _

/-! Constants. -/

/-- Settles O14: the constants by the shape of their rows, and NOP by what completing leaves. -/
theorem constants : Obligations.Constants := by
  refine ⟨fun s t u p d i r => ⟨fun w => scalar0_completes r w, fun w => ?_, fun w => ?_⟩, fun s => ⟨rfl, ?_, s.advance_pc, ?_⟩⟩
  · refine scalar0_completes r (f := i.setWidth 64 <<< 32) ?_
    rw [shiftLeft_eq_ofNat, BitVec.toNat_setWidth_of_le (by decide)]
    exact w
  · refine scalar0_completes r (f := rel32 s.cur.line i) ?_
    rw [rel32_eq]
    exact w
  · exact (Leaves.advance (A := { regs := [] }) s).kept rfl
  · exact (Leaves.advance (A := { regs := [] }) s).regs.flags rfl

/-! Bit fields. -/

/-- The immediate of a bit-field row: the lowest bit, and above it the width less one. -/
theorem bits_toNat (lo w1 : BitVec 6) : ((0 : BitVec 4) ++ w1 ++ lo).toNat = lo.toNat + w1.toNat * 64 := by
  rw [toNat_append_add, toNat_append_add]
  simp
  omega

/-- Settles O15: the words row by row, BEXT and BINS bit by bit, BEXTS as the field's signed value, and the refusal by the row's
check of the field. -/
theorem bitFields : Obligations.BitFields := by
  refine ⟨fun d a b lo w1 => ?_, ?_, ?_, ?_⟩
  · rw [← bits_toNat]
    exact ⟨pack_HB rfl, pack_HB rfl, pack_HB rfl⟩
  · intro s t u p d a lo w1 x ok r ha
    refine ⟨fun w => scalar1_completes r ha w, fun w => scalar1_completes (f := fun x => Alu.bexts x lo w1) r ha ?_⟩
    rw [bexts_eq]
    exact w
  · intro s t u p d a b lo w1 x y v ok r ha hb bits w
    refine scalar2_completes (f := fun x y => Alu.bins x y lo w1) r ha hb ?_
    rw [bins_eq ok bits]
    exact w
  · intro e major beyond
    have same : (unpackAs .HB e).major = headMajor e.head := rfl
    refine illegalHead (by rw [BitVec.eq_of_toNat_eq (y := 0x0E) major]; rfl) ?_
    rw [decodeFields, same, major]
    refine refuses_bitField fun zeros => ?_
    have zeros : (e.t2.extractLsb' 12 4).toNat = 0 := congrArg BitVec.toNat zeros
    rw [Bool.eq_false_iff]
    intro ok
    have ok := fieldOk_iff.1 ok
    have lt := e.t2.isLt
    simp only [unpackAs, BitVec.extractLsb'_toNat, Nat.shiftRight_eq_div_pow] at zeros ok
    omega

end Sys2Proof.Claim
end

section
/-! The address of an access (O22): flat handles, labels, and the elements of a strided access. -/

namespace Sys2Proof.Claim

open Sys2Proof.Machine

section

variable {s t u : State} {h off st b : W64} {n src : Nat} {k : Skein}

/-- A flat address below 2^57 passes (R84). -/
theorem flatOk_ok {a : W64} (lt : a.toNat < 2 ^ 57) : flatOk a s = .ok () s := by
  rw [flatOk, if_pos lt]
  rfl

/-- One at or above it raises address. -/
theorem flatOk_beyond {a : W64} (ge : 2 ^ 57 ≤ a.toNat) : flatOk a s = .error (.trap Cause.address a 0 none none) s := by
  rw [flatOk, if_neg (Nat.not_lt.2 ge)]
  rfl

/-- Where an address stands that has been formed: handed on where it is aligned, else misaligned. -/
theorem aligned_eq (a : W64) (n : Nat) (s : State) :
    (if a.toNat % n ≠ 0 then stopTrap Cause.misaligned a else pure a : M W64) s =
      if a.toNat % n = 0 then .ok a s else .error (.trap Cause.misaligned a 0 none none) s := by
  by_cases e : a.toNat % n = 0
  · rw [if_neg (not_not.2 e), if_pos e]
    rfl
  · rw [if_pos e, if_neg e]
    rfl

/-- An offset lies outside a node of 2^L bytes where it is negative or its access ends beyond the node (R84). -/
theorem outside_node_iff (off : W64) (n L : Nat) :
    (bit off 63 || decide (2 ^ L < off.toNat + n)) = true ↔ (off.toInt < 0 ∨ 2 ^ L < off.toInt + n) := by
  have sign : bit off 63 = decide (2 ^ 63 ≤ off.toNat) := by
    rw [bit, ← BitVec.msb_eq_getLsbD_last off, BitVec.msb_eq_decide]
  have power : ((2 ^ L : Nat) : Int) = 2 ^ L := by norm_cast
  rw [Bool.or_eq_true, sign, decide_eq_true_eq, decide_eq_true_eq, BitVec.toInt_eq_toNat_cond]
  rw [← power]
  have := off.isLt
  split <;> omega

/-- Inside the node: neither. -/
theorem inside_node {off : W64} {n L : Nat} (low : 0 ≤ off.toInt) (high : off.toInt + n ≤ 2 ^ L) :
    (bit off 63 || decide (2 ^ L < off.toNat + n)) = false := by
  rw [Bool.eq_false_iff, Ne, outside_node_iff]
  omega

theorem accessAddr_of_handleAddr {a : W64} (addr : handleAddr h off n src s = .ok a t) :
    accessAddr h off n src s = if a.toNat % n = 0 then .ok a t else .error (.trap Cause.misaligned a 0 none none) t :=
  (run_bind_of_ok addr).trans (aligned_eq a n t)

theorem handleAddr_flat (flat : bit h 63 = false) (s : State) :
    handleAddr h off n src s = (do flatOk (h + off); pure (h + off) : M W64) s := by
  rw [handleAddr, flat, if_neg Bool.false_ne_true]

theorem handleAddr_flat_ok (flat : bit h 63 = false) (lt : (h + off).toNat < 2 ^ 57) :
    handleAddr h off n src s = .ok (h + off) s := by
  rw [handleAddr_flat flat, run_bind_of_ok (flatOk_ok lt), run_pure]

theorem handleAddr_flat_beyond (flat : bit h 63 = false) (ge : 2 ^ 57 ≤ (h + off).toNat) :
    handleAddr h off n src s = .error (.trap Cause.address (h + off) 0 none none) s := by
  rw [handleAddr_flat flat, run_bind_of_error (flatOk_beyond ge)]

theorem handleAddr_label (label : bit h 63 = true) (wf : wellFormedLabel h s = .ok k t) :
    handleAddr h off n src s = (if bit off 63 || decide (2 ^ k.log2 < off.toNat + n) then stopTrap Cause.labelOffset h
      else do pure ((← labelTranslate k h src) + off) : M W64) t := by
  rw [handleAddr, label, if_pos rfl, run_bind_of_ok wf]

theorem handleAddr_outside (label : bit h 63 = true) (wf : wellFormedLabel h s = .ok k t)
    (out : off.toInt < 0 ∨ 2 ^ k.log2 < off.toInt + n) :
    handleAddr h off n src s = .error (.trap Cause.labelOffset h 0 none none) t := by
  rw [handleAddr_label label wf, if_pos ((outside_node_iff off n k.log2).2 out)]
  rfl

theorem handleAddr_translated (label : bit h 63 = true) (wf : wellFormedLabel h s = .ok k t) (low : 0 ≤ off.toInt)
    (high : off.toInt + n ≤ 2 ^ k.log2) (tr : labelTranslate k h src t = .ok b u) :
    handleAddr h off n src s = .ok (b + off) u := by
  rw [handleAddr_label label wf, inside_node low high, if_neg Bool.false_ne_true, run_bind_of_ok tr, run_pure]

/-! Elements of a strided access. -/

/-- The base a strided access starts from: the handle, or the place of its label; the state once it is known, and the size of the
label's node. -/
structure Base (h : W64) (src : Nat) (s : State) (b : W64) (node : Option Nat) (u : State) : Prop where
  run : ∀ (st : W64) (n : Nat) (l : List Nat),
    elements h st n l src s = l.mapM (fun i => (do pure (i, ← element h b (BitVec.ofNat 64 i * st) node n) : M (Nat × W64))) u

theorem base_flat (flat : bit h 63 = false) (src : Nat) (s : State) : Base h src s h none s :=
  ⟨fun st n l => by rw [elements, elementsAt, elementsWith, flat, if_neg Bool.false_ne_true]⟩

theorem base_label (label : bit h 63 = true) (wf : wellFormedLabel h s = .ok k t) (tr : labelTranslate k h src t = .ok b u) :
    Base h src s b (some (2 ^ k.log2)) u :=
  ⟨fun st n l => by rw [elements, elementsAt, elementsWith, label, if_pos rfl, run_bind_of_ok wf, run_bind_of_ok tr]⟩

theorem element_flat_ok (lt : (b + off).toNat < 2 ^ 57) (al : (b + off).toNat % n = 0) (s : State) :
    element h b off none n s = .ok (b + off) s :=
  (run_bind_of_ok (flatOk_ok lt)).trans ((aligned_eq _ n s).trans (if_pos al))

theorem element_flat_beyond (ge : 2 ^ 57 ≤ (b + off).toNat) (s : State) :
    element h b off none n s = .error (.trap Cause.address (b + off) 0 none none) s :=
  run_bind_of_error (flatOk_beyond ge)

theorem element_flat_misaligned (lt : (b + off).toNat < 2 ^ 57) (al : (b + off).toNat % n ≠ 0) (s : State) :
    element h b off none n s = .error (.trap Cause.misaligned (b + off) 0 none none) s :=
  (run_bind_of_ok (flatOk_ok lt)).trans ((aligned_eq _ n s).trans (if_neg al))

/-- Inside its label's node, an element stands where an address formed does. -/
theorem element_inside {L : Nat} (low : 0 ≤ off.toInt) (high : off.toInt + n ≤ 2 ^ L) (s : State) :
    element h b off (some (2 ^ L)) n s =
      if (b + off).toNat % n = 0 then .ok (b + off) s else .error (.trap Cause.misaligned (b + off) 0 none none) s := by
  refine Eq.trans ?_ (aligned_eq (b + off) n s)
  unfold element
  dsimp only
  rw [inside_node low high, if_neg Bool.false_ne_true]

theorem element_outside {L : Nat} (out : off.toInt < 0 ∨ 2 ^ L < off.toInt + n) (s : State) :
    element h b off (some (2 ^ L)) n s = .error (.trap Cause.labelOffset h 0 none none) s := by
  unfold element
  dsimp only
  rw [if_pos ((outside_node_iff off n L).2 out)]
  rfl

/-- Parts that each answer without a change of the state answer together. -/
theorem mapM_answers {α β : Type} {f : α → M β} {g : α → β} {l : List α} (h : ∀ a ∈ l, f a s = .ok (g a) s) :
    l.mapM f s = .ok (l.map g) s := by
  induction l with
  | nil => rfl
  | cons a l ih =>
    obtain ⟨ha, hl⟩ := List.forall_mem_cons.1 h
    rw [List.mapM_cons, run_bind_of_ok ha, run_bind_of_ok (ih hl)]
    rfl

/-- The first part that stops stops them all. -/
theorem mapM_stops {α β : Type} {f : α → M β} {g : α → β} {l r : List α} {a : α} {e : Stop} (h : ∀ a ∈ l, f a s = .ok (g a) s)
    (stop : f a s = .error e s) : (l ++ a :: r).mapM f s = .error e s := by
  rw [List.mapM_append, run_bind_of_ok (mapM_answers h), List.mapM_cons]
  exact run_bind_of_error (run_bind_of_error stop)

variable {node : Option Nat} {l r : List Nat} {i : Nat} {e : Stop}

/-- With every element's address formed, a strided access hands them on in lane order. -/
theorem Base.elements_ok (base : Base h src s b node u)
    (each : ∀ i ∈ l, element h b (BitVec.ofNat 64 i * st) node n u = .ok (b + BitVec.ofNat 64 i * st) u) :
    elements h st n l src s = .ok (l.map (fun i => (i, b + BitVec.ofNat 64 i * st))) u := by
  rw [base.run]
  exact mapM_answers fun i hi => run_bind_of_ok (each i hi)

/-- The first element whose address is refused gives the fault. -/
theorem Base.elements_stop (base : Base h src s b node u)
    (before : ∀ j ∈ l, element h b (BitVec.ofNat 64 j * st) node n u = .ok (b + BitVec.ofNat 64 j * st) u)
    (stop : element h b (BitVec.ofNat 64 i * st) node n u = .error e u) :
    elements h st n (l ++ i :: r) src s = .error e u := by
  rw [base.run]
  exact mapM_stops (f := fun i => (do pure (i, ← element h b (BitVec.ofNat 64 i * st) node n) : M (Nat × W64)))
    (g := fun j => (j, b + BitVec.ofNat 64 j * st)) (fun j hj => run_bind_of_ok (before j hj)) (run_bind_of_error stop)

end

/-- The address of an access (R84, R153). -/
theorem addressRule : AddressRule := by
  refine ⟨?flat, ?label, ?flatElements, ?labelElements, ?flatFault, ?labelFault⟩
  case flat =>
    refine fun s h off n src flat => ⟨fun lt al => ?_, fun ge => ?_, fun lt al => ?_⟩
    · exact (accessAddr_of_handleAddr (handleAddr_flat_ok flat lt)).trans (if_pos al)
    · exact run_bind_of_error (handleAddr_flat_beyond flat ge)
    · exact (accessAddr_of_handleAddr (handleAddr_flat_ok flat lt)).trans (if_neg al)
  case label =>
    refine fun s t h off n src k label wf => ⟨fun out => ?_, fun low high b u tr => ⟨fun al => ?_, fun al => ?_⟩⟩
    · exact run_bind_of_error (handleAddr_outside label wf out)
    · exact (accessAddr_of_handleAddr (handleAddr_translated label wf low high tr)).trans (if_pos al)
    · exact (accessAddr_of_handleAddr (handleAddr_translated label wf low high tr)).trans (if_neg al)
  case flatElements =>
    intro s h st n src l flat each
    exact (base_flat flat src s).elements_ok fun i hi => element_flat_ok (each i hi).1 (each i hi).2 s
  case labelElements =>
    intro s t u h st b n src l k label wf tr each
    refine (base_label label wf tr).elements_ok fun i hi => ?_
    obtain ⟨low, high, al⟩ := each i hi
    exact (element_inside low high u).trans (if_pos al)
  case flatFault =>
    intro s h st n src i l r flat before a
    have base := base_flat flat src s
    have before (j : Nat) (hj : j ∈ l) := element_flat_ok (h := h) (before j hj).1 (before j hj).2 s
    exact ⟨fun ge => base.elements_stop before (element_flat_beyond ge s),
      fun lt al => base.elements_stop before (element_flat_misaligned lt al s)⟩
  case labelFault =>
    intro s t u h st b n src i l r k label wf tr off inside before
    have base := base_label label wf tr
    have before : ∀ j ∈ l, element h b (off j) (some (2 ^ k.log2)) n u = .ok (b + off j) u := by
      intro j hj
      obtain ⟨⟨low, high⟩, al⟩ := before j hj
      exact (element_inside low high u).trans (if_pos al)
    refine ⟨fun out => base.elements_stop before (element_outside ?_ u), fun ⟨low, high⟩ al => ?_⟩
    · have out : ¬(0 ≤ (off i).toInt ∧ (off i).toInt + n ≤ 2 ^ k.log2) := out
      show (off i).toInt < 0 ∨ _ < (off i).toInt + _
      omega
    · exact base.elements_stop before ((element_inside low high u).trans (if_neg al))

end Sys2Proof.Claim
end

section
/-! What a load finds at its address (O22): own TCM, a page, a refusal, and the bytes with nothing of the slot's own over them. -/

namespace Sys2Proof.Claim

open Sys2Proof.Machine

section

variable {s : State} {va : W64} {n k code : Nat} {e : TlbEntry}

/-! Translation. -/

theorem xlate_beyond (far : tcmSize s.cur.core ≤ va.toNat) (acc : Machine.Acc) :
    xlate va acc s = (match s.lookup s.cur.core s.cur.slot s.me.asid va with
      | .page e => do
        modify (fun s => s.touch s.cur.core e)
        pure (s.access s.cur.core s.me.side (s.cur.slot == 7) acc e va)
      | .fail code => pure (.error code)
      | .poison k => throw (.contain (some (k, 8)))
      | .pending => throw (.holdWalk va) : M (Except Nat Nat)) s := by
  unfold xlate
  rw [run_bind, run_get]
  dsimp only
  rw [if_neg (Nat.not_lt.2 far)]
  cases s.lookup s.cur.core s.cur.slot s.me.asid va <;> rfl

theorem xlate_page (far : tcmSize s.cur.core ≤ va.toNat) (page : s.lookup s.cur.core s.cur.slot s.me.asid va = .page e)
    (acc : Machine.Acc) :
    xlate va acc s = .ok (s.access s.cur.core s.me.side (s.cur.slot == 7) acc e va) (s.touch s.cur.core e) := by
  rw [xlate_beyond far, page]
  rfl

theorem xlate_fail (far : tcmSize s.cur.core ≤ va.toNat) (fail : s.lookup s.cur.core s.cur.slot s.me.asid va = .fail code)
    (acc : Machine.Acc) : xlate va acc s = .ok (.error code) s := by
  rw [xlate_beyond far, fail]
  rfl

theorem memLoad_at {t : State} (place : xlate va .load s = .ok (.ok k) t) : memLoad va n s = loadAt k n t := by
  unfold memLoad
  rw [run_bind_of_ok place]

theorem memLoad_refused {t : State} (refused : xlate va .load s = .ok (.error code) t) :
    memLoad va n s = dataFault code va t := by
  unfold memLoad
  rw [run_bind_of_ok refused]

/-- The fault of a refused load: a far access stays or migrates, any other raises data-access with its code. -/
theorem dataFault_eq (code : Nat) (va : W64) (s : State) :
    (dataFault code va : M (List Byte)) s = .error (if code = 7 then (if slotClass s.cur.slot = 1 ∨ Id.kind s.cur.core = 2 then
      .trap Cause.dataAccess va 3 none none else .near va) else .trap Cause.dataAccess va (BitVec.ofNat 4 code) none none) s := by
  have stays : s.staysFar = true ↔ slotClass s.cur.slot = 1 ∨ Id.kind s.cur.core = 2 := by
    simp only [State.staysFar, Bool.or_eq_true, beq_iff_eq]
  unfold dataFault
  rw [run_bind, run_get]
  dsimp only
  by_cases far : code = Code.far
  · rw [if_pos far, if_pos (show code = 7 from far)]
    by_cases h : s.staysFar = true
    · rw [if_pos h, if_pos (stays.1 h)]
      rfl
    · rw [if_neg h, if_neg (fun o => h (stays.2 o))]
      rfl
  · rw [if_neg far, if_neg (show code ≠ 7 from far)]
    rfl

/-! Reads. -/

theorem poisoned_of_no_errors (bad : s.bad = []) (x : Slot) (k n : Nat) : s.poisoned x k n = false := by
  rw [State.poisoned, bad]
  rfl

/-- A read at a location that is not held back gives the slot's own view of it. -/
theorem loadAt_ok (config : isConfig k = false) (ext : isExt k = true → s.fenced s.cur.core s.cur.slot = false ∧ s.hubCut s.cur.core = false)
    (bad : s.bad = []) : loadAt k n s = .ok (s.ownBytes s.me k n) ((s.setMe (s.me.noteRead k n)).correctRange k n) := by
  have held : (isExt k && (s.fenced s.cur.core s.cur.slot || s.hubCut s.cur.core)) = false := by
    cases h : isExt k with
    | false => rfl
    | true =>
      obtain ⟨fence, cut⟩ := ext h
      rw [fence, cut]
      rfl
  unfold loadAt
  rw [run_bind, run_get]
  dsimp only
  rw [config, held, poisoned_of_no_errors bad, if_neg Bool.false_ne_true, if_neg Bool.false_ne_true, if_neg Bool.false_ne_true]
  rfl

/-- With no flipped bit in the module a read leaves every register as it was. -/
theorem regs_after_read (soft : s.soft = []) (k n : Nat) : ((s.setMe (s.me.noteRead k n)).correctRange k n).regs = s.regs := by
  have same : (s.setMe (s.me.noteRead k n)).correctRange k n = s.setMe (s.me.noteRead k n) := if_pos soft
  have regs : (s.me.noteRead k n).regs = s.me.regs := by
    rcases noteRead_cases s.me k n with e | ⟨c, r, -, e⟩ <;> rw [e]
  rw [same, State.regs, State.me_setMe, regs]
  rfl

/-- A hit changes translation buffers alone. -/
theorem touch_eq (s : State) (c : Nat) (e : TlbEntry) :
    s.touch c e = s ∨ ∃ l, s.touch c e = { s with l2 := l }.modCore (tlbCore c) (fun k => { k with tlb := tlbInsert e k.tlb }) := by
  unfold State.touch
  dsimp only
  split_ifs
  · exact .inr ⟨s.l2, rfl⟩
  · exact .inr ⟨_, rfl⟩
  · exact .inl rfl

/-- A change of a core that leaves what the matrix unit has queued for it leaves that of every core. -/
theorem mq_modCore {f : Core → Core} (h : ∀ k, (f k).mq = k.mq) (s : State) (c d : Nat) :
    ((s.modCore c f).core d).mq = (s.core d).mq := by
  by_cases e : d = c
  · subst e
    rw [State.core_modCore_same, h]
  · rw [State.core_modCore_other _ _ e]

/-- What a load depends on but for translation buffers. -/
structure SameForLoads (s t : State) : Prop where
  cur : t.cur = s.cur
  me : t.me = s.me
  mem : t.mem = s.mem
  bad : t.bad = s.bad
  soft : t.soft = s.soft
  links : t.links = s.links
  mq : ∀ c, (t.core c).mq = (s.core c).mq
  slot : ∀ c i, t.slot c i = s.slot c i

theorem touch_sameForLoads (s : State) (c : Nat) (e : TlbEntry) : SameForLoads s (s.touch c e) := by
  rcases touch_eq s c e with h | ⟨l, h⟩ <;> rw [h]
  · exact ⟨rfl, rfl, rfl, rfl, rfl, rfl, fun _ => rfl, fun _ _ => rfl⟩
  · have slot (d i : Nat) := State.slot_modCore { s with l2 := l } (tlbCore c) d i
      (fun k => { k with tlb := tlbInsert e k.tlb }) (fun _ => rfl)
    exact ⟨rfl, State.me_of_slot rfl slot, rfl, rfl, rfl, rfl, mq_modCore (f := fun k => { k with tlb := tlbInsert e k.tlb }) (fun _ => rfl) _ _, slot⟩

theorem SameForLoads.fenced {t : State} (h : SameForLoads s t) (c i : Nat) : t.fenced c i = s.fenced c i := by
  simp only [State.fenced, h.slot, h.mq]

theorem SameForLoads.hubCut {t : State} (h : SameForLoads s t) (c : Nat) : t.hubCut c = s.hubCut c := by
  simp only [State.hubCut, h.links]

theorem SameForLoads.ownBytes {t : State} (h : SameForLoads s t) (x : Slot) (k n : Nat) : t.ownBytes x k n = s.ownBytes x k n := by
  simp only [State.ownBytes, State.ownLine, State.ownByte, h.mem]

/-- A load of the slot's own TCM. -/
theorem memLoad_own (h : own s va n) (n0 : 0 < n) (bad : s.bad = []) (soft : s.soft = []) :
    ∃ t, Gives (memLoad va n) s (s.ownBytes s.me (tcmKey s.cur.core va.toNat) n) t ∧ Kept s t [] ∧ t.regs = s.regs := by
  have place := xlate_own (s := s) (va := va) (by unfold own at h; omega) .load
  obtain ⟨config, ext⟩ := tcmKey_not_config s.cur.core va.toNat
  have load : memLoad va n s = _ := (memLoad_at place).trans (loadAt_ok config (fun e => absurd (ext.symm.trans e) (by decide)) bad)
  exact ⟨_, load, (frames_memLoad (A := { regs := [] }) va n s _ _ load).kept rfl, regs_after_read soft _ n⟩

/-- A load through a page that the buffers hold. -/
theorem memLoad_page (h : PageLoad s va k) (bad : s.bad = []) (soft : s.soft = []) :
    ∃ t, Gives (memLoad va n) s (s.ownBytes s.me k n) t ∧ Kept s t [] ∧ t.regs = s.regs := by
  obtain ⟨far, config, ext, e, page, access⟩ := h
  have place := xlate_page far page .load
  rw [access] at place
  have same := touch_sameForLoads s s.cur.core e
  have load : memLoad va n s = _ := (memLoad_at place).trans (loadAt_ok config (fun h => by
    rw [same.fenced, same.hubCut, same.cur]
    exact ext h) (same.bad.trans bad))
  rw [same.ownBytes, same.me] at load
  refine ⟨_, load, (frames_memLoad (A := { regs := [] }) va n s _ _ load).kept rfl, ?_⟩
  rw [← same.me, regs_after_read (same.soft.trans soft), State.regs, same.me]
  rfl

/-! Bytes with nothing of the slot's own over them. -/

theorem ownByte_committed {x : Slot} (stores : x.stores = []) (h : x.ext = [] ∨ isExt k = false) :
    s.ownByte x k = Memory.read s.mem k := by
  have flight : (if isExt k then flightByte x.ext k else none) = none := by
    rcases h with e | e <;> rw [e]
    · cases isExt k <;> rfl
    · rfl
  rw [ownByte_eq, stores, flight]
  rfl

theorem ownBytes_committed {x : Slot} (stores : x.stores = []) (h : x.ext = [] ∨ ∀ i, i < n → isExt (k + i) = false) :
    s.ownBytes x k n = Memory.readN s.mem k n := by
  have adds (line : Nat) : x.addsOn line = false := by
    rw [Slot.addsOn, stores]
    rfl
  refine List.ext_getElem (by simp [State.ownBytes]) fun i hi hj => ?_
  have lt : i < n := by simpa [State.ownBytes] using hi
  rw [Memory.getElem_readN]
  simp only [State.ownBytes, List.getElem_map, List.getElem_range, adds, Bool.false_eq_true, if_false]
  exact ownByte_committed stores (h.imp id fun h => h i lt)

end

/-- What a load finds at its address (R85, R86, R181, R185, R188, R228). -/
theorem loadsReach : LoadsReach := by
  refine ⟨fun s va n h n0 bad soft => memLoad_own h n0 bad soft, fun s va n k h _ bad soft => memLoad_page h bad soft, ?_, ?_,
    fun s k n stores h => ownBytes_committed stores h⟩
  · intro s va n code e far page refused
    have place := xlate_page far page .load
    rw [refused] at place
    have fault := dataFault_eq code va (s.touch s.cur.core e)
    rw [(touch_sameForLoads s s.cur.core e).cur] at fault
    exact ⟨_, (memLoad_refused place).trans fault⟩
  · intro s va n far
    refine ⟨fun code fail other => ?_, fun k poison => ?_, fun pending => ?_⟩
    · exact (memLoad_refused (xlate_fail far fail .load)).trans ((dataFault_eq code va s).trans (by rw [if_neg other]))
    · refine run_bind_of_error ?_
      rw [xlate_beyond far, poison]
      rfl
    · refine run_bind_of_error ?_
      rw [xlate_beyond far, pending]
      rfl

/-- Settles O22: the address rule by rule, and each end of a load by the end of its translation. -/
theorem loadAddresses : Obligations.LoadAddresses := ⟨addressRule, loadsReach⟩

end Sys2Proof.Claim
end

section
/-! Bytes and lanes as numbers (O23): what n bytes hold, the signed value of a load's bytes, and lanes read back. -/

namespace Sys2Proof.Claim

open Sys2Proof.Machine

/-- n bytes hold a number below 256^n. -/
theorem bytesNat_lt (b : List Byte) : bytesNat b < 256 ^ b.length := by
  induction b with
  | nil => decide
  | cons x b ih =>
    rw [bytesNat, List.length_cons, Nat.pow_succ]
    have := x.isLt
    omega

/-- Values found for each element of a list are as many as the elements. -/
theorem length_of_mapM_some {α β : Type} {f : α → Option β} {l : List α} {r : List β} (h : l.mapM f = some r) :
    r.length = l.length := by
  induction l generalizing r with
  | nil => cases h; rfl
  | cons a l ih =>
    rw [List.mapM_cons] at h
    obtain ⟨x, -, h⟩ := Option.bind_eq_some_iff.1 h
    obtain ⟨xs, hxs, h⟩ := Option.bind_eq_some_iff.1 h
    cases h
    rw [List.length_cons, List.length_cons, ih hxs]

theorem loadAt_length {s t : State} {k n : Nat} {b : List Byte} (h : loadAt k n s = .ok b t) : b.length = n := by
  unfold loadAt at h
  rw [run_bind, run_get] at h
  dsimp only at h
  generalize map : (List.range n).mapM (fun i => CapMap.byte s (k + i)) = r at h
  split_ifs at h
  · cases r with
    | none => cases h
    | some l =>
      cases h
      rw [length_of_mapM_some map, List.length_range]
  · cases h
  · cases h
  · cases h
    rw [State.ownBytes, List.length_map, List.length_range]

/-- A load's bytes as many as asked for. -/
theorem memLoad_length {s t : State} {va : W64} {n : Nat} {b : List Byte} (h : memLoad va n s = .ok b t) : b.length = n := by
  obtain ⟨r, u, -, h⟩ := run_bind_ok_iff.1 h
  cases r with
  | error code =>
    have h : dataFault code va u = .ok b t := h
    rw [dataFault_eq] at h
    cases h
  | ok k => exact loadAt_length h

/-- A load's signed value (R85). -/
theorem signBytes_eq {b : List Byte} {n : Nat} (len : b.length = n) (n0 : 0 < n) (n8 : n ≤ 8) :
    signBytes (bytesBv 64 b) n = signedOf b n := by
  have power : 256 ^ n = 2 ^ (8 * n) := by rw [Nat.pow_mul]
  have lt : bytesNat b < 2 ^ (8 * n) := by
    rw [← power, ← len]
    exact bytesNat_lt b
  have fits : 2 ^ (8 * n) ≤ 2 ^ 64 := Nat.pow_le_pow_right (by decide) (by omega)
  have value : (bytesBv 64 b).toNat = bytesNat b := (BitVec.toNat_ofNat ..).trans (Nat.mod_eq_of_lt (lt.trans_le fits))
  rw [signedOf, power, ← extended_eq_bmod (by omega) (by omega) lt, signBytes, value]
  rfl

/-! Lanes. -/

/-- Lanes packed take no more bits than theirs. -/
theorem packLanes_lt (w : Nat) (l : List Nat) : packLanes w l < 2 ^ (w * l.length) := by
  induction l with
  | nil => exact Nat.one_pos
  | cons a l ih =>
    have low : a % 2 ^ w < 2 ^ w := Nat.mod_lt _ (Nat.two_pow_pos w)
    rw [packLanes, List.length_cons, Nat.mul_succ, Nat.add_comm (w * _) w, Nat.pow_add]
    calc a % 2 ^ w + 2 ^ w * packLanes w l < 2 ^ w + 2 ^ w * packLanes w l := by omega
      _ = 2 ^ w * (packLanes w l + 1) := by rw [Nat.mul_succ, Nat.add_comm]
      _ ≤ 2 ^ w * 2 ^ (w * l.length) := Nat.mul_le_mul_left _ ih

/-- A lane packed reads back. -/
theorem packLanes_lane (w : Nat) (l : List Nat) (i : Nat) (h : i < l.length) :
    packLanes w l / 2 ^ (w * i) % 2 ^ w = l[i] % 2 ^ w := by
  induction l generalizing i with
  | nil => exact absurd h (Nat.not_lt_zero i)
  | cons a l ih =>
    have low : a % 2 ^ w < 2 ^ w := Nat.mod_lt _ (Nat.two_pow_pos w)
    cases i with
    | zero => simp [packLanes]
    | succ i =>
      rw [packLanes, Nat.mul_succ, Nat.add_comm (w * i) w, Nat.pow_add, ← Nat.div_div_eq_div_mul,
        Nat.add_mul_div_left _ _ (Nat.two_pow_pos w), Nat.div_eq_of_lt low, Nat.zero_add, ih i (Nat.lt_of_succ_lt_succ h)]
      rfl

theorem lane_ofLanes {w : Nat} {l : List Nat} (fits : w * l.length ≤ 512) {i : Nat} (h : i < l.length) :
    lane w (ofLanes w l) i = l[i] % 2 ^ w := by
  have lt := (packLanes_lt w l).trans_le (Nat.pow_le_pow_right Nat.two_pos fits)
  rw [lane, ofLanes, BitVec.toNat_ofNat, Nat.mod_eq_of_lt lt, packLanes_lane w l i h]

/-- A lane of a vector with some replaced: its new value, or the old lane. -/
theorem lane_putLanes (w : Nat) (old : V512) (l : List (Nat × Nat)) {i : Nat} (h : i < 512 / w) :
    lane w (putLanes w old l) i = ((l.find? (fun e => e.1 == i)).elim (lane w old i) (·.2)) % 2 ^ w := by
  unfold putLanes
  rw [lane_ofLanes (by simpa using Nat.mul_div_le 512 w) (by simpa using h), List.getElem_map, List.getElem_range]
  cases l.find? (fun e => e.1 == i) <;> rfl

theorem lane_mod (w : Nat) (x : V512) (i : Nat) : lane w x i % 2 ^ w = lane w x i := Nat.mod_mod _ _

theorem mem_activeLanes {n i : Nat} {m : W64} : i ∈ activeLanes n m ↔ i < n ∧ m.getLsbD i = true := by
  rw [activeLanes, List.mem_filter, List.mem_range]

/-! Elements and their loads. -/

/-- Parts that answer in turn: what holds of each answer holds of all, and what names each part names its answer. -/
theorem mapM_names {α β γ : Type} {f : α → M β} {g : β → γ} {k : α → γ} {P : β → Prop}
    (h : ∀ a s b t, f a s = .ok b t → g b = k a ∧ P b) {l : List α} {s t : State} {r : List β} (e : l.mapM f s = .ok r t) :
    r.map g = l.map k ∧ ∀ b ∈ r, P b := by
  induction l generalizing s r with
  | nil =>
    cases e
    exact ⟨rfl, fun _ hb => nomatch hb⟩
  | cons a l ih =>
    rw [List.mapM_cons] at e
    obtain ⟨b, u, hb, e⟩ := run_bind_ok_iff.1 e
    obtain ⟨bs, v, hbs, e⟩ := run_bind_ok_iff.1 e
    cases e
    obtain ⟨name, here⟩ := h a s b u hb
    obtain ⟨names, rest⟩ := ih hbs
    exact ⟨by rw [List.map_cons, List.map_cons, name, names], List.forall_mem_cons.2 ⟨here, rest⟩⟩

/-- The elements of a strided access are its lanes, in order. -/
theorem elements_lanes {x st : W64} {n src : Nat} {l : List Nat} {s t : State} {es : List (Nat × W64)}
    (e : elements x st n l src s = .ok es t) : es.map (·.1) = l := by
  have one (base : W64) (node : Option Nat) (i : Nat) (s : State) (p : Nat × W64) (t : State)
      (h : (do pure (i, ← element x base (BitVec.ofNat 64 i * st) node n) : M (Nat × W64)) s = .ok p t) : p.1 = id i ∧ True := by
    obtain ⟨a, u, -, h⟩ := run_bind_ok_iff.1 h
    cases h
    exact ⟨rfl, trivial⟩
  unfold elements elementsAt elementsWith at e
  split at e
  · obtain ⟨k, u, -, e⟩ := run_bind_ok_iff.1 e
    obtain ⟨b, v, -, e⟩ := run_bind_ok_iff.1 e
    exact (mapM_names (one b _) e).1.trans (List.map_id l)
  · exact (mapM_names (one x none) e).1.trans (List.map_id l)

/-- The loads of a strided access: each element's lane, with a value of as many bytes as it has. -/
theorem loads_lanes {n : Nat} {s t : State} {es : List (Nat × W64)} {xs : List (Nat × Nat)}
    (e : es.mapM (fun e => do pure (e.1, bytesNat (← memLoad e.2 n)) : Nat × W64 → M (Nat × Nat)) s = .ok xs t) :
    xs.map (·.1) = es.map (·.1) ∧ ∀ x ∈ xs, x.2 < 256 ^ n := by
  refine mapM_names (fun e s x t h => ?_) e
  obtain ⟨b, u, hb, h⟩ := run_bind_ok_iff.1 h
  cases h
  refine ⟨rfl, ?_⟩
  rw [← memLoad_length hb]
  exact bytesNat_lt b

/-- What a strided load puts in a lane: the value loaded where the lane is active, else the old lane. -/
theorem lane_loaded {w i : Nat} {mask : W64} (old : V512) {xs : List (Nat × Nat)} (h : i < 512 / w)
    (lanes : xs.map (·.1) = activeLanes (512 / w) mask) (small : ∀ x ∈ xs, x.2 < 2 ^ w) :
    (mask.getLsbD i = true → (i, lane w (putLanes w old xs) i) ∈ xs) ∧
      (mask.getLsbD i = false → lane w (putLanes w old xs) i = lane w old i) := by
  have active_iff : (∃ x ∈ xs, x.1 = i) ↔ mask.getLsbD i = true := by
    have mem : i ∈ xs.map (·.1) ↔ mask.getLsbD i = true := by rw [lanes, mem_activeLanes, and_iff_right h]
    exact List.mem_map.symm.trans mem
  rw [lane_putLanes w old xs h, ← active_iff]
  cases found : xs.find? (fun e => e.1 == i) with
  | some y =>
    have mem := List.mem_of_find?_eq_some found
    have same : y.1 = i := by simpa using List.find?_some found
    refine ⟨fun _ => ?_, fun inactive => absurd (active_iff.1 ⟨y, mem, same⟩) (by rw [inactive]; decide)⟩
    rw [Option.elim_some, Nat.mod_eq_of_lt (small y mem), ← same]
    exact mem
  | none =>
    refine ⟨fun ⟨x, hx, same⟩ => absurd same (by simpa using List.find?_eq_none.1 found x hx), fun _ => ?_⟩
    rw [Option.elim_none, lane_mod]

end Sys2Proof.Claim
end

section
/-! The loads and the stores complete (O23, O24). -/

namespace Sys2Proof.Claim

open Sys2Proof.Machine

section

variable {s t u v w : State} {p : Pops} {d a c : Reg} {z : Size} {i : Half} {x y va : W64} {b : List Byte}

/-- A load's fault handling is no part of a load that answers (R86). -/
theorem keepBase_ok {α : Type} {m : M α} {r : α} (a : Reg) (h : m s = .ok r t) : keepBase a m s = .ok r t := by
  cases a with
  | q i =>
    show EStateM.tryCatch m _ s = _
    unfold EStateM.tryCatch
    rw [h]
  | g n | v n | m n | k n => exact h

/-- The value a scalar load gives, with the sign of its bytes or without (R85). -/
def loaded (signed : Bool) (b : List Byte) (n : Nat) : W64 := if signed then signedOf b n else BitVec.ofNat 64 (bytesNat b)

theorem sizeCode_bytes (z : Size) : 0 < 2 ^ sizeCode z ∧ 2 ^ sizeCode z ≤ 8 := by cases z <;> decide

theorem loadScalar_completes {signed : Bool} {off : W64} (addr : Gives (accessAddr x off (2 ^ sizeCode z) 0) t va u)
    (load : Gives (memLoad va (2 ^ sizeCode z)) u b v) (wr : Gives (writeG d (loaded signed b (2 ^ sizeCode z))) v () w) :
    loadScalar signed z d x off t = .ok () w.advance := by
  obtain ⟨n0, n8⟩ := sizeCode_bytes z
  have value : (if signed then signBytes (bytesBv 64 b) (2 ^ sizeCode z) else bytesBv 64 b) = loaded signed b (2 ^ sizeCode z) := by
    rw [signBytes_eq (memLoad_length load) n0 n8]
    rfl
  unfold loadScalar
  rw [sizeBytes_eq]
  refine (run_bind_of_ok addr).trans ((run_bind_of_ok load).trans ?_)
  rw [value]
  exact run_bind_of_ok wr

theorem loadImm_completes {signed : Bool} (r : Reads [okG d, okG a] [a] (some d) s p t) (base : G p a t x)
    (addr : Gives (accessAddr x (BitVec.ofInt 64 i.toInt) (2 ^ sizeCode z) 0) t va u)
    (load : Gives (memLoad va (2 ^ sizeCode z)) u b v) (wr : Gives (writeG d (loaded signed b (2 ^ sizeCode z))) v () w) :
    insn (loadImm signed z d a i) s = .next w.advance := by
  have hd := r.fields (okG d) (by simp)
  have ha := r.fields (okG a) (by simp)
  refine insn_of_ok ((run_bind_of_ok hd).trans ((run_bind_of_ok ha).trans ((run_bind_of_ok r.pops).trans (keepBase_ok a ?_))))
  exact (run_bind_of_ok base).trans (loadScalar_completes addr load wr)

theorem ldx_completes (r : Reads [okG d, okG a, okG c] [a, c] (some d) s p t) (base : G p a t x) (index : G p c t y)
    (addr : Gives (accessAddr x (BitVec.ofNat 64 (y.toNat * 2 ^ sizeCode z)) (2 ^ sizeCode z) 0) t va u)
    (load : Gives (memLoad va (2 ^ sizeCode z)) u b v) (wr : Gives (writeG d (signedOf b (2 ^ sizeCode z))) v () w) :
    exec (.ldx z d a c) s = .next w.advance := by
  have hd := r.fields (okG d) (by simp)
  have ha := r.fields (okG a) (by simp)
  have hc := r.fields (okG c) (by simp)
  rw [← scaled_eq] at addr
  refine insn_of_ok ((run_bind_of_ok hd).trans ((run_bind_of_ok ha).trans ((run_bind_of_ok hc).trans ?_)))
  refine (run_bind_of_ok r.pops).trans (keepBase_ok a ?_)
  exact (run_bind_of_ok base).trans ((run_bind_of_ok index).trans (loadScalar_completes (signed := true) addr load wr))

theorem vld_completes (r : Reads [okV d, okG a] [a] (some d) s p t) (base : G p a t x)
    (addr : Gives (accessAddr x (BitVec.ofInt 64 i.toInt) 64 0) t va u) (load : Gives (memLoad va 64) u b v)
    (wr : Gives (writeV d (BitVec.ofNat 512 (bytesNat b))) v () w) : exec (.vld d a i) s = .next w.advance := by
  have hd := r.fields (okV d) (by simp)
  have ha := r.fields (okG a) (by simp)
  refine insn_of_ok ((run_bind_of_ok hd).trans ((run_bind_of_ok ha).trans ((run_bind_of_ok r.pops).trans (keepBase_ok a ?_))))
  refine (run_bind_of_ok base).trans ((run_bind_of_ok addr).trans ((run_bind_of_ok load).trans ?_))
  exact run_bind_of_ok wr

theorem vlds_completes {width : Width} {mk : Fin 8} {es : List (Nat × W64)} {xs : List (Nat × Nat)} {old : V512} {v' o : State}
    (r : Reads [okV d, okG a, okG c] [a, c] (some d) s p t) (base : G p a t x) (stride : G p c t y)
    (addrs : Gives (elements x y (widthBits width / 8) (activeLanes (512 / widthBits width) (t.regs.readM mk)) 0) t es u)
    (loads : Gives (es.mapM (fun e => do pure (e.1, bytesNat (← memLoad e.2 (widthBits width / 8))))) u xs v)
    (before : Gives (oldV d) v old v') (wr : Gives (writeV d (putLanes (widthBits width) old xs)) v' () o) :
    exec (.vlds width d a c mk) s = .next o.advance := by
  have hd := r.fields (okV d) (by simp)
  have ha := r.fields (okG a) (by simp)
  have hc := r.fields (okG c) (by simp)
  have mask : maskOf mk t = .ok (t.regs.readM mk) t := rfl
  refine insn_of_ok ((run_bind_of_ok hd).trans ((run_bind_of_ok ha).trans ((run_bind_of_ok hc).trans ?_)))
  refine (run_bind_of_ok r.pops).trans (keepBase_ok a ?_)
  refine (run_bind_of_ok base).trans ((run_bind_of_ok stride).trans ((run_bind_of_ok mask).trans ?_))
  refine (run_bind_of_ok addrs).trans ((run_bind_of_ok loads).trans ((run_bind_of_ok before).trans ?_))
  exact run_bind_of_ok wr

end

/-- A width's bytes make its bits. -/
theorem widthBits_power (z : Width) : 256 ^ (widthBits z / 8) = 2 ^ widthBits z := by cases z <;> rfl

/-- Settles O23: each load completes with the value of its bytes; of VLDS every active lane is one of those loaded. -/
theorem loads : Obligations.Loads := by
  refine ⟨?_, ?_, ?_, ?_⟩
  · exact fun s t u v w p d a z i x va b r base addr load =>
      ⟨fun w => loadImm_completes (signed := true) r base addr load w, fun w => loadImm_completes (signed := false) r base addr load w⟩
  · exact fun s t u v w p d a c z x y va b r base index addr load w => ldx_completes r base index addr load w
  · exact fun s t u v w p d a i x va b r base addr load w => vld_completes r base addr load w
  · intro s t u v v' p d a c z mk x y es xs old w r base stride addrs loads before
    refine ⟨putLanes w old xs, fun i hi => ?_, fun o write => vlds_completes r base stride addrs loads before write⟩
    obtain ⟨names, small⟩ := loads_lanes loads
    refine lane_loaded old hi (names.trans (elements_lanes addrs)) fun x hx => ?_
    rw [← widthBits_power]
    exact small x hx

section

variable {s t u v : State} {p : Pops} {a b c : Reg} {x o va : W64} {z : Size} {w : Width} {mk : Fin 8} {i : Half} {q : Part}

theorem st_completes {y : W64} (r : Reads [okG a, okG c] [a, c] none s p t) (base : G p a t x) (data : G p c t y)
    (addr : Gives (accessAddr x (BitVec.ofInt 64 i.toInt) (2 ^ sizeCode z) 1) t va u)
    (place : Gives (storePart 0 va (natBytes y.toNat (2 ^ sizeCode z))) u q v)
    (room : StoreRoom v (oneStore v 0 (sizeCode z) 0 [q])) :
    exec (.st z a c i) s = .next (buffered v (oneStore v 0 (sizeCode z) 0 [q])).advance := by
  have ha := r.fields (okG a) (by simp)
  have hc := r.fields (okG c) (by simp)
  obtain ⟨stored, -⟩ := storeScalar_stores (l := []) addr place room
  refine insn_of_ok ((run_bind_of_ok ha).trans ((run_bind_of_ok hc).trans ((run_bind_of_ok r.pops).trans ?_)))
  exact (run_bind_of_ok base).trans ((run_bind_of_ok data).trans stored)

theorem stx_completes {y : W64} (r : Reads [okG a, okG b, okG c] [a, b, c] none s p t) (base : G p a t x) (index : G p b t o)
    (data : G p c t y) (addr : Gives (accessAddr x (BitVec.ofNat 64 (o.toNat * 2 ^ sizeCode z)) (2 ^ sizeCode z) 1) t va u)
    (place : Gives (storePart 0 va (natBytes y.toNat (2 ^ sizeCode z))) u q v)
    (room : StoreRoom v (oneStore v 0 (sizeCode z) 0 [q])) :
    exec (.stx z a b c) s = .next (buffered v (oneStore v 0 (sizeCode z) 0 [q])).advance := by
  have ha := r.fields (okG a) (by simp)
  have hb := r.fields (okG b) (by simp)
  have hc := r.fields (okG c) (by simp)
  rw [← scaled_eq] at addr
  obtain ⟨stored, -⟩ := storeScalar_stores (l := []) addr place room
  refine insn_of_ok ((run_bind_of_ok ha).trans ((run_bind_of_ok hb).trans ((run_bind_of_ok hc).trans ?_)))
  refine (run_bind_of_ok r.pops).trans ((run_bind_of_ok base).trans ((run_bind_of_ok index).trans ?_))
  exact (run_bind_of_ok data).trans stored

theorem vst_completes {y : V512} (r : Reads [okG a, okV c] [a, c] none s p t) (base : G p a t x) (data : V p c u y)
    (addr : Gives (accessAddr x (BitVec.ofInt 64 i.toInt) 64 1) t va u)
    (place : Gives (storePart 0 va (natBytes y.toNat 64)) u q v) (room : StoreRoom v (oneStore v 1 0 2 [q])) :
    exec (.vst a c i) s = .next (buffered v (oneStore v 1 0 2 [q])).advance := by
  have ha := r.fields (okG a) (by simp)
  have hc := r.fields (okV c) (by simp)
  obtain ⟨stored, -⟩ := memStore_stores (src := 1) place room (frames_storePart (A := storing [] x) _ _ _ _ _ _ _ place)
  refine insn_of_ok ((run_bind_of_ok ha).trans ((run_bind_of_ok hc).trans ((run_bind_of_ok r.pops).trans ?_)))
  exact (run_bind_of_ok base).trans ((run_bind_of_ok addr).trans ((run_bind_of_ok data).trans stored))

/-- A strided store completes with what its elements put in the buffer. -/
theorem vsts_completes {y : V512} {es : List (Nat × W64)} {v' : State} (r : Reads [okG a, okG b, okV c] [a, b, c] none s p t)
    (base : G p a t x) (stride : G p b t o) (data : V p c u y)
    (addrs : Gives (elements x o (widthBits w / 8) (activeLanes (512 / widthBits w) (t.regs.readM mk)) 1) t es u)
    (stored : storeElements es (widthBits w) y 2 (widthSize w) u = .ok () v') :
    exec (.vsts w a b c mk) s = .next v'.advance := by
  have ha := r.fields (okG a) (by simp)
  have hb := r.fields (okG b) (by simp)
  have hc := r.fields (okV c) (by simp)
  have mask : maskOf mk t = .ok (t.regs.readM mk) t := rfl
  refine insn_of_ok ((run_bind_of_ok ha).trans ((run_bind_of_ok hb).trans ((run_bind_of_ok hc).trans ?_)))
  refine (run_bind_of_ok r.pops).trans ((run_bind_of_ok base).trans ((run_bind_of_ok stride).trans ?_))
  refine (run_bind_of_ok mask).trans ((run_bind_of_ok addrs).trans ((run_bind_of_ok data).trans ?_))
  exact run_bind_of_ok stored

end

/-- Settles O24: each store that has room enters the buffer as one. -/
theorem stores : Obligations.Stores := by
  refine ⟨?_, ?_, ?_, ?_⟩
  · exact fun s t u v p a c z i x y va q r base data addr place room => st_completes r base data addr place room
  · exact fun s t u v p a b c z x o y va q r base index data addr place room => stx_completes r base index data addr place room
  · exact fun s t u v p a c i x va y q r base data addr place room => vst_completes r base data addr place room
  · intro s t u v p a b c z mk x o y es ps w r base stride data addrs parts
    refine ⟨fun none => ?_, fun some room => ?_⟩
    · subst none
      cases parts
      exact vsts_completes r base stride data addrs (storeElements_nil w 2 (widthSize z) y u)
    · obtain ⟨e, es, rfl⟩ := List.exists_cons_of_ne_nil some
      exact vsts_completes r base stride data addrs (storeElements_room parts room)

end Sys2Proof.Claim
end

section
/-! Traps of an instruction, and what ends a chunk after it: shared by the sends and the instructions of the end groups. -/

namespace Sys2Proof.Claim

open Sys2Proof.Machine

section

variable {s t u : State}

theorem keepReads_cur (s : State) (e : Stop) (l : List Nat) : (s.keepReads e l).cur = s.cur := by
  unfold State.keepReads
  split
  · split <;> rfl
  · rfl

theorem keepReads_regs (s : State) (e : Stop) (l : List Nat) : (s.keepReads e l).regs = s.regs := by
  unfold State.keepReads
  split
  · split
    · rfl
    · rw [State.regs, State.me_modMe]
      rfl
  · rfl

/-- An instruction whose meaning stops at a trap takes it, what it had read till then kept (R102, R228, R316). -/
theorem traps_of_error {i : Instr} {m : M Unit} {cause : BitVec 8} {val : W64} (run : exec i s = insn m s)
    (h : m s = .error (.trap cause val 0 none none) u) : Traps i s u cause val := by
  have kept : s.keepReads (.trap cause val 0 none none) u.myReads = withReads s u := rfl
  rw [Traps, run, insn_of_error h, kept, stop_trap, withReads, keepReads_cur, keepReads_regs]

theorem traps_of_illegalOperand {i : Instr} {m : M Unit} (run : exec i s = insn m s) (cur : u.cur = s.cur)
    (h : m s = illegalOperand u) : Traps i s u Cause.illegalOperand (encVal s.cur.enc) := by
  rw [← cur]
  exact traps_of_error run h

theorem refuseIf_true {b : Bool} (h : b = true) (s : State) : refuseIf b s = illegalOperand s := by
  rw [h]
  rfl

theorem notOnHart_ok (h : NotOnHart s) : notOnHart s = .ok () s := by
  unfold notOnHart
  rw [run_bind, run_get]
  dsimp only
  rw [if_neg h]
  rfl

/-- The state in which a free slot goes on non-speculatively (R303). -/
theorem chunkEnds_free (h : Free s) : chunkEnds s = .ok () (s.modMe Slot.makeFirm) := by
  have free : s.me.mustWait s = false := h
  unfold chunkEnds
  rw [run_bind, run_get]
  dsimp only
  rw [free, if_neg Bool.false_ne_true]
  rfl

/-! Changes of the slot that leave its registers and its stores. -/

variable {A : Allow}

/-- A change of the slot that leaves its registers, its chunks' stores and its writes in flight. -/
theorem leaves_modMe {f : Slot → Slot} (regs : (f s.me).regs = s.me.regs) (stores : (f s.me).stores = s.me.stores)
    (ext : (f s.me).ext = s.me.ext) : Leaves A s (s.modMe f) :=
  .setMe (regs ▸ .refl A _) ext (fun _ => stores)

theorem leaves_makeFirm (s : State) : Leaves A s (s.modMe Slot.makeFirm) := leaves_modMe rfl rfl rfl

theorem leaves_phase (s : State) (ph : Phase) : Leaves A s (s.modMe (fun x => { x with phase := ph })) := leaves_modMe rfl rfl rfl

theorem leaves_acts (s : State) (l : List Action) : Leaves A s (s.modChunk (fun c => { c with acts := c.acts ++ l })) := by
  refine leaves_modMe rfl ?_ rfl
  unfold Slot.stores
  cases s.me.chunk <;> rfl

/-- Completing an instruction counts it in its chunk. -/
theorem chunk_advance (s : State) : s.advance.me.chunk = s.me.chunk.map (fun c => { c with count := c.count + 1 }) := by
  rw [State.advance, State.me_retire]
  rfl

/-- An instruction that completes and ends its chunk, actions left with it, from where its slot has at most gone firm. -/
theorem endsWith_of_acts (before : Leaves { regs := [] } s t) (same : t.me.chunk = s.me.chunk) (e : After) (l : List Action) :
    EndsWith s (((t.modChunk (fun c => { c with acts := c.acts ++ l })).advance).modMe (fun x => { x with phase := .commit e })) e l := by
  have leaves := ((before.trans (leaves_acts t l)).trans (.advance _)).trans (leaves_phase _ (.commit e))
  refine ⟨by rw [State.me_modMe], ?_, leaves.kept rfl, leaves.regs.flags rfl, fun ch chunk => ?_⟩
  · rw [State.regs, State.me_modMe]
    exact (State.advance_pc _).trans (congrArg Cur.next before.cur)
  · rw [State.me_modMe, chunk_advance, State.modChunk, State.me_modMe, same, chunk]
    exact ⟨_, rfl, rfl⟩

/-- With the slot free to go on, an instruction that ends its chunk completes, its action left with it. -/
theorem act_endsWith (free : Free s) (a : Action) (e : After) :
    ∃ u, (do chunkEnds; act a; doneEnding e : M Unit) s = .ok () u ∧ EndsWith s u e [a] := by
  refine ⟨_, run_bind_of_ok (chunkEnds_free free), endsWith_of_acts (leaves_makeFirm s) ?_ e [a]⟩
  rw [State.me_modMe]
  rfl

end

end Sys2Proof.Claim
end

section
/-! Sends (O33): a message captured, held or sent at the chunk's end, and the refusals before and after the pop. -/

namespace Sys2Proof.Claim

open Sys2Proof.Machine

section

variable {s t : State} {p : Pops} {first : Fin 32} {a : Reg} {v : Option (Fin 32)} {ty : BitVec 8} {n : BitVec 3}
  {nack now grp : Bool} {x : W64}

/-- The message that a send captures (R90). -/
def captured (t : State) (first : Fin 32) (v : Option (Fin 32)) (ty : BitVec 8) (n : BitVec 3) (nack grp : Bool) (x : W64) :
    Message :=
  { Message.plain (if grp then 0 else x.setWidth 16) ty (t.stampOf t.cur.core t.cur.slot) (t.regs.payload first.val n.toNat) with
    nackReq := nack, vec := v.map (t.regs.readV ·), fromSlot := t.cur.slot }

/-- The message as held, for a destination or for a group. -/
def heldOf (t : State) (first : Fin 32) (v : Option (Fin 32)) (ty : BitVec 8) (n : BitVec 3) (nack grp : Bool) (x : W64) : Held :=
  { msg := captured t first v ty n nack grp x, group := if grp then some (x.setWidth 8) else none }

/-- A send's destination is to be had: a group's, or a core's (R89). -/
def sendable (t : State) (grp : Bool) (x : W64) : Bool :=
  if grp then t.sendGroup (t.stampOf t.cur.core t.cur.slot) x else t.sendTo (t.stampOf t.cur.core t.cur.slot) x

/-- The fields of a send are refused: a payload register that is none, or a type that only a system slot may send (R71, R88). -/
def FieldsRefused (s : State) (first : Fin 32) (ty : BitVec 8) (n : BitVec 3) : Prop :=
  (0xE0 ≤ ty.toNat ∧ slotClass s.cur.slot ≠ 2) ∨ (0 < n.toNat ∧ 32 < first.val + n.toNat)

theorem payload_check (first : Fin 32) (n : BitVec 3) :
    (decide (0 < n.toNat) && decide (32 < first.val + n.toNat)) = decide (0 < n.toNat ∧ 32 < first.val + n.toNat) :=
  (Bool.decide_and ..).symm

theorem type_check (s : State) (ty : BitVec 8) :
    (decide (0xE0 ≤ ty.toNat) && slotClass s.cur.slot != 2) = decide (0xE0 ≤ ty.toNat ∧ slotClass s.cur.slot ≠ 2) := by
  rw [Bool.eq_iff_iff, Bool.and_eq_true, decide_eq_true_eq, bne_iff_ne, decide_eq_true_eq]

/-- Fields that are refused are refused before the source is popped (R71). -/
theorem sendMsg_refused_fields (hart : NotOnHart s) (ok : okG a s = .ok () s) (h : FieldsRefused s first ty n) :
    sendMsg (.g first) a (v.map .v) ty n nack now grp s = illegalOperand s := by
  unfold sendMsg
  rw [run_bind_of_ok (notOnHart_ok hart), run_bind_of_ok ok]
  dsimp only
  rw [payload_check]
  by_cases pay : 0 < n.toNat ∧ 32 < first.val + n.toNat
  · exact run_bind_of_error (refuseIf_true (decide_eq_true pay) s)
  · rw [decide_eq_false pay, run_bind_of_ok (run_refuseIf_false s), run_bind, run_get]
    dsimp only
    rw [type_check]
    exact run_bind_of_error (refuseIf_true (decide_eq_true (h.resolve_right pay)) s)

/-- A send whose fields are accepted and whose source is read: it goes out, or its destination is refused. -/
theorem sendMsg_read (hart : NotOnHart s) (r : Reads [okG a] [a] none s p t) (src : G p a t x)
    (h : ¬ FieldsRefused s first ty n) :
    sendMsg (.g first) a (v.map .v) ty n nack now grp s =
      if sendable t grp x then sendOut (heldOf t first v ty n nack grp x) now t else illegalOperand t := by
  have ok := r.fields (okG a) (by simp)
  obtain ⟨typ, pay⟩ := not_or.1 h
  unfold sendMsg
  rw [run_bind_of_ok (notOnHart_ok hart), run_bind_of_ok ok]
  dsimp only
  rw [payload_check, decide_eq_false pay, run_bind_of_ok (run_refuseIf_false s), run_bind, run_get]
  dsimp only
  rw [type_check, decide_eq_false typ, run_bind_of_ok (run_refuseIf_false s)]
  have rest (k : M Unit) (hk : k t = sendOut (heldOf t first v ty n nack grp x) now t) :
      (do refuseIf (!sendable t grp x); k : M Unit) t =
        if sendable t grp x then sendOut (heldOf t first v ty n nack grp x) now t else illegalOperand t := by
    cases sendable t grp x
    · rfl
    · exact hk
  cases v with
  | none => exact (run_bind_of_ok r.pops).trans ((run_bind_of_ok src).trans (rest _ rfl))
  | some v => exact (run_bind_of_ok r.pops).trans ((run_bind_of_ok src).trans (rest _ rfl))

/-! A message that goes out. -/

theorem sendOut_held {h : Held} (room : t.regs.held.length < 16) :
    sendOut h false t = .ok () (t.modRegs (fun r => { r with held := r.held ++ [h] })).advance := by
  unfold sendOut
  rw [run_bind, run_get]
  dsimp only
  rw [if_neg Bool.false_ne_true, if_neg (Nat.not_le.2 room)]
  rfl

theorem sendOut_full {h : Held} (full : 16 ≤ t.regs.held.length) :
    sendOut h false t = .error (.trap Cause.heldOverflow 0 0 none none) t := by
  unfold sendOut
  rw [run_bind, run_get]
  dsimp only
  rw [if_neg Bool.false_ne_true, if_pos full]
  rfl

theorem sendOut_now {h : Held} (free : Free t) : ∃ u, sendOut h true t = .ok () u ∧ EndsWith t u .go [.send h] :=
  act_endsWith free (.send h) .go

/-- Each payload dword is its register's. -/
theorem payload_getElem? (r : Regs) (m j : Nat) (h : first.val + j < 32) (lt : j < m) :
    (r.payload first.val m)[j]? = some (r.readG ⟨first.val + j, h⟩) := by
  have lt : j < (r.payload first.val m).length := by simpa [Regs.payload] using lt
  rw [List.getElem?_eq_getElem lt]
  simp [Regs.payload, h]

/-- What a send that is not refused does with the message it captures (R90, R92). -/
structure Sent (s t : State) (first : Fin 32) (v : Option (Fin 32)) (ty : BitVec 8) (n : BitVec 3) (nack now grp : Bool) (x : W64)
    (i : Instr) : Prop where
  payload : ∀ j, (h : first.val + j < 32) → j < n.toNat →
    (captured t first v ty n nack grp x).payload[j]? = some (t.regs.readG ⟨first.val + j, h⟩)
  held : now = false → t.regs.held.length < 16 →
    exec i s = .next (t.modRegs (fun r => { r with held := r.held ++ [heldOf t first v ty n nack grp x] })).advance
  full : now = false → 16 ≤ t.regs.held.length → Traps i s t Cause.heldOverflow 0
  leaves : now = true → Free t → ∃ u, exec i s = .next u ∧ EndsWith t u .go [.send (heldOf t first v ty n nack grp x)]

theorem sent_of_sendMsg {i : Instr} (run : exec i s = insn (sendMsg (.g first) a (v.map .v) ty n nack now grp) s)
    (hart : NotOnHart s) (r : Reads [okG a] [a] none s p t) (src : G p a t x) (h : ¬ FieldsRefused s first ty n)
    (dest : sendable t grp x = true) : Sent s t first v ty n nack now grp x i := by
  have go : sendMsg (.g first) a (v.map .v) ty n nack now grp s = sendOut (heldOf t first v ty n nack grp x) now t := by
    rw [sendMsg_read hart r src h, if_pos dest]
  refine ⟨fun j h lt => payload_getElem? t.regs n.toNat j h lt, ?_, ?_, ?_⟩
  · rintro rfl room
    rw [run]
    exact insn_of_ok (go.trans (sendOut_held room))
  · rintro rfl full
    exact traps_of_error run (go.trans (sendOut_full full))
  · rintro rfl free
    obtain ⟨u, ends, with_⟩ := sendOut_now (h := heldOf t first v ty n nack grp x) free
    rw [run]
    exact ⟨u, insn_of_ok (go.trans ends), with_⟩

end

/-- Settles O33: a send captures its message and holds it or ends its chunk with it; its checks refuse in their order. -/
theorem sends : Obligations.Sends := by
  refine ⟨?_, ?_⟩
  · intro s t p first a vr ty n nack now x hart r src pay typ st sent
    have cur : t.cur = s.cur :=
      (frames_operands (A := { regs := [a].filter isQ }) none (fun _ h => h) s p t r.pops).cur
    have fields : ¬ FieldsRefused s first ty n := by
      rw [cur] at typ
      unfold FieldsRefused
      omega
    have length : (t.regs.payload first.val n.toNat).length = n.toNat := by simp [Regs.payload]
    refine ⟨fun dest => ⟨⟨captured t first none ty n nack false x, rfl, rfl, ?_⟩,
      ⟨captured t first (some vr) ty n nack false x, rfl, rfl, ?_⟩⟩, fun dest => ⟨captured t first none ty n nack true x, rfl, ?_⟩⟩
    · obtain ⟨payload, held, full, leaves⟩ :=
        sent_of_sendMsg (i := .send (.g first) a ty n nack now)
          (v := none) (nack := nack) (grp := false) rfl hart r src fields dest
      exact ⟨rfl, rfl, rfl, rfl, length, payload, held, fun h f _ _ => full h f, leaves⟩
    · obtain ⟨payload, held, full, leaves⟩ :=
        sent_of_sendMsg (i := .sendv (.g first) a (.v vr) ty n nack now)
          (v := some vr) (nack := nack) (grp := false) rfl hart r src fields dest
      exact ⟨rfl, rfl, rfl, rfl, length, payload, held, fun h f _ _ => full h f, leaves⟩
    · obtain ⟨payload, held, full, leaves⟩ :=
        sent_of_sendMsg (i := .sendg (.g first) a ty n nack now)
          (v := none) (nack := nack) (grp := true) rfl hart r src fields dest
      exact ⟨rfl, rfl, rfl, rfl, length, payload, held, fun h f _ _ => full h f, leaves⟩
  · intro s first a vr ty n nack now hart _ refuses
    refine ⟨fun ok fields => ?_, ?_⟩
    · have stop (v : Option (Fin 32)) (grp : Bool) :=
        sendMsg_refused_fields (v := v) (nack := nack) (now := now) (grp := grp) hart ok fields
      exact ⟨traps_of_illegalOperand rfl rfl (stop none false), traps_of_illegalOperand rfl rfl (stop (some vr) false),
        traps_of_illegalOperand rfl rfl (stop none true)⟩
    · intro t p x r src cur pay typ st
      have fields : ¬ FieldsRefused s first ty n := by
        unfold FieldsRefused
        omega
      have stop (v : Option (Fin 32)) (grp : Bool) (dest : sendable t grp x = false) :
          sendMsg (.g first) a (v.map .v) ty n nack now grp s = illegalOperand t := by
        rw [sendMsg_read hart r src fields, dest, if_neg Bool.false_ne_true]
      refine ⟨fun h => ?_, fun h => ?_⟩
      · have dest : sendable t false x = false := by
          show t.sendTo st x = false
          unfold State.sendTo
          rcases h with h | h | ⟨side, out⟩
          · rw [decide_eq_false (by omega)]
            rfl
          · rw [h, Bool.and_false, Bool.false_and]
          · rw [out, Bool.or_false, beq_eq_false_iff_ne.2 side, Bool.and_false]
        exact ⟨traps_of_illegalOperand rfl cur (stop none false dest), traps_of_illegalOperand rfl cur (stop (some vr) false dest)⟩
      · have dest : sendable t true x = false := by
          show t.sendGroup st x = false
          unfold State.sendGroup
          rcases h with h | h
          · rw [decide_eq_false (by omega), Bool.false_and]
          · rw [h, Bool.and_false]
        exact traps_of_illegalOperand rfl cur (stop none true dest)

end Sys2Proof.Claim
end

section
/-! TRAP and ERET (O20): ERET's commit over a memory that is not in canonical form (`Memory.wf`), which its clause does not exclude. -/

namespace Sys2Proof.Claim

open Sys2Proof.Machine

/-- A chunk of a handler that stores a zero byte at location 64, checked. -/
def zeroingChunk : Chunk :=
  { saved := Regs.start
    stores := [{ pc := 0, src := 0, size := 0, wide := 0, adds := none, checked := true
                 parts := [{ lane := 0, va := 64, key := some 64, live := 64, bytes := [0], fail := 0 }] }]
    reads := [], fills := [], fillLines := 0, acts := [], count := 1, squashes := 0, order := 1, issued := [], later := [],
    matched := 0, last := [], region := false }

/-- ERET's chunk at its end, over a memory whose cells do not rise: the cell of location 3 stands behind that of location 64, where a
read does not come to it. -/
def hiddenCell : State :=
  { State.reset.setSlot 0 0 { Slot.free with phase := .commit .eret, chunk := some zeroingChunk } with mem := [(64, 1), (3, 1)] }

theorem hiddenCell_chunk : hiddenCell.me.chunk = some zeroingChunk := by decide +kernel

/-- The store removes the cell of location 64, and location 3 reads another byte after the commit. -/
theorem hiddenCell_appears :
    Memory.read hiddenCell.mem 3 = 0 ∧ Memory.read (hiddenCell.commitSlot 0 0).mem 3 = 1 := by decide +kernel

theorem not_written_hidden : ¬ Written zeroingChunk.stores 3 := by
  rintro ⟨st, hst, h⟩
  obtain rfl := List.mem_singleton.mp hst
  rcases h with ⟨d, none_, -⟩ | ⟨-, p, hp, -, k, key, low, -⟩
  · cases none_
  · obtain rfl := List.mem_singleton.mp hp
    cases key
    exact absurd low (by decide)

/-- Refutes O20: its clause on ERET's commit holds of every memory, also of one that is not in canonical form, where a store can
change what another location reads (`hiddenCell`). -/
theorem not_trapAndReturn : ¬ Obligations.TrapAndReturn := by
  rintro ⟨-, -, -, commit⟩
  have ripe : ∀ ch, hiddenCell.me.chunk = some ch → Ripe hiddenCell ch := by
    intro ch chunk
    rw [hiddenCell_chunk] at chunk
    cases chunk
    exact ⟨by decide +kernel, by decide +kernel⟩
  obtain ⟨t, run, -, -, -, -, -, -, -, -, mem⟩ := commit hiddenCell (by decide +kernel) (by decide +kernel) ripe
    (show hiddenCell.me.mustWait hiddenCell = false by decide +kernel) (fun _ h => absurd h List.not_mem_nil)
  obtain rfl : hiddenCell.commitSlot 0 0 = t := Host.Outcome.next.inj run
  have unwritten : ∀ ch, hiddenCell.me.chunk = some ch → ¬ Written ch.stores 3 := by
    intro ch chunk
    rw [hiddenCell_chunk] at chunk
    cases chunk
    exact not_written_hidden
  have same := mem 3 unwritten
  rw [hiddenCell_appears.1, hiddenCell_appears.2] at same
  exact absurd same (by decide)

end Sys2Proof.Claim
end

section
/-! The system group (O21): TLBINV refuses operand values that stand before any queue is popped (R71), and over buffers that hold two
pages for one address a pop can change what the next one finds. -/

namespace Sys2Proof.Claim

open Sys2Proof.Machine

/-- A queue bound to the one entry of a label table (R127). -/
def tableQueue (table : W64) : Queue := { Queue.empty with bind := .labels 0 (BitVec.allOnes 64) table 1 0, count := 1 }

/-- A 4 KiB page at 0x200000 in frame 0x1000, readable. -/
def smallPage : TlbEntry := { corrupt := false, asid := 0, page := 0x200000, log2 := 12, leaf := 0x1007 }

/-- A 2 MiB page at the same address in frame 0x200000, readable. -/
def largePage : TlbEntry := { corrupt := false, asid := 0, page := 0x200000, log2 := 21, leaf := 0x2FF027 }

/-- An activation whose core holds both pages, the small one used last. Queue 1 reads a table that only the large page holds, queue 2
one that both hold: there is an entry in it in the small page's frame, and none in the large page's. -/
def overlapping : State :=
  { State.reset with
    cur := { State.reset.cur with next := 2 }
    mem := [(0x1010, 5), (0x1017, 0x80)]
    cores := [(0,
      { Core.init.setSlot 0
          { Slot.free with
            act := some placedAct
            regs := { Regs.start with
              tvec := 0x1000
              q := (Regs.start.q.set 1 (tableQueue 0x201000)).set 2 (tableQueue 0x200000) } } with
        tlb := [smallPage, largePage] })] }

/-- The sources of TLBINV q1, q2, g0. -/
def overlapSources : List Reg := [.q 1, .q 2, .g 0]

theorem overlapping_fields : ∀ f ∈ [okG (.q 1), okG (.q 2), okG (.g 0)], f overlapping = .ok () overlapping := by
  intro f hf
  simp only [List.mem_cons, List.not_mem_nil, or_false] at hf
  rcases hf with rfl | rfl | rfl <;> rfl

/-- What the pops give: no entry, twice. The first brings the large page forward, and the second reads its table there. -/
theorem overlapping_pops :
    (match operands overlapSources none overlapping with
      | .ok p t => p == [(1, 0), (2, 0)] && t.cur == overlapping.cur && decide (t.me.asid = 0)
      | .error _ _ => false) = true := by decide +kernel

/-- Before the pops queue 2 would give an entry, which is no address: the instruction raises illegal-operand. -/
theorem overlapping_traps :
    (match exec (.tlbinv (.q 1) (.q 2) (.g 0)) overlapping with
      | .next u => u.regs.pc == 0x1000 && u.regs.tcause.setWidth 8 == Cause.illegalOperand
      | _ => false) = true := by decide +kernel

theorem g_popped {p : Pops} {i : Fin 16} {t : State} {x : W64} (h : (popped p i).setWidth 64 = x) : G p (.q i) t x := by
  subst h
  rfl

/-- Refutes O21: TLBINV with operands in range can be refused, for a value that a source would have given before the pops of those
before it (`overlapping`). -/
theorem not_endsAndSystem : ¬ Obligations.EndsAndSystem := by
  rintro ⟨-, -, tlbinv, -⟩
  have pops := overlapping_pops
  split at pops
  next p t popped =>
    obtain ⟨⟨rfl, cur⟩, asid⟩ : (p = [(1, 0), (2, 0)] ∧ t.cur = overlapping.cur) ∧ t.me.asid = 0 := by simpa using pops
    obtain ⟨u, run, pc, -⟩ := tlbinv overlapping t [(1, 0), (2, 0)] (.q 1) (.q 2) (.g 0) 0 0 0 (by unfold NotOnHart; decide)
      ⟨overlapping_fields, popped⟩ (g_popped (by decide +kernel)) (g_popped (by decide +kernel)) rfl (by decide) (.inr asid.symm)
      (by decide) (by decide)
    have next : u.regs.pc = 2 := pc.trans (congrArg Cur.next cur)
    have traps := overlapping_traps
    rw [run] at traps
    simp only [next] at traps
    exact absurd (Bool.and_eq_true_iff.mp traps).1 (by decide)
  next => cases pops

end Sys2Proof.Claim
end

section
/-! Commits and checks (O49): a priority request in a second entry of a core, over a table that is not in canonical form (keys rising),
which the clause on requests of other slots does not exclude. -/

namespace Sys2Proof.Claim

open Sys2Proof.Machine

/-- A chunk of order 1 that has read line 1 and, with `squashes`, may ask for priority. -/
def askingChunk : Chunk :=
  { saved := Regs.start, stores := [], reads := [], fills := [], fillLines := 0, acts := [], count := 0, squashes := 4, order := 1,
    issued := [], later := [], matched := 0, last := [1], region := false }

/-- A younger chunk that writes line 1. -/
def writingChunk : Chunk :=
  { askingChunk with
    stores := [{ pc := 0, src := 0, size := 0, wide := 0, adds := none, checked := true
                 parts := [{ lane := 0, va := 64, key := some 64, live := 64, bytes := [0], fail := 0 }] }]
    squashes := 0, order := 2, last := [] }

/-- Core 0 stands twice in the table, and the second entry's slot 1 asks for line 1: no slot's priority shows the request, as a look-up
ends at the first entry, but a commit asks every entry. -/
def twiceCore : State :=
  { State.reset with
    cores := [(0, Core.init), (0, Core.init.setSlot 1 { Slot.free with chunk := some askingChunk })] }

/-- Every slot of the state is a free one, which asks for nothing. -/
theorem twiceCore_priority (c i : Nat) : (twiceCore.slot c i).priority = none := by
  have core : twiceCore.core c = Core.init := by
    unfold twiceCore State.core Tab.get
    simp only [Tab.find]
    split <;> rfl
  unfold State.slot
  rw [core]
  rfl

theorem twiceCore_withholds : twiceCore.mayGrant 0 0 writingChunk = false := by decide +kernel

/-- Refutes O49: with no slot's priority set, a commit can still be withheld, by a request in an entry of the table of cores that is
hidden behind another of the same core (`twiceCore`). -/
theorem not_commitsAndChecks : ¬ Obligations.CommitsAndChecks := by
  rintro ⟨⟨-, -, -, -, -, grants, -⟩, -⟩
  have granted : twiceCore.mayGrant 0 0 writingChunk = true := grants twiceCore writingChunk (fun c i _ => twiceCore_priority c i)
  rw [twiceCore_withholds] at granted
  exact absurd granted (by decide)

end Sys2Proof.Claim
end

section
/-! Path labels as their fields (R105): packing fields into a label and reading them back, and the zeros of a
well-formed label. -/

namespace Sys2Proof.Machine.Path

/-- Leading fields that have a level each and fit the widths of their levels. -/
structure Fits (ws gs : List Nat) : Prop where
  length : gs.length ≤ ws.length
  lt : ∀ i (hw : i < ws.length) (hg : i < gs.length), gs[i] < 2 ^ ws[i]

/-- The number that leading fields make below the bit `top`. -/
def packed : List Nat → Nat → List Nat → Nat
  | w :: ws, top, g :: gs => g * 2 ^ (top - w) + packed ws (top - w) gs
  | _, _, _ => 0

section

variable {ws gs : List Nat} {w g top : Nat}

theorem Fits.nil (ws : List Nat) : Fits ws [] := ⟨Nat.zero_le _, fun _ _ hg => absurd hg (Nat.not_lt_zero _)⟩

theorem Fits.tail (h : Fits (w :: ws) (g :: gs)) : Fits ws gs :=
  ⟨Nat.le_of_succ_le_succ h.length, fun i hw hg => h.lt (i + 1) (Nat.succ_lt_succ hw) (Nat.succ_lt_succ hg)⟩

theorem Fits.head (h : Fits (w :: ws) (g :: gs)) : g < 2 ^ w := h.lt 0 (Nat.succ_pos _) (Nat.succ_pos _)

theorem packed_nil (ws : List Nat) (top : Nat) : packed ws top [] = 0 := by cases ws <;> rfl

theorem foldl_eq_packed (ws gs : List Nat) (top a : Nat) :
    ((ws.zip (shifts ws top)).zip gs).foldl (fun a x => a + x.2 * 2 ^ x.1.2) a = a + packed ws top gs := by
  induction ws generalizing gs top a with
  | nil => rfl
  | cons w ws ih =>
    cases gs with
    | nil => rfl
    | cons g gs => exact (ih gs (top - w) _).trans (Nat.add_assoc ..)

theorem packed_lt (fits : Fits ws gs) (sum : ws.sum ≤ top) : packed ws top gs < 2 ^ top := by
  induction ws generalizing gs top with
  | nil => exact Nat.two_pow_pos top
  | cons w ws ih =>
    cases gs with
    | nil => exact Nat.two_pow_pos top
    | cons g gs =>
      rw [List.sum_cons] at sum
      calc g * 2 ^ (top - w) + packed ws (top - w) gs
        _ < (g + 1) * 2 ^ (top - w) := by
          rw [Nat.add_mul, Nat.one_mul]
          exact Nat.add_lt_add_left (ih fits.tail (by omega)) _
        _ ≤ 2 ^ w * 2 ^ (top - w) := Nat.mul_le_mul_right _ fits.head
        _ = 2 ^ top := by rw [← Nat.pow_add, Nat.add_sub_cancel' (by omega)]

/-- The bits below the last level are zero. -/
theorem dvd_packed (ws gs : List Nat) (sum : ws.sum ≤ top) : 2 ^ (top - ws.sum) ∣ packed ws top gs := by
  induction ws generalizing gs top with
  | nil => exact Nat.dvd_zero _
  | cons w ws ih =>
    cases gs with
    | nil => exact Nat.dvd_zero _
    | cons g gs =>
      rw [List.sum_cons] at sum ⊢
      refine Nat.dvd_add (Nat.dvd_mul_left_of_dvd (Nat.pow_dvd_pow 2 (by omega)) _) ?_
      rw [← Nat.sub_sub]
      exact ih gs (by omega)

/-- Reading the levels of a number that is made of leading fields gives those fields, and zero at every further level. -/
theorem levels_of_packed (fits : Fits ws gs) (sum : ws.sum ≤ top) {x : Nat} (h : x % 2 ^ top = packed ws top gs) :
    (ws.zip (shifts ws top)).map (fun p => x / 2 ^ p.2 % 2 ^ p.1) = gs ++ List.replicate (ws.length - gs.length) 0 := by
  induction ws generalizing gs top with
  | nil =>
    rw [List.eq_nil_of_length_eq_zero (Nat.le_zero.1 fits.length)]
    rfl
  | cons w ws ih =>
    rw [List.sum_cons] at sum
    have split : 2 ^ top = 2 ^ (top - w) * 2 ^ w := by rw [← Nat.pow_add, Nat.sub_add_cancel (by omega)]
    have level : x / 2 ^ (top - w) % 2 ^ w = x % 2 ^ top / 2 ^ (top - w) := by
      rw [← Nat.mod_mul_right_div_self, ← split]
    have below : x % 2 ^ (top - w) = x % 2 ^ top % 2 ^ (top - w) := by rw [split, Nat.mod_mul_right_mod]
    rw [h] at level below
    cases gs with
    | nil =>
      have rest := ih (Fits.nil ws) (by omega) (below.trans (by rw [packed_nil, packed_nil, Nat.zero_mod]))
      rw [packed_nil, Nat.zero_div] at level
      exact congrArg₂ List.cons level rest
    | cons g gs =>
      have small : packed ws (top - w) gs < 2 ^ (top - w) := packed_lt fits.tail (by omega)
      have rest := ih fits.tail (by omega) (below.trans (by
        rw [packed, Nat.mul_comm, Nat.mul_add_mod, Nat.mod_eq_of_lt small]))
      rw [packed, Nat.mul_comm, Nat.mul_add_div (Nat.two_pow_pos _), Nat.div_eq_of_lt small, Nat.add_zero] at level
      rw [List.length_cons, List.length_cons, Nat.succ_sub_succ]
      exact congrArg₂ List.cons level rest

end

/-! The fields of a label. -/

theorem length_shifts (ws : List Nat) (top : Nat) : (shifts ws top).length = ws.length := by
  induction ws generalizing top with
  | nil => rfl
  | cons w ws ih => exact congrArg Nat.succ (ih _)

@[simp] theorem length_fields (ws : List Nat) (l : W64) : (fields ws l).length = ws.length := by
  simp [fields, length_shifts]

theorem fields_fit (ws : List Nat) (l : W64) : Fits ws (fields ws l) := by
  refine ⟨(length_fields ws l).le, fun i hw hg => ?_⟩
  simpa [fields] using fld_lt l ((shifts ws 48)[i]'(by rwa [length_shifts])) ws[i]

theorem depth_le (ws : List Nat) (l : W64) : depth ws l ≤ ws.length :=
  (List.takeWhile_prefix _).length_le.trans (length_fields ws l).le

/-- Some of the leading fields of a label fit. -/
theorem Fits.take {ws gs : List Nat} (h : Fits ws gs) (n : Nat) : Fits ws (gs.take n) where
  length := (List.length_take_le' n gs).trans h.length
  lt i hw hg := by
    rw [List.getElem_take]
    exact h.lt i hw _

/-- A further list of fields that fit the next levels. -/
theorem Fits.append {ws gs hs : List Nat} (h : Fits ws gs) (k : Fits (ws.drop gs.length) hs) : Fits ws (gs ++ hs) where
  length := by
    have := k.length
    rw [List.length_drop] at this
    rw [List.length_append]
    have := h.length
    omega
  lt i hw hg := by
    rw [List.getElem_append]
    split
    · exact h.lt i hw _
    · have := k.lt (i - gs.length) (by rw [List.length_drop]; omega) (by rw [List.length_append] at hg; omega)
      simpa [Nat.add_sub_cancel' (Nat.le_of_not_lt ‹_›)] using this

/-- The fields of a well-formed label past its depth are zero. -/
theorem fields_eq_of_wellFormed {ws : List Nat} {l : W64} (h : wellFormed ws l = true) :
    fields ws l = (fields ws l).take (depth ws l) ++ List.replicate (ws.length - depth ws l) 0 := by
  simp only [wellFormed, Bool.and_eq_true, List.all_eq_true, beq_iff_eq] at h
  obtain ⟨⟨-, zero⟩, -⟩ := h
  have parts := (List.takeWhile_append_dropWhile (p := (· != 0)) (l := fields ws l))
  have head : (fields ws l).take (depth ws l) = (fields ws l).takeWhile (· != 0) :=
    (List.prefix_iff_eq_take.1 (List.takeWhile_prefix _)).symm
  have len : ((fields ws l).dropWhile (· != 0)).length = ws.length - depth ws l := by
    have := congrArg List.length parts
    rw [List.length_append, length_fields] at this
    unfold depth
    omega
  rw [head, ← len, ← List.eq_replicate_length.2 zero, parts]

end Sys2Proof.Machine.Path
end

section
/-! The bit tests on path labels (O36): each gives the label, the depth or the relation of its rule (R105-R107, R122). -/

namespace Sys2Proof.Claim

open Sys2Proof.Machine

section

variable {s t u v w : State} {p : Pops} {d a b : Reg} {l x y : W64} {k k2 : Skein}

/-! Labels. -/

/-- What a label made of leading fields is: those fields, and zero below them. -/
theorem labelIs_ofFields {gs : List Nat} (sum : k.widths.sum ≤ 48) (fits : Path.Fits k.widths gs) (l : W64) :
    LabelIs k (Path.ofFields k.widths (Path.skein l) gs) l (gs ++ List.replicate (k.widths.length - gs.length) 0) := by
  have path : Path.packed k.widths 48 gs < 2 ^ 48 := Path.packed_lt fits sum
  have skein : Path.skein l < 2 ^ 15 := fld_lt l 48 15
  have value : (Path.ofFields k.widths (Path.skein l) gs).toNat =
      2 ^ 63 + Path.skein l * 2 ^ 48 + Path.packed k.widths 48 gs := by
    rw [Path.ofFields, Path.foldl_eq_packed, BitVec.toNat_ofNat, Nat.zero_add]
    exact Nat.mod_eq_of_lt (by omega)
  have low : (2 ^ 63 + Path.skein l * 2 ^ 48 + Path.packed k.widths 48 gs) % 2 ^ 48 = Path.packed k.widths 48 gs := by omega
  refine ⟨?_, ?_, ?_, ?_⟩
  · rw [bit, BitVec.getLsbD, value, Nat.testBit_eq_decide_div_mod_eq]
    exact decide_eq_true (by omega)
  · rw [fld, value]
    show _ = Path.skein l
    omega
  · unfold Path.fields fld
    rw [value]
    exact Path.levels_of_packed fits sum low
  · rw [fld, value, Nat.pow_zero, Nat.div_one]
    refine Nat.mod_eq_zero_of_dvd (Nat.dvd_add (Nat.dvd_add ?_ (Nat.dvd_mul_left_of_dvd ?_ _)) (Path.dvd_packed _ gs sum))
    · exact Nat.pow_dvd_pow 2 (by omega)
    · exact Nat.pow_dvd_pow 2 (by omega)

theorem skeinOf_sum {w0 w1 : W64} (h : skeinOf w0 w1 = some k) : k.widths.sum ≤ 48 := by
  unfold skeinOf at h
  dsimp only at h
  split at h
  · next usable =>
    cases h
    simp only [Bool.and_eq_true, decide_eq_true_eq] at usable
    exact usable.2
  · cases h

/-- What the check of a label tells: its descriptor fits a label, and the label is well-formed under it (R103, R105). -/
theorem wellFormed_of_label (h : Gives (wellFormedLabel l) t k u) :
    k.widths.sum ≤ 48 ∧ Path.wellFormed k.widths l = true := by
  obtain ⟨_, _, -, h⟩ := run_bind_ok_iff.1 h
  dsimp only at h
  split at h
  · cases h
  · obtain ⟨_, _, -, h⟩ := run_bind_ok_iff.1 h
    obtain ⟨w0, _, -, h⟩ := run_bind_ok_iff.1 h
    obtain ⟨w1, _, -, h⟩ := run_bind_ok_iff.1 h
    cases usable : skeinOf w0 w1 with
    | none =>
      rw [usable] at h
      cases h
    | some k' =>
      rw [usable] at h
      dsimp only at h
      split at h
      · next wf =>
        cases h
        exact ⟨skeinOf_sum usable, wf⟩
      · cases h

theorem depthOf_eq (k : Skein) (l : W64) : depthOf k l = Path.depth k.widths l := by
  unfold depthOf Path.depth
  congr 2
  funext x
  rw [decide_not]
  rfl

theorem ancestor_eq (k : Skein) (x y : W64) : Path.ancestor k.widths x y = decide (fld x 48 15 = fld y 48 15 ∧
    depthOf k x ≤ depthOf k y ∧
    (Path.fields k.widths x).take (depthOf k x) = (Path.fields k.widths y).take (depthOf k x)) := by
  rw [Bool.eq_iff_iff]
  simp only [Path.ancestor, Path.skein, depthOf_eq, Bool.and_eq_true, beq_iff_eq, decide_eq_true_eq, and_assoc]

/-! The fields of a label up to its depth. -/

/-- The fields of a label above its depth (R105). -/
def leading (k : Skein) (l : W64) : List Nat := (Path.fields k.widths l).take (depthOf k l)

theorem depthOf_le (k : Skein) (l : W64) : depthOf k l ≤ k.widths.length := depthOf_eq k l ▸ Path.depth_le k.widths l

theorem length_leading (k : Skein) (l : W64) : (leading k l).length = depthOf k l := by
  rw [leading, List.length_take, Path.length_fields]
  exact Nat.min_eq_left (depthOf_le k l)

theorem fits_take (k : Skein) (l : W64) (n : Nat) : Path.Fits k.widths ((Path.fields k.widths l).take n) :=
  (Path.fields_fit k.widths l).take n

/-- Fields that fit the levels from the depth on may follow those above it. -/
theorem fits_leading_append {hs : List Nat} (h : Path.Fits (k.widths.drop (depthOf k l)) hs) :
    Path.Fits k.widths (leading k l ++ hs) := by
  refine (fits_take k l _).append ?_
  rwa [← leading, length_leading]

/-- The fields of a well-formed label are those above its depth, and zeros. -/
theorem fields_eq_leading (wf : Path.wellFormed k.widths l = true) :
    Path.fields k.widths l = leading k l ++ List.replicate (k.widths.length - depthOf k l) 0 := by
  rw [leading, depthOf_eq]
  exact Path.fields_eq_of_wellFormed wf

/-! The results. -/

/-- LPAR: the deepest field of a label is cleared. -/
theorem parent_fields (wf : Path.wellFormed k.widths l = true) :
    let gs := (Path.fields k.widths l).take (depthOf k l - 1)
    gs ++ List.replicate (k.widths.length - gs.length) 0 = (Path.fields k.widths l).set (depthOf k l - 1) 0 := by
  dsimp only
  refine List.ext_getElem (by simp) fun i h1 h2 => ?_
  simp only [List.length_set, Path.length_fields] at h2
  rw [List.getElem_set, List.getElem_append]
  split
  · next h =>
    rw [List.length_take] at h
    rw [List.getElem_take, if_neg (by omega)]
  · next h =>
    rw [List.getElem_replicate]
    split
    · rfl
    · next ne =>
      rw [List.length_take, Path.length_fields] at h
      rw [List.getElem_of_eq (fields_eq_leading wf), List.getElem_append_right (by rw [length_leading]; omega),
        List.getElem_replicate]

/-- LMAKE: the next field of a label takes the ordinal. -/
theorem child_fields (wf : Path.wellFormed k.widths l = true) (lt : depthOf k l < k.widths.length) (o : Nat) :
    (leading k l ++ [o]) ++ List.replicate (k.widths.length - (leading k l ++ [o]).length) 0 =
      (Path.fields k.widths l).set (depthOf k l) o := by
  have len := length_leading k l
  have more : k.widths.length - depthOf k l = k.widths.length - (depthOf k l + 1) + 1 := by omega
  rw [fields_eq_leading wf, more, List.replicate_succ, List.set_append_right _ _ len.le, len, Nat.sub_self, List.set_cons_zero,
    List.length_append, len, List.append_assoc]
  rfl

theorem fits_child {o : Nat} (lt : depthOf k l < k.widths.length) (small : o ≤ 2 ^ k.widths[depthOf k l] - 1) :
    Path.Fits k.widths (leading k l ++ [o]) := by
  refine fits_leading_append ⟨?_, fun i hw hg => ?_⟩
  · rw [List.length_drop, List.length_singleton]
    omega
  · obtain rfl : i = 0 := by simpa using hg
    have pos := Nat.two_pow_pos k.widths[depthOf k l]
    simp only [List.getElem_cons_zero, List.getElem_drop, Nat.add_zero]
    omega

theorem labelIs_child {o : Nat} (sum : k.widths.sum ≤ 48) (wf : Path.wellFormed k.widths l = true)
    (lt : depthOf k l < k.widths.length) (small : o ≤ 2 ^ k.widths[depthOf k l] - 1) :
    LabelIs k (Path.ofFields k.widths (Path.skein l) (leading k l ++ [o])) l ((Path.fields k.widths l).set (depthOf k l) o) :=
  child_fields wf lt o ▸ labelIs_ofFields sum (fits_child lt small) l

/-- LRANGE: every field from the depth on is all ones. -/
theorem labelIs_hi (sum : k.widths.sum ≤ 48) (l : W64) : LabelIs k (Path.hi k.widths l) l
    (leading k l ++ (k.widths.drop (depthOf k l)).map (fun w => 2 ^ w - 1)) := by
  have len := length_leading k l
  have fits : Path.Fits k.widths (leading k l ++ (k.widths.drop (depthOf k l)).map (fun w => 2 ^ w - 1)) := by
    refine fits_leading_append ⟨(List.length_map _).le, fun i hw hg => ?_⟩
    have pos := Nat.two_pow_pos (k.widths.drop (depthOf k l))[i]
    simp only [List.getElem_map]
    omega
  have full : k.widths.length - (leading k l ++ (k.widths.drop (depthOf k l)).map (fun w => 2 ^ w - 1)).length = 0 := by
    rw [List.length_append, len, List.length_map, List.length_drop]
    have := depthOf_le k l
    omega
  have made := labelIs_ofFields sum fits l
  rw [full, List.replicate_zero, List.append_nil] at made
  rwa [Path.hi, ← depthOf_eq]

/-! Operands: from its sources on, an instruction goes on with their values. -/

/-- An instruction of one label, which it checks. -/
def onLabel (d a : Reg) (f : W64 → Skein → M Unit) : M Unit := do
  labelOp
  okG d
  okG a
  let p ← operands [a] (some d)
  let l ← readG p a
  let k ← wellFormedLabel l
  f l k

/-- An instruction of two sources and a destination. -/
def onSources (d a b : Reg) (f : W64 → W64 → M Unit) : M Unit := do
  labelOp
  okG d
  okG a
  okG b
  let p ← operands [a, b] (some d)
  let x ← readG p a
  let y ← readG p b
  f x y

theorem onLabel_run {f : W64 → Skein → M Unit} (host : NotOnHart s) (r : Reads [okG d, okG a] [a] (some d) s p t)
    (src : G p a t l) (wf : Gives (wellFormedLabel l) t k u) : onLabel d a f s = f l k u := by
  refine (run_bind_of_ok (notOnHart_ok host)).trans ((run_bind_of_ok (r.fields (okG d) (by simp))).trans ?_)
  refine (run_bind_of_ok (r.fields (okG a) (by simp))).trans ((run_bind_of_ok r.pops).trans ?_)
  exact (run_bind_of_ok src).trans (run_bind_of_ok wf)

theorem onSources_run {f : W64 → W64 → M Unit} (host : NotOnHart s) (r : Reads [okG d, okG a, okG b] [a, b] (some d) s p t)
    (one : G p a t x) (two : G p b t y) : onSources d a b f s = f x y t := by
  refine (run_bind_of_ok (notOnHart_ok host)).trans ((run_bind_of_ok (r.fields (okG d) (by simp))).trans ?_)
  refine (run_bind_of_ok (r.fields (okG a) (by simp))).trans ((run_bind_of_ok (r.fields (okG b) (by simp))).trans ?_)
  exact (run_bind_of_ok r.pops).trans ((run_bind_of_ok one).trans (run_bind_of_ok two))

theorem label1_completes {f : Skein → W64 → W64} (host : NotOnHart s) (r : Reads [okG d, okG a] [a] (some d) s p t)
    (src : G p a t l) (wf : Gives (wellFormedLabel l) t k u) (wr : Gives (writeG d (f k l)) u () v) :
    insn (label1 d a f) s = .next v.advance :=
  insn_of_ok ((onLabel_run host r src wf).trans (run_bind_of_ok wr))

theorem label2_completes {f : Skein → W64 → W64 → W64} (host : NotOnHart s)
    (r : Reads [okG d, okG a, okG b] [a, b] (some d) s p t) (one : G p a t x) (two : G p b t y)
    (wf : Gives (wellFormedLabel x) t k u) (wf2 : Gives (wellFormedLabel y) u k2 v) (wr : Gives (writeG d (f k x y)) v () w) :
    insn (label2 d a b f) s = .next w.advance := by
  refine insn_of_ok ((onSources_run host r one two).trans ?_)
  exact (run_bind_of_ok wf).trans ((run_bind_of_ok wf2).trans (run_bind_of_ok wr))

/-! LMAKE. -/

/-- The part of LMAKE that follows the check of its label. -/
def makeChild (d : Reg) (l o : W64) (k : Skein) : M Unit :=
  match k.widths[Path.depth k.widths l]? with
  | none => illegalOperand
  | some w => do
    refuseIf (o == 0 || decide (2 ^ w - 1 < o.toNat))
    writeG d (Path.ofFields k.widths (Path.skein l) ((Path.fields k.widths l).take (Path.depth k.widths l) ++ [o.toNat]))
    done

/-- LMAKE checks its label and makes the child. -/
def lmake (d a b : Reg) : M Unit :=
  onSources d a b fun l o => do
    let k ← wellFormedLabel l
    makeChild d l o k

theorem exec_lmake (d a b : Reg) (s : State) : exec (.lmake d a b) s = insn (lmake d a b) s := rfl

theorem lmake_run (host : NotOnHart s) (r : Reads [okG d, okG a, okG b] [a, b] (some d) s p t) (one : G p a t x)
    (two : G p b t y) (wf : Gives (wellFormedLabel x) t k u) : lmake d a b s = makeChild d x y k u :=
  (onSources_run host r one two).trans (run_bind_of_ok wf)

theorem makeChild_ok {o : W64} (lt : depthOf k l < k.widths.length) (pos : 1 ≤ o.toNat)
    (small : o.toNat ≤ 2 ^ k.widths[depthOf k l] - 1)
    (wr : Gives (writeG d (Path.ofFields k.widths (Path.skein l) (leading k l ++ [o.toNat]))) u () v) :
    makeChild d l o k u = .ok () v.advance := by
  have nonzero : (o == 0) = false := by
    rw [beq_eq_false_iff_ne]
    rintro rfl
    exact absurd pos (by decide)
  unfold makeChild
  rw [← depthOf_eq, List.getElem?_eq_getElem lt]
  dsimp only
  rw [nonzero, decide_eq_false (by omega)]
  exact run_bind_of_ok wr

theorem makeChild_refused {o : W64}
    (h : depthOf k l = k.widths.length ∨ o = 0 ∨ ∃ h : depthOf k l < k.widths.length,
      2 ^ k.widths[depthOf k l] - 1 < o.toNat) : makeChild d l o k u = illegalOperand u := by
  unfold makeChild
  rw [← depthOf_eq]
  cases level : k.widths[depthOf k l]? with
  | none => rfl
  | some w =>
    obtain ⟨lt, rfl⟩ := List.getElem?_eq_some_iff.1 level
    have refused : (o == 0 || decide (2 ^ k.widths[depthOf k l] - 1 < o.toNat)) = true := by
      rcases h with h | rfl | ⟨_, big⟩
      · omega
      · rfl
      · rw [decide_eq_true big, Bool.or_true]
    exact run_bind_of_error (refuseIf_true refused u)

end

theorem labelTests : LabelTests := by
  refine ⟨?_, ?_, ?_⟩
  · intro s t u p d a l k host r src wf
    obtain ⟨sum, well⟩ := wellFormed_of_label wf
    dsimp only
    refine ⟨⟨parentOf k l, ?_, fun v wr => label1_completes host r src wf wr⟩, fun v wr => ?_,
      ⟨Path.hi k.widths l, labelIs_hi sum l, fun v wr => label1_completes host r src wf wr⟩⟩
    · unfold parentOf
      rw [← depthOf_eq]
      split
      · next root => rw [if_pos root]
      · next below =>
        rw [if_neg below]
        exact parent_fields well ▸ labelIs_ofFields sum (fits_take k l _) l
    · rw [depthOf_eq] at wr
      exact label1_completes (f := fun k l => BitVec.ofNat 64 (Path.depth k.widths l)) host r src wf wr
  · intro s t u p d a b l o k host r one two wf
    obtain ⟨sum, well⟩ := wellFormed_of_label wf
    have made := lmake_run host r one two wf
    refine ⟨fun lt pos small => ⟨_, labelIs_child sum well lt small, fun v wr => ?_⟩,
      fun refused cur _ => ?_⟩
    · rw [exec_lmake]
      exact insn_of_ok (made.trans (makeChild_ok lt pos small wr))
    · exact traps_of_illegalOperand (exec_lmake d a b s) cur (made.trans (makeChild_refused refused))
  · intro s t u v p d a b x y k k2 host r one two wf wf2
    dsimp only
    refine ⟨fun w wr => ?_, fun w wr => ?_⟩
    · refine label2_completes (f := fun k x y => Alu.flag (Path.ancestor k.widths x y)) host r one two wf wf2 ?_
      simpa only [flag_eq, ancestor_eq, decide_eq_true_eq] using wr
    · refine label2_completes (f := relation) host r one two wf wf2 ?_
      unfold relation
      rw [ancestor_eq, ancestor_eq]
      exact wr

end Sys2Proof.Claim
end

section
/-! How a label finds its storage (O35): the best match as the best of a left fold (R110), and the lookup as the rewrites of its
entries, one by one, and what the last match gives (R111-R114). -/

namespace Sys2Proof.Claim

open Sys2Proof.Machine

/-! The best match. -/

/-- A match is as good as another: of higher rank, or of the same rank and no later precedence (R110). -/
def AsGood (m y : (Nat × Nat) × HedEntry) : Prop := y.1.1 < m.1.1 ∨ (y.1.1 = m.1.1 ∧ m.1.2 ≤ y.1.2)

theorem AsGood.refl (m : (Nat × Nat) × HedEntry) : AsGood m m := .inr ⟨rfl, le_refl _⟩

theorem AsGood.trans {m n y : (Nat × Nat) × HedEntry} (h : AsGood m n) (k : AsGood n y) : AsGood m y := by
  unfold AsGood at *
  omega

/-- The better of two matches is one of them, and as good as both. -/
theorem better_asGood (a b : (Nat × Nat) × HedEntry) :
    (better a b = a ∨ better a b = b) ∧ AsGood (better a b) a ∧ AsGood (better a b) b := by
  unfold better AsGood
  split_ifs <;> simp only [true_or, or_true, true_and] <;> omega

/-- The best of a list of matches is one of them, and as good as each. -/
theorem foldl_better (l : List ((Nat × Nat) × HedEntry)) (x : (Nat × Nat) × HedEntry) :
    l.foldl better x ∈ x :: l ∧ ∀ y ∈ x :: l, AsGood (l.foldl better x) y := by
  induction l generalizing x with
  | nil =>
    refine ⟨List.mem_cons_self, fun y hy => ?_⟩
    rw [List.mem_singleton.1 hy]
    exact .refl x
  | cons z l ih =>
    obtain ⟨mem, good⟩ := ih (better x z)
    obtain ⟨one, first, second⟩ := better_asGood x z
    have top : AsGood (l.foldl better (better x z)) (better x z) := good _ List.mem_cons_self
    refine ⟨?_, fun y hy => ?_⟩
    · rcases List.mem_cons.1 mem with e | m
      · rcases one with o | o
        · exact List.mem_cons.2 (.inl (e.trans o))
        · exact List.mem_cons_of_mem _ (List.mem_cons.2 (.inl (e.trans o)))
      · exact List.mem_cons_of_mem _ (List.mem_cons_of_mem _ m)
    · rcases List.mem_cons.1 hy with rfl | hy
      · exact top.trans first
      · rcases List.mem_cons.1 hy with rfl | hy
        · exact top.trans second
        · exact good y (List.mem_cons_of_mem _ hy)

section

variable {ws : List Nat} {es : List HedEntry} {l : W64} {nofwd : Bool}

/-- The entries a search considers: all, or all but FWD ones (R112). -/
def considered (es : List HedEntry) (nofwd : Bool) : List HedEntry := es.filter (fun e => !(nofwd && fld e.e1 62 2 == 3))

/-- The matches among entries, each with its rank and precedence. -/
def ranked (ws : List Nat) (es : List HedEntry) (l : W64) (nofwd : Bool) : List ((Nat × Nat) × HedEntry) :=
  es.filterMap (fun e => if nofwd && e.kind == 3 then none else (e.rank ws l).map (fun r => (r, e)))

theorem mem_ranked {r : Nat × Nat} {e : HedEntry} :
    (r, e) ∈ ranked ws es l nofwd ↔ e ∈ considered es nofwd ∧ e.rank ws l = some r := by
  simp only [ranked, considered, List.mem_filterMap, List.mem_filter]
  constructor
  · rintro ⟨e', mem, h⟩
    split at h
    · cases h
    · next out =>
      obtain ⟨r', rank, pair⟩ := Option.map_eq_some_iff.1 h
      obtain ⟨rfl, rfl⟩ := Prod.mk.inj pair
      exact ⟨⟨mem, Bool.not_eq_true' _ ▸ Bool.eq_false_of_not_eq_true out⟩, rank⟩
  · rintro ⟨⟨mem, out⟩, rank⟩
    have stays : (nofwd && e.kind == 3) = false := Bool.not_eq_true' _ ▸ out
    refine ⟨e, mem, ?_⟩
    rw [stays, rank]
    rfl

theorem bestMatch_eq : bestMatch ws es l nofwd = match ranked ws es l nofwd with
    | [] => none
    | x :: r => some (r.foldl better x).2 := rfl

theorem bestMatch_eq_none_iff : bestMatch ws es l nofwd = none ↔ ∀ e ∈ considered es nofwd, e.rank ws l = none := by
  have empty : bestMatch ws es l nofwd = none ↔ ranked ws es l nofwd = [] := by
    rw [bestMatch_eq]
    split <;> simp_all
  rw [empty, List.eq_nil_iff_forall_not_mem]
  constructor
  · intro h e mem
    cases rank : e.rank ws l with
    | none => rfl
    | some r => exact absurd (mem_ranked.2 ⟨mem, rank⟩) (h (r, e))
  · rintro h ⟨r, e⟩ mem
    obtain ⟨mem, rank⟩ := mem_ranked.1 mem
    rw [h e mem] at rank
    cases rank

theorem bestMatch_best {e : HedEntry} (h : bestMatch ws es l nofwd = some e) : e ∈ considered es nofwd ∧ ∃ r p,
    e.rank ws l = some (r, p) ∧ ∀ e' ∈ considered es nofwd, ∀ r' p', e'.rank ws l = some (r', p') →
      r' < r ∨ (r' = r ∧ p ≤ p') := by
  rw [bestMatch_eq] at h
  split at h
  · cases h
  · next x rest found =>
    obtain ⟨mem, good⟩ := foldl_better rest x
    rw [← found] at mem good
    obtain rfl := Option.some.inj h
    obtain ⟨here, rank⟩ := mem_ranked.1 mem
    exact ⟨here, _, _, rank, fun e' mem' r' p' rank' => good ((r', p'), e') (mem_ranked.2 ⟨mem', rank'⟩)⟩

end

theorem bestMatchRule : BestMatch := fun _ _ _ _ => ⟨bestMatch_eq_none_iff, fun _ h => bestMatch_best h, fun _ => rfl⟩

/-! The steps of a lookup. -/

section

variable {k : Skein} {s t : State} {h l l' : W64} {src n f : Nat} {fwd nofwd : Bool} {e : HedEntry}

theorem missWord_eq (n : Nat) (fwd nofwd : Bool) (src : Nat) : missWord n fwd nofwd src = missed n fwd nofwd src := by
  rw [missWord, missed, Nat.mul_comm src]

theorem lookupLoop_miss (miss : best t k l nofwd = none) : lookupLoop k h src (f + 1) l n fwd nofwd t =
    .error (.trap Cause.labelMiss h 0 (some (l, missed n fwd nofwd src)) none) t := by
  unfold best hed at miss
  rw [lookupLoop, run_bind, run_get]
  dsimp only
  rw [miss, missWord_eq]
  rfl

/-- What a lookup does with the entry it finds (R112). -/
def onMatch (k : Skein) (h : W64) (src f : Nat) (l : W64) (n : Nat) (fwd nofwd : Bool) (e : HedEntry) : M (W64 × Bool × Bool) :=
  match fld e.e1 62 2 with
  | 0 => pure (BitVec.ofNat 64 (fld e.e1 0 56), fwd, false)
  | 1 => pure (BitVec.ofNat 64 (fld e.e1 0 56 + ((Path.fields k.widths l).getD (depthOf k l - 1) 1 - 1) * 2 ^ k.log2), fwd, true)
  | kd =>
    if n = 2 then stopTrap Cause.labelLoop h else
    match rewrite k.widths l e with
    | none => stopTrap Cause.labelFormat h
    | some l' => lookupLoop k h src f l' (n + 1) (fwd || kd == 3) (nofwd || kd != 3)

theorem lookupLoop_match (found : best t k l nofwd = some e) : lookupLoop k h src (f + 1) l n fwd nofwd t =
    onMatch k h src f l n fwd nofwd e (touched t k l nofwd) := by
  unfold best hed at found
  rw [lookupLoop, run_bind, run_get]
  dsimp only
  rw [found, onMatch, depthOf_eq]
  rfl

/-- A GRAFT or FWD entry rewrites the label, twice at most. -/
theorem onMatch_moves (moves : 2 ≤ fld e.e1 62 2) : onMatch k h src f l n fwd nofwd e =
    if n = 2 then stopTrap Cause.labelLoop h else
    match rewrite k.widths l e with
    | none => stopTrap Cause.labelFormat h
    | some l' => lookupLoop k h src f l' (n + 1) (fwd || fld e.e1 62 2 == 3) (nofwd || fld e.e1 62 2 != 3) := by
  unfold onMatch
  split <;> simp_all

/-- A lookup that has made n rewrites goes on from the label it has reached. -/
theorem lookupLoop_rewritten (r : Rewritten k s h n l fwd nofwd t) (le : n ≤ 2) :
    lookupLoop k h src 3 h 0 false false s = lookupLoop k h src (3 - n) l n fwd nofwd t := by
  induction r with
  | start => rfl
  | @next n l fwd nofwd t e l' r found kind moved ih =>
    have fuel : 3 - n = 3 - (n + 1) + 1 := by omega
    have moves : 2 ≤ fld e.e1 62 2 := by omega
    have graft : (fld e.e1 62 2 != 3) = (fld e.e1 62 2 == 2) := by
      rcases kind with kind | kind <;> rw [kind] <;> rfl
    rw [ih (by omega), fuel, lookupLoop_match found, onMatch_moves moves, if_neg (by omega), moved, graft]

/-- The translation of a label, once its lookup has come to an entry. -/
theorem labelTranslate_match (r : Rewritten k s h n l fwd nofwd t) (le : n ≤ 2) (found : best t k l nofwd = some e) :
    lookupLoop k h src 3 h 0 false false s = onMatch k h src (2 - n) l n fwd nofwd e (touched t k l nofwd) := by
  have fuel : 3 - n = 2 - n + 1 := by omega
  rw [lookupLoop_rewritten r le, fuel, lookupLoop_match found]

/-- A lookup that stops stops the translation. -/
theorem labelTranslate_stop {x : Stop} (stop : lookupLoop k h src 3 h 0 false false s = .error x t) :
    labelTranslate k h src s = .error x t := run_bind_of_error stop

/-- A lookup that finds storage: stale where a FWD took part under a strict skein, otherwise its address, with LXSTAT to tell what
took part (R112, R113). -/
theorem labelTranslate_finds {b : W64} {dense : Bool} {m : Nat}
    (found : lookupLoop k h src 3 h 0 false false s = .ok (b, fwd, dense) t)
    (denseBit : (if dense then 2 else 0) = m) :
    ((fwd = true ∧ k.strict = true) → ∃ u, labelTranslate k h src s = .error (.trap Cause.staleLabel h 0 none none) u) ∧
    (¬(fwd = true ∧ k.strict = true) → ∃ u, Gives (labelTranslate k h src) s b u ∧
      u.regs.lxstat = BitVec.ofNat 64 ((if fwd then 1 else 0) + m) ∧ Kept (lx s u) u []) := by
  have run : labelTranslate k h src s = _ := run_bind_of_ok found
  constructor
  · intro stale
    refine ⟨t, run.trans ?_⟩
    dsimp only
    rw [if_pos (Bool.and_eq_true_iff.2 stale)]
    rfl
  · intro fresh
    dsimp only at run
    rw [if_neg (fun both => fresh (Bool.and_eq_true_iff.1 both))] at run
    have frame := frames_labelTranslate (A := { regs := [], lx := true }) k h src rfl s _ _ run
    refine ⟨_, run, ?_, frame.kept_lx⟩
    rw [State.regs_modRegs, denseBit]

end

theorem labelLookup : LabelLookup := by
  intro s t k h l src n fwd nofwd r le
  dsimp only
  refine ⟨fun miss => ?_, fun e found => ⟨fun node => ?_, fun dense _ => ?_,
    fun moves => ⟨fun two => ?_, fun less unfit => ?_⟩⟩⟩
  · have fuel : 3 - n = 2 - n + 1 := by omega
    refine labelTranslate_stop ?_
    rw [lookupLoop_rewritten r le, fuel, lookupLoop_miss miss]
  · refine labelTranslate_finds (t := touched t k l nofwd) (dense := false) ?_ rfl
    rw [labelTranslate_match r le found, onMatch, node]
    rfl
  · refine labelTranslate_finds (t := touched t k l nofwd) (dense := true) ?_ rfl
    rw [labelTranslate_match r le found, onMatch, dense]
    rfl
  · refine ⟨_, labelTranslate_stop (t := touched t k l nofwd) ?_⟩
    rw [labelTranslate_match r le found, onMatch_moves moves, if_pos two]
    rfl
  · refine ⟨_, labelTranslate_stop (t := touched t k l nofwd) ?_⟩
    rw [labelTranslate_match r le found, onMatch_moves moves, if_neg (by omega), unfit]
    rfl

/-- Settles O35: the best match as the best of a left fold, and the lookup rewrite by rewrite to its last match. -/
theorem labelLookups : Obligations.LabelLookups := ⟨bestMatchRule, labelLookup⟩

end Sys2Proof.Claim
end

section
/-! The instructions that use the heddle (O36): a lookup, the label its FWD rewrites lead to, an invalidation and a fill (R112,
R124-R126). -/

namespace Sys2Proof.Claim

open Sys2Proof.Machine

section

variable {s t u v w : State} {p : Pops} {d a b : Reg} {h l l' x y : W64} {k k2 : Skein} {n f : Nat} {fwd : Bool} {e : HedEntry}

/-! The loop of LCANON. -/

theorem canonLoop_miss (miss : best t k l false = none) : canonLoop k h (f + 1) l n t =
    .error (.trap Cause.labelMiss h 0 (some (l, missed n (decide (0 < n)) false 3)) none) t := by
  unfold best hed at miss
  rw [canonLoop, run_bind, run_get]
  dsimp only
  rw [miss, missWord_eq]
  rfl

/-- At a match LCANON has its label, or goes on from the rewrite of a FWD (R124). -/
theorem canonLoop_match (found : best t k l false = some e) : canonLoop k h (f + 1) l n t =
    (if fld e.e1 62 2 ≠ 3 then pure l
      else if n = 2 then stopTrap Cause.labelLoop h
      else match rewrite k.widths l e with
        | none => stopTrap Cause.labelFormat h
        | some l' => canonLoop k h f l' (n + 1) : M W64) (touched t k l false) := by
  unfold best hed at found
  rw [canonLoop, run_bind, run_get]
  dsimp only
  rw [found]
  rfl

/-- A lookup with no GRAFT among its rewrites has made them all by FWD entries, and LCANON makes them too. -/
theorem canonLoop_rewritten {nofwd : Bool} (r : Rewritten k s h n l fwd nofwd t) (le : n ≤ 2) (plain : nofwd = false) :
    fwd = decide (0 < n) ∧ canonLoop k h 3 h 0 s = canonLoop k h (3 - n) l n t := by
  induction r with
  | start => exact ⟨rfl, rfl⟩
  | @next n l fwd nofwd t e l' r found kind moved ih =>
    obtain ⟨rfl, graft⟩ := Bool.or_eq_false_iff.1 plain
    have isFwd : fld e.e1 62 2 = 3 := kind.resolve_left (beq_eq_false_iff_ne.1 graft)
    have fuel : 3 - n = 3 - (n + 1) + 1 := by omega
    refine ⟨?_, ?_⟩
    · rw [isFwd, decide_eq_true (Nat.succ_pos n)]
      exact Bool.or_true fwd
    · rw [(ih (by omega) rfl).2, fuel, canonLoop_match found, if_neg (not_not_intro isFwd), if_neg (by omega), moved]

/-- LCANON runs the loop from its label and writes the label it comes to (R124). -/
def lcanon (d a : Reg) : M Unit :=
  onLabel d a fun l k => do
    writeG d (← canonLoop k l 3 l 0)
    done

theorem exec_lcanon (d a : Reg) (s : State) : exec (.lcanon d a) s = insn (lcanon d a) s := rfl

/-- LCANON has made n rewrites of its label and stands at another, in the state v. -/
def CanonAt (d a : Reg) (s : State) (k : Skein) (l : W64) (n : Nat) (l2 : W64) (v : State) : Prop :=
  lcanon d a s = (do writeG d (← canonLoop k l (2 - n + 1) l2 n); done : M Unit) v

section

variable {l2 : W64}

theorem canonAt_of_rewritten (host : NotOnHart s) (r : Reads [okG d, okG a] [a] (some d) s p t) (src : G p a t l)
    (wf : Gives (wellFormedLabel l) t k u) (made : Rewritten k u l n l2 fwd false v) (le : n ≤ 2) : CanonAt d a s k l n l2 v := by
  have fuel : 3 - n = 2 - n + 1 := by omega
  refine (onLabel_run host r src wf).trans ?_
  rw [run_bind, (canonLoop_rewritten made le rfl).2, ← run_bind, fuel]

theorem CanonAt.gives (h : CanonAt d a s k l n l2 v) (found : best v k l2 false = some e) (other : fld e.e1 62 2 ≠ 3)
    (wr : Gives (writeG d l2) (touched v k l2 false) () w) : exec (.lcanon d a) s = .next w.advance := by
  have reached : canonLoop k l (2 - n + 1) l2 n v = .ok l2 (touched v k l2 false) := by
    rw [canonLoop_match found, if_pos other]
    rfl
  exact (exec_lcanon d a s).trans (insn_of_ok (h.trans ((run_bind_of_ok reached).trans (run_bind_of_ok wr))))

theorem CanonAt.loops (h : CanonAt d a s k l n l2 v) (found : best v k l2 false = some e) (isFwd : fld e.e1 62 2 = 3) (two : n = 2) :
    Traps (.lcanon d a) s (touched v k l2 false) Cause.labelLoop l := by
  refine traps_of_error (exec_lcanon d a s) (h.trans (run_bind_of_error ?_))
  rw [canonLoop_match found, if_neg (not_not_intro isFwd), if_pos two]
  rfl

theorem CanonAt.unfit (h : CanonAt d a s k l n l2 v) (found : best v k l2 false = some e) (isFwd : fld e.e1 62 2 = 3) (less : n < 2)
    (unfit : rewrite k.widths l2 e = none) : Traps (.lcanon d a) s (touched v k l2 false) Cause.labelFormat l := by
  refine traps_of_error (exec_lcanon d a s) (h.trans (run_bind_of_error ?_))
  rw [canonLoop_match found, if_neg (not_not_intro isFwd), if_neg (by omega), unfit]
  rfl

theorem CanonAt.misses (h : CanonAt d a s k l n l2 v) (miss : best v k l2 false = none) : exec (.lcanon d a) s =
    .next ((withReads s v).takeTrap s.cur.core s.cur.slot s.regs.pc Cause.labelMiss 0 false l
      (some (l2, missed n (decide (0 < n)) false 3))) := by
  rw [exec_lcanon, insn_of_error (h.trans (run_bind_of_error (canonLoop_miss miss))), stop_trap, keepReads_cur, keepReads_regs]
  rfl

end

/-! LXLOOK. -/

theorem lxlook_completes (host : NotOnHart s) (r : Reads [okG d, okG a] [a] (some d) s p t) (src : G p a t l)
    (wf : Gives (wellFormedLabel l) t k u) (found : Gives (labelTranslate k l 2) u x v) (wr : Gives (writeG d x) v () w) :
    exec (.lxlook d a) s = .next w.advance := by
  refine insn_of_ok ((onLabel_run (f := fun l k => do writeG d (← labelTranslate k l 2); done) host r src wf).trans ?_)
  exact (run_bind_of_ok found).trans (run_bind_of_ok wr)

/-! Instructions of two sources and no destination. -/

/-- An instruction of two sources and no destination. -/
def onOperands (a b : Reg) (f : W64 → W64 → M Unit) : M Unit := do
  labelOp
  okG a
  okG b
  let p ← operands [a, b] none
  let x ← readG p a
  let y ← readG p b
  f x y

theorem onOperands_run {f : W64 → W64 → M Unit} (host : NotOnHart s) (r : Reads [okG a, okG b] [a, b] none s p t)
    (one : G p a t x) (two : G p b t y) : onOperands a b f s = f x y t := by
  refine (run_bind_of_ok (notOnHart_ok host)).trans ((run_bind_of_ok (r.fields (okG a) (by simp))).trans ?_)
  refine (run_bind_of_ok (r.fields (okG b) (by simp))).trans ((run_bind_of_ok r.pops).trans ?_)
  exact (run_bind_of_ok one).trans (run_bind_of_ok two)

/-! LXINV. -/

/-- The entries of a list that an invalidation leaves. -/
def outside (as : Asid) (lo hi : W64) (l : List HedEntry) : List HedEntry := l.filter (fun e => !e.within as lo hi)

theorem mem_outside {as : Asid} {lo hi : W64} {l : List HedEntry} :
    e ∈ outside as lo hi l ↔ e ∈ l ∧ ¬(e.asid = as ∧ lo.toNat ≤ e.e0.toNat ∧ e.e0.toNat ≤ hi.toNat) := by
  simp only [outside, List.mem_filter, HedEntry.within, Bool.not_eq_true', ← Bool.not_eq_true, Bool.and_eq_true, beq_iff_eq,
    decide_eq_true_eq, and_assoc]

/-- The state with the entries of a range gone from the core's heddle. -/
def withoutEntries (s : State) (lo hi : W64) : State :=
  s.modCore s.cur.core (fun c => { c with heddle := outside s.me.asid lo hi c.heddle })

/-- The slot with the fills of a range gone from its chunks. -/
def withoutFills (as : Asid) (lo hi : W64) (x : Slot) : Slot :=
  { x with
    chunk := x.chunk.map (fun c => { c with fills := outside as lo hi c.fills })
    ended := x.ended.map (fun c => { c with fills := outside as lo hi c.fills }) }

/-- The state in which an invalidation completes. -/
def invalidated (s : State) (lo hi : W64) : State :=
  ((withoutEntries s lo hi).modMe (withoutFills s.me.asid lo hi)).modChunk (fun c =>
    { c with acts := c.acts ++ [.remove { heddle := true, asid := s.me.asid, lo := lo, hi := hi }] })

theorem lxinv_completes {lo hi : W64} (host : NotOnHart s) (r : Reads [okG a, okG b] [a, b] none s p t) (one : G p a t lo)
    (two : G p b t hi) (wf : Gives (wellFormedLabel lo) t k u) (wf2 : Gives (wellFormedLabel hi) u k2 v) :
    exec (.lxinv a b) s = .next (invalidated v lo hi).advance := by
  refine insn_of_ok ((onOperands_run host r one two).trans ?_)
  exact (run_bind_of_ok wf).trans (run_bind_of_ok wf2)

theorem me_withoutEntries (s : State) (lo hi : W64) : (withoutEntries s lo hi).me = s.me :=
  State.me_of_slot rfl (fun c i => s.slot_modCore _ c i _ (fun _ => rfl))

theorem stores_withoutFills (as : Asid) (lo hi : W64) (x : Slot) : (withoutFills as lo hi x).stores = x.stores := by
  unfold withoutFills Slot.stores
  cases x.chunk <;> cases x.ended <;> rfl

theorem invalidated_leaves {A : Allow} (s : State) (lo hi : W64) : Leaves A s (invalidated s lo hi) := by
  have entries : Leaves A s (withoutEntries s lo hi) := .modCore (fun _ => rfl)
  exact (entries.trans (leaves_modMe rfl (stores_withoutFills ..) rfl)).trans (leaves_acts _ _)

theorem heddle_modCore {g : Core → Core} (keeps : ∀ k, (g k).heddle = k.heddle) (s : State) (c i : Nat) :
    ((s.modCore c g).core i).heddle = (s.core i).heddle := by
  by_cases e : i = c
  · rw [e, State.core_modCore_same, keeps]
  · rw [State.core_modCore_other _ _ e]

theorem heddle_setMe (s : State) (x : Slot) (c : Nat) : ((s.setMe x).core c).heddle = (s.core c).heddle :=
  heddle_modCore (g := fun k => k.setSlot s.cur.slot x) (fun _ => rfl) s s.cur.core c

theorem heddle_advance (s : State) (c : Nat) : (s.advance.core c).heddle = (s.core c).heddle := by
  unfold State.advance State.retire
  dsimp only
  split
  · exact heddle_setMe ..
  · exact (heddle_modCore (g := fun k => k.dropWalks s.cur.slot) (fun _ => rfl) _ _ _).trans (heddle_setMe ..)

theorem heddle_invalidated (s : State) (lo hi : W64) :
    ((invalidated s lo hi).core s.cur.core).heddle = outside s.me.asid lo hi (s.core s.cur.core).heddle := by
  unfold invalidated State.modChunk State.modMe
  rw [heddle_setMe, heddle_setMe, withoutEntries, State.core_modCore_same]

theorem chunk_invalidated (s : State) (lo hi : W64) : (invalidated s lo hi).me.chunk = s.me.chunk.map (fun c =>
    { c with
      fills := outside s.me.asid lo hi c.fills
      acts := c.acts ++ [.remove { heddle := true, asid := s.me.asid, lo := lo, hi := hi }] }) := by
  rw [invalidated, State.modChunk, State.me_modMe, State.me_modMe, me_withoutEntries, withoutFills, Option.map_map]
  rfl

/-! LXFILL. -/

/-- The refusals of a fill, its path word read as a label of its key's skein (R125). -/
theorem fillRefused_iff (k : Skein) (e0 e1 : W64) : fillRefused k e0 e1 = true ↔
    (fld e1 62 2 ≤ 1 ∧ (fld e1 56 6 ≠ 0 ∨ fld e1 0 3 ≠ 0 ∨ (fld e1 62 2 = 1 ∧ depthOf k e0 = k.widths.length))) ∨
    (2 ≤ fld e1 62 2 ∧ (fld e1 48 14 ≠ 0 ∨ depthOf k e0 = 0 ∨
      Path.wellFormed k.widths (BitVec.ofNat 64 (2 ^ 63 + fld e0 48 15 * 2 ^ 48 + fld e1 0 48)) = false ∨
      fld e1 0 48 = fld e0 0 48)) := by
  rw [depthOf_eq]
  unfold fillRefused
  dsimp only
  split
  · next low =>
    simp only [Bool.or_eq_true, Bool.and_eq_true, bne_iff_ne, beq_iff_eq, or_assoc, low, true_and,
      Nat.not_le.2 (Nat.lt_succ_of_le low),
      false_and, or_false]
  · next high =>
    have two : 2 ≤ fld e1 62 2 := by omega
    simp only [Bool.or_eq_true, bne_iff_ne, beq_iff_eq, Bool.not_eq_true', or_assoc, high, two, true_and, false_and, false_or]
    rfl

/-- The part of LXFILL that follows the check of its key. -/
def enterFill (e0 e1 : W64) (k : Skein) : M Unit := do
  refuseIf (fillRefused k e0 e1)
  let s ← get
  needLines (s.me.lineCount + 1)
  modify (fun s => s.modChunk (fun c =>
    { c with
      fills := c.fills ++ [{ asid := s.me.asid, e0 := e0, e1 := e1, widths := k.widths }]
      fillLines := c.fillLines + 1 }))
  done

/-- LXFILL checks its key and enters the fill. -/
def lxfill (a b : Reg) : M Unit :=
  onOperands a b fun e0 e1 => do
    let k ← wellFormedLabel e0
    enterFill e0 e1 k

theorem exec_lxfill (a b : Reg) (s : State) : exec (.lxfill a b) s = insn (lxfill a b) s := rfl

theorem lxfill_run {e0 e1 : W64} (host : NotOnHart s) (r : Reads [okG a, okG b] [a, b] none s p t) (one : G p a t e0)
    (two : G p b t e1) (wf : Gives (wellFormedLabel e0) t k u) : lxfill a b s = enterFill e0 e1 k u :=
  (onOperands_run host r one two).trans (run_bind_of_ok wf)

theorem needLines_room (room : u.roomFor n = true) : needLines n u = .ok () u := by
  rw [needLines, run_bind, run_get]
  dsimp only
  rw [if_pos room]
  rfl

theorem enterFill_ok {e0 e1 : W64} (usable : fillRefused k e0 e1 = false) (room : u.roomFor (u.me.lineCount + 1) = true) :
    enterFill e0 e1 k u = .ok () (u.modChunk (fun c =>
      { c with fills := c.fills ++ [{ asid := u.me.asid, e0 := e0, e1 := e1, widths := k.widths }],
               fillLines := c.fillLines + 1 })).advance := by
  unfold enterFill
  rw [usable]
  exact run_bind_of_ok (needLines_room room)

end

theorem labelGroup : LabelGroup := by
  refine ⟨?_, ?_, ?_⟩
  · intro s t u v p d a l k host r src wf
    refine ⟨fun x w found wr => lxlook_completes host r src wf found wr, fun n l2 fwd made le _ => ?_⟩
    have at_ := canonAt_of_rewritten host r src wf made le
    obtain ⟨took, -⟩ := canonLoop_rewritten made le rfl
    refine ⟨fun e w => at_.gives, fun e found isFwd _ => ⟨at_.loops found isFwd, at_.unfit found isFwd⟩, fun miss _ => ?_⟩
    exact took ▸ at_.misses miss
  · intro s t u v p a b lo hi k k2 host r one two wf wf2
    have leaves := (invalidated_leaves (A := { regs := [] }) v lo hi).trans (.advance _)
    refine ⟨_, lxinv_completes host r one two wf wf2, leaves.kept rfl, ?_, fun e => ?_, fun ch chunk => ?_⟩
    · rw [State.advance_pc]
      rfl
    · rw [heddle_advance, heddle_invalidated]
      exact mem_outside
    · rw [chunk_advance, chunk_invalidated, chunk]
      exact ⟨_, rfl, rfl, rfl, fun e => mem_outside⟩
  · intro s t u p a b e0 e1 k host r one two wf
    have fills := lxfill_run host r one two wf
    dsimp only
    rw [← fillRefused_iff]
    refine ⟨fun usable room => ?_, fun refused cur _ => ?_⟩
    · rw [exec_lxfill]
      exact insn_of_ok (fills.trans (enterFill_ok (Bool.eq_false_of_not_eq_true usable) room))
    · have stops := fills.trans (run_bind_of_error (refuseIf_true refused u))
      exact traps_of_illegalOperand (exec_lxfill a b s) cur stops

/-- Settles O36: each bit test by the fields of its label, LCANON rewrite by rewrite, and the heddle's entries by what stays. -/
theorem labelInstructions : Obligations.LabelInstructions := ⟨labelTests, labelGroup⟩

end Sys2Proof.Claim
end

section
/-! LSCAN (O27): it refuses a table operand that is a label by the value that stands before any queue is popped (R71), and over buffers
that hold two pages for one address a pop can change what the next one finds. -/

namespace Sys2Proof.Claim

open Sys2Proof.Machine

/-- The label whose top field is 1, the others zero, of four levels of four bits. -/
def scanLabel : W64 := 0x8000100000000000

/-- An activation whose core holds both pages of `overlapping`, the small one used last, and whose space has the descriptor of four
levels of four bits in the core's TCM. Queue 1 reads a table that only the large page holds, with an entry for `scanLabel`; queue 2
reads one that both hold: there is an entry in it in the small page's frame, and none in the large page's. -/
def overlappingScan : State :=
  { State.reset with
    mem := Memory.writeAll [(0x1010, 5), (0x1017, 0x80), (0x201015, 0x10), (0x201017, 0x80)] (tcmKey 0 0x400)
      (bvBytes (0x3333 : W64) 8 ++ bvBytes (0x8000000000000603 : W64) 8)
    cores := [(0,
      { Core.init.setSlot 0
          { Slot.free with
            act := some placedAct
            regs := { Regs.start with
              tvec := 0x1000
              q := (Regs.start.q.set 1 (tableQueue 0x201000)).set 2 (tableQueue 0x200000) } } with
        tlb := [smallPage, largePage]
        spaces := [(0, { SpaceRegs.zero with sktab := 0x401 })] })] }

/-- The sources of LSCAN q0, q1, q1, q2. -/
def scanSources : List Reg := [.q 1, .q 1, .q 2]

/-- The parts of LSCAN q0, q1, q1, q2 that follow what it refuses before the pops, for a table at 0. -/
def scanParts : M Pops := do
  let p ← operands scanSources none
  let _ ← wellFormedLabel scanLabel
  let _ ← wellFormedLabel scanLabel
  let n0 ← loadDword 0
  let _ ← countRange scanLabel scanLabel 0 0 (n0.toNat % 2 ^ 32)
  pure p

/-- All of them answer, and the pops give the label and no entry: the first brings the large page forward, and the second reads its
table there. -/
theorem scanParts_answer :
    (match scanParts overlappingScan with
      | .ok p _ => (popped p 1).setWidth 64 == scanLabel && (popped p 2).setWidth 64 == (0 : W64)
      | .error _ _ => false) = true := by decide +kernel

/-- Before the pops queue 2 would give an entry, whose key is a label: the instruction raises illegal-operand and binds nothing. -/
theorem overlappingScan_traps :
    (match exec (.lscan (.q 0) (.q 1) (.q 1) (.q 2)) overlappingScan with
      | .next u => u.regs.tcause.setWidth 8 == Cause.illegalOperand && u.regs.q[(0 : Fin 16)].bind == .unbound
      | _ => false) = true := by decide +kernel

theorem overlappingScan_fields : ∀ f ∈ [okG (.q 1), okG (.q 1), okG (.q 2)], f overlappingScan = .ok () overlappingScan := by
  intro f hf
  simp only [List.mem_cons, List.not_mem_nil, or_false] at hf
  rcases hf with rfl | rfl | rfl <;> rfl

/-- A queue that is bound as its instruction completes. -/
theorem rebound_advance_bind (s : State) (j : Fin 16) (b : Binding) (n : Nat) : ((rebound s j b n).advance).regs.q[j].bind = b := by
  have kept := (Leaves.advance (A := { regs := [] }) (rebound s j b n)).regs.q j List.not_mem_nil
  rw [kept, rebound, State.regs_modRegs]
  simp only [Fin.getElem_fin, Vector.getElem_set_self]

/-- Refutes O27: LSCAN whose table operand is popped as no label can be refused, for a value that the source would have given before
the pops of those before it (`overlappingScan`). -/
theorem not_scans : ¬ Obligations.Scans := by
  rintro ⟨⟨binds, -⟩, -⟩
  have answers := scanParts_answer
  split at answers
  next p _ run =>
    obtain ⟨key, nothing⟩ : (popped p 1).setWidth 64 = scanLabel ∧ (popped p 2).setWidth 64 = (0 : W64) := by simpa using answers
    obtain ⟨p', t, pops, run⟩ := run_bind_ok_iff.1 run
    obtain ⟨k1, u, low, run⟩ := run_bind_ok_iff.1 run
    obtain ⟨k2, v, high, run⟩ := run_bind_ok_iff.1 run
    obtain ⟨n0, w, size, run⟩ := run_bind_ok_iff.1 run
    obtain ⟨cnt, o, count, run⟩ := run_bind_ok_iff.1 run
    obtain ⟨rfl, -⟩ : p' = p ∧ o = _ := by simpa using run
    have bound := binds overlappingScan t u v w o p' 0 (.q 1) (.q 1) (.q 2) scanLabel scanLabel 0 n0 k1 k2 cnt
      (by unfold NotOnHart; decide) (by unfold Unused; decide +kernel) ⟨overlappingScan_fields, pops⟩ (g_popped key) (g_popped key)
      (g_popped nothing) (by decide) low high (by decide) size count
    have traps := overlappingScan_traps
    rw [bound] at traps
    obtain ⟨-, free⟩ := Bool.and_eq_true_iff.1 traps
    rw [rebound_advance_bind] at free
    cases eq_of_beq free
  next => cases answers

end Sys2Proof.Claim
end

section
/-! Rounding onto a grid (R136): the neighbours of a magnitude among the multiples of a power of two, the codes of a format as such
multiples, and what is tiny. -/

namespace Sys2Proof.Claim

open Sys2Proof.Machine

/-- A mode names one of the two neighbours. -/
theorem Picks.either {mode : Rnd} {neg : Bool} {c r : Nat} {lo x hi : ℚ} (h : Picks mode neg c lo x hi r) : r = c ∨ r = c + 1 := by
  obtain ⟨same, other⟩ := h
  by_cases e : x = lo
  · exact .inl (same e)
  · have other := other e
    cases mode with
    | rtz => exact .inl other
    | rdn | rup => cases neg <;> simp_all
    | rne =>
      obtain ⟨below, above, tie⟩ := other
      rcases lt_trichotomy (2 * x) (lo + hi) with h | h | h
      · exact .inl (below h)
      · have := tie h
        split at this <;> simp_all
      · exact .inr (above h)

/-- Counts from an even place on name the same neighbours. -/
theorem Picks.shift {mode : Rnd} {neg : Bool} {c r k : Nat} {lo x hi : ℚ} (h : Picks mode neg c lo x hi r) (even : k % 2 = 0) :
    Picks mode neg (k + c) lo x hi (k + r) := by
  obtain ⟨same, other⟩ := h
  refine ⟨fun e => by rw [same e], fun e => ?_⟩
  have other := other e
  have parity : (k + c) % 2 = c % 2 := by omega
  cases mode with
  | rtz => exact congrArg (k + ·) other
  | rdn | rup =>
    dsimp only at other ⊢
    split_ifs at other ⊢ <;> omega
  | rne =>
    obtain ⟨below, above, tie⟩ := other
    refine ⟨fun h => by rw [below h], fun h => by rw [above h, Nat.add_assoc], fun h => ?_⟩
    rw [tie h, parity]
    split_ifs <;> omega

/-- A number by its steps of 2^s and what is left. -/
theorem steps_add_rest (m s : Nat) : ((m / 2 ^ s : Nat) : ℚ) * 2 ^ s + (m % 2 ^ s : Nat) = m := by
  exact_mod_cast Nat.div_add_mod' m (2 ^ s)

/-- The steps of 2^s below and above m, in a unit u: the mode names the one that `roundShift` counts. -/
theorem roundShift_picks (mode : Rnd) (neg : Bool) (m : Nat) {s : Nat} (hs : 1 ≤ s) {u : ℚ} (hu : 0 < u) :
    Picks mode neg (m / 2 ^ s) ((m / 2 ^ s : Nat) * (2 ^ s * u)) (m * u) (((m / 2 ^ s : Nat) + 1) * (2 ^ s * u))
      (roundShift mode neg m s) := by
  have parts := steps_add_rest m s
  have half : (2 : ℚ) ^ s = 2 * (2 ^ (s - 1) : Nat) := by
    rw [← Nat.sub_add_cancel hs, pow_succ', Nat.add_sub_cancel]
    push_cast
    rfl
  unfold roundShift
  generalize m / 2 ^ s = n at *
  generalize m % 2 ^ s = r at *
  generalize 2 ^ (s - 1) = h at *
  have from_lo : m * u - n * (2 ^ s * u) = r * u := by rw [← parts]; ring
  have from_mid : 2 * (m * u) - (n * (2 ^ s * u) + (n + 1) * (2 ^ s * u)) = (r - h) * (2 * u) := by rw [← parts, half]; ring
  have u2 : 0 < 2 * u := by linarith
  have at_lo : m * u = n * (2 ^ s * u) ↔ r = 0 := by
    rw [← sub_eq_zero, from_lo, mul_eq_zero, or_iff_left hu.ne', Nat.cast_eq_zero]
  have below : 2 * (m * u) < n * (2 ^ s * u) + (n + 1) * (2 ^ s * u) ↔ r < h := by
    rw [← sub_neg, from_mid, ← neg_pos, ← neg_mul, mul_pos_iff_of_pos_right u2, neg_sub, sub_pos, Nat.cast_lt]
  have above : n * (2 ^ s * u) + (n + 1) * (2 ^ s * u) < 2 * (m * u) ↔ h < r := by
    rw [← sub_pos, from_mid, mul_pos_iff_of_pos_right u2, sub_pos, Nat.cast_lt]
  have tie : 2 * (m * u) = n * (2 ^ s * u) + (n + 1) * (2 ^ s * u) ↔ r = h := by
    rw [← sub_eq_zero, from_mid, mul_eq_zero, or_iff_left u2.ne', sub_eq_zero, Nat.cast_inj]
  refine ⟨fun e => if_pos (at_lo.1 e), fun ne => ?_⟩
  rw [if_neg (mt at_lo.2 ne)]
  cases mode with
  | rtz | rdn | rup => rfl
  | rne =>
    rw [below, above, tie]
    refine ⟨fun l => if_pos l, fun g => ?_, fun e => ?_⟩
    · rw [if_neg g.le.not_gt, if_pos g]
    · rw [if_neg e.ge.not_gt, if_neg e.le.not_gt]

/-- The multiples of 2^q next to a magnitude, and the one that `onGrid` counts. -/
theorem onGrid_picks (mode : Rnd) (neg : Bool) (m : Nat) (e q : Int) : let x : ℚ := m * 2 ^ e
    ∃ n : Nat, n * (2 : ℚ) ^ q ≤ x ∧ x < (n + 1) * (2 : ℚ) ^ q ∧
      Picks mode neg n (n * 2 ^ q) x ((n + 1) * 2 ^ q) (onGrid mode neg m e q).1 ∧
      ((onGrid mode neg m e q).2 = true ↔ x = n * 2 ^ q) := by
  have ue : (0 : ℚ) < 2 ^ e := zpow_pos two_pos e
  have uq : (0 : ℚ) < 2 ^ q := zpow_pos two_pos q
  unfold onGrid
  split_ifs with h
  · have whole : (m * 2 ^ e : ℚ) = (shl m (e - q) : Nat) * 2 ^ q := by
      obtain ⟨k, rfl⟩ := Int.le.dest h
      rw [shl, add_sub_cancel_left, Int.toNat_natCast, zpow_add₀ two_ne_zero, zpow_natCast]
      push_cast
      ring
    refine ⟨shl m (e - q), whole.ge, ?_, ⟨fun _ => rfl, fun ne => absurd whole ne⟩, iff_of_true rfl whole⟩
    rw [whole]
    linarith
  · obtain ⟨s, hs⟩ : ∃ s, (q - e).toNat = s := ⟨_, rfl⟩
    have s1 : 1 ≤ s := by omega
    have step : (2 : ℚ) ^ q = 2 ^ s * 2 ^ e := by
      rw [← zpow_natCast, ← zpow_add₀ two_ne_zero]
      congr 1
      omega
    have split := steps_add_rest m s
    have low : ((m % 2 ^ s : Nat) : ℚ) < 2 ^ s := by exact_mod_cast Nat.mod_lt m (Nat.two_pow_pos s)
    have low0 : (0 : ℚ) ≤ (m % 2 ^ s : Nat) := Nat.cast_nonneg _
    have picks := roundShift_picks mode neg m s1 ue
    rw [hs, step]
    refine ⟨m / 2 ^ s, ?_, ?_, picks, ?_⟩
    · rw [← split]
      nlinarith
    · nth_rw 1 [← split]
      nlinarith
    · rw [← mul_assoc, mul_left_inj' ue.ne', ← split]
      simp

/-- The code of n grid steps, d binades above the subnormal ones: n itself there, of the format's precision above them, up to the
step that begins the next binade. -/
theorem codeMag_grid (f : FFmt) {d n : Nat} (low : d = 0 ∨ 2 ^ f.mb ≤ n) (high : n ≤ 2 ^ (f.mb + 1)) :
    codeMag f (d * 2 ^ f.mb + n) = n * (2 : ℚ) ^ (f.qmin + d) := by
  have pos : 0 < 2 ^ f.mb := Nat.two_pow_pos _
  rw [pow_succ] at high
  have code (k m : Nat) (hm : m < 2 ^ f.mb) :
      (k * 2 ^ f.mb + m) / 2 ^ f.mb = k ∧ (k * 2 ^ f.mb + m) % 2 ^ f.mb = m := by
    rw [mul_comm, Nat.mul_add_div pos, Nat.mul_add_mod, Nat.div_eq_of_lt hm, Nat.mod_eq_of_lt hm]
    exact ⟨Nat.add_zero k, rfl⟩
  unfold codeMag FFmt.qmin
  rcases lt_or_ge n (2 ^ f.mb) with sub | normal
  · obtain rfl : d = 0 := low.resolve_right (by omega)
    obtain ⟨hd, hm⟩ := code 0 n sub
    rw [hd, hm, if_pos rfl, Nat.cast_zero, add_zero]
  obtain ⟨m, rfl⟩ := Nat.exists_eq_add_of_le normal
  rcases (show m < 2 ^ f.mb ∨ m = 2 ^ f.mb by omega) with inside | rfl
  · obtain ⟨hd, hm⟩ := code (d + 1) m inside
    rw [show d * 2 ^ f.mb + (2 ^ f.mb + m) = (d + 1) * 2 ^ f.mb + m by ring, hd, hm, if_neg d.succ_ne_zero]
    congr 2
    push_cast
    ring
  · obtain ⟨hd, hm⟩ := code (d + 2) 0 pos
    rw [show d * 2 ^ f.mb + (2 ^ f.mb + 2 ^ f.mb) = (d + 2) * 2 ^ f.mb + 0 by ring, hd, hm, if_neg (by omega)]
    rw [show ((d + 2 : Nat) : ℤ) - f.bias - f.mb = (1 - f.bias - f.mb + d) + 1 by push_cast; ring, zpow_add_one₀ two_ne_zero]
    push_cast
    ring

/-- The exponent of the grid on which a number of the format's precision lies beside m × 2^e, were there no subnormals. -/
def freeStep (f : FFmt) (m : Nat) (e : Int) : Int := (log2Nat m : Int) + e - f.mb

/-- The exponent of the grid on which Round takes m × 2^e (R136). -/
def gridStep (f : FFmt) (m : Nat) (e : Int) : Int := if freeStep f m e < f.qmin then f.qmin else freeStep f m e

/-- The flags of a result that does not overflow, as the model finds them. -/
def inexactFlags (f : FFmt) (mode : Rnd) (neg : Bool) (m : Nat) (e : Int) : Flags :=
  let r := onGrid mode neg m e (gridStep f m e)
  let tiny := decide (freeStep f m e < f.qmin) &&
    decide ((onGrid mode neg m e (freeStep f m e)).1 < 2 ^ (f.mb + 1) ∨ freeStep f m e + 1 < f.qmin)
  (if r.2 then 0 else Fl.nx) ||| (if !r.2 && tiny then Fl.uf else 0)

/-- The code of a finite result, before overflow is looked at. -/
def gridCode (f : FFmt) (mode : Rnd) (neg : Bool) (m : Nat) (e : Int) : Nat :=
  (gridStep f m e - f.qmin).toNat * 2 ^ f.mb + (onGrid mode neg m e (gridStep f m e)).1

/-- Round of a finite number that is not zero: by the code of its grid count, which may overflow (R136, R137). -/
theorem roundTo_fin (f : FFmt) (mode : Rnd) (sat neg : Bool) (m : Nat) (e : Int) :
    roundTo f mode sat (.fin neg m e) =
      if f.maxCode < gridCode f mode neg m e then
        if sat then (withSign f neg f.maxCode, Fl.satf ||| Fl.nx)
        else (if overflowCode f mode neg = 0x7F ∧ f = FFmt.e4m3 then overflowCode f mode neg
          else withSign f neg (overflowCode f mode neg), Fl.of ||| Fl.nx)
      else (withSign f neg (gridCode f mode neg m e), inexactFlags f mode neg m e) := rfl

/-- The binade of a number that is not zero. -/
theorem binade {m : Nat} (hm : m ≠ 0) (e : Int) :
    (2 : ℚ) ^ ((log2Nat m : Int) + e) ≤ m * 2 ^ e ∧ (m * 2 ^ e : ℚ) < 2 ^ ((log2Nat m : Int) + e + 1) := by
  have pos : (0 : ℚ) < 2 ^ e := zpow_pos two_pos e
  have low : (2 : ℚ) ^ log2Nat m ≤ m := by exact_mod_cast Nat.log2_self_le hm
  have high : (m : ℚ) < 2 ^ (log2Nat m + 1) := by exact_mod_cast Nat.lt_log2_self
  constructor
  · rw [zpow_add₀ two_ne_zero, zpow_natCast]
    gcongr
  · rw [add_right_comm, zpow_add₀ two_ne_zero]
    gcongr
    exact_mod_cast high

/-- The count n of a number in a grid of the format's precision: at least 2^mb, below 2^(mb + 1). -/
theorem freeStep_count {f : FFmt} {m n : Nat} (hm : m ≠ 0) {e : Int} (lo : n * (2 : ℚ) ^ freeStep f m e ≤ m * 2 ^ e)
    (hi : (m * 2 ^ e : ℚ) < (n + 1) * 2 ^ freeStep f m e) : 2 ^ f.mb ≤ n ∧ n < 2 ^ (f.mb + 1) := by
  have pos : (0 : ℚ) < 2 ^ freeStep f m e := zpow_pos two_pos _
  obtain ⟨low, high⟩ := binade hm e
  have whole : (log2Nat m : Int) + e = f.mb + freeStep f m e := by unfold freeStep; ring
  rw [whole, zpow_add₀ two_ne_zero, zpow_natCast] at low
  rw [whole, add_right_comm, zpow_add₀ two_ne_zero] at high
  constructor
  · have : (2 : ℚ) ^ f.mb < n + 1 := lt_of_mul_lt_mul_right (low.trans_lt hi) pos.le
    exact Nat.lt_succ_iff.1 (by exact_mod_cast this)
  · have : (n : ℚ) < 2 ^ ((f.mb : Int) + 1) := lt_of_mul_lt_mul_right (lo.trans_lt high) pos.le
    exact_mod_cast this

/-- On the grid of Round a count is one that `codeMag_grid` reads. -/
theorem gridStep_count {f : FFmt} {m n : Nat} (hm : m ≠ 0) {e : Int} (lo : n * (2 : ℚ) ^ gridStep f m e ≤ m * 2 ^ e)
    (hi : (m * 2 ^ e : ℚ) < (n + 1) * 2 ^ gridStep f m e) :
    ((gridStep f m e - f.qmin).toNat = 0 ∨ 2 ^ f.mb ≤ n) ∧ n + 1 ≤ 2 ^ (f.mb + 1) := by
  unfold gridStep at *
  split_ifs at * with sub
  · refine ⟨.inl (by simp), ?_⟩
    obtain ⟨-, high⟩ := binade hm e
    have upper : (2 : ℚ) ^ ((log2Nat m : Int) + e + 1) ≤ 2 ^ f.mb * 2 ^ f.qmin := by
      rw [← zpow_natCast, ← zpow_add₀ two_ne_zero]
      exact zpow_le_zpow_right₀ one_le_two (by unfold freeStep at sub; omega)
    have : (n : ℚ) < 2 ^ f.mb := lt_of_mul_lt_mul_right ((lo.trans_lt high).trans_le upper) (zpow_pos two_pos _).le
    have : n < 2 ^ f.mb := by exact_mod_cast this
    rw [pow_succ]
    omega
  · obtain ⟨low, high⟩ := freeStep_count hm lo hi
    exact ⟨.inr low, high⟩

theorem gridStep_ge (f : FFmt) (m : Nat) (e : Int) : f.qmin ≤ gridStep f m e := by
  unfold gridStep
  split_ifs <;> omega

/-- The codes next to a number that is not zero, and the one that Round names. -/
theorem gridCode_picks {f : FFmt} (mb : 1 ≤ f.mb) (mode : Rnd) (neg : Bool) {m : Nat} (hm : m ≠ 0) (e : Int) :
    let x : ℚ := m * 2 ^ e
    ∃ c, codeMag f c ≤ x ∧ x < codeMag f (c + 1) ∧
      Picks mode neg c (codeMag f c) x (codeMag f (c + 1)) (gridCode f mode neg m e) ∧
      ((onGrid mode neg m e (gridStep f m e)).2 = true ↔ x = codeMag f c) := by
  obtain ⟨n, lo, hi, picks, held⟩ := onGrid_picks mode neg m e (gridStep f m e)
  obtain ⟨low, high⟩ := gridStep_count hm lo hi
  have step : f.qmin + (gridStep f m e - f.qmin).toNat = gridStep f m e := by
    have := gridStep_ge f m e
    omega
  have here : codeMag f ((gridStep f m e - f.qmin).toNat * 2 ^ f.mb + n) = n * 2 ^ gridStep f m e := by
    rw [codeMag_grid f low (by omega), step]
  have next : codeMag f ((gridStep f m e - f.qmin).toNat * 2 ^ f.mb + n + 1) = (n + 1) * 2 ^ gridStep f m e := by
    rw [Nat.add_assoc, codeMag_grid f (low.imp_right fun h => by omega) high, step]
    push_cast
    rfl
  refine ⟨(gridStep f m e - f.qmin).toNat * 2 ^ f.mb + n, ?_⟩
  rw [here, next]
  refine ⟨lo, hi, picks.shift ?_, held⟩
  obtain ⟨k, hk⟩ := Nat.exists_eq_add_of_le' mb
  rw [hk, pow_succ, ← mul_assoc, Nat.mul_mod_left]

/-- The smallest normal number is 2^mb steps of the subnormal grid. -/
theorem smallestNormal_eq (f : FFmt) : (2 : ℚ) ^ (1 - (f.bias : Int)) = 2 ^ f.mb * 2 ^ f.qmin := by
  rw [← zpow_natCast, ← zpow_add₀ two_ne_zero]
  congr 1
  unfold FFmt.qmin
  ring

/-- `Tiny` in steps of the subnormal grid. -/
theorem tiny_eq (f : FFmt) (mode : Rnd) (neg : Bool) (x : ℚ) : Tiny f mode neg x =
    let g : ℚ := 2 ^ f.qmin
    let n : ℚ := 2 ^ f.mb * g
    match mode with
    | .rtz => x < n
    | .rdn => if neg then x ≤ n - g / 2 else x < n
    | .rup => if neg then x < n else x ≤ n - g / 2
    | .rne => x < n - g / 4 := by
  dsimp only
  rw [← smallestNormal_eq]
  rfl

theorem Tiny.lt {f : FFmt} {mode : Rnd} {neg : Bool} {x : ℚ} (h : Tiny f mode neg x) : x < 2 ^ f.mb * 2 ^ f.qmin := by
  have g : (0 : ℚ) < 2 ^ f.qmin := zpow_pos two_pos _
  rw [tiny_eq] at h
  cases mode with
  | rtz => exact h
  | rdn | rup =>
    dsimp only at h
    split_ifs at h <;> linarith
  | rne =>
    dsimp only at h
    linarith

theorem tiny_of_le {f : FFmt} {x : ℚ} (mode : Rnd) (neg : Bool) (h : x ≤ 2 ^ f.mb * 2 ^ f.qmin - 2 ^ f.qmin / 2) :
    Tiny f mode neg x := by
  have g : (0 : ℚ) < 2 ^ f.qmin := zpow_pos two_pos _
  rw [tiny_eq]
  cases mode with
  | rtz => dsimp only; linarith
  | rdn | rup =>
    dsimp only
    split_ifs <;> linarith
  | rne => dsimp only; linarith

/-- In the binade below the smallest normal number: a number stays below it when the count that its mode names does. -/
theorem tiny_below {f : FFmt} {mode : Rnd} {neg : Bool} {n u : Nat} {x : ℚ}
    (lo : n * ((2 : ℚ) ^ f.qmin / 2) ≤ x) (hi : x < (n + 1) * (2 ^ f.qmin / 2)) (below : n < 2 ^ (f.mb + 1))
    (picks : Picks mode neg n (n * (2 ^ f.qmin / 2)) x ((n + 1) * (2 ^ f.qmin / 2)) u) :
    u < 2 ^ (f.mb + 1) ↔ Tiny f mode neg x := by
  have g : (0 : ℚ) < 2 ^ f.qmin := zpow_pos two_pos _
  have either := picks.either
  have even : 2 ^ (f.mb + 1) % 2 = 0 := by rw [pow_succ, Nat.mul_mod_left]
  have normal : (2 : ℚ) ^ f.mb * 2 ^ f.qmin = (2 ^ (f.mb + 1) : Nat) * (2 ^ f.qmin / 2) := by
    push_cast
    ring
  rcases (show n + 2 ≤ 2 ^ (f.mb + 1) ∨ n + 1 = 2 ^ (f.mb + 1) by omega) with far | next
  · refine iff_of_true (by omega) (tiny_of_le mode neg ?_)
    have : ((n + 1 : Nat) : ℚ) + 1 ≤ (2 ^ (f.mb + 1) : Nat) := by exact_mod_cast far
    push_cast at this normal
    rw [normal]
    nlinarith
  · have top : ((n : ℚ) + 1) * (2 ^ f.qmin / 2) = 2 ^ f.mb * 2 ^ f.qmin := by
      rw [normal, ← next]
      push_cast
      rfl
    have bottom : (n : ℚ) * (2 ^ f.qmin / 2) = 2 ^ f.mb * 2 ^ f.qmin - 2 ^ f.qmin / 2 := by linarith
    obtain ⟨same, other⟩ := picks
    rw [← next]
    by_cases e : x = n * (2 ^ f.qmin / 2)
    · exact iff_of_true (by rw [same e]; exact n.lt_succ_self) (tiny_of_le mode neg (by linarith))
    · have above : 2 ^ f.mb * 2 ^ f.qmin - 2 ^ f.qmin / 2 < x := by
        rw [← bottom]
        exact lt_of_le_of_ne lo (Ne.symm e)
      have other := other e
      rw [top] at hi other
      rw [bottom] at other
      rw [tiny_eq]
      cases mode with
      | rtz => exact iff_of_true (by rw [other]; exact n.lt_succ_self) hi
      | rdn | rup =>
        dsimp only at other ⊢
        cases neg <;> simp_all
      | rne =>
        obtain ⟨down, up, tie⟩ := other
        dsimp only
        rcases lt_trichotomy (2 * x) (2 ^ f.mb * 2 ^ f.qmin - 2 ^ f.qmin / 2 + 2 ^ f.mb * 2 ^ f.qmin) with h | h | h
        · exact iff_of_true (by rw [down h]; exact n.lt_succ_self) (by linarith)
        · exact iff_of_false (by rw [tie h, if_neg (by omega)]; exact lt_irrefl _) (by linarith)
        · exact iff_of_false (by rw [up h]; exact lt_irrefl _) (by linarith)

/-- The model's test of a tiny result, on its own grid, is the statement's (R136). -/
theorem tiny_iff {f : FFmt} (mode : Rnd) (neg : Bool) {m : Nat} (hm : m ≠ 0) (e : Int) :
    (freeStep f m e < f.qmin ∧ ((onGrid mode neg m e (freeStep f m e)).1 < 2 ^ (f.mb + 1) ∨ freeStep f m e + 1 < f.qmin)) ↔
      Tiny f mode neg (m * 2 ^ e) := by
  obtain ⟨low, high⟩ := binade hm e
  have g : (0 : ℚ) < 2 ^ f.qmin := zpow_pos two_pos _
  have one_le : (1 : ℚ) ≤ 2 ^ f.mb := one_le_pow₀ one_le_two
  have whole : (log2Nat m : Int) + e = f.mb + freeStep f m e := by unfold freeStep; ring
  rcases lt_trichotomy (freeStep f m e + 1) f.qmin with far | edge | large
  · refine iff_of_true ⟨by omega, .inr far⟩ (tiny_of_le mode neg ?_)
    have half : (m * 2 ^ e : ℚ) < 2 ^ ((f.mb : Int) + f.qmin - 1) :=
      high.trans_le (zpow_le_zpow_right₀ one_le_two (by omega))
    rw [zpow_sub_one₀ two_ne_zero, zpow_add₀ two_ne_zero, zpow_natCast] at half
    nlinarith
  · obtain ⟨n, lo, hi, picks, -⟩ := onGrid_picks mode neg m e (freeStep f m e)
    have below := (freeStep_count hm lo hi).2
    have step : (2 : ℚ) ^ freeStep f m e = 2 ^ f.qmin / 2 := by
      rw [← edge, zpow_add_one₀ two_ne_zero, mul_div_cancel_right₀ _ two_ne_zero]
    rw [step] at lo hi picks
    rw [← tiny_below lo hi below picks]
    exact ⟨fun h => h.2.resolve_right (by omega), fun h => ⟨by omega, .inl h⟩⟩
  · refine iff_of_false (fun h => by omega) fun tiny => absurd tiny.lt (not_lt.2 ?_)
    refine le_trans ?_ low
    rw [← zpow_natCast, ← zpow_add₀ two_ne_zero]
    exact zpow_le_zpow_right₀ one_le_two (by omega)

theorem inexactFlags_exact {f : FFmt} {mode : Rnd} {neg : Bool} {m : Nat} {e : Int}
    (h : (onGrid mode neg m e (gridStep f m e)).2 = true) : inexactFlags f mode neg m e = 0 := by
  unfold inexactFlags
  dsimp only
  rw [h, Bool.not_true, Bool.false_and]
  rfl

/-- The flags of a result that does not overflow: inexact or not, tiny or not (R136). -/
theorem inexactFlags_eq {f : FFmt} {mode : Rnd} {neg : Bool} {m : Nat} (hm : m ≠ 0) {e : Int} {held : Prop}
    (h : (onGrid mode neg m e (gridStep f m e)).2 = true ↔ held) :
    (held → inexactFlags f mode neg m e = 0) ∧
    (¬ held → Tiny f mode neg (m * 2 ^ e) → inexactFlags f mode neg m e = Fl.nx ||| Fl.uf) ∧
    (¬ held → ¬ Tiny f mode neg (m * 2 ^ e) → inexactFlags f mode neg m e = Fl.nx) := by
  rw [← h, ← tiny_iff mode neg hm]
  refine ⟨inexactFlags_exact, ?_⟩
  unfold inexactFlags
  dsimp only
  rw [← Bool.decide_and]
  generalize (onGrid mode neg m e (gridStep f m e)).2 = r
  refine ⟨fun ne t => ?_, fun ne t => ?_⟩
  · rw [Bool.eq_false_of_not_eq_true ne, decide_eq_true t]
    rfl
  · rw [Bool.eq_false_of_not_eq_true ne, decide_eq_false t]
    rfl

end Sys2Proof.Claim
end

section
/-! Round into a format (O39), the values of codes, exact sums and products, and that a value which a format holds rounds to
itself (O40). -/

namespace Sys2Proof.Claim

open Sys2Proof.Machine

/-- The formats have a mantissa, and the codes above the largest finite value are the special ones. -/
theorem float_shape : ∀ f ∈ floats, 1 ≤ f.mb ∧ (f.ieee = true → f.maxCode < (2 ^ f.eb - 1) * 2 ^ f.mb) ∧
    (f = FFmt.e4m3 → f.maxCode < 0x7F) := by decide

/-- The outcome of an overflow without saturate-finite (R137). -/
theorem overflow_outcome {f : FFmt} (hf : f ∈ floats) (mode : Rnd) (neg : Bool) :
    (if overflowCode f mode neg = 0x7F ∧ f = FFmt.e4m3 then overflowCode f mode neg else withSign f neg (overflowCode f mode neg)) =
      if mode = .rne ∨ (mode = .rdn ∧ neg = true) ∨ (mode = .rup ∧ neg = false) then
        (if f = FFmt.e4m3 then 0x7F
          else if f = FFmt.e2m1 then (if neg then 0xF else 0x7)
          else (if neg then f.signBit else 0) + (2 ^ f.eb - 1) * 2 ^ f.mb)
      else if neg then f.signBit + f.maxCode else f.maxCode := by
  revert f neg
  cases mode <;> decide +kernel

/-- Round of a finite number that is not zero, in R136's and R137's words. -/
theorem roundTo_rounds {f : FFmt} (hf : f ∈ floats) (mode : Rnd) (sat neg : Bool) {m : Nat} (hm : m ≠ 0) (e : Int) :
    Rounds f mode sat neg (m * (2 : ℚ) ^ e) (roundTo f mode sat (.fin neg m e)) := by
  obtain ⟨mb, -⟩ := float_shape f hf
  obtain ⟨c, lo, hi, picks, held⟩ := gridCode_picks mb mode neg hm e
  obtain ⟨noFlag, tiny, large⟩ := inexactFlags_eq (mode := mode) (neg := neg) hm held
  refine ⟨c, gridCode f mode neg m e, lo, hi, picks, fun fits => ?_, fun big s => ?_, fun big s => ?_⟩
  · rw [roundTo_fin, if_neg fits.not_gt]
    exact ⟨rfl, noFlag, tiny, large⟩
  · rw [roundTo_fin, if_pos big, if_pos s]
    rfl
  · rw [roundTo_fin, if_pos big, if_neg (by simp [s]), overflow_outcome hf]
    refine ⟨rfl, ?_⟩
    split_ifs <;> rfl

/-! Codes. -/

/-- The code of a finite value has neither the exponent nor the mantissa of a special one. -/
theorem special_codes {f : FFmt} (hf : f ∈ floats) {k : Nat} (fits : k ≤ f.maxCode) :
    (f.ieee && k / 2 ^ f.mb == 2 ^ f.eb - 1) = false ∧ (f == FFmt.e4m3 && k == 0x7F) = false := by
  obtain ⟨-, ieee, e4m3⟩ := float_shape f hf
  constructor
  · refine Bool.eq_false_of_not_eq_true fun h => ?_
    rw [Bool.and_eq_true, beq_iff_eq] at h
    have below := Nat.div_lt_of_lt_mul (fits.trans_lt (mul_comm _ (2 ^ f.mb) ▸ ieee h.1))
    exact below.ne h.2
  · refine Bool.eq_false_of_not_eq_true fun h => ?_
    rw [Bool.and_eq_true, beq_iff_eq, beq_iff_eq] at h
    exact (fits.trans_lt (e4m3 h.1)).ne h.2

/-- A code of a finite value, by its fields. -/
theorem decode_finite {f : FFmt} (hf : f ∈ floats) {c : Nat} (fits : c % f.signBit ≤ f.maxCode) :
    f.decode c =
      let neg := c / f.signBit % 2 == 1
      let k := c % f.signBit
      if k = 0 then .zero neg
      else if k / 2 ^ f.mb = 0 then .fin neg (k % 2 ^ f.mb) f.qmin
      else .fin neg (2 ^ f.mb + k % 2 ^ f.mb) (f.qmin + (k / 2 ^ f.mb : Nat) - 1) := by
  obtain ⟨notSpecial, notNan⟩ := special_codes hf fits
  unfold FFmt.decode
  dsimp only
  rw [notSpecial, notNan]
  rfl

theorem two_pow_width (f : FFmt) : 2 ^ f.width = 2 * f.signBit := by
  rw [FFmt.signBit, ← pow_succ', FFmt.width, Nat.add_assoc, Nat.add_comm]

/-- The sign of a code is its top bit. -/
theorem signOf_code {f : FFmt} {c : Nat} (h : c < 2 ^ f.width) : (c / f.signBit % 2 == 1) = decide (f.signBit ≤ c) := by
  have pos : 0 < f.signBit := Nat.two_pow_pos _
  rw [two_pow_width] at h
  rcases lt_or_ge c f.signBit with low | high
  · rw [Nat.div_eq_of_lt low, decide_eq_false low.not_ge]
    rfl
  · rw [Nat.div_eq_of_lt_le (k := 1) (by omega) (by omega), decide_eq_true high]
    rfl

/-- The value of a code (R133): finite, of the code's sign, and of the magnitude of its fields. -/
theorem decode_value {f : FFmt} (hf : f ∈ floats) {c : Nat} (h : c < 2 ^ f.width) (fits : c % f.signBit ≤ f.maxCode) :
    Finite (f.decode c) ∧ (f.decode c).sign = decide (f.signBit ≤ c) ∧
      valQ (f.decode c) = (if f.signBit ≤ c then -1 else 1) * codeMag f (c % f.signBit) := by
  rw [decode_finite hf fits, signOf_code h]
  generalize c % f.signBit = k
  rw [show (if f.signBit ≤ c then -1 else 1 : ℚ) = if decide (f.signBit ≤ c) = true then -1 else 1 by simp]
  generalize decide (f.signBit ≤ c) = neg
  dsimp only
  by_cases zero : k = 0
  · rw [if_pos zero, zero]
    exact ⟨trivial, rfl, by simp [valQ, codeMag]⟩
  rw [if_neg zero, codeMag]
  by_cases sub : k / 2 ^ f.mb = 0
  · rw [if_pos sub, if_pos sub]
    refine ⟨fun none => zero ?_, rfl, rfl⟩
    rw [← Nat.div_add_mod k (2 ^ f.mb), sub, none, Nat.mul_zero]
  · rw [if_neg sub, if_neg sub]
    refine ⟨(Nat.add_pos_left (Nat.two_pow_pos _) _).ne', rfl, ?_⟩
    rw [valQ, show f.qmin + (k / 2 ^ f.mb : Nat) - 1 = (k / 2 ^ f.mb : Nat) - f.bias - f.mb by unfold FFmt.qmin; ring]

/-! Exact sums and products. -/

/-- A number over a grid that divides its own. -/
theorem scaled_value (neg : Bool) (m : Nat) {e q : Int} (h : q ≤ e) :
    (Val.scaled neg m e q : ℚ) * 2 ^ q = valQ (.fin neg m e) := by
  obtain ⟨k, rfl⟩ := Int.le.dest h
  have grid : (2 : ℚ) ^ (q + k) = 2 ^ k * 2 ^ q := by rw [add_comm, zpow_add₀ two_ne_zero, zpow_natCast]
  rw [Val.scaled, shl, add_sub_cancel_left, Int.toNat_natCast, valQ, grid]
  cases neg <;> push_cast <;> simp <;> ring

/-- A number of grid steps as a value: zero in the sign of its mode, or finite and exact. -/
theorem ofScaled_value (mode : Rnd) (i q : Int) :
    Finite (Val.ofScaled mode i q) ∧ valQ (Val.ofScaled mode i q) = i * 2 ^ q ∧
      (i = 0 → Val.ofScaled mode i q = .zero (mode == .rdn)) := by
  match i with
  | .ofNat 0 => exact ⟨trivial, by simp [valQ, Val.ofScaled], fun _ => rfl⟩
  | .ofNat (n + 1) =>
    refine ⟨n.succ_ne_zero, ?_, fun h => nomatch h⟩
    show valQ (.fin false (n + 1) q) = _
    simp [valQ]
  | .negSucc n =>
    refine ⟨n.succ_ne_zero, ?_, fun h => nomatch h⟩
    simp [valQ, Val.ofScaled, Int.negSucc_eq]
    ring

theorem valQ_fin_ne_zero {neg : Bool} {m : Nat} (hm : m ≠ 0) (e : Int) : valQ (.fin neg m e) ≠ 0 := by
  have m0 : (m : ℚ) ≠ 0 := Nat.cast_ne_zero.2 hm
  have e0 : (2 : ℚ) ^ e ≠ 0 := zpow_ne_zero e two_ne_zero
  cases neg <;> simp [valQ, m0, e0]

/-- A sum of finite values is exact; an exact zero is −0 only of two −0 or in RDN (R135). -/
theorem add_finite (mode : Rnd) {x y : Val} (hx : Finite x) (hy : Finite y) : let a := Val.add mode x y
    Finite a.1 ∧ a.2 = 0 ∧ valQ a.1 = valQ x + valQ y ∧
      (valQ x + valQ y = 0 → a.1 = .zero (if valQ x = 0 ∧ x.sign = y.sign then x.sign else mode == .rdn)) := by
  match x, y, hx, hy with
  | .zero a, .zero b, _, _ => exact ⟨trivial, rfl, (add_zero 0).symm, fun _ => by simp [Val.add, valQ, Val.sign]⟩
  | .zero a, .fin b n f, _, hn =>
    exact ⟨hn, rfl, (zero_add _).symm, fun h => absurd ((zero_add _).symm.trans h) (valQ_fin_ne_zero hn f)⟩
  | .fin a m e, .zero b, hm, _ =>
    exact ⟨hm, rfl, (add_zero _).symm, fun h => absurd ((add_zero _).symm.trans h) (valQ_fin_ne_zero hm e)⟩
  | .fin a m e, .fin b n f, hm, hn =>
    obtain ⟨q, hq, qe, qf⟩ : ∃ q, (if e < f then e else f) = q ∧ q ≤ e ∧ q ≤ f :=
      ⟨_, rfl, by split_ifs <;> omega, by split_ifs <;> omega⟩
    obtain ⟨finite, value, zero⟩ := ofScaled_value mode (Val.scaled a m e q + Val.scaled b n f q) q
    have sum : valQ (.fin a m e) + valQ (.fin b n f) = ((Val.scaled a m e q + Val.scaled b n f q : Int) : ℚ) * 2 ^ q := by
      rw [← scaled_value a m qe, ← scaled_value b n qf]
      push_cast
      ring
    have here : Val.add mode (.fin a m e) (.fin b n f) =
        (Val.ofScaled mode (Val.scaled a m e q + Val.scaled b n f q) q, 0) := by rw [← hq]; rfl
    dsimp only
    rw [here, sum]
    refine ⟨finite, rfl, value, fun h => ?_⟩
    rw [if_neg fun h => valQ_fin_ne_zero hm e h.1]
    exact zero (by exact_mod_cast (mul_eq_zero.1 h).resolve_right (zpow_ne_zero q two_ne_zero))

/-- A product of finite values is exact, of the sign that theirs give. -/
theorem mul_finite {x y : Val} (hx : Finite x) (hy : Finite y) : let p := Val.mul x y
    Finite p.1 ∧ p.2 = 0 ∧ valQ p.1 = valQ x * valQ y ∧ p.1.sign = (x.sign != y.sign) := by
  match x, y, hx, hy with
  | .zero a, .zero b, _, _ => exact ⟨trivial, rfl, (zero_mul _).symm, rfl⟩
  | .zero a, .fin b n f, _, _ => exact ⟨trivial, rfl, (zero_mul _).symm, rfl⟩
  | .fin a m e, .zero b, _, _ => exact ⟨trivial, rfl, (mul_zero _).symm, rfl⟩
  | .fin a m e, .fin b n f, hm, hn =>
    refine ⟨mul_ne_zero hm hn, rfl, ?_, rfl⟩
    have exponent : (2 : ℚ) ^ (e + f) = 2 ^ e * 2 ^ f := zpow_add₀ two_ne_zero e f
    cases a <;> cases b <;> simp [Val.mul, valQ, exponent] <;> ring

/-- Round of what is no number, and of zeros (R138). -/
theorem roundTo_special {f : FFmt} (hf : f ∈ floats) (mode : Rnd) (sat neg : Bool) :
    roundTo f mode sat (.zero neg) = (if neg then f.signBit else 0, 0) ∧
    roundTo f mode sat .nan = (if f = FFmt.e2m1 then (0, Fl.nv) else (f.nanCode, 0)) ∧
    roundTo f mode sat (.inf neg) =
      (if f = FFmt.e2m1 then ((if neg then 0xF else 0x7), if sat then Fl.satf else Fl.nv)
      else if f = FFmt.e4m3 then (if sat then ((if neg then 0xFE else 0x7E), Fl.satf) else (0x7F, Fl.nv))
      else ((if neg then f.signBit else 0) + (2 ^ f.eb - 1) * 2 ^ f.mb, 0)) := by
  revert f
  cases mode <;> revert sat neg <;> decide +kernel

/-- Settles O39: the neighbour that a mode names by the count of grid steps (`gridCode_picks`), tininess by the binade below the smallest
normal number (`tiny_below`). -/
theorem roundingRule : Obligations.RoundingRule :=
  ⟨fun _ hf mode sat neg _ e hm => roundTo_rounds hf mode sat neg hm e, fun _ hf mode sat neg => roundTo_special hf mode sat neg,
    fun _ hf _ h fits => decode_value hf h fits,
    fun mode _ _ hx hy =>
      let ⟨finite, noFlag, value, zero⟩ := add_finite mode hx hy
      ⟨finite, noFlag, value, zero, mul_finite hx hy⟩,
    fun _ _ _ _ => rfl⟩

/-! A value that a format holds. -/

/-- A code by its sign and magnitude. -/
theorem withSign_code {f : FFmt} {c : Nat} (h : c < 2 ^ f.width) : withSign f (c / f.signBit % 2 == 1) (c % f.signBit) = c := by
  rw [signOf_code h, withSign]
  rw [two_pow_width] at h
  rcases lt_or_ge c f.signBit with low | high
  · rw [decide_eq_false low.not_ge, Nat.mod_eq_of_lt low]
    rfl
  · rw [decide_eq_true high, if_pos rfl, Nat.mod_eq_sub_mod high, Nat.mod_eq_of_lt (by omega)]
    omega

/-- A number that its own grid holds rounds to its place there, exactly. -/
theorem roundTo_on_grid {f : FFmt} (mode : Rnd) (sat neg : Bool) {m : Nat} {e : Int} (grid : gridStep f m e = e)
    (fits : (e - f.qmin).toNat * 2 ^ f.mb + m ≤ f.maxCode) :
    roundTo f mode sat (.fin neg m e) = (withSign f neg ((e - f.qmin).toNat * 2 ^ f.mb + m), 0) := by
  have here : onGrid mode neg m e e = (m, true) := by simp [onGrid, shl]
  have code : gridCode f mode neg m e = (e - f.qmin).toNat * 2 ^ f.mb + m := by rw [gridCode, grid, here]
  rw [roundTo_fin, code, if_neg fits.not_gt, inexactFlags_exact]
  rw [grid, here]

theorem gridStep_subnormal {f : FFmt} {m : Nat} (m0 : m ≠ 0) (hm : m < 2 ^ f.mb) : gridStep f m f.qmin = f.qmin := by
  have : log2Nat m < f.mb := (Nat.log2_lt m0).2 hm
  exact if_pos (by unfold freeStep; omega)

theorem gridStep_normal {f : FFmt} {m : Nat} (hm : m < 2 ^ f.mb) {e : Int} (he : f.qmin ≤ e) : gridStep f (2 ^ f.mb + m) e = e := by
  have lg : log2Nat (2 ^ f.mb + m) = f.mb :=
    (Nat.log2_eq_iff (Nat.add_pos_left (Nat.two_pow_pos _) _).ne').2 ⟨Nat.le_add_right _ _, by rw [pow_succ]; omega⟩
  have free : freeStep f (2 ^ f.mb + m) e = e := by
    rw [freeStep, lg]
    ring
  rw [gridStep, free, if_neg he.not_gt]

/-- A code of a finite value rounds to itself. -/
theorem roundTo_decode_finite {f : FFmt} (hf : f ∈ floats) (mode : Rnd) (sat : Bool) {c : Nat} (h : c < 2 ^ f.width)
    (fits : c % f.signBit ≤ f.maxCode) : roundTo f mode sat (f.decode c) = (c, 0) := by
  rw [decode_finite hf fits]
  have parts := withSign_code h
  have pos : 0 < 2 ^ f.mb := Nat.two_pow_pos _
  generalize c % f.signBit = k at *
  have fields := Nat.div_add_mod' k (2 ^ f.mb)
  have low := Nat.mod_lt k pos
  dsimp only
  generalize k / 2 ^ f.mb = d at *
  split_ifs with zero sub
  · rw [zero] at parts
    exact congrArg (·, 0) parts
  · rw [sub, Nat.zero_mul, Nat.zero_add] at fields
    rw [fields] at low ⊢
    have place : (f.qmin - f.qmin).toNat * 2 ^ f.mb + k = k := by simp
    rw [roundTo_on_grid mode sat _ (gridStep_subnormal zero low) (by rwa [place]), place, parts]
  · have place : (f.qmin + d - 1 - f.qmin).toNat * 2 ^ f.mb + (2 ^ f.mb + k % 2 ^ f.mb) = k := by
      rw [← Nat.add_assoc, ← Nat.succ_mul, show (f.qmin + d - 1 - f.qmin).toNat.succ = d by omega, fields]
    rw [roundTo_on_grid mode sat _ (gridStep_normal low (by omega)) (by rwa [place]), place, parts]

/-- A code above the largest finite value that is no NaN is an infinity's, in a format that has them. -/
theorem decode_inf {f : FFmt} (ieee : f.ieee = true) (top : f.maxCode + 1 = f.infCode) {c : Nat} (big : f.maxCode < c % f.signBit)
    (number : (f.decode c).isNan = false) : f.decode c = .inf (c / f.signBit % 2 == 1) ∧ c % f.signBit = f.infCode := by
  have below : c % f.signBit < (2 ^ f.eb - 1 + 1) * 2 ^ f.mb := by
    rw [Nat.sub_add_cancel Nat.one_le_two_pow, ← pow_add]
    exact Nat.mod_lt _ (Nat.two_pow_pos _)
  have exponent : c % f.signBit / 2 ^ f.mb = 2 ^ f.eb - 1 :=
    Nat.div_eq_of_lt_le (by rw [FFmt.infCode] at top; omega) below
  have fields := Nat.div_add_mod' (c % f.signBit) (2 ^ f.mb)
  have special : f.decode c = if c % f.signBit % 2 ^ f.mb = 0 then .inf (c / f.signBit % 2 == 1) else .nan := by
    unfold FFmt.decode
    simp [ieee, exponent]
  rw [special] at number ⊢
  split_ifs at * with zero
  · exact ⟨rfl, by rw [← fields, exponent, zero]; rfl⟩
  · exact nomatch number

/-- The formats with infinities have that of a sign right above the largest finite value. -/
theorem ieee_shape : ∀ f ∈ [FFmt.fp32, FFmt.fp16, FFmt.bf16, FFmt.e5m2],
    f ∈ floats ∧ f.ieee = true ∧ f.maxCode + 1 = f.infCode := by decide

/-- Settles O40: finite codes lie on their own grid (`roundTo_on_grid`), the others are infinities. -/
theorem roundingExact : Obligations.RoundingExact := by
  intro f hf mode sat c h number
  obtain ⟨member, ieee, top⟩ := ieee_shape f hf
  rcases le_or_gt (c % f.signBit) f.maxCode with fits | big
  · exact roundTo_decode_finite member mode sat h fits
  · obtain ⟨value, code⟩ := decode_inf ieee top big number
    have parts := withSign_code h
    rw [code] at parts
    rw [value, roundTo, if_pos ieee, parts]

end Sys2Proof.Claim
end

section
/-! The vector float group (O38): lanes under a mask, the shapes of vector instructions, and each member's result. -/

namespace Sys2Proof.Claim

open Sys2Proof.Machine

/-! Lanes under a mask. -/

/-- The flags gathered from a list are those of its members. -/
theorem foldl_flags {β : Type} (l : List β) (f : β → Flags) (z : Flags) (j : Nat) :
    (l.foldl (fun a x => a ||| f x) z).getLsbD j = true ↔ z.getLsbD j = true ∨ ∃ x ∈ l, (f x).getLsbD j = true := by
  induction l generalizing z with
  | nil => simp
  | cons x l ih =>
    rw [List.foldl_cons, ih, BitVec.getLsbD_or, Bool.or_eq_true, List.exists_mem_cons_iff, or_assoc]

theorem mapLanes_masked (w : Nat) (mask : W64) (old : V512) (f : Nat → Nat × Flags) :
    Masked w mask old (mapLanes w mask old f).1 (fun i => (f i).1) := by
  intro i h
  unfold mapLanes
  dsimp only
  rw [List.map_map, lane_ofLanes (by simpa using Nat.mul_div_le 512 w) (by simpa using h), List.getElem_map, List.getElem_range]
  dsimp only [Function.comp_apply]
  split_ifs
  · rfl
  · exact lane_mod w old i

/-- The flags gathered from lanes under a mask are those of the active lanes. -/
theorem masked_flags {β : Type} (w : Nat) (mask : W64) (f : Nat → β × Flags) (z : Nat → β) :
    FlagsOf w mask (((List.range (512 / w)).map (fun i => if mask.getLsbD i then f i else (z i, 0))).foldl (fun a x => a ||| x.2) 0)
      (fun i => (f i).2) := by
  intro j
  rw [foldl_flags]
  simp only [List.mem_map, List.mem_range, exists_exists_and_eq_and]
  rw [or_iff_right (by simp)]
  refine exists_congr fun i => and_congr_right fun _ => ?_
  split_ifs with m
  · simp [m]
  · simp [m]

theorem mapLanes_flags (w : Nat) (mask : W64) (old : V512) (f : Nat → Nat × Flags) :
    FlagsOf w mask (mapLanes w mask old f).2 (fun i => (f i).2) := masked_flags w mask f (lane w old)

theorem maskLanes_flags (w : Nat) (mask : W64) (f : Nat → Bool × Flags) :
    FlagsOf w mask (maskLanes w mask f).2 (fun i => (f i).2) := masked_flags w mask f (fun _ => false)

/-- A bit of a mask packed from its lanes. -/
theorem packLanes_one_testBit (l : List Nat) (j : Nat) (bits : ∀ x ∈ l, x < 2) : (packLanes 1 l).testBit j = (l.getD j 0 == 1) := by
  rw [Nat.testBit_eq_decide_div_mod_eq]
  rcases lt_or_ge j l.length with h | h
  · have read := packLanes_lane 1 l j h
    rw [Nat.one_mul, pow_one, Nat.mod_eq_of_lt (bits _ (List.getElem_mem h))] at read
    rw [read, List.getD_eq_getElem l 0 h]
    rfl
  · have low := (packLanes_lt 1 l).trans_le (Nat.pow_le_pow_right two_pos (Nat.one_mul l.length ▸ h))
    rw [Nat.div_eq_of_lt low, List.getD_eq_default l 0 h]
    rfl

theorem maskLanes_bits (w : Nat) (mask : W64) (f : Nat → Bool × Flags) {j : Nat} (hj : j < 64) :
    (maskLanes w mask f).1.getLsbD j = (decide (j < 512 / w) && mask.getLsbD j && (f j).1) := by
  unfold maskLanes
  dsimp only
  rw [BitVec.getLsbD_ofNat, decide_eq_true hj, Bool.true_and, packLanes_one_testBit]
  · rcases lt_or_ge j (512 / w) with h | h
    · rw [List.getD_eq_getElem _ _ (by simpa using h)]
      simp only [List.getElem_map, List.getElem_range, decide_eq_true h, Bool.true_and]
      cases mask.getLsbD j
      · rfl
      · rw [if_pos rfl, Bool.true_and]
        cases (f j).1 <;> rfl
    · rw [List.getD_eq_default _ _ (by simpa using h), decide_eq_false h.not_gt]
      rfl
  · intro x hx
    obtain ⟨y, -, rfl⟩ := List.mem_map.1 hx
    split_ifs <;> omega

theorem lane_lt (w : Nat) (x : V512) (i : Nat) : lane w x i < 2 ^ w := Nat.mod_lt _ (Nat.two_pow_pos w)

/-! The shapes of vector instructions complete. -/

section

variable {s t : State} {p : Pops} {i : Instr} {d a b c : Reg} {mk : Fin 8} {w : Nat} {x y z : V512}

theorem vector1_done {f : Rnd → Nat → Nat × Flags} (shape : exec i s = insn (do notOnHart; vector1 w d a mk f) s) (host : NotOnHart s)
    (r : Reads [okV d, okV a] [a] (some d) s p t) (ha : V p a t x) :
    VecDone i s t d mk w (fun j => f t.regs.rm (lane w x j)) := by
  intro o u old ho
  refine ⟨_, _, mapLanes_masked w _ old _, mapLanes_flags w _ old _, fun hu => shape.trans (insn_of_ok ?_)⟩
  refine (run_bind_of_ok (notOnHart_ok host)).trans ?_
  refine (run_bind_of_ok (r.fields (okV d) (by simp))).trans ((run_bind_of_ok (r.fields (okV a) (by simp))).trans ?_)
  refine (run_bind_of_ok r.pops).trans ((run_bind_of_ok ha).trans ?_)
  exact (run_bind_of_ok ho).trans (run_bind_of_ok hu)

theorem vector2_done {f : Rnd → Nat → Nat → Nat × Flags} (shape : exec i s = insn (do notOnHart; vector2 w d a b mk f) s)
    (host : NotOnHart s) (r : Reads [okV d, okV a, okV b] [a, b] (some d) s p t) (ha : V p a t x) (hb : V p b t y) :
    VecDone i s t d mk w (fun j => f t.regs.rm (lane w x j) (lane w y j)) := by
  intro o u old ho
  refine ⟨_, _, mapLanes_masked w _ old _, mapLanes_flags w _ old _, fun hu => shape.trans (insn_of_ok ?_)⟩
  refine (run_bind_of_ok (notOnHart_ok host)).trans ((run_bind_of_ok (r.fields (okV d) (by simp))).trans ?_)
  refine (run_bind_of_ok (r.fields (okV a) (by simp))).trans ((run_bind_of_ok (r.fields (okV b) (by simp))).trans ?_)
  refine (run_bind_of_ok r.pops).trans ((run_bind_of_ok ha).trans ((run_bind_of_ok hb).trans ?_))
  exact (run_bind_of_ok ho).trans (run_bind_of_ok hu)

theorem vector3_done {f : Rnd → Nat → Nat → Nat → Nat × Flags} (shape : exec i s = insn (do notOnHart; vector3 w d a b c mk f) s)
    (host : NotOnHart s) (r : Reads [okV d, okV a, okV b, okV c] [a, b, c] (some d) s p t) (ha : V p a t x) (hb : V p b t y)
    (hc : V p c t z) : VecDone i s t d mk w (fun j => f t.regs.rm (lane w x j) (lane w y j) (lane w z j)) := by
  intro o u old ho
  refine ⟨_, _, mapLanes_masked w _ old _, mapLanes_flags w _ old _, fun hu => shape.trans (insn_of_ok ?_)⟩
  refine (run_bind_of_ok (notOnHart_ok host)).trans ((run_bind_of_ok (r.fields (okV d) (by simp))).trans ?_)
  refine (run_bind_of_ok (r.fields (okV a) (by simp))).trans ((run_bind_of_ok (r.fields (okV b) (by simp))).trans ?_)
  refine (run_bind_of_ok (r.fields (okV c) (by simp))).trans ((run_bind_of_ok r.pops).trans ?_)
  refine (run_bind_of_ok ha).trans ((run_bind_of_ok hb).trans ((run_bind_of_ok hc).trans ?_))
  exact (run_bind_of_ok ho).trans (run_bind_of_ok hu)

theorem compare2_done {f : Nat → Nat → Bool × Flags} (shape : exec i s = insn (do notOnHart; compare2 w d a b mk f) s)
    (host : NotOnHart s) (r : Reads [okM d, okV a, okV b] [a, b] none s p t) (ha : V p a t x) (hb : V p b t y) :
    CmpDone i s t d mk w (fun j => (f (lane w x j) (lane w y j)).1) (fun j => (f (lane w x j) (lane w y j)).2) := by
  intro u
  refine ⟨_, _, fun j hj => maskLanes_bits w _ _ hj, maskLanes_flags w _ _, fun hu => shape.trans (insn_of_ok ?_)⟩
  refine (run_bind_of_ok (notOnHart_ok host)).trans ((run_bind_of_ok (r.fields (okM d) (by simp))).trans ?_)
  refine (run_bind_of_ok (r.fields (okV a) (by simp))).trans ((run_bind_of_ok (r.fields (okV b) (by simp))).trans ?_)
  exact (run_bind_of_ok r.pops).trans ((run_bind_of_ok ha).trans ((run_bind_of_ok hb).trans (run_bind_of_ok hu)))

end

/-! Order of values (R158). -/

/-- What is below another value is a number beside a number, and not above it. -/
theorem lt_true {x y : Val} (h : Val.lt x y = true) : x.isNan = false ∧ y.isNan = false ∧ Val.lt y x = false := by
  match x, y with
  | .nan, _ => exact nomatch h
  | .inf a, .nan | .zero a, .nan | .fin a m e, .nan => cases a <;> exact nomatch h
  | .zero a, .zero b => exact nomatch h
  | .inf a, .inf b => cases a <;> cases b <;> simp_all [Val.lt, Val.isNan]
  | .inf a, .zero b | .inf a, .fin b n f => cases a <;> simp_all [Val.lt, Val.isNan]
  | .zero a, .inf b | .fin a m e, .inf b => cases b <;> simp_all [Val.lt, Val.isNan]
  | .zero a, .fin b n f | .fin a m e, .zero b => simp_all [Val.lt, Val.isNan]
  | .fin a m e, .fin b n f =>
    refine ⟨rfl, rfl, decide_eq_false ?_⟩
    have below := of_decide_eq_true h
    rw [show (if f < e then f else e) = if e < f then e else f by split_ifs <;> omega]
    exact below.not_gt

theorem eq_symm (x y : Val) : Val.eq x y = Val.eq y x := by
  unfold Val.eq
  cases x.isNan <;> cases y.isNan <;> cases Val.lt x y <;> cases Val.lt y x <;> rfl

/-- A comparison by the conditions of R158, with NV for an ordered condition on a NaN. -/
theorem fcond_eq (t : FFmt) (c : FCond) (a b : Nat) : let x := t.decode a
    let y := t.decode b
    fcond t c a b = (condVal c x y, if condNv c && (x.isNan || y.isNan) then Fl.nv else 0) := by
  intro x y
  have le (x y : Val) : (!(x.isNan || y.isNan) && !Val.lt y x) = (Val.lt x y || Val.eq x y) := by
    unfold Val.eq
    cases h : Val.lt x y
    · cases x.isNan <;> cases y.isNan <;> rfl
    · obtain ⟨hx, hy, above⟩ := lt_true h
      rw [hx, hy, above]
      rfl
  cases c with
  | le => exact congrArg (·, _) (le x y)
  | ge =>
    refine congrArg (·, _) (((congrArg (fun b => !b && _) (Bool.or_comm _ _)).trans (le y x)).trans ?_)
    rw [eq_symm]
    rfl
  | ord => exact congrArg (·, _) (Bool.not_or _ _)
  | eq | ne | lt | gt | unord => rfl

/-! The members. -/

/-- The magnitude without its sign, and with the other. -/
theorem neg_eq {f : FFmt} {a : Nat} (h : a < 2 ^ f.width) : Fop.neg f a = (a + 2 ^ (f.eb + f.mb)) % 2 ^ f.width := by
  have pos : 0 < f.signBit := Nat.two_pow_pos _
  rw [two_pow_width] at h ⊢
  rw [Fop.neg, ← FFmt.signBit]
  rcases lt_or_ge a f.signBit with low | high
  · rw [Nat.div_eq_of_lt low, if_neg (by decide), Nat.mod_eq_of_lt (by omega)]
  · rw [Nat.div_eq_of_lt_le (k := 1) (by omega) (by omega), if_pos rfl, Nat.mod_eq_sub_mod (by omega), Nat.mod_eq_of_lt (by omega)]
    omega

/-- Each member of one source is of one shape, with the result of its rule on every code of its format (R157). -/
theorem exec_floatOne_result : ∀ e ∈ floatOne, ∃ op, (∀ f d a mk s, exec (e.1 f d a mk) s = insn (vf1 f d a mk op) s) ∧
    ∀ (f : FFmt) m x, x < 2 ^ f.width → op f m x = e.2 f m x := by
  simp only [floatOne, List.forall_mem_cons, List.not_mem_nil, false_implies, implies_true, and_true]
  refine ⟨?_, ?_, ?_, ?_, ?_, ?_, ?_⟩
  case refine_2 => exact ⟨_, fun _ _ _ _ _ => rfl, fun _ _ _ h => congrArg (·, 0) (neg_eq h)⟩
  all_goals exact ⟨_, fun _ _ _ _ _ => rfl, fun _ _ _ _ => rfl⟩

theorem exec_floatTwo_result : ∀ e ∈ floatTwo, ∀ f d a b mk s, exec (e.1 f d a b mk) s = insn (vf2 f d a b mk e.2) s := by
  simp only [floatTwo, List.forall_mem_cons, List.not_mem_nil, false_implies, implies_true, and_true]
  refine ⟨?_, ?_, ?_, ?_, ?_, ?_⟩ <;> exact fun _ _ _ _ _ _ => rfl

/-- Settles O38: each member has the shape of its number of sources (`vector1_done` to `vector3_done`, `compare2_done`). -/
theorem vectorFloat : Obligations.VectorFloat := by
  refine ⟨?_, ?_, ?_, ?_, ?_⟩
  · intro e he s t p f d a mk x host r ha
    obtain ⟨op, shape, result⟩ := exec_floatOne_result e he
    rw [← funext fun j => result (fltFmt f) t.regs.rm _ (lane_lt _ x j)]
    exact vector1_done (shape f d a mk s) host r ha
  · exact fun e he s t p f d a b mk x y host r ha hb => vector2_done (exec_floatTwo_result e he f d a b mk s) host r ha hb
  · exact fun s t p f d a b c mk x y z host r ha hb hc =>
      ⟨vector3_done (f := Fop.fma (fltFmt f)) rfl host r ha hb hc, vector3_done (f := Fop.fms (fltFmt f)) rfl host r ha hb hc⟩
  · intro s t p f c d a b mk x y host r ha hb
    have done := compare2_done (i := .vcmp f c d a b mk) (f := fcond (fltFmt f) c) rfl host r ha hb
    simp only [fcond_eq] at done
    exact done
  · intro s t u p f d a b mk x y host r ha hb
    refine ⟨_, mapLanes_masked _ _ y (fun j => (lane (fltFmt f).width x j, 0)), fun hu => insn_of_ok ?_⟩
    refine (run_bind_of_ok (notOnHart_ok host)).trans ((run_bind_of_ok (r.fields (okV d) (by simp))).trans ?_)
    refine (run_bind_of_ok (r.fields (okV a) (by simp))).trans ((run_bind_of_ok (r.fields (okV b) (by simp))).trans ?_)
    exact (run_bind_of_ok r.pops).trans ((run_bind_of_ok ha).trans ((run_bind_of_ok hb).trans (run_bind_of_ok hu)))

end Sys2Proof.Claim
end

section
/-! Reductions and scans (O42): the pairwise tree of a floating sum, the runs of the others, and the outputs of a scan. -/

namespace Sys2Proof.Claim

open Sys2Proof.Machine

/-! Signed codes and codes of rounded results. -/

/-- A code of w bits read as signed is the residue nearest zero. -/
theorem toSigned_mod (w : Nat) (n : Int) : toSigned (w + 1) (n % (2 ^ (w + 1) : Nat)).toNat = n.bmod (2 ^ (w + 1)) := by
  rw [toSigned, Int.bmod, Nat.add_sub_cancel, pow_succ']
  have pos : 0 < 2 ^ w := Nat.two_pow_pos w
  generalize 2 ^ w = k at *
  have lt := Int.emod_lt_of_pos n (b := (2 * k : Nat)) (by omega)
  have nonneg := Int.emod_nonneg n (b := (2 * k : Nat)) (by omega)
  generalize n % (2 * k : Nat) = r at *
  split_ifs <;> omega

theorem toSigned_eq_toInt {w c : Nat} (h : c < 2 ^ (w + 1)) : toSigned (w + 1) c = (BitVec.ofNat (w + 1) c).toInt := by
  rw [BitVec.toInt_eq_toNat_bmod, BitVec.toNat_ofNat, Nat.mod_eq_of_lt h, ← toSigned_mod,
    Int.emod_eq_of_lt (Int.natCast_nonneg c) (by exact_mod_cast h), Int.toNat_natCast]

theorem withSign_lt {f : FFmt} (neg : Bool) {k : Nat} (h : k < f.signBit) : withSign f neg k < 2 ^ f.width := by
  rw [two_pow_width, withSign]
  split_ifs <;> omega

/-- The codes that Round can give beside those of finite numbers. -/
theorem special_lt_signBit : ∀ f ∈ floats, 0 < f.signBit ∧ f.maxCode < f.signBit ∧ f.infCode < f.signBit ∧
    f.nanCode < f.signBit ∧ ∀ mode neg, overflowCode f mode neg < f.signBit := by
  intro f hf
  obtain ⟨pos, finite, inf, nan, top⟩ : 0 < f.signBit ∧ f.maxCode < f.signBit ∧ f.infCode < f.signBit ∧ f.nanCode < f.signBit ∧
      (f = FFmt.e4m3 → 0x7F < f.signBit) := by
    revert f
    decide
  refine ⟨pos, finite, inf, nan, fun mode neg => ?_⟩
  unfold overflowCode
  dsimp only
  split_ifs with h1 h2 h3
  · exact finite
  · exact inf
  · exact top (eq_of_beq h3)
  · exact finite

theorem roundTo_lt {f : FFmt} (hf : f ∈ floats) (mode : Rnd) (sat : Bool) (x : Val) : (roundTo f mode sat x).1 < 2 ^ f.width := by
  obtain ⟨pos, finite, inf, nan, big⟩ := special_lt_signBit f hf
  have small {k : Nat} (h : k < f.signBit) : k < 2 ^ f.width := withSign_lt false h
  match x with
  | .nan =>
    unfold roundTo
    dsimp only
    split_ifs
    · exact small pos
    · exact small nan
  | .zero neg => exact withSign_lt neg pos
  | .inf neg =>
    unfold roundTo
    dsimp only
    split_ifs
    · exact withSign_lt neg inf
    · exact withSign_lt neg finite
    · exact small nan
    · exact withSign_lt neg finite
  | .fin neg m e =>
    rw [roundTo_fin]
    split_ifs
    · exact withSign_lt neg finite
    · exact small (big mode neg)
    · exact withSign_lt neg (big mode neg)
    · exact withSign_lt neg (by omega)

/-! One step of a reduction. -/

theorem arithFmt_shape : ∀ {t : Arith} {f : FFmt}, arithFmt t = some f → f ∈ floats ∧ f.width = arithW t := by
  intro t f h
  cases t <;> cases h <;> decide

theorem redStep_eq (op : RedOp) (t : Arith) (rm : Rnd) {a b : Nat} (ha : a < 2 ^ arithW t) (hb : b < 2 ^ arithW t) :
    redStep op t rm a b = step1 op t rm a b := by
  cases t with
  | i32 =>
    have sign {c : Nat} (h : c < 2 ^ 32) : toSigned 32 c = (BitVec.ofNat 32 c).toInt := toSigned_eq_toInt h
    cases op with
    | sum => rfl
    | min | max => simp [redStep, step1, extreme, arithFmt, Vi.slt, sign ha, sign hb]
  | f32 | f16 | bf16 => cases op <;> rfl

theorem redStart_eq (op : RedOp) (t : Arith) : redStart op t = noLane op t := by
  cases op <;> cases t <;> rfl

/-- A step gives a code of its type. -/
theorem step1_lt (op : RedOp) {t : Arith} (rm : Rnd) {a b : Nat} (ha : a < 2 ^ arithW t) (hb : b < 2 ^ arithW t) :
    (step1 op t rm a b).1 < 2 ^ arithW t := by
  cases format : arithFmt t with
  | none =>
    cases op with
    | sum =>
      cases t with
      | i32 => exact Nat.mod_lt _ (by decide)
      | f32 | f16 | bf16 => exact nomatch format
    | min | max =>
      simp only [step1, extreme, format]
      split_ifs <;> assumption
  | some f =>
    obtain ⟨hf, width⟩ := arithFmt_shape format
    cases op with
    | sum =>
      simp only [step1, format, ← width]
      exact roundTo_lt hf _ _ _
    | min | max =>
      have nan : f.nanCode < 2 ^ arithW t := by
        obtain ⟨-, -, -, nan, -⟩ := special_lt_signBit f hf
        rw [← width]
        exact withSign_lt false nan
      simp only [step1, extreme, format, Fop.min, Fop.max]
      split_ifs <;> assumption

theorem noLane_lt (op : RedOp) (t : Arith) : noLane op t < 2 ^ arithW t := by
  cases op <;> cases t <;> decide

/-- No step but a floating sum raises a flag. -/
theorem step1_flags {op : RedOp} {t : Arith} (h : t = .i32 ∨ op ≠ .sum) (rm : Rnd) (a b : Nat) : (step1 op t rm a b).2 = 0 := by
  cases op with
  | sum => 
    obtain rfl : t = .i32 := h.resolve_right (· rfl)
    rfl
  | min | max => cases t <;> rfl

/-! The pairwise tree (R145): its nodes with the flags of the additions below them. -/

/-- A node over two others. -/
def treeNode (f : FFmt) (rm : Rnd) (l r : Option Nat × Flags) : Option Nat × Flags :=
  match l.1, r.1 with
  | some a, some b => (some (Fop.add f rm a b).1, (Fop.add f rm a b).2 ||| l.2 ||| r.2)
  | some a, none => (some a, l.2 ||| r.2)
  | none, b => (b, l.2 ||| r.2)

theorem treeAt_succ (f : FFmt) (rm : Rnd) (mask : W64) (x : V512) (k lo : Nat) :
    treeAt f rm mask x (k + 1) lo = treeNode f rm (treeAt f rm mask x k lo) (treeAt f rm mask x k (lo + 2 ^ k)) := rfl

/-- The level above a level of nodes. -/
def levelUp (f : FFmt) (rm : Rnd) : List (Option Nat × Flags) → List (Option Nat × Flags)
  | l :: r :: rest => treeNode f rm l r :: levelUp f rm rest
  | l => l

/-- The flags of a level. -/
def levelFlags (l : List (Option Nat × Flags)) : Flags := l.foldr (fun n a => n.2 ||| a) 0

theorem levelFlags_cons (n : Option Nat × Flags) (l : List (Option Nat × Flags)) : levelFlags (n :: l) = n.2 ||| levelFlags l := rfl

/-- A round of the model's tree goes up one level, and adds the flags of its additions. -/
theorem pairUp_level (f : FFmt) (rm : Rnd) : ∀ l : List (Option Nat × Flags),
    (pairUp f rm (l.map Prod.fst)).1 = (levelUp f rm l).map Prod.fst ∧
      (pairUp f rm (l.map Prod.fst)).2 ||| levelFlags l = levelFlags (levelUp f rm l)
  | [] => ⟨rfl, BitVec.zero_or⟩
  | [_] => ⟨rfl, BitVec.zero_or⟩
  | (a, p) :: (b, q) :: rest => by
    obtain ⟨values, flags⟩ := pairUp_level f rm rest
    rw [levelUp, levelFlags_cons, levelFlags_cons, levelFlags_cons, ← flags, List.map_cons, List.map_cons, List.map_cons, ← values]
    cases a with
    | none => exact ⟨rfl, by simp only [pairUp, treeNode]; ac_rfl⟩
    | some a =>
      cases b with
      | none | some b => exact ⟨rfl, by simp only [pairUp, treeNode]; ac_rfl⟩

/-- The model's tree from a level on gives the first node left, and the flags from there on. -/
theorem treeSum_level (f : FFmt) (rm : Rnd) (n : Nat) (l : List (Option Nat × Flags)) :
    (treeSum f rm n (l.map Prod.fst)).1 = (((levelUp f rm)^[n] l).head?.elim none Prod.fst).getD 0 ∧
      (treeSum f rm n (l.map Prod.fst)).2 ||| levelFlags l = levelFlags ((levelUp f rm)^[n] l) := by
  induction n generalizing l with
  | zero => exact ⟨by cases l <;> rfl, BitVec.zero_or⟩
  | succ n ih =>
    obtain ⟨values, flags⟩ := pairUp_level f rm l
    obtain ⟨value, rest⟩ := ih (levelUp f rm l)
    rw [Function.iterate_succ_apply, treeSum, values]
    refine ⟨value, ?_⟩
    rw [← rest, ← flags]
    dsimp only
    ac_rfl

/-- The nodes of a level of the tree over the lanes from lo on. -/
def nodes (f : FFmt) (rm : Rnd) (mask : W64) (x : V512) (k lo n : Nat) : List (Option Nat × Flags) :=
  (List.range n).map (fun j => treeAt f rm mask x k (lo + j * 2 ^ k))

theorem levelUp_nodes (f : FFmt) (rm : Rnd) (mask : W64) (x : V512) (k lo n : Nat) :
    levelUp f rm (nodes f rm mask x k lo (2 * n)) = nodes f rm mask x (k + 1) lo n := by
  induction n generalizing lo with
  | zero => rfl
  | succ n ih =>
    have peel (k lo n : Nat) : nodes f rm mask x k lo (n + 1) = treeAt f rm mask x k lo :: nodes f rm mask x k (lo + 2 ^ k) n := by
      rw [nodes, List.range_succ_eq_map, List.map_cons, List.map_map, Nat.zero_mul, nodes]
      refine congrArg (_ :: ·) (List.map_congr_left fun j _ => ?_)
      rw [Function.comp_apply, Nat.succ_eq_add_one]
      congr 1
      ring
    rw [show 2 * (n + 1) = 2 * n + 1 + 1 by ring, peel, peel, peel, levelUp, ← treeAt_succ,
      show lo + 2 ^ k + 2 ^ k = lo + 2 ^ (k + 1) by ring, ih]

theorem levelUp_iterate_nodes (f : FFmt) (rm : Rnd) (mask : W64) (x : V512) (k lo n : Nat) :
    (levelUp f rm)^[n] (nodes f rm mask x k lo (2 ^ n)) = [treeAt f rm mask x (k + n) lo] := by
  induction n generalizing k with
  | zero => simp [nodes]
  | succ n ih => rw [Function.iterate_succ_apply, pow_succ', levelUp_nodes, ih, Nat.add_right_comm, Nat.add_assoc]

/-- The lanes as the leaves, with no flag. -/
theorem leaves_eq (f : FFmt) (rm : Rnd) (mask : W64) (x : V512) (n : Nat) :
    (List.range n).map (fun i => if mask.getLsbD i then some (lane f.width x i) else none) =
      (nodes f rm mask x 0 0 n).map Prod.fst ∧ levelFlags (nodes f rm mask x 0 0 n) = 0 := by
  constructor
  · rw [nodes, List.map_map]
    refine List.map_congr_left fun j _ => ?_
    simp [treeAt]
  · unfold nodes
    generalize List.range n = l
    induction l with
    | nil => rfl
    | cons j l ih => exact (congrArg (_ ||| ·) ih).trans BitVec.zero_or

/-- A floating sum is the root of its tree, which rounds beyond it leave (R145). -/
theorem treeSum_root (f : FFmt) (rm : Rnd) (mask : W64) (x : V512) {n : Nat} (beyond : n = 4 ∨ n = 5) :
    treeSum f rm 5 ((List.range (2 ^ n)).map (fun i => if mask.getLsbD i then some (lane f.width x i) else none)) =
      ((treeAt f rm mask x n 0).1.getD 0, (treeAt f rm mask x n 0).2) := by
  obtain ⟨lanes, noFlag⟩ := leaves_eq f rm mask x (2 ^ n)
  have root : (levelUp f rm)^[5] (nodes f rm mask x 0 0 (2 ^ n)) = [treeAt f rm mask x n 0] := by
    have whole := levelUp_iterate_nodes f rm mask x 0 0 n
    rw [Nat.zero_add] at whole
    rcases beyond with rfl | rfl
    · rw [Function.iterate_succ_apply', whole]
      rfl
    · exact whole
  obtain ⟨value, flags⟩ := treeSum_level f rm 5 (nodes f rm mask x 0 0 (2 ^ n))
  rw [root, noFlag] at flags
  rw [root] at value
  rw [lanes]
  exact Prod.ext value (BitVec.or_zero.symm.trans (flags.trans BitVec.or_zero))

/-! VRED (R163). -/

section

variable {s t u : State} {p : Pops} {op : RedOp} {ty : Arith} {d a : Reg} {mk : Fin 8} {x : V512}

/-- A result as it goes to G(D): an INT32 one sign-extended, a floating one zero-extended. -/
def redWord (ty : Arith) (r : Nat) : W64 := if ty = .i32 then (BitVec.ofNat 32 r).signExtend 64 else BitVec.ofNat 64 r

theorem vred_completes {r : Nat × Flags} (host : NotOnHart s) (h : Reads [okG d, okV a] [a] (some d) s p t) (ha : V p a t x)
    (result : reduce op ty t.regs.rm (t.regs.readM mk) x = r) (w : Gives (writeG d (redWord ty r.1)) (flagged t r.2) () u) :
    exec (.vred op ty d a mk) s = .next u.advance := by
  subst result
  refine insn_of_ok ((run_bind_of_ok (notOnHart_ok host)).trans ((run_bind_of_ok (h.fields (okG d) (by simp))).trans ?_))
  refine (run_bind_of_ok (h.fields (okV a) (by simp))).trans ((run_bind_of_ok h.pops).trans ?_)
  refine (run_bind_of_ok ha).trans ((run_bind_of_ok rfl).trans (run_bind_of_ok (a := ()) (t := u) ?_))
  cases ty <;> exact w

/-- Minimum, maximum and INT32 sums run over the active lanes, and raise no flag. -/
theorem reduce_run (h : ty = .i32 ∨ op ≠ .sum) (rm : Rnd) (mask : W64) :
    reduce op ty rm mask x =
      ((activeLanes (512 / arithW ty) mask).foldl (fun r i => (step1 op ty rm r (lane (arithW ty) x i)).1) (noLane op ty), 0) := by
  have run (l : List Nat) (z : Nat) (hz : z < 2 ^ arithW ty) :
      l.foldl (fun a i => let r := redStep op ty rm a.1 (lane (arithW ty) x i); (r.1, a.2 ||| r.2)) (z, 0) =
        (l.foldl (fun r i => (step1 op ty rm r (lane (arithW ty) x i)).1) z, 0) := by
    induction l generalizing z with
    | nil => rfl
    | cons i l ih =>
      rw [List.foldl_cons, List.foldl_cons, ← ih _ (step1_lt op rm hz (lane_lt _ x i))]
      dsimp only
      rw [redStep_eq op ty rm hz (lane_lt _ x i), step1_flags h]
      rfl
  rw [← run _ _ (noLane_lt op ty), ← redStart_eq]
  cases op with
  | sum =>
    obtain rfl : ty = .i32 := h.resolve_right (· rfl)
    rfl
  | min | max => cases ty <;> rfl

end

/-! VSCAN (R145, R163): the output of a lane by the output of the active lane before it. -/

section

variable {op : RedOp} {ty : Arith} {rm : Rnd} {mask : W64} {x : V512}

/-- What an active lane outputs, by the output of the active lane before it, if there is one. -/
def scanStep (op : RedOp) (ty : Arith) (rm : Rnd) (acc : Option Nat) (v : Nat) : Nat × Flags :=
  match op, acc with
  | .sum, none => (v, 0)
  | _, a => redStep op ty rm (a.getD (redStart op ty)) v

/-- The output of the last active lane below lane i. -/
def scanBefore (op : RedOp) (ty : Arith) (rm : Rnd) (mask : W64) (x : V512) : Nat → Option Nat
  | 0 => none
  | i + 1 =>
    if mask.getLsbD i then some (scanStep op ty rm (scanBefore op ty rm mask x i) (lane (arithW ty) x i)).1
    else scanBefore op ty rm mask x i

/-- What lane i outputs, with its flags. -/
def scanAt (op : RedOp) (ty : Arith) (rm : Rnd) (mask : W64) (x : V512) (i : Nat) : Nat × Flags :=
  if mask.getLsbD i then scanStep op ty rm (scanBefore op ty rm mask x i) (lane (arithW ty) x i) else (lane (arithW ty) x i, 0)

theorem scanFrom_succ (i n : Nat) (acc : Option Nat) : scanFrom op ty rm mask x i acc (n + 1) =
    let v := lane (arithW ty) x i
    if mask.getLsbD i then
      let r := scanStep op ty rm acc v
      let rest := scanFrom op ty rm mask x (i + 1) (some r.1) n
      (r.1 :: rest.1, r.2 ||| rest.2)
    else
      let rest := scanFrom op ty rm mask x (i + 1) acc n
      (v :: rest.1, rest.2) := rfl

/-- The model's scan outputs lane by lane. -/
theorem scanFrom_eq (i n : Nat) : scanFrom op ty rm mask x i (scanBefore op ty rm mask x i) n =
    ((List.range' i n).map (fun j => (scanAt op ty rm mask x j).1),
      ((List.range' i n).map (fun j => (scanAt op ty rm mask x j).2)).foldr (· ||| ·) 0) := by
  induction n generalizing i with
  | zero => rfl
  | succ n ih =>
    have next := ih (i + 1)
    rw [scanBefore] at next
    rw [scanFrom_succ, List.range'_succ, List.map_cons, List.map_cons, List.foldr_cons, scanAt]
    dsimp only
    split_ifs at next ⊢ with active
    · rw [next]
    · rw [next]
      exact congrArg (Prod.mk _) BitVec.zero_or.symm

theorem scanBefore_none {i : Nat} (h : ∀ j, j < i → mask.getLsbD j = false) : scanBefore op ty rm mask x i = none := by
  induction i with
  | zero => rfl
  | succ i ih => rw [scanBefore, h i i.lt_succ_self, if_neg Bool.false_ne_true, ih fun j hj => h j (by omega)]

theorem scanBefore_some {i j : Nat} (ij : i < j) (active : mask.getLsbD i = true)
    (gap : ∀ k, i < k → k < j → mask.getLsbD k = false) :
    scanBefore op ty rm mask x j = some (scanAt op ty rm mask x i).1 := by
  induction j with
  | zero => exact absurd ij (Nat.not_lt_zero i)
  | succ j ih =>
    rcases Nat.lt_succ_iff_lt_or_eq.1 ij with below | rfl
    · rw [scanBefore, gap j below j.lt_succ_self, if_neg Bool.false_ne_true, ih below fun k h1 h2 => gap k h1 (by omega)]
    · rw [scanBefore, scanAt, if_pos active, if_pos active]

/-- The active lane before a lane, if there is one. -/
theorem scanBefore_cases (op : RedOp) (ty : Arith) (rm : Rnd) (mask : W64) (x : V512) (j : Nat) :
    scanBefore op ty rm mask x j = none ∨
      ∃ i, i < j ∧ mask.getLsbD i = true ∧ (∀ k, i < k → k < j → mask.getLsbD k = false) := by
  induction j with
  | zero => exact .inl rfl
  | succ j ih =>
    by_cases active : mask.getLsbD j = true
    · exact .inr ⟨j, j.lt_succ_self, active, fun k h1 h2 => by omega⟩
    · rw [scanBefore, if_neg active]
      refine ih.imp_right fun ⟨i, ij, here, gap⟩ => ⟨i, by omega, here, fun k h1 h2 => ?_⟩
      rcases Nat.lt_succ_iff_lt_or_eq.1 h2 with h2 | rfl
      · exact gap k h1 h2
      · exact Bool.eq_false_of_not_eq_true active

theorem scanStep_some {a v : Nat} (ha : a < 2 ^ arithW ty) (hv : v < 2 ^ arithW ty) :
    scanStep op ty rm (some a) v = step1 op ty rm a v := by
  rw [← redStep_eq op ty rm ha hv]
  cases op <;> rfl

theorem scanStep_none {v : Nat} (hv : v < 2 ^ arithW ty) :
    scanStep op ty rm none v = if op = .sum then (v, 0) else step1 op ty rm (noLane op ty) v := by
  rw [← redStep_eq op ty rm (noLane_lt op ty) hv, ← redStart_eq]
  cases op <;> rfl

theorem scanAt_inactive {i : Nat} (h : mask.getLsbD i = false) : scanAt op ty rm mask x i = (lane (arithW ty) x i, 0) := by
  rw [scanAt, h, if_neg Bool.false_ne_true]

/-- The first active lane. -/
theorem scanAt_first {i : Nat} (active : mask.getLsbD i = true) (first : ∀ j, j < i → mask.getLsbD j = false) :
    scanAt op ty rm mask x i =
      if op = .sum then (lane (arithW ty) x i, 0) else step1 op ty rm (noLane op ty) (lane (arithW ty) x i) := by
  rw [scanAt, if_pos active, scanBefore_none first, scanStep_none (lane_lt _ x i)]

/-- Every output is a code of its type. -/
theorem scanAt_lt (i : Nat) : (scanAt op ty rm mask x i).1 < 2 ^ arithW ty := by
  induction i using Nat.strongRecOn with
  | _ i ih =>
    rcases Bool.eq_false_or_eq_true (mask.getLsbD i) with active | idle
    · rcases scanBefore_cases op ty rm mask x i with none | ⟨j, ji, here, gap⟩
      · rw [scanAt, if_pos active, none, scanStep_none (lane_lt _ x i)]
        split_ifs
        · exact lane_lt _ x i
        · exact step1_lt op rm (noLane_lt op ty) (lane_lt _ x i)
      · rw [scanAt, if_pos active, scanBefore_some ji here gap, scanStep_some (ih j ji) (lane_lt _ x i)]
        exact step1_lt op rm (ih j ji) (lane_lt _ x i)
    · rw [scanAt_inactive idle]
      exact lane_lt _ x i

/-- An active lane after another. -/
theorem scanAt_next {i j : Nat} (ij : i < j) (here : mask.getLsbD i = true) (active : mask.getLsbD j = true)
    (gap : ∀ k, i < k → k < j → mask.getLsbD k = false) :
    scanAt op ty rm mask x j = step1 op ty rm (scanAt op ty rm mask x i).1 (lane (arithW ty) x j) := by
  rw [scanAt, if_pos active, scanBefore_some ij here gap, scanStep_some (scanAt_lt i) (lane_lt _ x j)]

/-- Minimum, maximum and INT32 sums raise no flag. -/
theorem scanAt_flags (h : ty = .i32 ∨ op ≠ .sum) (i : Nat) : (scanAt op ty rm mask x i).2 = 0 := by
  rcases Bool.eq_false_or_eq_true (mask.getLsbD i) with active | idle
  · rcases scanBefore_cases op ty rm mask x i with none | ⟨j, ji, here, gap⟩
    · rw [scanAt, if_pos active, none, scanStep_none (lane_lt _ x i)]
      split_ifs
      · rfl
      · exact step1_flags h rm _ _
    · rw [scanAt_next ji here active gap, step1_flags h]
  · rw [scanAt_inactive idle]

/-- The flags of a sum are those of its additions: of each active lane after another. -/
theorem scanAt_flag_iff (i k : Nat) : (scanAt .sum ty rm mask x i).2.getLsbD k = true ↔
    ∃ j, j < i ∧ mask.getLsbD j = true ∧ mask.getLsbD i = true ∧ (∀ m, j < m → m < i → mask.getLsbD m = false) ∧
      (step1 .sum ty rm (scanAt .sum ty rm mask x j).1 (lane (arithW ty) x i)).2.getLsbD k = true := by
  constructor
  · intro flag
    rcases Bool.eq_false_or_eq_true (mask.getLsbD i) with active | idle
    · rcases scanBefore_cases .sum ty rm mask x i with none | ⟨j, ji, here, gap⟩
      · rw [scanAt, if_pos active, none, scanStep_none (lane_lt _ x i), if_pos rfl] at flag
        simp at flag
      · rw [scanAt_next ji here active gap] at flag
        exact ⟨j, ji, here, active, gap, flag⟩
    · rw [scanAt_inactive idle] at flag
      simp at flag
  · rintro ⟨j, ji, here, active, gap, flag⟩
    rwa [scanAt_next ji here active gap]

/-- VSCAN's vector and flags. -/
def scanResult (op : RedOp) (ty : Arith) (rm : Rnd) (mask : W64) (x : V512) : V512 × Flags :=
  let r := scanFrom op ty rm mask x 0 none (512 / arithW ty)
  (ofLanes (arithW ty) r.1, r.2)

theorem scanResult_lane {i : Nat} (h : i < 512 / arithW ty) :
    lane (arithW ty) (scanResult op ty rm mask x).1 i = (scanAt op ty rm mask x i).1 := by
  have outputs := scanFrom_eq (op := op) (ty := ty) (rm := rm) (mask := mask) (x := x) 0 (512 / arithW ty)
  rw [scanBefore] at outputs
  unfold scanResult
  dsimp only
  rw [outputs, lane_ofLanes (by simpa using Nat.mul_div_le 512 _) (by simpa using h), List.getElem_map, List.getElem_range',
    Nat.zero_add, Nat.one_mul, Nat.mod_eq_of_lt (scanAt_lt i)]

theorem scanResult_flag_iff (k : Nat) : (scanResult op ty rm mask x).2.getLsbD k = true ↔
    ∃ i, i < 512 / arithW ty ∧ (scanAt op ty rm mask x i).2.getLsbD k = true := by
  have outputs := scanFrom_eq (op := op) (ty := ty) (rm := rm) (mask := mask) (x := x) 0 (512 / arithW ty)
  rw [scanBefore] at outputs
  unfold scanResult
  dsimp only
  rw [outputs]
  have gathered (l : List Flags) : (l.foldr (· ||| ·) 0).getLsbD k = true ↔ ∃ f ∈ l, f.getLsbD k = true := by
    induction l with
    | nil => simp
    | cons f l ih => rw [List.foldr_cons, BitVec.getLsbD_or, Bool.or_eq_true, ih, List.exists_mem_cons_iff]
  rw [gathered]
  simp [List.mem_range']

end

/-- A floating sum, by the root of its tree: of 16 lanes or of 32. -/
theorem reduce_sum {ty : Arith} {f : FFmt} (format : arithFmt ty = some f) (rm : Rnd) (mask : W64) (x : V512) :
    reduce .sum ty rm mask x = let root := treeAt f rm mask x (if f.width = 32 then 4 else 5) 0
      (root.1.getD 0, root.2) := by
  obtain ⟨-, width⟩ := arithFmt_shape format
  have lanes : 512 / arithW ty = 2 ^ (if f.width = 32 then 4 else 5) := by
    rw [width]
    cases ty <;> rfl
  have root := treeSum_root f rm mask x (n := if f.width = 32 then 4 else 5) (by split_ifs <;> simp)
  rw [← lanes, width] at root
  unfold reduce
  dsimp only
  rw [format, width]
  exact root

/-- Settles O42: sums by the nodes of the tree (`treeSum_root`), the other reductions by their runs, a scan by each lane's output
(`scanAt_first`, `scanAt_next`). -/
theorem reductions : Obligations.Reductions := by
  constructor
  · intro s t u p op ty d a mk x host r ha
    refine ⟨fun f format sum write => ?_, fun h write => vred_completes host r ha (reduce_run h _ _) write⟩
    subst sum
    exact vred_completes (r := (_, _)) host r ha (reduce_sum format _ _ x) write
  · intro s t u p op ty d a mk x host r ha mask w
    refine ⟨(scanResult op ty t.regs.rm mask x).1, (scanResult op ty t.regs.rm mask x).2, ?_, ?_, ?_, ?_, ?_, fun write => ?_⟩
    · intro i hi idle
      rw [scanResult_lane hi, scanAt_inactive idle]
    · intro i hi active first
      rw [scanResult_lane hi, scanAt_first active first]
      split_ifs
      · rfl
      · exact (Nat.mod_eq_of_lt (step1_lt op _ (noLane_lt op ty) (lane_lt _ x i))).symm
    · intro i j ij hj here active gap
      rw [scanResult_lane hj, scanResult_lane (ij.trans hj), scanAt_next ij here active gap]
      exact (Nat.mod_eq_of_lt (step1_lt op _ (scanAt_lt i) (lane_lt _ x j))).symm
    · intro h
      refine BitVec.eq_of_getLsbD_eq fun k _ => Bool.eq_iff_iff.2 ?_
      rw [scanResult_flag_iff]
      simp [scanAt_flags h.symm]
    · rintro rfl k
      rw [scanResult_flag_iff]
      constructor
      · rintro ⟨j, hj, flag⟩
        obtain ⟨i, ij, here, active, gap, flag⟩ := (scanAt_flag_iff j k).1 flag
        exact ⟨i, j, ij, hj, here, active, gap, by rwa [scanResult_lane (ij.trans hj)]⟩
      · rintro ⟨i, j, ij, hj, here, active, gap, flag⟩
        rw [scanResult_lane (ij.trans hj)] at flag
        exact ⟨j, hj, (scanAt_flag_iff j k).2 ⟨i, ij, here, active, gap, flag⟩⟩
    · refine insn_of_ok ((run_bind_of_ok (notOnHart_ok host)).trans ((run_bind_of_ok (r.fields (okV d) (by simp))).trans ?_))
      refine (run_bind_of_ok (r.fields (okV a) (by simp))).trans ((run_bind_of_ok r.pops).trans ?_)
      exact (run_bind_of_ok ha).trans ((run_bind_of_ok rfl).trans (run_bind_of_ok write))

end Sys2Proof.Claim
end

section
/-! The sum of a K-group (R146): its special values, and its exact sum rounded once. -/

namespace Sys2Proof.Claim

open Sys2Proof.Machine

/-! Values of codes. -/

/-- A value that is none of an unnormalised zero: what a code stands for. -/
def Regular (x : Val) : Prop := x.isNan = true ∨ x.isInf = true ∨ Finite x

theorem decode_regular (f : FFmt) (c : Nat) : Regular (f.decode c) := by
  unfold FFmt.decode
  dsimp only
  split_ifs with h1 h2 h3 h4 h5
  · exact .inr (.inl rfl)
  · exact .inl rfl
  · exact .inl rfl
  · exact .inr (.inr trivial)
  · refine .inr (.inr fun none => h4 ?_)
    rw [← Nat.div_add_mod (c % f.signBit) (2 ^ f.mb), h5, none, Nat.mul_zero]
  · exact .inr (.inr (Nat.add_pos_left (Nat.two_pow_pos _) _).ne')

theorem Finite.notNan {x : Val} (h : Finite x) : x.isNan = false := by
  cases x with
  | nan => exact nomatch h
  | inf s | zero s | fin s m e => rfl

theorem Finite.notInf {x : Val} (h : Finite x) : x.isInf = false := by
  cases x with
  | inf s => exact nomatch h
  | nan | zero s | fin s m e => rfl

theorem Regular.finite {x : Val} (h : Regular x) (number : x.isNan = false) (bounded : x.isInf = false) : Finite x := by
  rcases h with h | h | h
  · exact nomatch number.symm.trans h
  · exact nomatch bounded.symm.trans h
  · exact h

theorem inf_of_isInf {x : Val} (h : x.isInf = true) : x = .inf x.sign := by
  cases x with
  | inf s => rfl
  | nan | zero s | fin s m e => exact nomatch h

theorem zero_of_value {x : Val} (h : Finite x) (zero : valQ x = 0) : x = .zero x.sign := by
  cases x with
  | zero s => rfl
  | fin s m e => exact absurd zero (valQ_fin_ne_zero h e)
  | nan | inf s => exact nomatch h

/-- Round of a finite value into FP32 in RNE: of a zero the zero of its sign, else by R136. -/
theorem roundTo_finite {x : Val} (h : Finite x) :
    (valQ x ≠ 0 → Rounds FFmt.fp32 .rne false (decide (valQ x < 0)) |valQ x| (roundTo FFmt.fp32 .rne false x)) ∧
    (valQ x = 0 → roundTo FFmt.fp32 .rne false x = (if x = .zero true then 0x80000000 else 0, 0)) := by
  cases x with
  | zero s => exact ⟨fun ne => absurd rfl ne, fun _ => by cases s <;> rfl⟩
  | fin s m e =>
    have pos : (0 : ℚ) < m * 2 ^ e := mul_pos (Nat.cast_pos.2 (Nat.pos_of_ne_zero h)) (zpow_pos two_pos e)
    refine ⟨fun _ => ?_, fun zero => absurd zero (valQ_fin_ne_zero h e)⟩
    have rounds := roundTo_rounds (f := FFmt.fp32) (by decide) .rne false s h e
    cases s with
    | false =>
      have value : valQ (.fin false m e) = m * 2 ^ e := one_mul _
      rwa [value, abs_of_pos pos, decide_eq_false pos.not_gt]
    | true =>
      have value : valQ (.fin true m e) = -(m * 2 ^ e) := neg_one_mul _
      rwa [value, abs_neg, abs_of_pos pos, decide_eq_true (neg_neg_of_pos pos)]
  | nan | inf s => exact nomatch h

/-! The terms of a K-group. -/

/-- The model's product of two values under the scale codes of their blocks. -/
def toProd (t : Val × Val × Nat × Nat) : Machine.Prod :=
  { a := t.1, b := t.2.1, scale := t.2.2.1 + t.2.2.2, nan := t.2.2.1 == 255 || t.2.2.2 == 255 }

/-- The exact value of a product under its scales. -/
def prodQ (t : Val × Val × Nat × Nat) : ℚ := valQ t.1 * valQ t.2.1 * (2 : ℚ) ^ ((t.2.2.1 : Int) + t.2.2.2 - 254)

/-- A zero beside an infinity: their product is an invalid operation (R135). -/
def Invalid (a b : Val) : Prop := (a.isZero = true ∧ b.isInf = true) ∨ (a.isInf = true ∧ b.isZero = true)

/-- A product with an infinity and neither a NaN nor a zero is infinite. -/
theorem mul_inf {a b : Val} (na : a.isNan = false) (nb : b.isNan = false) (valid : ¬ Invalid a b)
    (inf : a.isInf = true ∨ b.isInf = true) : (Val.mul a b).1 = .inf (a.sign != b.sign) := by
  unfold Invalid at valid
  cases a <;> cases b <;> simp_all [Val.mul, Val.isNan, Val.isInf, Val.isZero, Val.sign]

theorem shift_finite {x : Val} (h : Finite x) (k : Int) :
    Finite (Mx.shift x k) ∧ valQ (Mx.shift x k) = valQ x * 2 ^ k ∧ (Mx.shift x k = .zero true ↔ x = .zero true) := by
  cases x with
  | zero s => exact ⟨trivial, (zero_mul _).symm, Iff.rfl⟩
  | fin s m e =>
    refine ⟨h, ?_, iff_of_false nofun nofun⟩
    simp only [Mx.shift, valQ, zpow_add₀ (two_ne_zero (α := ℚ))]
    ring
  | nan | inf s => exact nomatch h

theorem isZero_iff {x : Val} : x.isZero = true ↔ x = .zero x.sign := by
  cases x <;> simp [Val.isZero, Val.sign]

theorem mul_negZero {a b : Val} (ha : Finite a) (hb : Finite b) :
    (Val.mul a b).1 = .zero true ↔ (a.isZero || b.isZero) = true ∧ (a.sign != b.sign) = true := by
  cases a with
  | nan | inf s => exact nomatch ha
  | zero s | fin s m e =>
    cases b with
    | nan | inf r => exact nomatch hb
    | zero r | fin r n f => simp [Val.mul, Val.isZero, Val.sign]

/-- A product of finite values, shifted by its scales. -/
theorem term_finite {t : Val × Val × Nat × Nat} (ha : Finite t.1) (hb : Finite t.2.1) :
    Finite (Mx.term (toProd t)) ∧ valQ (Mx.term (toProd t)) = prodQ t ∧
      (Mx.term (toProd t) = .zero true ↔ (t.1.isZero || t.2.1.isZero) = true ∧ (t.1.sign != t.2.1.sign) = true) := by
  obtain ⟨finite, -, value, sign⟩ := mul_finite ha hb
  obtain ⟨shifted, shiftedValue, zero⟩ := shift_finite finite (((t.2.2.1 + t.2.2.2 : Nat) : Int) - 254)
  refine ⟨shifted, ?_, zero.trans ?_⟩
  · rw [prodQ, ← value]
    exact shiftedValue
  · exact mul_negZero ha hb

/-- A sum is −0 only of two −0. -/
theorem add_negZero {x y : Val} (hx : Finite x) (hy : Finite y) :
    (Val.add .rne x y).1 = .zero true ↔ x = .zero true ∧ y = .zero true := by
  obtain ⟨-, -, value, zero⟩ := add_finite .rne hx hy
  constructor
  · intro e
    rw [e] at value
    have sum : valQ x + valQ y = 0 := value.symm
    have outcome := e.symm.trans (zero sum)
    split_ifs at outcome with h
    · obtain ⟨x0, signs⟩ := h
      have negative : x.sign = true := (Val.zero.inj outcome).symm
      have y0 : valQ y = 0 := by rw [← sum, x0, zero_add]
      exact ⟨negative ▸ zero_of_value hx x0, (signs.symm.trans negative) ▸ zero_of_value hy y0⟩
    · exact nomatch Val.zero.inj outcome
  · rintro ⟨rfl, rfl⟩
    rfl

/-- Finite terms added one by one: exactly, and to −0 only where all are −0. -/
theorem sum_finite {l : List Val} (hl : ∀ y ∈ l, Finite y) {x : Val} (hx : Finite x) :
    let s := l.foldl (fun a t => (Val.add .rne a t).1) x
    Finite s ∧ valQ s = valQ x + (l.map valQ).sum ∧ (s = .zero true ↔ x = .zero true ∧ ∀ y ∈ l, y = .zero true) := by
  induction l generalizing x with
  | nil => exact ⟨hx, (add_zero _).symm, by simp⟩
  | cons y l ih =>
    obtain ⟨hy, hl⟩ := List.forall_mem_cons.1 hl
    obtain ⟨finite, -, value, -⟩ := add_finite .rne hx hy
    obtain ⟨sum, sumValue, zero⟩ := ih hl finite
    refine ⟨sum, ?_, ?_⟩
    · rw [List.foldl_cons, sumValue, value, List.map_cons, List.sum_cons, add_assoc]
    · rw [List.foldl_cons, zero, add_negZero hx hy, List.forall_mem_cons, and_assoc]

/-! A K-group. -/

/-- The special values of a group, as the statement counts them. -/
theorem group_special (c : Nat) (ts : List (Val × Val × Nat × Nat)) : let v := FFmt.fp32.decode c
    ((v.isNan || (ts.map toProd).any (fun p => p.a.isNan || p.b.isNan || p.nan)) = true ↔
      v.isNan = true ∨ ∃ t ∈ ts, t.1.isNan = true ∨ t.2.1.isNan = true ∨ t.2.2.1 = 255 ∨ t.2.2.2 = 255) ∧
    ((ts.map toProd).any (fun p => (p.a.isZero && p.b.isInf) || (p.a.isInf && p.b.isZero)) = true ↔
      ∃ t ∈ ts, (t.1.isZero = true ∧ t.2.1.isInf = true) ∨ (t.1.isInf = true ∧ t.2.1.isZero = true)) := by
  simp [toProd, or_assoc]

/-- One of the values that a group sums is an infinity of a sign. -/
def HasInf (c : Nat) (ts : List (Val × Val × Nat × Nat)) (neg : Bool) : Prop :=
  FFmt.fp32.decode c = .inf neg ∨ ∃ t ∈ ts, (t.1.isInf = true ∨ t.2.1.isInf = true) ∧ (t.1.sign != t.2.1.sign) = neg

/-- Two factors of codes, neither a NaN, whose product is no invalid operation. -/
structure Ordinary (t : Val × Val × Nat × Nat) : Prop where
  regular : Regular t.1 ∧ Regular t.2.1
  number : t.1.isNan = false ∧ t.2.1.isNan = false
  valid : ¬ Invalid t.1 t.2.1

/-- A term of ordinary factors is an infinity, or its factors are finite. -/
theorem Ordinary.term {t : Val × Val × Nat × Nat} (h : Ordinary t) :
    ((t.1.isInf = true ∨ t.2.1.isInf = true) ∧ Mx.term (toProd t) = .inf (t.1.sign != t.2.1.sign)) ∨
      (Finite t.1 ∧ Finite t.2.1) := by
  obtain ⟨⟨ra, rb⟩, ⟨na, nb⟩, valid⟩ := h
  by_cases inf : t.1.isInf = true ∨ t.2.1.isInf = true
  · refine .inl ⟨inf, ?_⟩
    unfold Mx.term
    rw [show (toProd t).a = t.1 from rfl, show (toProd t).b = t.2.1 from rfl, mul_inf na nb valid inf]
    rfl
  · rw [not_or, Bool.not_eq_true, Bool.not_eq_true] at inf
    exact .inr ⟨ra.finite na inf.1, rb.finite nb inf.2⟩

/-- The infinities among the values that the model sums. -/
theorem contains_inf_iff {c : Nat} {ts : List (Val × Val × Nat × Nat)} (ordinary : ∀ t ∈ ts, Ordinary t) (neg : Bool) :
    (FFmt.fp32.decode c :: (ts.map toProd).map Mx.term).contains (.inf neg) = true ↔ HasInf c ts neg := by
  rw [List.contains_iff_mem, List.mem_cons, List.map_map, HasInf, eq_comm, List.mem_map]
  refine or_congr_right (exists_congr fun t => and_congr_right fun ht => ?_)
  rw [Function.comp_apply]
  rcases (ordinary t ht).term with ⟨inf, e⟩ | ⟨fa, fb⟩
  · rw [e, Val.inf.injEq]
    exact (and_iff_right inf).symm
  · obtain ⟨finite, -, -⟩ := term_finite (t := t) fa fb
    refine iff_of_false (fun e => ?_) fun h => ?_
    · rw [e] at finite
      exact finite
    · rw [fa.notInf, fb.notInf] at h
      simp at h

/-- The first infinity of a list that has those of one sign only. -/
theorem find_inf {l : List Val} {neg : Bool} (has : l.contains (.inf neg) = true) (other : ¬ l.contains (.inf (!neg)) = true) :
    l.find? Val.isInf = some (.inf neg) := by
  rw [List.contains_iff_mem] at has other
  cases found : l.find? Val.isInf with
  | none => exact absurd rfl (List.find?_eq_none.1 found _ has)
  | some v =>
    have v_inf := inf_of_isInf (List.find?_some found)
    have v_mem := List.mem_of_find?_eq_some found
    rw [v_inf] at v_mem ⊢
    rcases Bool.eq_or_eq_not v.sign neg with e | e
    · rw [e]
    · exact absurd (e ▸ v_mem) other

theorem find_inf_none {l : List Val} (none : ∀ neg, ¬ l.contains (.inf neg) = true) : l.find? Val.isInf = .none := by
  refine List.find?_eq_none.2 fun x hx inf => none x.sign ?_
  rw [List.contains_iff_mem, ← inf_of_isInf inf]
  exact hx

/-- A group of finite values: its exact sum rounded once. -/
theorem group_finite (c : Nat) {ts : List (Val × Val × Nat × Nat)} (hc : Finite (FFmt.fp32.decode c))
    (hts : ∀ t ∈ ts, Finite t.1 ∧ Finite t.2.1) :
    let x : ℚ := valQ (FFmt.fp32.decode c) + (ts.map prodQ).sum
    let out := roundTo FFmt.fp32 .rne false
      (((ts.map toProd).map Mx.term).foldl (fun a t => (Val.add .rne a t).1) (FFmt.fp32.decode c))
    (x ≠ 0 → Rounds FFmt.fp32 .rne false (decide (x < 0)) |x| out) ∧
    (x = 0 → out = (if FFmt.fp32.decode c = .zero true ∧
        ∀ t ∈ ts, (t.1.isZero || t.2.1.isZero) = true ∧ (t.1.sign != t.2.1.sign) = true then 0x80000000 else 0, 0)) := by
  have terms : ∀ y ∈ (ts.map toProd).map Mx.term, Finite y := by
    simp only [List.map_map, List.forall_mem_map]
    exact fun t ht => (term_finite (hts t ht).1 (hts t ht).2).1
  have values : ((ts.map toProd).map Mx.term).map valQ = ts.map prodQ := by
    simp only [List.map_map]
    exact List.map_congr_left fun t ht => (term_finite (hts t ht).1 (hts t ht).2).2.1
  have zeros : (∀ y ∈ (ts.map toProd).map Mx.term, y = .zero true) ↔
      ∀ t ∈ ts, (t.1.isZero || t.2.1.isZero) = true ∧ (t.1.sign != t.2.1.sign) = true := by
    simp only [List.map_map, List.forall_mem_map]
    exact forall₂_congr fun t ht => (term_finite (hts t ht).1 (hts t ht).2).2.2
  obtain ⟨finite, value, zero⟩ := sum_finite terms hc
  obtain ⟨rounds, zeroRounds⟩ := roundTo_finite finite
  rw [values] at value
  rw [zeros] at zero
  simp only [value, zero] at rounds zeroRounds
  exact ⟨rounds, zeroRounds⟩

/-- One K-group rounds as R146 says. -/
theorem group_rounds (c : Nat) {ts : List (Val × Val × Nat × Nat)} (regular : ∀ t ∈ ts, Regular t.1 ∧ Regular t.2.1) :
    GroupRounds c ts (Mx.group c (ts.map toProd)) := by
  obtain ⟨hasNan, hasBad⟩ := group_special c ts
  unfold Mx.group
  dsimp only
  by_cases nan : (FFmt.fp32.decode c).isNan = true ∨
      ∃ t ∈ ts, t.1.isNan = true ∨ t.2.1.isNan = true ∨ t.2.2.1 = 255 ∨ t.2.2.2 = 255
  · rw [if_pos (hasNan.2 nan)]
    exact ⟨fun _ => rfl, fun h => absurd nan h, fun h => absurd nan h, fun h => absurd nan h, fun h => absurd nan h,
      fun h => absurd nan h⟩
  rw [if_neg (mt hasNan.1 nan)]
  refine ⟨fun h => absurd h nan, fun _ bad => by rw [if_pos (hasBad.2 bad)]; rfl, ?_⟩
  have numbers : ∀ t ∈ ts, t.1.isNan = false ∧ t.2.1.isNan = false := fun t ht =>
    ⟨Bool.eq_false_of_not_eq_true fun h => nan (.inr ⟨t, ht, .inl h⟩),
      Bool.eq_false_of_not_eq_true fun h => nan (.inr ⟨t, ht, .inr (.inl h)⟩)⟩
  refine ⟨fun _ valid neg pos => ?_, fun _ valid neg pos => ?_, fun _ valid neg pos => ?_, fun _ valid neg pos => ?_⟩
  all_goals
    rw [if_neg (mt hasBad.1 valid)]
    have ordinary (t) (ht : t ∈ ts) : Ordinary t := ⟨regular t ht, numbers t ht, fun bad => valid ⟨t, ht, bad⟩⟩
    have has := contains_inf_iff (c := c) ordinary
  · rw [if_pos (Bool.and_eq_true_iff.2 ⟨(has false).2 pos, (has true).2 neg⟩)]
    rfl
  · rw [if_neg fun h => pos ((has false).1 (Bool.and_eq_true_iff.1 h).1), find_inf ((has true).2 neg) (mt (has false).1 pos)]
    rfl
  · rw [if_neg fun h => neg ((has true).1 (Bool.and_eq_true_iff.1 h).2), find_inf ((has false).2 pos) (mt (has true).1 neg)]
    rfl
  · have none : ∀ s, ¬ HasInf c ts s := fun s => by cases s <;> assumption
    rw [if_neg fun h => pos ((has false).1 (Bool.and_eq_true_iff.1 h).1), find_inf_none fun s => mt (has s).1 (none s)]
    refine group_finite c ((decode_regular _ c).finite (Bool.eq_false_of_not_eq_true fun h => nan (.inl h)) ?_) fun t ht => ?_
    · exact Bool.eq_false_of_not_eq_true fun h => none _ (.inl (inf_of_isInf h))
    · exact (ordinary t ht).term.resolve_left fun h => none _ (.inr ⟨t, ht, h.1, rfl⟩)

end Sys2Proof.Claim
end

section
/-! Results of matrix commands (O58): operands as the bytes read hold them, what a record supplies, and the groups of each output. -/

namespace Sys2Proof.Claim

open Sys2Proof.Machine

/-! Lists over ranges. -/

theorem mapIdx_range {α β : Type} (n : Nat) (f : Nat → α) (g : Nat → α → β) :
    ((List.range n).map f).mapIdx g = (List.range n).map (fun i => g i (f i)) := by
  refine List.ext_getElem (by simp) fun i h1 h2 => ?_
  simp

theorem zip_range {α β : Type} (n : Nat) (f : Nat → α) (g : Nat → β) :
    ((List.range n).map f).zip ((List.range n).map g) = (List.range n).map (fun i => (f i, g i)) := List.zip_map'

/-- Blocks of one length, one after another. -/
theorem flatMap_blocks {α : Type} (d : α) (g n : Nat) (f : Nat → List α) (h : ∀ b, (f b).length = g) :
    (List.range n).flatMap f = (List.range (n * g)).map (fun i => (f (i / g)).getD (i % g) d) := by
  induction n with
  | zero => simp
  | succ n ih =>
    rw [List.range_succ, List.flatMap_append, ih, Nat.succ_mul, List.range_add, List.map_append, List.map_map,
      List.flatMap_singleton]
    refine congrArg (_ ++ ·) (List.ext_getElem (by simp [h]) fun i h1 h2 => ?_)
    have ig : i < g := by rwa [h] at h1
    have place : (n * g + i) / g = n ∧ (n * g + i) % g = i := by
      rw [mul_comm, Nat.mul_add_div (by omega), Nat.mul_add_mod, Nat.div_eq_of_lt ig, Nat.mod_eq_of_lt ig]
      exact ⟨Nat.add_zero n, rfl⟩
    rw [List.getElem_map, List.getElem_range, Function.comp_apply, place.1, place.2, List.getD_eq_getElem _ _ h1]

/-- A range cut into pieces of one length. -/
theorem pieces_range {α : Type} {g : Nat} (hg : 0 < g) (n fuel : Nat) (h : n ≤ fuel) (f : Nat → α) :
    pieces g fuel ((List.range (g * n)).map f) = (List.range n).map (fun j => (List.range g).map (fun k => f (g * j + k))) := by
  induction n generalizing fuel f with
  | zero => cases fuel <;> simp [pieces]
  | succ n ih =>
    obtain ⟨fuel, rfl⟩ := Nat.exists_eq_add_of_le' (show 1 ≤ fuel by omega)
    have cut : (List.range (g * (n + 1))).map f = (List.range g).map f ++ (List.range (g * n)).map (fun i => f (g + i)) := by
      rw [Nat.mul_succ, Nat.add_comm, List.range_add, List.map_append, List.map_map]
      rfl
    have some_ : ((List.range (g * (n + 1))).map f).isEmpty = false := by
      rw [List.isEmpty_eq_false_iff, ← List.length_pos_iff, List.length_map, List.length_range]
      exact Nat.mul_pos hg n.succ_pos
    have left : ((List.range g).map f).length = g := by simp
    rw [pieces, some_, if_neg Bool.false_ne_true, cut, List.take_left' left, List.drop_left' left, ih fuel (by omega),
      List.range_succ_eq_map, List.map_cons, List.map_map, Nat.mul_zero]
    simp only [Nat.zero_add]
    refine congrArg (_ :: ·) (List.map_congr_left fun j _ => List.map_congr_left fun k _ => ?_)
    congr 1
    rw [Nat.succ_eq_add_one]
    ring

/-! Formats (R253). -/

/-- The codes of formats with an element in floating point. -/
theorem known_cases {code : Nat} (h : fmtKnown code = true) :
    code = 7 ∨ code = 1 ∨ code = 2 ∨ code = 3 ∨ code = 4 ∨ code = 16 ∨ code = 17 ∨ code = 18 ∨ code = 19 := by
  unfold fmtKnown mxElem at h
  rw [Bool.or_eq_true, beq_iff_eq] at h
  rcases h with h | h
  · exact .inl h
  · split at h <;> simp_all

theorem valueOf_eq {code : Nat} (h : fmtKnown code = true) (ne : code ≠ 7) (c : Nat) : valueOf code c = elemVal code c := by
  rcases known_cases h with rfl | rfl | rfl | rfl | rfl | rfl | rfl | rfl | rfl
  · exact absurd rfl ne
  all_goals rfl

theorem elemVal_regular (code c : Nat) : Regular (elemVal code c) := by
  unfold elemVal
  split_ifs <;> exact decode_regular _ c

theorem cmdGroup_eq {fa fb : Nat} (ha : fmtKnown fa = true) (hb : fmtKnown fb = true) : cmdGroup fa fb = kGroup fa fb := by
  have group {code : Nat} (h : fmtKnown code = true) :
      groupOf code = if code = 1 ∨ code = 2 then 8 else if code = 18 then 64 else 16 := by
    rcases known_cases h with rfl | rfl | rfl | rfl | rfl | rfl | rfl | rfl | rfl <;> rfl
  rw [cmdGroup, group ha, group hb]
  exact (min_def _ _).symm

theorem kGroup_pos (fa fb : Nat) : 0 < kGroup fa fb := by
  unfold kGroup
  dsimp only
  split_ifs <;> decide

theorem codes_length {table n : Nat} {l : List Bool} {ds : List Nat} (h : Cx.codes table n l = some ds) : ds.length = n := by
  induction n generalizing l ds with
  | zero =>
    cases h
    rfl
  | succ n ih =>
    rw [Cx.codes] at h
    split at h
    · cases h
    · obtain ⟨rest, hrest, rfl⟩ := Option.map_eq_some_iff.1 h
      rw [List.length_cons, ih hrest]

/-- A decoded CX8 block has its 64 elements. -/
theorem block_length {b : List Byte} {l : List Nat} (h : Cx.block b = .ok l) : l.length = 64 := by
  unfold Cx.block at h
  split at h
  · cases h
  · dsimp only at h
    split_ifs at h
    split at h
    · cases h
    · rename_i ds decoded
      split_ifs at h
      cases h
      rw [List.length_mapIdx, codes_length decoded]

/-! Operands as the bytes read hold them (R254, R255). -/

/-- The elements of a CX8 block, zeros where it does not decode. -/
def blockCodes (b : List Byte) : List Nat :=
  match Cx.block b with
  | .ok l => l
  | _ => List.replicate 64 0

theorem blockCodes_length (b : List Byte) : (blockCodes b).length = 64 := by
  unfold blockCodes
  split
  · exact block_length ‹_›
  · exact List.length_replicate

theorem blockCodes_getD (b : List Byte) (i : Nat) : (blockCodes b).getD i 0 =
    match Cx.block b with
    | .ok l => l.getD i 0
    | _ => 0 := by
  unfold blockCodes
  cases Cx.block b with
  | ok l => rfl
  | short | bad =>
    dsimp only
    rw [List.getD_eq_getElem?_getD, List.getElem?_replicate]
    split_ifs <;> rfl

/-- The bytes of an element of a format that packs no two elements into one. -/
theorem elementBytes_eq (fl : List Flit) (o row i : Nat) {code : Nat} (known : fmtKnown code = true) (n18 : code ≠ 18) :
    bytesNat (flitBytes fl o (row + i * (elemBits code / 8)) (elemBits code / 8)) =
      if code = 1 ∨ code = 2 then (flitByte fl o (row + 2 * i)).toNat + 256 * (flitByte fl o (row + 2 * i + 1)).toNat
      else (flitByte fl o (row + i)).toNat := by
  have wide : bytesNat (flitBytes fl o (row + i * 2) 2) =
      (flitByte fl o (row + 2 * i)).toNat + 256 * (flitByte fl o (row + 2 * i + 1)).toNat := by
    rw [mul_comm i 2]
    rfl
  have narrow : bytesNat (flitBytes fl o (row + i * 1) 1) = (flitByte fl o (row + i)).toNat := by
    rw [mul_one]
    rfl
  rcases known_cases known with rfl | rfl | rfl | rfl | rfl | rfl | rfl | rfl | rfl
  case inr.inl | inr.inr.inl => exact wide
  case inr.inr.inr.inr.inr.inr.inr.inl => exact absurd rfl n18
  all_goals exact narrow

theorem rowCodes_eq (fl : List Flit) (o : Nat) (f h scl : W64) (rows : Nat) {k : Nat} (known : fmtKnown (fmtCode f) = true)
    (whole : fmtCode f = 19 → k % 64 = 0) : rowCodes fl o f h scl rows k =
      (List.range rows).map (fun r => (List.range k).map (fun i => panelCode fl o f h scl r i)) := by
  refine List.map_congr_left fun r _ => ?_
  unfold panelCode
  rw [show fld f 0 8 = fmtCode f from rfl, show fld f 16 16 = fmtPitch f from rfl]
  dsimp only
  by_cases c19 : fmtCode f = 19
  · rw [if_pos c19]
    refine (flatMap_blocks 0 64 (k / 64) (fun b => blockCodes (flitBytes fl (6 + o) (cxStart fl o f h scl r b) 97))
      fun b => blockCodes_length _).trans ?_
    rw [Nat.div_mul_cancel (Nat.dvd_of_mod_eq_zero (whole c19))]
    refine List.map_congr_left fun i _ => ?_
    rw [if_pos c19, blockCodes_getD]
    rfl
  rw [if_neg c19]
  by_cases c18 : fmtCode f = 18
  · rw [if_pos c18]
    refine List.map_congr_left fun i _ => ?_
    rw [if_neg c19, if_pos c18]
  · rw [if_neg c18]
    refine List.map_congr_left fun i _ => ?_
    rw [if_neg c19, if_neg c18, elementBytes_eq fl o _ i known c18]

theorem rowScales_eq (fl : List Flit) (o : Nat) (f scl : W64) (r k : Nat) :
    rowScales fl o f scl r (k / 32) = panelScale fl o f scl r k := by
  unfold rowScales panelScale isMx
  rw [show fld f 0 8 = fmtCode f from rfl, show fld f 16 16 = fmtPitch f from rfl]
  generalize fmtCode f = code
  by_cases c18 : code = 18
  · subst c18
    rfl
  · simp [c18]

/-! What a record supplies (R267, R271). -/

/-- The values that a record holds at a row, with their positions: those of its terms, then its residual entries. -/
def recordRow (c : MCmd) (fl : List Flit) (i : Nat) : List (Nat × Val) :=
  (List.range c.terms).flatMap (fun t => (List.range (c.k / (Rec.nm c.pat).2)).flatMap (fun g =>
    (c.termGroup fl t i g).map (fun e => (e.1, valueOf (fmtCode c.fa) e.2)))) ++
  ((c.residuals fl).filter (fun e => fld e 0 5 == i)).map (fun e => (fld e 16 11, FFmt.fp32.decode (fld e 32 32)))

/-- A record's pattern: M is a power of two, and a group has a value. -/
theorem pattern_eq (pat : Nat) : 2 ^ Rec.log2M pat = (Rec.nm pat).2 ∧ 0 < (Rec.nm pat).1 := by
  match pat with
  | 0 | 1 | 2 => decide
  | n + 3 => exact ⟨by rw [Rec.log2M, if_neg (by omega)]; rfl, Nat.one_pos⟩

/-- Value v of row i of a term with its position: the indices of all groups stand one after another. -/
def termEntry (c : MCmd) (fl : List Flit) (t i v : Nat) : Nat × Val :=
  let base := c.a.toNat + 64 + t * Rec.size c.pat c.k c.eb
  let idx := bytesNat (flitBytes fl 5 (base + Rec.vb c.pat c.k c.eb + i * Rec.rm c.pat c.k) (Rec.rm c.pat c.k))
  ((Rec.nm c.pat).2 * (v / (Rec.nm c.pat).1) + idx / 2 ^ (Rec.log2M c.pat * v) % (Rec.nm c.pat).2,
    elemVal (fmtCode c.fa) (bytesNat (flitBytes fl 5 (base + i * Rec.rv c.pat c.k c.eb + v * c.eb) c.eb)))

/-- The formats of a record's values. -/
theorem recordFormat {code : Nat} (h : 1 ≤ code ∧ code ≤ 4) :
    fmtKnown code = true ∧ code ≠ 7 ∧ elemBits code / 8 = if code = 1 ∨ code = 2 then 2 else 1 := by
  obtain ⟨low, high⟩ := h
  interval_cases code <;> decide

theorem termRow_eq (c : MCmd) (fl : List Flit) (t i : Nat) (floating : 1 ≤ fmtCode c.fa ∧ fmtCode c.fa ≤ 4) :
    (List.range (c.k / (Rec.nm c.pat).2)).flatMap (fun g => (c.termGroup fl t i g).map (fun e => (e.1, valueOf (fmtCode c.fa) e.2))) =
      (List.range ((Rec.nm c.pat).1 * (c.k / (Rec.nm c.pat).2))).map (termEntry c fl t i) := by
  obtain ⟨known, notInt, -⟩ := recordFormat floating
  obtain ⟨power, pos⟩ := pattern_eq c.pat
  rw [flatMap_blocks (0, .nan) (Rec.nm c.pat).1 _ _ (fun g => by simp [MCmd.termGroup]), mul_comm]
  refine List.map_congr_left fun v _ => ?_
  have place : v % (Rec.nm c.pat).1 < (Rec.nm c.pat).1 := Nat.mod_lt v pos
  have index : Rec.f c.pat * (v / (Rec.nm c.pat).1) + v % (Rec.nm c.pat).1 * Rec.log2M c.pat = Rec.log2M c.pat * v := by
    conv_rhs => rw [← Nat.div_add_mod v (Rec.nm c.pat).1]
    rw [Rec.f]
    ring
  rw [List.getD_eq_getElem _ _ (by simpa [MCmd.termGroup] using place)]
  unfold MCmd.termGroup termEntry
  simp only [List.getElem_map, List.getElem_range, index, power, Nat.div_add_mod, valueOf_eq known notInt]

/-- What a record supplies at a position, by its row. -/
theorem recordRow_supplied (c : MCmd) (fl : List Flit) (i k : Nat) (floating : 1 ≤ fmtCode c.fa ∧ fmtCode c.fa ≤ 4) :
    ((recordRow c fl i).filter (fun e => e.1 == k && !e.2.isZero)).map (·.2) = supplied c fl i k := by
  obtain ⟨-, -, bytes⟩ := recordFormat floating
  have width : c.eb = if fld c.fa 0 8 = 1 ∨ fld c.fa 0 8 = 2 then 2 else 1 := bytes
  have order (l : List (Nat × Val)) : (l.filter (fun e => e.1 == k && !e.2.isZero)).map (·.2) =
      ((l.filter (fun e => e.1 == k)).map (·.2)).filter (fun v => !v.isZero) := by
    rw [List.filter_map, List.filter_filter]
    simp only [Function.comp_apply, Bool.and_comm]
  rw [order]
  unfold supplied recordRow
  dsimp only
  rw [← width]
  refine congrArg (List.filter _) ?_
  rw [List.filter_append, List.map_append]
  refine congrArg₂ (· ++ ·) ?_ ?_
  · rw [List.filter_flatMap, List.map_flatMap]
    refine List.flatMap_congr fun t _ => ?_
    rw [termRow_eq c fl t i floating, List.filter_map, List.map_map]
    rfl
  · rw [List.filter_map, List.map_map, List.filter_filter]
    unfold MCmd.residuals
    rw [List.filter_map, List.map_map]
    exact congrArg (List.map _) (List.filter_congr fun j _ => Bool.and_comm _ _)

/-- The values that A supplies at a position of a row. -/
def supplyAt (c : MCmd) (fl : List Flit) (i k : Nat) : List Val :=
  if c.structured then supplied c fl i k else [elemVal (fmtCode c.fa) (panelCode fl 0 c.fa c.a c.sa i k)]

theorem supply_eq (c : MCmd) (fl : List Flit) (known : fmtKnown (fmtCode c.fa) = true) (floating : fmtCode c.fa ≠ 7)
    (whole : fmtCode c.fa = 19 → c.k % 64 = 0) (record : c.structured = true → 1 ≤ fmtCode c.fa ∧ fmtCode c.fa ≤ 4) :
    c.supply fl = (List.range c.m).map (fun i => (List.range c.k).map (supplyAt c fl i)) := by
  unfold MCmd.supply supplyAt
  split_ifs with structured
  · exact List.map_congr_left fun i _ => List.map_congr_left fun k _ => recordRow_supplied c fl i k (record structured)
  · rw [rowCodes_eq fl 0 _ _ _ _ known whole, List.map_map]
    refine List.map_congr_left fun i _ => ?_
    rw [Function.comp_apply, List.map_map]
    refine List.map_congr_left fun k _ => ?_
    rw [Function.comp_apply, valueOf_eq known floating]

/-! The groups of an output (R146). -/

/-- An accumulator after n groups. -/
def accAfter (p : Nat → List Machine.Prod) (c : Nat) : Nat → Nat
  | 0 => c
  | n + 1 => (Mx.group (accAfter p c n) (p n)).1

theorem accAfter_succ (p : Nat → List Machine.Prod) (c n : Nat) :
    accAfter (fun j => p (j + 1)) (Mx.group c (p 0)).1 n = accAfter p c (n + 1) := by
  induction n with
  | zero => rfl
  | succ n ih =>
    rw [accAfter, ih]
    rfl

/-- The groups of an output in ascending order: the accumulator after all, with the flags of each. -/
theorem groups_range (p : Nat → List Machine.Prod) (c n : Nat) : (Mx.groups c ((List.range n).map p)).1 = accAfter p c n ∧
    ∀ b, (Mx.groups c ((List.range n).map p)).2.getLsbD b = true ↔
      ∃ j, j < n ∧ (Mx.group (accAfter p c j) (p j)).2.getLsbD b = true := by
  induction n generalizing c p with
  | zero => exact ⟨rfl, fun b => by simp [Mx.groups]⟩
  | succ n ih =>
    obtain ⟨value, flags⟩ := ih (fun j => p (j + 1)) (Mx.group c (p 0)).1
    have cut : (List.range (n + 1)).map p = p 0 :: (List.range n).map (fun j => p (j + 1)) := by
      rw [List.range_succ_eq_map, List.map_cons, List.map_map]
      rfl
    rw [cut, Mx.groups]
    refine ⟨value.trans (accAfter_succ p c n), fun b => ?_⟩
    rw [BitVec.getLsbD_or, Bool.or_eq_true, flags]
    simp only [accAfter_succ]
    constructor
    · rintro (here | ⟨j, hj, later⟩)
      · exact ⟨0, n.succ_pos, here⟩
      · exact ⟨j + 1, by omega, later⟩
    · rintro ⟨j, hj, flag⟩
      cases j with
      | zero => exact .inl flag
      | succ j => exact .inr ⟨j, by omega, flag⟩

/-! Results. -/

theorem supplied_regular (c : MCmd) (fl : List Flit) (i k : Nat) : ∀ v ∈ supplied c fl i k, Regular v := by
  intro v hv
  unfold supplied at hv
  dsimp only at hv
  rw [List.mem_filter, List.mem_append, List.mem_flatMap, List.mem_map] at hv
  obtain ⟨⟨t, -, value⟩ | ⟨j, -, rfl⟩, -⟩ := hv
  · obtain ⟨w, -, rfl⟩ := List.mem_map.1 value
    exact elemVal_regular _ _
  · exact decode_regular _ _

theorem products_regular (c : MCmd) (fl : List Flit) (i j k : Nat) : ∀ t ∈ products c fl i j k, Regular t.1 ∧ Regular t.2.1 := by
  intro t ht
  unfold products at ht
  dsimp only at ht
  split_ifs at ht
  · obtain ⟨a, ha, rfl⟩ := List.mem_map.1 ht
    exact ⟨supplied_regular c fl i k a ha, elemVal_regular _ _⟩
  · obtain rfl := List.mem_singleton.1 ht
    exact ⟨elemVal_regular _ _, elemVal_regular _ _⟩

/-- The model's products of a position. -/
theorem products_eq (c : MCmd) (fl : List Flit) (i j k : Nat)
    (record : c.structured = true → 1 ≤ fmtCode c.fa ∧ fmtCode c.fa ≤ 4) :
    (supplyAt c fl i k).map (fun a => ({ a := a, b := elemB c fl j k
                                         scale := panelScale fl 0 c.fa c.sa i k + panelScale fl 1 c.fb c.sb j k
                                         nan := panelScale fl 0 c.fa c.sa i k == 255 || panelScale fl 1 c.fb c.sb j k == 255 } :
      Machine.Prod)) = (products c fl i j k).map toProd := by
  unfold supplyAt products
  split_ifs with structured
  · obtain ⟨low, high⟩ := record structured
    have plain : panelScale fl 0 c.fa c.sa i k = 127 := by
      unfold panelScale
      rw [show fld c.fa 0 8 = fmtCode c.fa from rfl]
      dsimp only
      rw [if_neg (by omega), if_neg (by omega)]
    rw [plain, List.map_map]
    rfl
  · rfl

/-- The products of group n of an output. -/
def groupProducts (c : MCmd) (fl : List Flit) (i j n : Nat) : List (Val × Val × Nat × Nat) :=
  (List.range (kGroup (fmtCode c.fa) (fmtCode c.fb))).flatMap
    (fun k => products c fl i j (kGroup (fmtCode c.fa) (fmtCode c.fb) * n + k))

/-- A group's products as the model holds them. -/
def groupProds (c : MCmd) (fl : List Flit) (i j n : Nat) : List Machine.Prod := (groupProducts c fl i j n).map toProd

/-- A position of an output at which the record supplies nothing and B is no number. -/
def skips (c : MCmd) (fl : List Flit) (i j k : Nat) : Bool :=
  (supplyAt c fl i k).isEmpty && ((elemB c fl j k).isInf || (elemB c fl j k).isNan)

/-- Output (i, j) of a floating command over an old value, with its flags. -/
def outputAt (c : MCmd) (fl : List Flit) (i j old : Nat) : Nat × Flags :=
  let o := Mx.groups old ((List.range (c.k / kGroup (fmtCode c.fa) (fmtCode c.fb))).map (groupProds c fl i j))
  (o.1, o.2 ||| (if c.structured && (List.range c.k).any (skips c fl i j) then Fl.sknf else 0))

theorem dotOut_eq (c : MCmd) (fl : List Flit) (i j old : Nat) (whole : c.k % kGroup (fmtCode c.fa) (fmtCode c.fb) = 0) :
    dotOut (kGroup (fmtCode c.fa) (fmtCode c.fb)) old ((List.range c.k).map (fun k => (products c fl i j k).map toProd)) =
      Mx.groups old ((List.range (c.k / kGroup (fmtCode c.fa) (fmtCode c.fb))).map (groupProds c fl i j)) := by
  have pos := kGroup_pos (fmtCode c.fa) (fmtCode c.fb)
  unfold groupProds groupProducts
  generalize kGroup (fmtCode c.fa) (fmtCode c.fb) = g at *
  have cut : g * (c.k / g) = c.k := Nat.mul_div_cancel' (Nat.dvd_of_mod_eq_zero whole)
  have fuel : c.k / g ≤ c.k + 1 := (Nat.div_le_self _ _).trans (Nat.le_succ _)
  unfold dotOut
  rw [List.length_map, List.length_range]
  nth_rw 2 [← cut]
  rw [pieces_range pos _ _ fuel, List.map_map]
  refine congrArg _ (List.map_congr_left fun n _ => ?_)
  rw [Function.comp_apply, List.map_flatMap]
  rfl

/-- What a K that suits two formats is a multiple of. -/
theorem kOk_facts {fa fb k : Nat} (ka : fmtKnown fa = true) (kb : fmtKnown fb = true) (h : kOk fa fb k = true) :
    k % kGroup fa fb = 0 ∧ (fa = 19 → k % 64 = 0) ∧ (fb = 19 → k % 64 = 0) := by
  unfold kOk at h
  rw [cmdGroup_eq ka kb] at h
  simp only [Bool.and_eq_true, beq_iff_eq, Bool.or_eq_true, Bool.not_eq_true', Bool.or_eq_false_iff, beq_eq_false_iff_ne] at h
  obtain ⟨⟨group, -⟩, cx⟩ := h
  exact ⟨group, fun e => cx.resolve_left fun n => n.1 e, fun e => cx.resolve_left fun n => n.2 e⟩

/-- The results of a floating command, output by output. -/
theorem results_float (c : MCmd) (fl : List Flit) (old : Nat → Nat → Nat) (ka : fmtKnown (fmtCode c.fa) = true)
    (kb : fmtKnown (fmtCode c.fb) = true) (fa7 : fmtCode c.fa ≠ 7) (fb7 : fmtCode c.fb ≠ 7)
    (whole : kOk (fmtCode c.fa) (fmtCode c.fb) c.k = true)
    (record : c.structured = true → 1 ≤ fmtCode c.fa ∧ fmtCode c.fa ≤ 4) :
    let r := (List.range c.m).map (fun i => (List.range c.n).map (fun j => outputAt c fl i j (old i j)))
    c.results fl old = (r.map (fun l => l.map (·.1)), r.foldl (fun a l => l.foldl (fun a x => a ||| x.2) a) 0) := by
  obtain ⟨group, cxA, cxB⟩ := kOk_facts ka kb whole
  have bs : (rowCodes fl 1 c.fb c.b c.sb c.n c.k).map (fun r => r.map (valueOf (fmtCode c.fb))) =
      (List.range c.n).map (fun j => (List.range c.k).map (elemB c fl j)) := by
    rw [rowCodes_eq fl 1 _ _ _ _ kb cxB, List.map_map]
    refine List.map_congr_left fun j _ => ?_
    rw [Function.comp_apply, List.map_map]
    refine List.map_congr_left fun k _ => ?_
    rw [Function.comp_apply, valueOf_eq kb fb7]
    rfl
  unfold MCmd.results
  dsimp only
  rw [if_neg fa7, bs, supply_eq c fl ka fa7 cxA record]
  simp only [mapIdx_range, zip_range, cmdGroup_eq ka kb, rowScales_eq, products_eq c fl _ _ _ record, dotOut_eq c fl _ _ _ group,
    List.any_map]
  rfl

/-- The results of an INT8 command, output by output. -/
theorem results_int (c : MCmd) (fl : List Flit) (old : Nat → Nat → Nat) (fa7 : fmtCode c.fa = 7) (fb7 : fmtCode c.fb = 7) :
    c.results fl old = ((List.range c.m).map (fun i => (List.range c.n).map (fun j => Mx.intSum (old i j)
      ((List.range c.k).map (fun k => (panelCode fl 0 c.fa c.a c.sa i k, panelCode fl 1 c.fb c.b c.sb j k))))), 0) := by
  unfold MCmd.results
  dsimp only
  rw [if_pos fa7, rowCodes_eq fl 0 c.fa _ _ _ (by rw [fa7]; rfl) (by omega), rowCodes_eq fl 1 c.fb _ _ _ (by rw [fb7]; rfl) (by omega)]
  simp only [mapIdx_range, zip_range]

/-- An INT32 accumulator after its products. -/
theorem intSum_eq (old : Nat) (l : List (Nat × Nat)) :
    (Mx.intSum old l : Int) = ((old : Int) + (l.map (fun p => toSigned 8 p.1 * toSigned 8 p.2)).sum) % 2 ^ 32 := by
  have sum (z : Int) : l.foldl (fun a p => a + toSigned 8 p.1 * toSigned 8 p.2) z =
      z + (l.map (fun p => toSigned 8 p.1 * toSigned 8 p.2)).sum := by
    induction l generalizing z with
    | nil => exact (add_zero z).symm
    | cons p l ih => rw [List.foldl_cons, ih, List.map_cons, List.sum_cons, add_assoc]
  unfold Mx.intSum
  rw [sum, Int.toNat_of_nonneg (Int.emod_nonneg _ (by decide))]

theorem range_getD {α : Type} (n : Nat) (f : Nat → α) (d : α) {i : Nat} (hi : i < n) : ((List.range n).map f).getD i d = f i := by
  rw [List.getD_eq_getElem _ _ (by simpa using hi), List.getElem_map, List.getElem_range]

/-- A table of results: its size and its entries. -/
theorem table_entries {r : List (List Nat)} {m n : Nat} {f : Nat → Nat → Nat}
    (h : r = (List.range m).map (fun i => (List.range n).map (f i))) :
    r.length = m ∧ (∀ i, i < m → (r.getD i []).length = n) ∧ ∀ i j, i < m → j < n → (r.getD i []).getD j 0 = f i j := by
  subst h
  refine ⟨by simp, fun i hi => ?_, fun i j hi hj => ?_⟩
  · rw [range_getD m _ [] hi, List.length_map, List.length_range]
  · rw [range_getD m _ [] hi, range_getD n _ 0 hj]

/-- The flags of a table of results. -/
theorem table_flags (m n : Nat) (f : Nat → Nat → Nat × Flags) (b : Nat) :
    ((((List.range m).map (fun i => (List.range n).map (f i))).foldl (fun a l => l.foldl (fun a x => a ||| x.2) a) 0 : Flags).getLsbD b =
      true) ↔ ∃ i j, i < m ∧ j < n ∧ (f i j).2.getLsbD b = true := by
  rw [← List.foldl_flatten, foldl_flags, or_iff_right (by simp)]
  simp only [List.mem_flatten, List.mem_map, List.mem_range, exists_exists_and_eq_and]
  constructor
  · rintro ⟨x, ⟨i, hi, j, hj, rfl⟩, flag⟩
    exact ⟨i, j, hi, hj, flag⟩
  · rintro ⟨i, j, hi, hj, flag⟩
    exact ⟨_, ⟨i, hi, j, hj, rfl⟩, flag⟩

/-- The flags of an output: those of its groups, and SKNF of a structured command at a position it skips. -/
theorem outputAt_flags (c : MCmd) (fl : List Flit) (i j old b : Nat) : (outputAt c fl i j old).2.getLsbD b = true ↔
    (∃ n, n < c.k / kGroup (fmtCode c.fa) (fmtCode c.fb) ∧
      (Mx.group (accAfter (groupProds c fl i j) old n) (groupProds c fl i j n)).2.getLsbD b = true) ∨
    (b = 5 ∧ c.structured = true ∧ ∃ k, k < c.k ∧ supplied c fl i k = [] ∧
      ((elemB c fl j k).isInf = true ∨ (elemB c fl j k).isNan = true)) := by
  obtain ⟨-, flags⟩ := groups_range (groupProds c fl i j) old (c.k / kGroup (fmtCode c.fa) (fmtCode c.fb))
  unfold outputAt
  dsimp only
  rw [BitVec.getLsbD_or, Bool.or_eq_true, flags]
  refine or_congr_right ?_
  have skip : (c.structured && (List.range c.k).any (skips c fl i j)) = true ↔ c.structured = true ∧
      ∃ k, k < c.k ∧ supplied c fl i k = [] ∧ ((elemB c fl j k).isInf = true ∨ (elemB c fl j k).isNan = true) := by
    rw [Bool.and_eq_true, List.any_eq_true]
    refine and_congr_right fun structured => exists_congr fun k => ?_
    simp [skips, supplyAt, structured]
  rw [← skip]
  split_ifs with h
  · rw [h, and_iff_left rfl, Fl.sknf, show (32 : Flags) = BitVec.twoPow 8 5 from rfl, BitVec.getLsbD_twoPow]
    simp [eq_comm]
  · simp [h]

/-- Settles O58: the results output by output (`results_float`, `results_int`), each group by R146 (`group_rounds`). -/
theorem matrixResults : Obligations.MatrixResults := by
  intro c fl old fa fb res out g ka kb pair whole record
  by_cases fa7 : fa = 7
  · have fb7 : fmtCode c.fb = 7 := by
      unfold fmtPair at pair
      rw [if_pos fa7] at pair
      exact eq_of_beq pair
    have results : c.results fl old = _ := results_int c fl old fa7 fb7
    obtain ⟨rows, columns, entries⟩ := table_entries (congrArg Prod.fst results)
    refine ⟨rows, columns, fun _ => ⟨congrArg Prod.snd results, fun i j hi hj => ?_⟩, fun ne => absurd fa7 ne⟩
    rw [show out i j = _ from entries i j hi hj, intSum_eq, List.map_map]
    rfl
  · have fb7 : fmtCode c.fb ≠ 7 := by
      intro fb7
      rw [show fb = 7 from fb7, fmtPair, if_neg fa7] at pair
      split_ifs at pair <;> exact nomatch pair
    have results : c.results fl old = _ := results_float c fl old ka kb fa7 fb7 whole record
    obtain ⟨rows, columns, entries⟩ := table_entries (m := c.m) (n := c.n) (f := fun i j => (outputAt c fl i j (old i j)).1)
      ((congrArg Prod.fst results).trans (by simp [Function.comp_def]))
    refine ⟨rows, columns, fun e => absurd e fa7, fun _ => ⟨fun i j n => accAfter (groupProds c fl i j) (old i j) n,
      fun i j n => (Mx.group (accAfter (groupProds c fl i j) (old i j) n) (groupProds c fl i j n)).2,
      fun i j hi hj => ⟨rfl, ?_, ?_⟩, ?_⟩⟩
    · exact (entries i j hi hj).trans (groups_range _ _ _).1
    · intro n _
      refine group_rounds _ fun t ht => ?_
      obtain ⟨k, -, mem⟩ := List.mem_flatMap.1 ht
      exact products_regular c fl i j _ t mem
    · intro b hb
      rw [show res.2 = _ from congrArg Prod.snd results, table_flags]
      simp only [outputAt_flags]
      rfl

end Sys2Proof.Claim
end

section
/-! The wide accumulator (O37): a store of a window by the head of an ordered space, whose own task entry the statement does not keep from
being a tentative spawn. -/

namespace Sys2Proof.Claim

open Sys2Proof.Machine

/-- `ordered` with the entry of the head's own task, as a tentative spawn of the chunk that the speculative task has open. -/
def spawnedHead : State :=
  { ordered with
    tasks := { cluster := 0, spilled := false, key := { ts := 0, spawner := 0, seq := 1 }, typ := 0, arg := 0, stamp := Stamp.none 0 0,
               parent := some 1, running := some (0, 0), contained := 0 } :: ordered.tasks }

/-- A window whose word 10 is 1. -/
def nanWindow : Wide := { i := 0, sticky := 1, reached := [] }

/-- The head stores the window at 0 of its TCM, and word 10 still reads as zero. -/
theorem spawnedHead_stores :
    (match storeWindow 0 nanWindow [] spawnedHead with
      | .ok _ t => t.ownByte t.me (tcmKey 0 0 + 80) == 0
      | .error _ _ => false) = true := by decide +kernel

/-- Refutes O37: with too few lines left the head sends back the speculative task (R305), whose tentative spawns are discarded (R304).
In `spawnedHead` the head's own entry is one of them: its slot is freed, and what it stores goes to no chunk. -/
theorem not_wideAccumulators : ¬ Obligations.WideAccumulators := by
  rintro ⟨-, -, stores⟩
  have zero := spawnedHead_stores
  split at zero
  next _ t run =>
    obtain ⟨-, words, -⟩ := stores spawnedHead t 0 nanWindow [] (chunkOf headRegs 8) rfl rfl (by decide) (by decide) run
    have stored := (words 0 (by decide)).1
    have stays : t.ownByte t.me (tcmKey 0 0 + 80) = 0 := eq_of_beq zero
    exact absurd (stays.symm.trans stored) (by decide)
  next => cases zero

end Sys2Proof.Claim
end
